-- ==== Sys2Proof/Word.lean ====
section
/-! DEFINITION. The word types of the AE-7160 and the two plain containers the model holds data in. -/

namespace Sys2Proof

abbrev Byte := BitVec 8
abbrev W32 := BitVec 32
abbrev W64 := BitVec 64

/-- A sparse store: key and value pairs, keys strictly rising, no entry equal to zero.
An unlisted key reads zero. Memory, scratchpad and register files are stores of this shape. -/
abbrev Sparse (w : Nat) := List (Nat × BitVec w)

/-- Byte memory: the host's cells. -/
abbrev Memory := List Host.Cell

/-- A finite map from numbers to records, keys strictly rising. -/
abbrev KMap (α : Type) := List (Nat × α)

end Sys2Proof
end

