-- ==== Sys2Proof/Syntax.lean ====
section
/-! DEFINITION. The instructions of the AE-7160: one constructor for each row of the opcode table.
Scalar words (R40, R51) carry the fields of their form, lane words (R43, R52) carry the fields of the lane word,
and a step of an engine (95_what_each_step_holds.md) carries what the world outside the device supplies to it. -/

namespace Sys2Proof

/-- The fields of a lane word other than its opcode (R43). -/
structure LaneF where
  la : BitVec 4
  g : BitVec 4
  gn : BitVec 1
  ty : BitVec 5
  lc : BitVec 1
  ab : BitVec 1
  vd : BitVec 8
  va : BitVec 8
  vb : BitVec 8
  ctl : BitVec 16
  c : BitVec 32
  deriving DecidableEq, Repr, Inhabited

/-- Slot C's register number when `lc = 0` (R43). -/
def LaneF.vc (f : LaneF) : BitVec 8 := f.c.extractLsb' 24 8

/-- Slot C's low 24 bits when `lc = 0` (R43). -/
def LaneF.aux (f : LaneF) : BitVec 24 := f.c.extractLsb' 0 24

/-- The bits `lo .. lo+n-1` of the ctl field (R44). -/
def LaneF.ctlN (f : LaneF) (lo n : Nat) : Nat := f.ctl.toNat / 2 ^ lo % 2 ^ n

/-- A synchronisation message (R298), as it arrives over a link, or a host reference message (R299). -/
structure SyncMsg where
  e : W64
  l : W64
  seq : BitVec 16
  echo : BitVec 16
  hold : BitVec 32
  device : BitVec 12
  die : BitVec 3
  deriving DecidableEq, Repr, Inhabited

/-- The steps of the device. Each constructor is one row of the opcode table. -/
inductive Instr where
  /-- ADD (R58). Sets S[sd] to S[sa] + S[sb], wrapping modulo 2^64. -/
  | add (d : BitVec 6) (a : BitVec 6) (b : BitVec 6)
  /-- SUB (R58). Sets S[sd] to S[sa] − S[sb], wrapping modulo 2^64. -/
  | sub (d : BitVec 6) (a : BitVec 6) (b : BitVec 6)
  /-- MUL (R58). Sets S[sd] to the low 64 bits of the product. -/
  | mul (d : BitVec 6) (a : BitVec 6) (b : BitVec 6)
  /-- MULH (R58). Sets S[sd] to the high 64 bits of the signed 128-bit product. -/
  | mulh (d : BitVec 6) (a : BitVec 6) (b : BitVec 6)
  /-- MULHN (R58). Sets S[sd] to the high 64 bits of the unsigned 128-bit product. -/
  | mulhn (d : BitVec 6) (a : BitVec 6) (b : BitVec 6)
  /-- DIV (R59). Signed division, truncating toward zero, that never faults. -/
  | div (d : BitVec 6) (a : BitVec 6) (b : BitVec 6)
  /-- DIVN (R59). Unsigned division that never faults. -/
  | divn (d : BitVec 6) (a : BitVec 6) (b : BitVec 6)
  /-- REM (R59). Signed remainder, taking the sign of the dividend. -/
  | rem (d : BitVec 6) (a : BitVec 6) (b : BitVec 6)
  /-- REMN (R59). Unsigned remainder. -/
  | remn (d : BitVec 6) (a : BitVec 6) (b : BitVec 6)
  /-- AND (R58). Bitwise AND of two scalar registers. -/
  | and (d : BitVec 6) (a : BitVec 6) (b : BitVec 6)
  /-- OR (R58). Bitwise OR of two scalar registers. -/
  | or (d : BitVec 6) (a : BitVec 6) (b : BitVec 6)
  /-- XOR (R58). Bitwise XOR of two scalar registers. -/
  | xor (d : BitVec 6) (a : BitVec 6) (b : BitVec 6)
  /-- SHL (R58). Shifts left by S[sb]<5:0>, shifting in zeros. -/
  | shl (d : BitVec 6) (a : BitVec 6) (b : BitVec 6)
  /-- SHR (R58). Shifts right logically by S[sb]<5:0>. -/
  | shr (d : BitVec 6) (a : BitVec 6) (b : BitVec 6)
  /-- SAR (R58). Shifts right arithmetically by S[sb]<5:0>. -/
  | sar (d : BitVec 6) (a : BitVec 6) (b : BitVec 6)
  /-- MIN (R58). Signed minimum of two scalar registers. -/
  | min (d : BitVec 6) (a : BitVec 6) (b : BitVec 6)
  /-- MAX (R58). Signed maximum of two scalar registers. -/
  | max (d : BitVec 6) (a : BitVec 6) (b : BitVec 6)
  /-- MINN (R58). Unsigned minimum of two scalar registers. -/
  | minn (d : BitVec 6) (a : BitVec 6) (b : BitVec 6)
  /-- MAXN (R58). Unsigned maximum of two scalar registers. -/
  | maxn (d : BitVec 6) (a : BitVec 6) (b : BitVec 6)
  /-- SETC_EQ (R58). Sets S[sd] to 1 if S[sa] = S[sb], else 0. -/
  | setcEq (d : BitVec 6) (a : BitVec 6) (b : BitVec 6)
  /-- SETC_NE (R58). Sets S[sd] to 1 if S[sa] ≠ S[sb], else 0. -/
  | setcNe (d : BitVec 6) (a : BitVec 6) (b : BitVec 6)
  /-- SETC_LT (R58). Sets S[sd] to 1 if S[sa] < S[sb] signed, else 0. -/
  | setcLt (d : BitVec 6) (a : BitVec 6) (b : BitVec 6)
  /-- SETC_GE (R58). Sets S[sd] to 1 if S[sa] ≥ S[sb] signed, else 0. -/
  | setcGe (d : BitVec 6) (a : BitVec 6) (b : BitVec 6)
  /-- SETC_LTN (R58). Sets S[sd] to 1 if S[sa] < S[sb] unsigned, else 0. -/
  | setcLtn (d : BitVec 6) (a : BitVec 6) (b : BitVec 6)
  /-- SETC_GEN (R58). Sets S[sd] to 1 if S[sa] ≥ S[sb] unsigned, else 0. -/
  | setcGen (d : BitVec 6) (a : BitVec 6) (b : BitVec 6)
  /-- ADDI (R60). Adds a sign-extended imm14 to S[sa]. -/
  | addi (d : BitVec 6) (a : BitVec 6) (i : BitVec 14)
  /-- ANDI (R60). ANDs S[sa] with a zero-extended imm14. -/
  | andi (d : BitVec 6) (a : BitVec 6) (i : BitVec 14)
  /-- ORI (R60). ORs S[sa] with a zero-extended imm14. -/
  | ori (d : BitVec 6) (a : BitVec 6) (i : BitVec 14)
  /-- XORI (R60). XORs S[sa] with a zero-extended imm14. -/
  | xori (d : BitVec 6) (a : BitVec 6) (i : BitVec 14)
  /-- SHLI (R60). Shifts S[sa] left by imm14[5:0]. -/
  | shli (d : BitVec 6) (a : BitVec 6) (i : BitVec 6)
  /-- SHRI (R60). Shifts S[sa] right logically by imm14[5:0]. -/
  | shri (d : BitVec 6) (a : BitVec 6) (i : BitVec 6)
  /-- SARI (R60). Shifts S[sa] right arithmetically by imm14[5:0]. -/
  | sari (d : BitVec 6) (a : BitVec 6) (i : BitVec 6)
  /-- LI (R60). Loads a sign-extended imm14 into S[sd]. -/
  | li (d : BitVec 6) (i : BitVec 14)
  /-- LIH (R60). Loads imm20 into bits [63:44] and clears the lower bits. -/
  | lih (d : BitVec 6) (i : BitVec 20)
  /-- ORL (R60). ORs imm20 into bits [43:24] of S[sd]. -/
  | orl (d : BitVec 6) (i : BitVec 20)
  /-- B (R61). Branches unconditionally by a signed word offset. -/
  | b (o : BitVec 26)
  /-- CALL (R61). Stores the link PC + 4 in s62 and branches. -/
  | call (o : BitVec 26)
  /-- BC_EQ (R61). Branches if S[sa] = S[sb]. -/
  | bcEq (a : BitVec 6) (b : BitVec 6) (o : BitVec 11)
  /-- BC_NE (R61). Branches if S[sa] ≠ S[sb]. -/
  | bcNe (a : BitVec 6) (b : BitVec 6) (o : BitVec 11)
  /-- BC_LT (R61). Branches if S[sa] < S[sb] signed. -/
  | bcLt (a : BitVec 6) (b : BitVec 6) (o : BitVec 11)
  /-- BC_GE (R61). Branches if S[sa] ≥ S[sb] signed. -/
  | bcGe (a : BitVec 6) (b : BitVec 6) (o : BitVec 11)
  /-- BC_LTN (R61). Branches if S[sa] < S[sb] unsigned. -/
  | bcLtn (a : BitVec 6) (b : BitVec 6) (o : BitVec 11)
  /-- BC_GEN (R61). Branches if S[sa] ≥ S[sb] unsigned. -/
  | bcGen (a : BitVec 6) (b : BitVec 6) (o : BitVec 11)
  /-- BC_BS (R61). Branches if bit S[sb]<5:0> of S[sa] is 1. -/
  | bcBs (a : BitVec 6) (b : BitVec 6) (o : BitVec 11)
  /-- BC_BC (R61). Branches if bit S[sb]<5:0> of S[sa] is 0. -/
  | bcBc (a : BitVec 6) (b : BitVec 6) (o : BitVec 11)
  /-- RET (R61). Jumps to S[62] after the waits for the return registers. -/
  | ret
  /-- JMPR (R61). Jumps to the address in S[sa]. -/
  | jmpr (a : BitVec 6)
  /-- SLD (R62). Loads 1 to 8 bytes from the global, scratch, gang-scratch or constant space, zero-extended. -/
  | sld (d : BitVec 6) (b : BitVec 6) (z : BitVec 2) (s : BitVec 2) (o : BitVec 10)
  /-- SST (R62). Stores 1 to 8 bytes to the global, scratch or gang-scratch space. -/
  | sst (d : BitVec 6) (b : BitVec 6) (z : BitVec 2) (s : BitVec 2) (o : BitVec 10)
  /-- SLD_ACQ (R64). Scalar load with acquire at a scope. -/
  | sldAcq (d : BitVec 6) (b : BitVec 6) (z : BitVec 2) (s : BitVec 2) (p : BitVec 3) (o : BitVec 7)
  /-- SST_REL (R64). Scalar store with release at a scope. -/
  | sstRel (d : BitVec 6) (b : BitVec 6) (z : BitVec 2) (s : BitVec 2) (p : BitVec 3) (o : BitVec 7)
  /-- SATOM (R65). 64-bit atomic read-modify-write at a global address, with its op, kind and scope. -/
  | satom (d : BitVec 6) (a : BitVec 6) (b : BitVec 6) (o : BitVec 3) (k : BitVec 2) (p : BitVec 3)
  /-- LRUN (R67). Snapshots s40–s47 and enqueues a lane block, waiting for a free queue entry. -/
  | lrun (i : BitVec 26)
  /-- LSYNC (R68). Waits until the lane queue is empty and no block is running. -/
  | lsync
  /-- BAR_BK (R182). Arrives at the block barrier episode, waits for it to complete and writes the status. -/
  | barBk (d : BitVec 6)
  /-- BAR_GG (R182). Arrives at the gang barrier episode, waits for it to complete and writes the status. -/
  | barGg (d : BitVec 6)
  /-- BARE_BK (R185). Block barrier arrival that may receive the epilogue role. -/
  | bareBk (d : BitVec 6)
  /-- BARE_GG (R185). Gang barrier arrival that may receive the epilogue role. -/
  | bareGg (d : BitVec 6)
  /-- BINIT (R175). Arms a barrier object with count n, or completes it at once when n = 0. -/
  | binit (a : BitVec 6) (b : BitVec 6)
  /-- BARRIVE (R178). Presents an arrival of amount n to a barrier object, as a release at bk. -/
  | barrive (a : BitVec 6) (b : BitVec 6)
  /-- BWAIT (R179). Records the warp as a waiter and leaves the ready set until the object completes. -/
  | bwait (a : BitVec 6)
  /-- BCONT (R180). Ends the warp and leaves a continuation on a barrier object. -/
  | bcont (a : BitVec 6) (i : BitVec 14)
  /-- YIELD_C (R179). Deschedules the scalar stream until the object completes, then resumes at the label. -/
  | yieldC (a : BitVec 6) (i : BitVec 14)
  /-- COPY (R207). Points a copy channel of the block at a chain head, or resumes it. -/
  | copy (a : BitVec 6) (c : BitVec 3)
  /-- MLOOP (R229). Reads a matrix job card, holds its accumulator group and enters it as a job. -/
  | mloop (a : BitVec 6)
  /-- KSEQ_LD (R239). Loads a sequence descriptor into a sequence slot. -/
  | kseqLd (s : BitVec 6) (a : BitVec 6)
  /-- KSEQ_ST (R239). Writes a slot's C, T and generation back to a descriptor. -/
  | kseqSt (s : BitVec 6) (a : BitVec 6)
  /-- KLEN_COMMIT (R251). Advances the committed length C by up to S[sa], never past T. -/
  | klenCommit (s : BitVec 6) (a : BitVec 6)
  /-- KLEN_REJECT (R251). Sets T := C and increments the generation when T > C. -/
  | klenReject (s : BitVec 6)
  /-- KROT (R253). Rotates the keys of a range of key blocks by a position delta and recomputes their boxes. -/
  | krot (s : BitVec 6) (a : BitVec 6) (b : BitVec 6)
  /-- KREQ (R253). Requantises the keys of a range of key blocks to a new format and recomputes their boxes. -/
  | kreq (s : BitVec 6) (a : BitVec 6) (b : BitVec 6)
  /-- KSUM (R253). Recomputes the summary boxes of a range of key blocks and clears STALE. -/
  | ksum (s : BitVec 6) (a : BitVec 6)
  /-- PMARK (R284). Raises the launch marker, starts due entries and checks for schedule misses. -/
  | pmark (n : BitVec 16)
  /-- XMAP (R151). Installs a scratchpad region descriptor, first writing back WINDOW dirty lines. -/
  | xmap (a : BitVec 6) (b : BitVec 6)
  /-- XLOOK (R152). Looks up a global address in a CACHE region's tags. -/
  | xlook (d : BitVec 6) (a : BitVec 6) (b : BitVec 6)
  /-- XFILL (R153). Fills one CACHE slot from global memory and marks it valid. -/
  | xfill (a : BitVec 6) (b : BitVec 6)
  /-- XEVICT (R155). Invalidates a CACHE slot, optionally writing it back first. -/
  | xevict (a : BitVec 6) (b : BitVec 6)
  /-- XFLUSH (R156). Writes back every dirty line of a WINDOW region. -/
  | xflush (b : BitVec 6)
  /-- XFILL_X24 (R154). Fills a CACHE slot from a 2:4 compressed line, expanding it. -/
  | xfillX24 (a : BitVec 6) (b : BitVec 6)
  /-- CLK (R304). Reads the die's interval E and L into a register pair and sets WIDE if it is wide. -/
  | clk (d : BitVec 5)
  /-- CWAIT (R304). Waits until the die's E exceeds the stamp in S[sa]. -/
  | cwait (a : BitVec 6)
  /-- FTLD (R123). Loads 256 FP32 entries into the inactive function-table bank and sets PENDING. -/
  | ftld (a : BitVec 6)
  /-- FTSW (R124). Switches the active function-table bank if PENDING is set. -/
  | ftsw
  /-- SRR (R74). Reads a special register into S[sd]. -/
  | srr (d : BitVec 6) (r : BitVec 14)
  /-- SRW (R74). Writes S[sa] to a special register, subject to access and reserved-bit checks. -/
  | srw (a : BitVec 6) (r : BitVec 14)
  /-- FENCE (R69). Waits for earlier lane blocks and orders accesses by kind at a scope. -/
  | fence (k : BitVec 2) (p : BitVec 3)
  /-- TRAP (R70). Faults TRAP_INSN with the operand n. -/
  | trap (n : BitVec 8)
  /-- ERET (R192). Leaves handler mode and resumes both streams. -/
  | eret
  /-- NOP (R72). Does nothing. -/
  | nop
  /-- LAUNCH (R73). Reads a launch record, releases at dev and places it in the device launch queue. -/
  | launch (d : BitVec 6) (a : BitVec 6)
  /-- EXIT (R72). Waits for lane blocks, releases at dev and frees the warp slot. -/
  | exit
  /-- GRANT (R318). Installs or revokes an import-table entry on both I/O dies. -/
  | grant (d : BitVec 6) (a : BitVec 6) (b : BitVec 6)
  /-- GATE (R350). Installs or clears an order-gate slot on a line. -/
  | gate (a : BitVec 6) (b : BitVec 6)
  /-- DIGR (R347). Reads a retained task digest of a launch. -/
  | digr (d : BitVec 6) (a : BitVec 6) (b : BitVec 6)
  /-- ERRQ_READ (R357). Copies an error bank record to memory and clears the bank. -/
  | errqRead (d : BitVec 6) (a : BitVec 6) (b : BitVec 6)
  /-- ERRQ_REPAIR (R357). Releases at sys and clears the poison of a sector, letting parked accesses replay. -/
  | errqRepair (d : BitVec 6) (a : BitVec 6)
  /-- ERRQ_LOG (R357). Copies and clears a die's violation log. -/
  | errqLog (d : BitVec 6) (a : BitVec 6) (b : BitVec 6)
  /-- CORECTL_DRAIN (R360). Stops admissions on a logical core. -/
  | corectlDrain (d : BitVec 6) (a : BitVec 6)
  /-- CORECTL_ISOLATE (R360). Waits until a draining core holds no block, then isolates it. -/
  | corectlIsolate (a : BitVec 6)
  /-- CORECTL_RELEASE (R360). Returns a draining or isolated core to ACTIVE. -/
  | corectlRelease (a : BitVec 6)
  /-- SCAN (R360). Starts the in-field scan pattern set on an isolated core. -/
  | scan (a : BitVec 6) (b : BitVec 6)
  /-- SCANWT (R362). Waits while a core is scanning and returns DONE or ABORTED. -/
  | scanwt (d : BitVec 6) (a : BitVec 6)
  /-- LCMAP (R363). Retires the physical core of a logical core and maps a spare, or removes the logical core. -/
  | lcmap (d : BitVec 6) (a : BitVec 6) (b : BitVec 6)
  /-- WKILL (R359). Kills a warp of a launch by $WID with UE_KILL. -/
  | wkill (d : BitVec 6) (a : BitVec 6) (b : BitVec 6)
  /-- VADD (R84). Lane integer add, wrapping or saturating. -/
  | vadd (f : LaneF)
  /-- VSUB (R84). Lane integer subtract. -/
  | vsub (f : LaneF)
  /-- VMUL (R84). Lane integer multiply. -/
  | vmul (f : LaneF)
  /-- VMULH (R84). Upper half of the lane integer product. -/
  | vmulh (f : LaneF)
  /-- VMAD (R84). Lane integer multiply-add. -/
  | vmad (f : LaneF)
  /-- VAND (R84). Lane bitwise AND. -/
  | vand (f : LaneF)
  /-- VOR (R84). Lane bitwise OR. -/
  | vor (f : LaneF)
  /-- VXOR (R84). Lane bitwise XOR. -/
  | vxor (f : LaneF)
  /-- VSHL (R84). Lane shift left. -/
  | vshl (f : LaneF)
  /-- VSHR (R84). Lane logical shift right. -/
  | vshr (f : LaneF)
  /-- VSAR (R84). Lane arithmetic shift right. -/
  | vsar (f : LaneF)
  /-- VMIN (R84). Lane integer minimum. -/
  | vmin (f : LaneF)
  /-- VMAX (R84). Lane integer maximum. -/
  | vmax (f : LaneF)
  /-- VABS (R84). Lane integer absolute value. -/
  | vabs (f : LaneF)
  /-- VCNT (R84). Lane population count. -/
  | vcnt (f : LaneF)
  /-- VCLZ (R84). Lane count of leading zeros. -/
  | vclz (f : LaneF)
  /-- VBFX (R85). Extracts a bit field per lane. -/
  | vbfx (f : LaneF)
  /-- VBFI (R85). Inserts a bit field per lane. -/
  | vbfi (f : LaneF)
  /-- VSEL (R86). Selects between two sources per lane by a mask. -/
  | vsel (f : LaneF)
  /-- VMOV (R86). Copies a register or a literal to each lane. -/
  | vmov (f : LaneF)
  /-- VWID (R87). Reads a field of each lane's work identifier. -/
  | vwid (f : LaneF)
  /-- VCMP (R88). Compares integers per lane and writes a mask. -/
  | vcmp (f : LaneF)
  /-- MLOG (R89). Combines two masks by a truth table. -/
  | mlog (f : LaneF)
  /-- MCNT (R90). Counts the active set bits of a mask into a return register. -/
  | mcnt (f : LaneF)
  /-- VBR (R91). Branches the lanes of a path, possibly splitting it, with a reconvergence PC. -/
  | vbr (f : LaneF)
  /-- LEND (R92). Ends the executing path and leaves its lanes' pending joins. -/
  | lend (f : LaneF)
  /-- VSHUF (R93). Moves values between lanes by index, xor, up or down. -/
  | vshuf (f : LaneF)
  /-- VBCAST (R94). Broadcasts one lane's value to all active lanes. -/
  | vbcast (f : LaneF)
  /-- VVOTE (R95). Writes a ballot, any or all of a mask to a return register. -/
  | vvote (f : LaneF)
  /-- VRDL (R94). Reads one lane's value into a return register. -/
  | vrdl (f : LaneF)
  /-- VSCAN (R96). Prefix-combines active lanes in a fixed tree. -/
  | vscan (f : LaneF)
  /-- VREDX (R96). Reduces active lanes in a fixed tree and broadcasts the result. -/
  | vredx (f : LaneF)
  /-- FADD (R116). Binary floating add, correctly rounded. -/
  | fadd (f : LaneF)
  /-- FSUB (R116). Binary floating subtract. -/
  | fsub (f : LaneF)
  /-- FMUL (R116). Binary floating multiply. -/
  | fmul (f : LaneF)
  /-- FFMA (R116). Fused multiply-add with one rounding. -/
  | ffma (f : LaneF)
  /-- FMIN (R117). Floating minimum, with −0 below +0. -/
  | fmin (f : LaneF)
  /-- FMAX (R117). Floating maximum. -/
  | fmax (f : LaneF)
  /-- FDIV (R116). Floating divide, correctly rounded. -/
  | fdiv (f : LaneF)
  /-- FSQRT (R116). Floating square root. -/
  | fsqrt (f : LaneF)
  /-- FRCP (R116). Correctly rounded reciprocal. -/
  | frcp (f : LaneF)
  /-- FRSQ (R116). Correctly rounded reciprocal square root. -/
  | frsq (f : LaneF)
  /-- FEXP2 (R116). Correctly rounded power of two. -/
  | fexp2 (f : LaneF)
  /-- FLOG2 (R116). Correctly rounded base-2 logarithm. -/
  | flog2 (f : LaneF)
  /-- FCMP (R118). Quiet floating compare that writes a mask. -/
  | fcmp (f : LaneF)
  /-- FCLASS (R119). Classifies each floating element into a one-hot class word. -/
  | fclass (f : LaneF)
  /-- FCVT (R120). Converts between integer and floating types. -/
  | fcvt (f : LaneF)
  /-- VROT (R121). Rotates a coordinate pair by the angle of a token position. -/
  | vrot (f : LaneF)
  /-- VFT (R125). Interpolates in the active function-table bank captured at issue. -/
  | vft (f : LaneF)
  /-- DADD (R126). Decimal64 add. -/
  | dadd (f : LaneF)
  /-- DSUB (R126). Decimal64 subtract. -/
  | dsub (f : LaneF)
  /-- DMUL (R126). Decimal64 multiply. -/
  | dmul (f : LaneF)
  /-- DFMA (R126). Decimal64 fused multiply-add. -/
  | dfma (f : LaneF)
  /-- DQTZ (R127). Rounds a decimal64 value to the exponent of another. -/
  | dqtz (f : LaneF)
  /-- DCMP (R128). Compares decimal64 values by value and writes a mask. -/
  | dcmp (f : LaneF)
  /-- DCVT (R129). Converts between decimal64 and f64, i64 or n64. -/
  | dcvt (f : LaneF)
  /-- BQNT (R130). Quantises lanes into MX or native block-scaled codes. -/
  | bqnt (f : LaneF)
  /-- BDQ (R131). Expands block-scaled codes to FP32. -/
  | bdq (f : LaneF)
  /-- VLD (R136). Lane load from global memory, with the optional acquire and non-resident forms. -/
  | vld (f : LaneF)
  /-- VST (R136). Lane store to global memory. -/
  | vst (f : LaneF)
  /-- VLDS (R136). Lane load from scratch or gang scratch. -/
  | vlds (f : LaneF)
  /-- VSTS (R136). Lane store to scratch or gang scratch. -/
  | vsts (f : LaneF)
  /-- VATOM (R144). One atomic read-modify-write per active lane. -/
  | vatom (f : LaneF)
  /-- VCAS (R145). One compare-and-swap per active lane. -/
  | vcas (f : LaneF)
  /-- MMA (R223). One matrix K-step, D := D + A × B, with optional scales. -/
  | mma (f : LaneF)
  /-- MMA_NS (R224). Writes an unscaled partial sum of one K-step into D. -/
  | mmaNs (f : LaneF)
  /-- SCACC (R225). Scales a partial-sum group and adds it to an accumulator group. -/
  | scacc (f : LaneF)
  /-- ATTB (R264). Bounded attention over a sequence slot, visiting blocks in falling-bound order until ε ≤ τ. -/
  | attb (f : LaneF)
  /-- ATTB_RESUME (R264). Continues a bounded attention from its cursor, or reports ORDER_CHANGED. -/
  | attbResume (f : LaneF)
  /-- KAPP (R250). Reserves positions and appends key and value rows, updating the block summaries. -/
  | kapp (f : LaneF)
  /-- TREQ (R288). Requests residency for the pages of the flagged lanes. -/
  | treq (f : LaneF)
  /-- VSTC (R305). Enqueues stamped stores for commit wait. -/
  | vstc (f : LaneF)
  /-- VLDA (R305). As-of load of stamped lines at a time t. -/
  | vlda (f : LaneF)
  /-- LANE_BLOCK_START (R30). The lane stream starts the next queued lane block. -/
  | laneBlockStart (w : Nat)
  /-- PATH_RECONVERGENCE (R33). A path reaches its reconvergence PC and ends, and the joins are settled. -/
  | pathReconvergence (w : Nat) (p : Nat)
  /-- LANE_LONG_COMPLETION (R138). A long lane instruction's last sector returns or is accepted, and it completes. -/
  | laneLongCompletion (w : Nat) (p : Nat) (k : Nat)
  /-- STREAM_URGENT (R36). A stream ready for 4,000 consecutive clocks becomes urgent. -/
  | streamUrgent (w : Nat) (lane : Bool)
  /-- FAULT_DELIVERY (R188). After outstanding instructions complete, the fault report is set and the handler entered or the warp halted. -/
  | faultDelivery (w : Nat)
  /-- PARK_REPLAY (R141). A parked access replays from its checks once its page is promoted or repaired. -/
  | parkReplay (w : Nat) (which : Nat)
  /-- WARP_WAKE (R176). A warp recorded as waiter on a completed object becomes ready within 64 clocks. -/
  | warpWake (w : Nat)
  /-- CONTINUATION_SPAWN (R180). A continuation whose object completed is spawned into a slot on its core. -/
  | continuationSpawn (b : Nat) (k : Nat) (slot : Nat)
  /-- REGISTER_MISS (R201). First use of an absent lane register fetches it from the save area and re-issues the instruction. -/
  | registerMiss (w : Nat) (reg : Nat)
  /-- MIRROR_COMPARE (R343). The mirror reaches a held leader effect and the comparator compares them. -/
  | mirrorCompare (w : Nat) (lane : Bool) (words : List W32) (operands : List W64)
  /-- CHAIN_CARD_READ (R210). A walking channel reads the next transfer record and enters it as a job. -/
  | chainCardRead (b : Nat) (ch : Nat)
  /-- COPY_JOB_START (R213). A copy job whose footprint edges are all finished begins its accesses. -/
  | copyJobStart (job : Nat)
  /-- COPY_CHUNK (R217). A copy chunk is translated, pinned and moved. -/
  | copyChunk (job : Nat)
  /-- COPY_JOB_FINISH (R214). A job's last byte is accepted; OWN is cleared and the ring and object are reported. -/
  | copyJobFinish (job : Nat)
  /-- RING_REPORT (R215). The engine takes a ring slot, waits until it is free and writes the entry. -/
  | ringReport (job : Nat)
  /-- POISON_REPORT (R358). A poison park or poisoned promotion writes an entry to the poison report ring once a slot is free. -/
  | poisonReport (k : Nat)
  /-- MLOOP_STEP (R229). A matrix loop step is debited energy and performs one MMA step from scratchpad images. -/
  | mloopStep (job : Nat)
  /-- ENERGY_REFILL (R234). Every 100 ns the die's power manager refills each context budget. -/
  | energyRefill (die : Nat)
  /-- ATTB_REISSUE (R268). A path with K = 1 resumes by re-issuing its instruction as ATTB.resume. -/
  | attbReissue (w : Nat) (p : Nat)
  /-- TIMETABLE_ENTRY_START (R283). An entry whose start marker is reached starts when fewer than 16 are in flight. -/
  | timetableEntryStart (launch : Nat) (entry : Nat)
  /-- PAGE_MOVE (R292). A page is marked moving, drained, copied and its PTE rewritten. -/
  | pageMove (move : Nat) (damage1 : List Nat) (damage2 : List Nat)
  /-- SYNC_SEND (R298). Every 10 µs the stamp unit sends a synchronisation message on each link. -/
  | syncSend (die : Nat) (link : Nat)
  /-- SYNC_RECEIVE (R299). A synchronisation or host reference message narrows the interval or is discarded. -/
  | syncReceive (die : Nat) (drift : Bool)
  /-- STAMPED_COMMIT (R303). A queued stamped store commits once the die's E exceeds its stamp. -/
  | stampedCommit (die : Nat)
  /-- DIE_WIDE (R300). The die's interval width passes $ILIM; WIDE_PENDING is recorded if stores are queued. -/
  | dieWide (die : Nat)
  /-- LINK_FLIT_SEND (R310). A link sends a flit when its retry buffer has room. -/
  | linkFlitSend (link : Nat)
  /-- LINK_FLIT_RECEIVE (R310). A receiver accepts an in-order flit or NAKs it. -/
  | linkFlitReceive (link : Nat) (bytes : List Byte) (bufferFull : Bool)
  /-- LINK_REPLAY (R310). After the NAK backoff expires, the sender resends from the NAKed seq. -/
  | linkReplay (link : Nat)
  /-- LINK_RETRAIN (R311). Loss of lock or excess error rate starts a retrain. -/
  | linkRetrain (link : Nat)
  /-- RETRAIN_COMPLETE (R311). The link retrains to the widest working group and replays, or is found dead. -/
  | retrainComplete (link : Nat) (working : Nat) (ok : Bool)
  /-- LINK_DEAD_TIMEOUT (R311). Pending flits with none accepted for 50 µs make the link dead. -/
  | linkDeadTimeout (link : Nat)
  /-- ADVANCE_RECEIVE (R313). A router receiving an advance adopts, advances or ignores it. -/
  | advanceReceive (router : Nat)
  /-- ROUTE_RECOMPUTE (R313). The fabric manager recomputes the routing table after a change. -/
  | routeRecompute (router : Nat) (routes : List (List (Nat × Nat × Nat)))
  /-- PACKET_FORWARD (R312). A router forwards a packet of its current version or discards it. -/
  | packetForward (router : Nat)
  /-- PACKET_RECEIVE (R315). A destination holds, drops or acknowledges a stream packet by sseq. -/
  | packetReceive (io : Nat)
  /-- REQUEST_PERFORM (R316). The destination checks a request against its import entry and performs it. -/
  | requestPerform (stream : Nat)
  /-- E2E_ACK_RECEIVE (R314). An end-to-end acknowledgement frees the source retry buffer. -/
  | e2eAckReceive (io : Nat)
  /-- E2E_REPLAY_TIMEOUT (R314). A packet unacknowledged for 100 µs is replayed. -/
  | e2eReplayTimeout (dst : Nat) (sseq : Nat)
  /-- GATE_PASS (R352). An atomic passes an order gate, updating its hash and log or waiting for the replay head. -/
  | gatePass (w : Nat) (which : Nat)
  /-- ERROR_BANK_UPDATE (R356). A detected error or event updates its unit's error bank record. -/
  | errorBankUpdate (bank : Nat) (sev : Nat) (syndrome : Nat) (addr : Nat) (victim : Nat)
  /-- SCAN_COMPLETE (R360). After 200 µs the scan writes its signature and the core returns to ISOLATED. -/
  | scanComplete (core : Nat) (lo : W64) (hi : W64)
  /-- SCAN_ABORT (R369). A class ≤ 1 signal stops a scan in progress and restores the core to ACTIVE. -/
  | scanAbort (die : Nat)
  /-- HOST_PRODUCER_WRITE (R328). The host writes a queue's producer index over the host link. -/
  | hostProducerWrite (q : Nat) (v : W64)
  /-- HOST_REGISTER_WRITE (R388). A host write to a register with no behaviour of its own is ignored. -/
  | hostRegisterWrite (off : Nat) (bytes : List Byte)
  /-- HOST_RESERVED_ACCESS (R388). A host access to a reserved offset draws XLATE and a violation record. -/
  | hostReservedAccess (off : Nat) (write : Bool) (len : Nat)
  /-- HOST_WINDOW_ACCESS (R319). A host read or write through a host window is checked and performed. -/
  | hostWindowAccess (win : Nat) (off : Nat) (write : Bool) (data : List Byte)
  /-- HOST_QUEUE_ACCEPT (R328). The engine accepts a slot of a host queue while producer ≠ consumer. -/
  | hostQueueAccept (q : Nat)
  /-- DEVICE_QUEUE_ACCEPT (R329). A record from the device launch queue is accepted and numbered. -/
  | deviceQueueAccept
  /-- PENNANT_RETEST (R326). A store to a watched pennant word re-tests the waits of pending launches. -/
  | pennantRetest (launch : Nat)
  /-- GRAPH_ACCEPT (R334). A graph takes a free instance slot and copies its nodes. -/
  | graphAccept (graph : Nat)
  /-- GRAPH_NODE_ACCEPT (R334). A node whose predecessors have all completed is accepted as a launch. -/
  | graphNodeAccept (graph : Nat) (node : Nat)
  /-- BLOCK_ADMISSION (R335). Room on a core is offered in class order and a block or gang is admitted. -/
  | blockAdmission (launch : Nat) (slots : List (List Nat))
  /-- AGE_PROMOTION (R332). A launch admissible for its class's age limit moves up one class. -/
  | agePromotion (launch : Nat)
  /-- PREEMPT_START (R338). An admissible launch that cannot be placed picks victims and starts rung 1. -/
  | preemptStart (launch : Nat)
  /-- RUNG_2_STOP (R195). D1 expires and remaining victim warps stop at their next safe points. -/
  | rung2Stop (launch : Nat)
  /-- BLOCK_SAVE (R196). Once all its warps have stopped, a block is written to the save area and freed. -/
  | blockSave (b : Nat)
  /-- FORCED_RESET (R199). D2 expires with a warp not stopped, and the victim context is force-reset. -/
  | forcedReset (launch : Nat)
  /-- BLOCK_RESUME (R200). A saved block is restored on a core with room, re-posting its jobs. -/
  | blockResume (launch : Nat) (slots : List (List Nat))
  /-- LAUNCH_COMPLETION (R330). A finished launch checks its digest and writes its completion record. -/
  | launchCompletion (launch : Nat)
  /-- COMPLETION_RING_WRITE (R330). The record is written into the queue's completion ring once the slot is free. -/
  | completionRingWrite (q : Nat)
  /-- POWER_ON_BRING_UP (R386). Power-on or reset verifies firmware, trains HBM and starts the units. -/
  | powerOnBringUp (verdicts : List Bool)
  /-- SETTING (R391). Mailbox command that writes a device-wide setting. -/
  | setting
  /-- QUEUE (R390). Mailbox command that writes the Brynlyn fields of a queue control block. -/
  | queue
  /-- CONTEXT_CREATE (R390). Mailbox command that creates a context with its root and fabric key. -/
  | contextCreate
  /-- CONTEXT_DESTROY (R390). Mailbox command that destroys an idle context. -/
  | contextDestroy
  /-- WINDOW (R390). Mailbox command that maps or unmaps a host window. -/
  | window
  /-- FRAME_POOL (R390). Mailbox command that adds frames to a die's pool. -/
  | framePool
  /-- TAG_STORE (R390). Mailbox command that sets a die's tag store. -/
  | tagStore
  /-- TAG_REGISTER (R390). Mailbox command that writes one tag record. -/
  | tagRegister
  /-- DEBUG (R202). Mailbox command that writes a warp's $SSTEP or $FREEZE. -/
  | debug
  /-- POISON_RING (R390). Mailbox command that sets or disables the poison report ring. -/
  | poisonRing
  /-- FUSE_ADVANCE (R390). Mailbox command that raises the fused security counter. -/
  | fuseAdvance
  /-- STATE_SUMMARY (R392). Mailbox command that writes the state summary to a host buffer. -/
  | stateSummary (mb : Nat)
  /-- ATTEST (R387). Mailbox command that returns a signed attestation report. -/
  | attest (mb : Nat)
  /-- RESET (R390). Mailbox command that resets the device and reruns bring-up. -/
  | reset (verdicts : List Bool)
  /-- THERMAL_THROTTLE (R394). A die passing 95 °C computes refill with P = 1,200. -/
  | thermalThrottle (die : Nat)
  /-- THERMAL_RECOVER (R394). A die falling below 90 °C returns to each context's cap. -/
  | thermalRecover (die : Nat)
  /-- THERMAL_SHUTDOWN (R394). At 105 °C every context is force-reset and THERMAL recorded. -/
  | thermalShutdown
  /-- ILLEGAL_OP (R53). A fetched scalar or lane word that is not an instruction faults ILLEGAL_OP before any operand is read, with $FWORD0–$FWORD2 set. -/
  | illegalOp (w : Nat) (lane : Bool) (w0 : W32) (w1 : W32) (w2 : W32)
  /-- BAD_COMMAND (R390). A mailbox doorbell naming an unknown command code, or mailbox 1 naming any command other than STATE_SUMMARY and ATTEST, ends with status BAD_COMMAND and sets done. -/
  | badCommand (mb : Nat)
  /-- CWAIT_RETURN (R304). A scalar stream waiting in CWAIT resumes when the die's E exceeds its stamp t. -/
  | cwaitReturn (w : Nat)
  /-- AS_OF_WAIT_END (R305). A VLDA waiting until the die's E exceeds t + $ILIM reads its versions and completes. -/
  | asOfWaitEnd (w : Nat) (p : Nat) (k : Nat)
  deriving DecidableEq, Repr, Inhabited

end Sys2Proof
end

