-- ==== Sys2Proof/WellFormed.lean ====
section
/-! DEFINITION. Which field values make a word an instruction (R53 and the encoding tables of the entries). -/

namespace Sys2Proof

/-! ## Checks shared by the lane words -/

/-- The types that name a register pair (R46). -/
def isPair (ty : BitVec 5) : Bool := ty == 0x02 || ty == 0x03 || ty == 0x09 || ty == 0x13

def evenReg (n : BitVec 8) : Bool := n.toNat % 2 == 0

/-- A pair-typed field must name an even register (R45). -/
def pairOk (f : LaneF) (n : BitVec 8) : Bool := !isPair f.ty || evenReg n

/-- g = 0 with gn = 1 is not an instruction (R47). -/
def guardOk (f : LaneF) : Bool := !(f.g == 0 && f.gn == 1)

/-- An instruction marked S takes la = 0 (R43). -/
def shortOk (f : LaneF) : Bool := f.la == 0 && guardOk f

/-- A mask field uses its low four bits (R45). -/
def maskField (n : BitVec 8) : Bool := n.toNat < 16

/-- A return register s56 to s63 (R82). -/
def retField (n : BitVec 8) : Bool := 0x38 ≤ n.toNat && n.toNat ≤ 0x3F

/-- Operand B, a register or a0 to a7 (R43). -/
def regB (f : LaneF) : Bool := if f.ab == 1 then f.vb.toNat < 8 else pairOk f f.vb

/-- Operand B of a two-source instruction: a literal in slot C replaces it (R48). -/
def srcB (f : LaneF) : Bool :=
  if f.lc == 1 then f.vb == 0 && f.ab == 0 && !isPair f.ty else regB f && f.c == 0

/-- Operands B and C of a three-source instruction: a literal replaces C (R48). -/
def srcBC (f : LaneF) : Bool :=
  regB f && (if f.lc == 1 then !isPair f.ty else f.aux == 0 && pairOk f f.vc)

def noB (f : LaneF) : Bool := f.vb == 0 && f.ab == 0
def noC (f : LaneF) : Bool := f.c == 0 && f.lc == 0

/-- ctl[15:13] is a rounding mode and every other bit of ctl is zero (R44). -/
def roundOnly (f : LaneF) : Bool := f.ctlN 0 13 == 0 && f.ctlN 13 3 ≤ 4

/-- The sets I, I32, IW, FW, FT of R46. -/
def tyI (ty : BitVec 5) : Bool := ty.toNat ≤ 7
def tyI32 (ty : BitVec 5) : Bool := ty.toNat ≤ 1
def tyIW (ty : BitVec 5) : Bool := ty.toNat ≤ 3
def tyFW (ty : BitVec 5) : Bool := 0x08 ≤ ty.toNat && ty.toNat ≤ 0x0B
def tyFT (ty : BitVec 5) : Bool := ty == 0x08 || ty == 0x0A
def tyFD (ty : BitVec 5) : Bool := ty == 0x08 || ty == 0x09 || ty == 0x0A

/-- A scope code of R42 that is not reserved. -/
def scopeOk (n : Nat) : Bool := n ≤ 5

/-! ## Integer, mask and cross-lane words (R83 to R96) -/

def wfIntSat (f : LaneF) : Bool :=
  shortOk f && tyI f.ty && pairOk f f.vd && pairOk f f.va && srcB f && f.ctlN 1 15 == 0
def wfInt (f : LaneF) : Bool :=
  shortOk f && tyI f.ty && pairOk f f.vd && pairOk f f.va && srcB f && f.ctl == 0
def wfMad (f : LaneF) : Bool :=
  shortOk f && tyI f.ty && pairOk f f.vd && pairOk f f.va && srcBC f && f.ctl == 0
def wfAbs (f : LaneF) : Bool :=
  shortOk f && tyI f.ty && pairOk f f.vd && pairOk f f.va && noB f && noC f && f.ctlN 1 15 == 0
def wfCnt (f : LaneF) : Bool :=
  shortOk f && tyI f.ty && pairOk f f.vd && pairOk f f.va && noB f && noC f && f.ctl == 0
def wfBits (f : LaneF) : Bool := shortOk f && f.ty == 0x14 && srcB f && f.ctl == 0
def wfBfx (f : LaneF) : Bool := shortOk f && tyI32 f.ty && srcBC f && f.ctl == 0
def wfBfi (f : LaneF) : Bool := shortOk f && f.ty == 0x14 && srcBC f && f.ctl == 0
def wfSel (f : LaneF) : Bool := shortOk f && f.ty == 0x14 && srcB f && f.ctlN 4 12 == 0
def wfMov (f : LaneF) : Bool :=
  shortOk f && f.ty == 0x14 && noB f && f.ctl == 0 && (if f.lc == 1 then f.va == 0 else f.c == 0)
def wfWid (f : LaneF) : Bool :=
  shortOk f && f.ty == 0 && f.lc == 1 && noB f && f.va == 0 && f.ctl == 0 &&
    f.c.toNat % 8 ≤ 5 && f.c.toNat % 256 / 8 == 0 && f.c.toNat / 512 == 0
def wfCmp (f : LaneF) : Bool :=
  shortOk f && tyI f.ty && maskField f.vd && pairOk f f.va && srcB f &&
    f.ctlN 0 3 ≤ 5 && f.ctlN 3 13 == 0
def wfMlog (f : LaneF) : Bool :=
  shortOk f && f.ty == 0 && maskField f.vd && maskField f.va && maskField f.vb && f.ab == 0 && noC f &&
    f.ctlN 4 12 == 0
def wfMcnt (f : LaneF) : Bool :=
  shortOk f && f.ty == 0 && retField f.vd && maskField f.va && noB f && noC f && f.ctl == 0
def wfVbr (f : LaneF) : Bool :=
  shortOk f && f.ty == 0 && f.vd == 0 && maskField f.va && noB f && f.lc == 0 && f.vc == 0 &&
    f.ctlN 13 3 == 0
def wfLend (f : LaneF) : Bool :=
  f.la == 0 && f.g == 0 && f.gn == 0 && f.ty == 0 && f.vd == 0 && f.va == 0 && noB f && noC f && f.ctl == 0
def wfShuf (f : LaneF) : Bool := guardOk f && f.ty == 0x14 && srcB f && f.ctlN 2 14 == 0
def wfBcast (f : LaneF) : Bool := shortOk f && f.ty == 0x14 && srcB f && f.ctl == 0
def wfRdl (f : LaneF) : Bool := shortOk f && f.ty == 0x14 && retField f.vd && srcB f && f.ctl == 0
def wfVote (f : LaneF) : Bool :=
  shortOk f && f.ty == 0 && retField f.vd && maskField f.va && noB f && noC f &&
    f.ctlN 0 2 ≤ 2 && f.ctlN 2 14 == 0
/-- VSCAN and VREDX (R96). `excl` is the greatest value bit [35] may take. -/
def wfScan (excl : Nat) (f : LaneF) : Bool :=
  guardOk f && (tyIW f.ty || f.ty == 0x08 || f.ty == 0x09) && pairOk f f.vd && pairOk f f.va && noB f && noC f &&
    f.ctlN 4 9 == 0 && f.ctlN 3 1 ≤ excl && f.ctlN 0 3 ≤ (if tyIW f.ty then 5 else 2) &&
    (if tyIW f.ty || f.ctlN 0 3 != 0 then f.ctlN 13 3 == 0 else f.ctlN 13 3 ≤ 4)

/-! ## Floating, decimal and conversion words (R115 to R131) -/

def wfFArith (f : LaneF) : Bool :=
  shortOk f && tyFW f.ty && pairOk f f.vd && pairOk f f.va && srcB f && roundOnly f
def wfFfma (f : LaneF) : Bool :=
  shortOk f && tyFW f.ty && pairOk f f.vd && pairOk f f.va && srcBC f && roundOnly f
def wfFminmax (f : LaneF) : Bool :=
  shortOk f && tyFW f.ty && pairOk f f.vd && pairOk f f.va && srcB f && f.ctl == 0
def wfFdiv (f : LaneF) : Bool :=
  guardOk f && tyFD f.ty && pairOk f f.vd && pairOk f f.va && srcB f && roundOnly f
def wfFsqrt (f : LaneF) : Bool :=
  guardOk f && tyFD f.ty && pairOk f f.vd && pairOk f f.va && noB f && noC f && roundOnly f
def wfFun1 (f : LaneF) : Bool := guardOk f && tyFT f.ty && noB f && noC f && roundOnly f
def wfFcmp (f : LaneF) : Bool :=
  shortOk f && tyFW f.ty && maskField f.vd && pairOk f f.va && srcB f && f.ctlN 3 13 == 0
def wfFclass (f : LaneF) : Bool :=
  shortOk f && tyFW f.ty && pairOk f f.vd && pairOk f f.va && noB f && noC f && f.ctl == 0

/-- The members between which FCVT converts freely (R120). -/
def cvtScalar (n : Nat) : Bool := n ≤ 3 || n == 8 || n == 9 || (0x0C ≤ n && n ≤ 0x12)
def cvtPair (dst src : Nat) : Bool :=
  (cvtScalar dst && cvtScalar src && dst != src) ||
  (dst == 0x0A && src == 0x0B) || (dst == 0x0B && src == 0x0A) ||
  ((dst == 0x0A || dst == 0x0B) && (src == 4 || src == 5)) ||
  ((dst == 4 || dst == 5) && (src == 0x0A || src == 0x0B))
def wfFcvt (f : LaneF) : Bool :=
  shortOk f && cvtPair f.ty.toNat (f.ctlN 0 5) && f.ctlN 5 8 == 0 && f.ctlN 13 3 ≤ 4 && noB f && noC f &&
    pairOk f f.vd && (!isPair (BitVec.ofNat 5 (f.ctlN 0 5)) || evenReg f.va)
def wfVrot (f : LaneF) : Bool :=
  shortOk f && (f.ty == 0x08 || f.ty == 0x0A || f.ty == 0x0B) && noC f && f.ctlN 3 10 == 0 && f.ctlN 13 3 ≤ 4 &&
    (f.ab == 0 || f.vb.toNat < 8) && (f.ty != 0x08 || (evenReg f.vd && evenReg f.va))
def wfVft (f : LaneF) : Bool := shortOk f && f.ty == 0x08 && noB f && noC f && f.ctlN 1 15 == 0
def wfDec (f : LaneF) : Bool :=
  guardOk f && f.ty == 0x13 && evenReg f.vd && evenReg f.va && f.ab == 0 && evenReg f.vb && noC f && roundOnly f
def wfDfma (f : LaneF) : Bool :=
  guardOk f && f.ty == 0x13 && evenReg f.vd && evenReg f.va && f.ab == 0 && evenReg f.vb && f.lc == 0 &&
    f.aux == 0 && evenReg f.vc && roundOnly f
def wfDcmp (f : LaneF) : Bool :=
  guardOk f && f.ty == 0x13 && maskField f.vd && evenReg f.va && f.ab == 0 && evenReg f.vb && noC f &&
    f.ctlN 3 13 == 0
def wfDcvt (f : LaneF) : Bool :=
  guardOk f && f.ty == 0x13 && evenReg f.vd && evenReg f.va && noB f && noC f &&
    f.ctlN 0 2 ≤ 2 && f.ctlN 3 10 == 0 && f.ctlN 13 3 ≤ 4
/-- The element formats of BQNT and BDQ: ctl[2] is the family, 0 MX or 1 native (R130). -/
def bqFmt (f : LaneF) : Bool :=
  if f.ctlN 2 1 == 1 then f.ty == 0x12 else 0x0E ≤ f.ty.toNat && f.ty.toNat ≤ 0x12
def wfBqnt (f : LaneF) : Bool :=
  guardOk f && bqFmt f && f.ctlN 0 2 ≤ 2 && f.ctlN 3 13 == 0 && evenReg f.vd &&
    (f.ctlN 2 1 == 0 || evenReg f.va) && noB f && noC f
def wfBdq (f : LaneF) : Bool :=
  guardOk f && bqFmt f && f.ctlN 0 2 == 0 && f.ctlN 3 13 == 0 && evenReg f.va && noB f && noC f

/-! ## Memory words (R134 to R145, R288, R305) -/

/-- A data register of a load or store of the size code (R135). -/
def sizeReg (size : Nat) (n : BitVec 8) : Bool :=
  if size == 3 then n.toNat % 2 == 0 else if size == 4 then n.toNat % 4 == 0 else true
def wfLoad (glob : Bool) (f : LaneF) : Bool :=
  guardOk f && f.ty == 0 && f.lc == 0 && noB f && f.ctlN 11 5 == 0 && (!glob || (f.ctlN 10 1 == 0 && evenReg f.va)) &&
    scopeOk (f.ctlN 6 3) && f.ctlN 4 2 ≤ 1 && f.ctlN 0 3 ≤ 4 && (f.ctlN 3 1 == 0 || f.ctlN 0 3 ≤ 1) &&
    sizeReg (f.ctlN 0 3) f.vd && (if f.ctlN 9 1 == 1 then maskField f.vc else f.vc == 0)
def wfStore (glob : Bool) (f : LaneF) : Bool :=
  guardOk f && f.ty == 0 && f.lc == 0 && f.vd == 0 && f.ctlN 11 5 == 0 &&
    (!glob || (f.ctlN 10 1 == 0 && evenReg f.va)) && f.ctlN 9 1 == 0 && scopeOk (f.ctlN 6 3) &&
    (f.ctlN 4 2 == 0 || f.ctlN 4 2 == 2) && f.ctlN 3 1 == 0 && f.ctlN 0 3 ≤ 4 && f.vc == 0 &&
    (if f.ab == 1 then f.vb.toNat < 8 && f.ctlN 0 3 ≤ 3 else sizeReg (f.ctlN 0 3) f.vb)
def wfVatom (f : LaneF) : Bool :=
  guardOk f && (tyIW f.ty || f.ty == 0x08 || f.ty == 0x09) && f.lc == 0 && f.vc == 0 && f.ctlN 10 6 == 0 &&
    scopeOk (f.ctlN 6 3) && f.ctlN 0 4 ≤ 6 && (tyIW f.ty || !(2 ≤ f.ctlN 0 4 && f.ctlN 0 4 ≤ 4)) &&
    evenReg f.va && pairOk f f.vd && (f.ctlN 9 1 == 1 || f.vd == 0) && regB f
def wfVcas (f : LaneF) : Bool :=
  guardOk f && (f.ty == 0x14 || f.ty == 0x02) && f.lc == 0 && f.ab == 0 && f.ctlN 9 7 == 0 && f.ctlN 0 4 == 0 &&
    scopeOk (f.ctlN 6 3) && evenReg f.va && pairOk f f.vd && pairOk f f.vb && pairOk f f.vc
def wfTreq (f : LaneF) : Bool :=
  guardOk f && f.ty == 0 && f.vd == 0 && noB f && f.lc == 0 && f.vc == 0 && evenReg f.va && f.ctlN 4 12 == 0
def wfVstc (f : LaneF) : Bool :=
  guardOk f && f.ty == 0 && f.vd == 0 && evenReg f.va && evenReg f.vb && f.ab == 0 && f.lc == 0 && f.vc == 0 &&
    f.ctlN 3 13 == 0
def wfVlda (f : LaneF) : Bool :=
  guardOk f && f.ty == 0 && evenReg f.vd && evenReg f.va && noB f && f.lc == 0 && f.vc == 0 && f.ctlN 7 9 == 0

/-! ## Matrix and attention words (R219 to R225, R249, R257) -/

/-- The narrow floating formats e4m3 to e2m1. -/
def narrowF (n : Nat) : Bool := 0x0E ≤ n && n ≤ 0x12
/-- The combinations of A format, B format and scale mode of R219. -/
def mmaCombo (afmt bfmt mode : Nat) : Bool :=
  match mode with
  | 0 => (afmt == bfmt && (afmt == 0x0C || afmt == 0x0D)) ||
         ((afmt == 6 || afmt == 7) && (bfmt == 6 || bfmt == 7)) || (narrowF afmt && narrowF bfmt)
  | 1 => narrowF afmt && narrowF bfmt
  | 2 => afmt == 0x12 && bfmt == 0x12
  | _ => false
def LaneF.auxN (f : LaneF) (lo n : Nat) : Nat := f.aux.toNat / 2 ^ lo % 2 ^ n
def wfMma (f : LaneF) : Bool :=
  f.g == 0 && f.gn == 0 && f.ty == 0x08 && f.lc == 0 && f.ab == 0 && f.ctlN 0 11 == 0 && f.ctlN 13 3 == 0 &&
    mmaCombo (f.auxN 0 5) (f.auxN 5 5) (f.auxN 10 2) && (f.auxN 10 2 != 0 || f.vc == 0) && f.auxN 13 11 == 0
def wfMmaNs (f : LaneF) : Bool :=
  f.g == 0 && f.gn == 0 && f.ty == 0x08 && f.lc == 0 && f.ab == 0 && f.ctlN 0 11 == 0 && f.ctlN 13 3 == 0 &&
    mmaCombo (f.auxN 0 5) (f.auxN 5 5) 0 && f.vc == 0 && f.auxN 10 14 == 0
def wfScacc (f : LaneF) : Bool :=
  f.g == 0 && f.gn == 0 && f.ty == 0x08 && f.lc == 0 && f.ctlN 0 11 == 0 && f.ctlN 13 3 ≤ 4 &&
    (f.ab == 0 || f.vb.toNat < 8) && f.auxN 1 23 == 0 && (f.auxN 0 1 == 1 || f.vc == 0)
def wfAttb (f : LaneF) : Bool :=
  f.g == 0 && f.gn == 0 && f.ty == 0 && f.ctlN 13 3 == 0 && (f.lc == 1 || f.aux == 0) &&
    (f.ab == 0 || f.vb.toNat < 8)
def wfKapp (f : LaneF) : Bool :=
  guardOk f && f.ty == 0 && f.lc == 0 && f.ab == 0 && f.vd == 0 && f.ctlN 0 11 == 0 && f.ctlN 13 3 == 0 &&
    f.auxN 10 14 == 0

/-! ## Every instruction -/

/-- R53: the instruction's field values are ones the opcode map and its entry give a meaning.
A scalar word's unused fields are not held by its constructor and are checked where it is decoded;
a step of an engine has no encoding. -/
def Instr.wf : Instr → Bool
  | .add _ _ _ => true
  | .sub _ _ _ => true
  | .mul _ _ _ => true
  | .mulh _ _ _ => true
  | .mulhn _ _ _ => true
  | .div _ _ _ => true
  | .divn _ _ _ => true
  | .rem _ _ _ => true
  | .remn _ _ _ => true
  | .and _ _ _ => true
  | .or _ _ _ => true
  | .xor _ _ _ => true
  | .shl _ _ _ => true
  | .shr _ _ _ => true
  | .sar _ _ _ => true
  | .min _ _ _ => true
  | .max _ _ _ => true
  | .minn _ _ _ => true
  | .maxn _ _ _ => true
  | .setcEq _ _ _ => true
  | .setcNe _ _ _ => true
  | .setcLt _ _ _ => true
  | .setcGe _ _ _ => true
  | .setcLtn _ _ _ => true
  | .setcGen _ _ _ => true
  | .addi _ _ _ => true
  | .andi _ _ _ => true
  | .ori _ _ _ => true
  | .xori _ _ _ => true
  | .shli _ _ _ => true
  | .shri _ _ _ => true
  | .sari _ _ _ => true
  | .li _ _ => true
  | .lih _ _ => true
  | .orl _ _ => true
  | .b _ => true
  | .call _ => true
  | .bcEq _ _ _ => true
  | .bcNe _ _ _ => true
  | .bcLt _ _ _ => true
  | .bcGe _ _ _ => true
  | .bcLtn _ _ _ => true
  | .bcGen _ _ _ => true
  | .bcBs _ _ _ => true
  | .bcBc _ _ _ => true
  | .ret => true
  | .jmpr _ => true
  | .sld _ _ _ _ _ => true
  | .sst _ _ _ _ _ => true
  | .sldAcq _ _ _ _ p _ => scopeOk p.toNat
  | .sstRel _ _ _ _ p _ => scopeOk p.toNat
  | .satom _ _ _ o _ p => o.toNat ≤ 6 && scopeOk p.toNat
  | .lrun _ => true
  | .lsync => true
  | .barBk _ => true
  | .barGg _ => true
  | .bareBk _ => true
  | .bareGg _ => true
  | .binit _ _ => true
  | .barrive _ _ => true
  | .bwait _ => true
  | .bcont _ _ => true
  | .yieldC _ _ => true
  | .copy _ _ => true
  | .mloop _ => true
  | .kseqLd _ _ => true
  | .kseqSt _ _ => true
  | .klenCommit _ _ => true
  | .klenReject _ => true
  | .krot _ _ _ => true
  | .kreq _ _ _ => true
  | .ksum _ _ => true
  | .pmark _ => true
  | .xmap _ _ => true
  | .xlook _ _ _ => true
  | .xfill _ _ => true
  | .xevict _ _ => true
  | .xflush _ => true
  | .xfillX24 _ _ => true
  | .clk _ => true
  | .cwait _ => true
  | .ftld _ => true
  | .ftsw => true
  | .srr _ _ => true
  | .srw _ _ => true
  | .fence k p => k.toNat ≤ 2 && scopeOk p.toNat
  | .trap _ => true
  | .eret => true
  | .nop => true
  | .launch _ _ => true
  | .exit => true
  | .grant _ _ _ => true
  | .gate _ _ => true
  | .digr _ _ _ => true
  | .errqRead _ _ _ => true
  | .errqRepair _ _ => true
  | .errqLog _ _ _ => true
  | .corectlDrain _ _ => true
  | .corectlIsolate _ => true
  | .corectlRelease _ => true
  | .scan _ _ => true
  | .scanwt _ _ => true
  | .lcmap _ _ _ => true
  | .wkill _ _ _ => true
  | .vadd f => wfIntSat f
  | .vsub f => wfIntSat f
  | .vmul f => wfInt f
  | .vmulh f => wfInt f
  | .vmad f => wfMad f
  | .vand f => wfBits f
  | .vor f => wfBits f
  | .vxor f => wfBits f
  | .vshl f => wfInt f
  | .vshr f => wfInt f
  | .vsar f => wfInt f
  | .vmin f => wfInt f
  | .vmax f => wfInt f
  | .vabs f => wfAbs f
  | .vcnt f => wfCnt f
  | .vclz f => wfCnt f
  | .vbfx f => wfBfx f
  | .vbfi f => wfBfi f
  | .vsel f => wfSel f
  | .vmov f => wfMov f
  | .vwid f => wfWid f
  | .vcmp f => wfCmp f
  | .mlog f => wfMlog f
  | .mcnt f => wfMcnt f
  | .vbr f => wfVbr f
  | .lend f => wfLend f
  | .vshuf f => wfShuf f
  | .vbcast f => wfBcast f
  | .vvote f => wfVote f
  | .vrdl f => wfRdl f
  | .vscan f => wfScan 1 f
  | .vredx f => wfScan 0 f
  | .fadd f => wfFArith f
  | .fsub f => wfFArith f
  | .fmul f => wfFArith f
  | .ffma f => wfFfma f
  | .fmin f => wfFminmax f
  | .fmax f => wfFminmax f
  | .fdiv f => wfFdiv f
  | .fsqrt f => wfFsqrt f
  | .frcp f => wfFun1 f
  | .frsq f => wfFun1 f
  | .fexp2 f => wfFun1 f
  | .flog2 f => wfFun1 f
  | .fcmp f => wfFcmp f
  | .fclass f => wfFclass f
  | .fcvt f => wfFcvt f
  | .vrot f => wfVrot f
  | .vft f => wfVft f
  | .dadd f => wfDec f
  | .dsub f => wfDec f
  | .dmul f => wfDec f
  | .dfma f => wfDfma f
  | .dqtz f => wfDec f
  | .dcmp f => wfDcmp f
  | .dcvt f => wfDcvt f
  | .bqnt f => wfBqnt f
  | .bdq f => wfBdq f
  | .vld f => wfLoad true f
  | .vst f => wfStore true f
  | .vlds f => wfLoad false f
  | .vsts f => wfStore false f
  | .vatom f => wfVatom f
  | .vcas f => wfVcas f
  | .mma f => wfMma f
  | .mmaNs f => wfMmaNs f
  | .scacc f => wfScacc f
  | .attb f => wfAttb f
  | .attbResume f => wfAttb f
  | .kapp f => wfKapp f
  | .treq f => wfTreq f
  | .vstc f => wfVstc f
  | .vlda f => wfVlda f
  | .laneBlockStart _ => true
  | .pathReconvergence _ _ => true
  | .laneLongCompletion _ _ _ => true
  | .streamUrgent _ _ => true
  | .faultDelivery _ => true
  | .parkReplay _ _ => true
  | .warpWake _ => true
  | .continuationSpawn _ _ _ => true
  | .registerMiss _ _ => true
  | .mirrorCompare _ _ _ _ => true
  | .chainCardRead _ _ => true
  | .copyJobStart _ => true
  | .copyChunk _ => true
  | .copyJobFinish _ => true
  | .ringReport _ => true
  | .poisonReport _ => true
  | .mloopStep _ => true
  | .energyRefill _ => true
  | .attbReissue _ _ => true
  | .timetableEntryStart _ _ => true
  | .pageMove _ _ _ => true
  | .syncSend _ _ => true
  | .syncReceive _ _ => true
  | .stampedCommit _ => true
  | .dieWide _ => true
  | .linkFlitSend _ => true
  | .linkFlitReceive _ _ _ => true
  | .linkReplay _ => true
  | .linkRetrain _ => true
  | .retrainComplete _ _ _ => true
  | .linkDeadTimeout _ => true
  | .advanceReceive _ => true
  | .routeRecompute _ _ => true
  | .packetForward _ => true
  | .packetReceive _ => true
  | .requestPerform _ => true
  | .e2eAckReceive _ => true
  | .e2eReplayTimeout _ _ => true
  | .gatePass _ _ => true
  | .errorBankUpdate _ _ _ _ _ => true
  | .scanComplete _ _ _ => true
  | .scanAbort _ => true
  | .hostProducerWrite _ _ => true
  | .hostRegisterWrite _ _ => true
  | .hostReservedAccess _ _ _ => true
  | .hostWindowAccess _ _ _ _ => true
  | .hostQueueAccept _ => true
  | .deviceQueueAccept => true
  | .pennantRetest _ => true
  | .graphAccept _ => true
  | .graphNodeAccept _ _ => true
  | .blockAdmission _ _ => true
  | .agePromotion _ => true
  | .preemptStart _ => true
  | .rung2Stop _ => true
  | .blockSave _ => true
  | .forcedReset _ => true
  | .blockResume _ _ => true
  | .launchCompletion _ => true
  | .completionRingWrite _ => true
  | .powerOnBringUp _ => true
  | .setting => true
  | .queue => true
  | .contextCreate => true
  | .contextDestroy => true
  | .window => true
  | .framePool => true
  | .tagStore => true
  | .tagRegister => true
  | .debug => true
  | .poisonRing => true
  | .fuseAdvance => true
  | .stateSummary _ => true
  | .attest _ => true
  | .reset _ => true
  | .thermalThrottle _ => true
  | .thermalRecover _ => true
  | .thermalShutdown => true
  | .illegalOp _ _ _ _ _ => true
  | .badCommand _ => true
  | .cwaitReturn _ => true
  | .asOfWaitEnd _ _ _ => true

end Sys2Proof
end

