-- ==== Sys2Proof/Decode.lean ====
section
/-! DEFINITION. Reading instruction words (R40 to R53) and writing them. -/

namespace Sys2Proof

/-! ## Scalar words -/

/-- The bits `lo .. lo+n-1` of a word. -/
def fld (w lo n : Nat) : Nat := w / 2 ^ lo % 2 ^ n

/-- The bits `lo .. lo+n-1` of a word, as a field. -/
def fldBits (w lo n : Nat) : BitVec n := BitVec.ofNat n (w / 2 ^ lo)

/-- Opcode 0x00: ADD, SUB, MUL, MULH, MULHN, DIV, DIVN, REM, REMN, AND, OR, XOR, SHL, SHR, SAR, MIN, MAX, MINN, MAXN, SETC_EQ, SETC_NE, SETC_LT, SETC_GE, SETC_LTN, SETC_GEN (R51). -/
def decodeScalar00 (w : Nat) : Option Instr :=
  match fld w 0 8 with
  | 0 => some (.add (fldBits w 20 6) (fldBits w 14 6) (fldBits w 8 6))
  | 1 => some (.sub (fldBits w 20 6) (fldBits w 14 6) (fldBits w 8 6))
  | 2 => some (.mul (fldBits w 20 6) (fldBits w 14 6) (fldBits w 8 6))
  | 3 => some (.mulh (fldBits w 20 6) (fldBits w 14 6) (fldBits w 8 6))
  | 4 => some (.mulhn (fldBits w 20 6) (fldBits w 14 6) (fldBits w 8 6))
  | 5 => some (.div (fldBits w 20 6) (fldBits w 14 6) (fldBits w 8 6))
  | 6 => some (.divn (fldBits w 20 6) (fldBits w 14 6) (fldBits w 8 6))
  | 7 => some (.rem (fldBits w 20 6) (fldBits w 14 6) (fldBits w 8 6))
  | 8 => some (.remn (fldBits w 20 6) (fldBits w 14 6) (fldBits w 8 6))
  | 16 => some (.and (fldBits w 20 6) (fldBits w 14 6) (fldBits w 8 6))
  | 17 => some (.or (fldBits w 20 6) (fldBits w 14 6) (fldBits w 8 6))
  | 18 => some (.xor (fldBits w 20 6) (fldBits w 14 6) (fldBits w 8 6))
  | 24 => some (.shl (fldBits w 20 6) (fldBits w 14 6) (fldBits w 8 6))
  | 25 => some (.shr (fldBits w 20 6) (fldBits w 14 6) (fldBits w 8 6))
  | 26 => some (.sar (fldBits w 20 6) (fldBits w 14 6) (fldBits w 8 6))
  | 32 => some (.min (fldBits w 20 6) (fldBits w 14 6) (fldBits w 8 6))
  | 33 => some (.max (fldBits w 20 6) (fldBits w 14 6) (fldBits w 8 6))
  | 34 => some (.minn (fldBits w 20 6) (fldBits w 14 6) (fldBits w 8 6))
  | 35 => some (.maxn (fldBits w 20 6) (fldBits w 14 6) (fldBits w 8 6))
  | 40 => some (.setcEq (fldBits w 20 6) (fldBits w 14 6) (fldBits w 8 6))
  | 41 => some (.setcNe (fldBits w 20 6) (fldBits w 14 6) (fldBits w 8 6))
  | 42 => some (.setcLt (fldBits w 20 6) (fldBits w 14 6) (fldBits w 8 6))
  | 43 => some (.setcGe (fldBits w 20 6) (fldBits w 14 6) (fldBits w 8 6))
  | 44 => some (.setcLtn (fldBits w 20 6) (fldBits w 14 6) (fldBits w 8 6))
  | 45 => some (.setcGen (fldBits w 20 6) (fldBits w 14 6) (fldBits w 8 6))
  | _ => none

/-- Opcode 0x01: ADDI (R51). -/
def decodeScalar01 (w : Nat) : Option Instr :=
  some (.addi (fldBits w 20 6) (fldBits w 14 6) (fldBits w 0 14))

/-- Opcode 0x02: ANDI (R51). -/
def decodeScalar02 (w : Nat) : Option Instr :=
  some (.andi (fldBits w 20 6) (fldBits w 14 6) (fldBits w 0 14))

/-- Opcode 0x03: ORI (R51). -/
def decodeScalar03 (w : Nat) : Option Instr :=
  some (.ori (fldBits w 20 6) (fldBits w 14 6) (fldBits w 0 14))

/-- Opcode 0x04: XORI (R51). -/
def decodeScalar04 (w : Nat) : Option Instr :=
  some (.xori (fldBits w 20 6) (fldBits w 14 6) (fldBits w 0 14))

/-- Opcode 0x05: SHLI (R51). -/
def decodeScalar05 (w : Nat) : Option Instr :=
  if fld w 6 8 = 0 then some (.shli (fldBits w 20 6) (fldBits w 14 6) (fldBits w 0 6)) else none

/-- Opcode 0x06: SHRI (R51). -/
def decodeScalar06 (w : Nat) : Option Instr :=
  if fld w 6 8 = 0 then some (.shri (fldBits w 20 6) (fldBits w 14 6) (fldBits w 0 6)) else none

/-- Opcode 0x07: SARI (R51). -/
def decodeScalar07 (w : Nat) : Option Instr :=
  if fld w 6 8 = 0 then some (.sari (fldBits w 20 6) (fldBits w 14 6) (fldBits w 0 6)) else none

/-- Opcode 0x08: LI (R51). -/
def decodeScalar08 (w : Nat) : Option Instr :=
  if fld w 14 6 = 0 then some (.li (fldBits w 20 6) (fldBits w 0 14)) else none

/-- Opcode 0x09: LIH (R51). -/
def decodeScalar09 (w : Nat) : Option Instr :=
  some (.lih (fldBits w 20 6) (fldBits w 0 20))

/-- Opcode 0x0A: ORL (R51). -/
def decodeScalar0A (w : Nat) : Option Instr :=
  some (.orl (fldBits w 20 6) (fldBits w 0 20))

/-- Opcode 0x10: B (R51). -/
def decodeScalar10 (w : Nat) : Option Instr :=
  some (.b (fldBits w 0 26))

/-- Opcode 0x11: BC_EQ, BC_NE, BC_LT, BC_GE, BC_LTN, BC_GEN, BC_BS, BC_BC (R51). -/
def decodeScalar11 (w : Nat) : Option Instr :=
  match fld w 11 3 with
  | 0 => some (.bcEq (fldBits w 20 6) (fldBits w 14 6) (fldBits w 0 11))
  | 1 => some (.bcNe (fldBits w 20 6) (fldBits w 14 6) (fldBits w 0 11))
  | 2 => some (.bcLt (fldBits w 20 6) (fldBits w 14 6) (fldBits w 0 11))
  | 3 => some (.bcGe (fldBits w 20 6) (fldBits w 14 6) (fldBits w 0 11))
  | 4 => some (.bcLtn (fldBits w 20 6) (fldBits w 14 6) (fldBits w 0 11))
  | 5 => some (.bcGen (fldBits w 20 6) (fldBits w 14 6) (fldBits w 0 11))
  | 6 => some (.bcBs (fldBits w 20 6) (fldBits w 14 6) (fldBits w 0 11))
  | 7 => some (.bcBc (fldBits w 20 6) (fldBits w 14 6) (fldBits w 0 11))
  | _ => none

/-- Opcode 0x12: CALL (R51). -/
def decodeScalar12 (w : Nat) : Option Instr :=
  some (.call (fldBits w 0 26))

/-- Opcode 0x13: RET (R51). -/
def decodeScalar13 (w : Nat) : Option Instr :=
  if fld w 0 26 = 0 then some .ret else none

/-- Opcode 0x14: JMPR (R51). -/
def decodeScalar14 (w : Nat) : Option Instr :=
  if fld w 0 14 = 0 ∧ fld w 20 6 = 0 then some (.jmpr (fldBits w 14 6)) else none

/-- Opcode 0x18: SLD (R51). -/
def decodeScalar18 (w : Nat) : Option Instr :=
  some (.sld (fldBits w 20 6) (fldBits w 14 6) (fldBits w 12 2) (fldBits w 10 2) (fldBits w 0 10))

/-- Opcode 0x19: SST (R51). -/
def decodeScalar19 (w : Nat) : Option Instr :=
  some (.sst (fldBits w 20 6) (fldBits w 14 6) (fldBits w 12 2) (fldBits w 10 2) (fldBits w 0 10))

/-- Opcode 0x1A: SLD_ACQ (R51). -/
def decodeScalar1A (w : Nat) : Option Instr :=
  some (.sldAcq (fldBits w 20 6) (fldBits w 14 6) (fldBits w 12 2) (fldBits w 10 2) (fldBits w 7 3) (fldBits w 0 7))

/-- Opcode 0x1B: SST_REL (R51). -/
def decodeScalar1B (w : Nat) : Option Instr :=
  some (.sstRel (fldBits w 20 6) (fldBits w 14 6) (fldBits w 12 2) (fldBits w 10 2) (fldBits w 7 3) (fldBits w 0 7))

/-- Opcode 0x1C: SATOM (R51). -/
def decodeScalar1C (w : Nat) : Option Instr :=
  some (.satom (fldBits w 20 6) (fldBits w 14 6) (fldBits w 8 6) (fldBits w 5 3) (fldBits w 3 2) (fldBits w 0 3))

/-- Opcode 0x20: LRUN (R51). -/
def decodeScalar20 (w : Nat) : Option Instr :=
  some (.lrun (fldBits w 0 26))

/-- Opcode 0x21: LSYNC (R51). -/
def decodeScalar21 (w : Nat) : Option Instr :=
  if fld w 0 26 = 0 then some .lsync else none

/-- Opcode 0x22: BAR_BK, BAR_GG, BARE_BK, BARE_GG (R51). -/
def decodeScalar22 (w : Nat) : Option Instr :=
  match fld w 0 20 with
  | 0 => some (.barBk (fldBits w 20 6))
  | 1 => some (.barGg (fldBits w 20 6))
  | 2 => some (.bareBk (fldBits w 20 6))
  | 3 => some (.bareGg (fldBits w 20 6))
  | _ => none

/-- Opcode 0x23: BINIT (R51). -/
def decodeScalar23 (w : Nat) : Option Instr :=
  if fld w 0 8 = 0 ∧ fld w 20 6 = 0 then some (.binit (fldBits w 14 6) (fldBits w 8 6)) else none

/-- Opcode 0x24: BARRIVE (R51). -/
def decodeScalar24 (w : Nat) : Option Instr :=
  if fld w 0 8 = 0 ∧ fld w 20 6 = 0 then some (.barrive (fldBits w 14 6) (fldBits w 8 6)) else none

/-- Opcode 0x25: BWAIT (R51). -/
def decodeScalar25 (w : Nat) : Option Instr :=
  if fld w 0 14 = 0 ∧ fld w 20 6 = 0 then some (.bwait (fldBits w 14 6)) else none

/-- Opcode 0x26: BCONT (R51). -/
def decodeScalar26 (w : Nat) : Option Instr :=
  if fld w 20 6 = 0 then some (.bcont (fldBits w 14 6) (fldBits w 0 14)) else none

/-- Opcode 0x27: YIELD_C (R51). -/
def decodeScalar27 (w : Nat) : Option Instr :=
  if fld w 20 6 = 0 then some (.yieldC (fldBits w 14 6) (fldBits w 0 14)) else none

/-- Opcode 0x28: COPY (R51). -/
def decodeScalar28 (w : Nat) : Option Instr :=
  if fld w 3 11 = 0 ∧ fld w 20 6 = 0 then some (.copy (fldBits w 14 6) (fldBits w 0 3)) else none

/-- Opcode 0x29: MLOOP (R51). -/
def decodeScalar29 (w : Nat) : Option Instr :=
  if fld w 0 14 = 0 ∧ fld w 20 6 = 0 then some (.mloop (fldBits w 14 6)) else none

/-- Opcode 0x2A: KSEQ_LD, KSEQ_ST, KLEN_COMMIT, KLEN_REJECT, KROT, KREQ, KSUM (R51). -/
def decodeScalar2A (w : Nat) : Option Instr :=
  match fld w 0 8 with
  | 0 => if fld w 8 6 = 0 then some (.kseqLd (fldBits w 20 6) (fldBits w 14 6)) else none
  | 1 => if fld w 8 6 = 0 then some (.kseqSt (fldBits w 20 6) (fldBits w 14 6)) else none
  | 2 => if fld w 8 6 = 0 then some (.klenCommit (fldBits w 20 6) (fldBits w 14 6)) else none
  | 3 => if fld w 8 12 = 0 then some (.klenReject (fldBits w 20 6)) else none
  | 4 => some (.krot (fldBits w 20 6) (fldBits w 14 6) (fldBits w 8 6))
  | 5 => some (.kreq (fldBits w 20 6) (fldBits w 14 6) (fldBits w 8 6))
  | 6 => if fld w 8 6 = 0 then some (.ksum (fldBits w 20 6) (fldBits w 14 6)) else none
  | _ => none

/-- Opcode 0x2B: PMARK (R51). -/
def decodeScalar2B (w : Nat) : Option Instr :=
  if fld w 16 10 = 0 then some (.pmark (fldBits w 0 16)) else none

/-- Opcode 0x2C: XMAP, XLOOK, XFILL, XEVICT, XFLUSH, XFILL_X24 (R51). -/
def decodeScalar2C (w : Nat) : Option Instr :=
  match fld w 0 8 with
  | 0 => if fld w 20 6 = 0 then some (.xmap (fldBits w 14 6) (fldBits w 8 6)) else none
  | 1 => some (.xlook (fldBits w 20 6) (fldBits w 14 6) (fldBits w 8 6))
  | 2 => if fld w 20 6 = 0 then some (.xfill (fldBits w 14 6) (fldBits w 8 6)) else none
  | 3 => if fld w 20 6 = 0 then some (.xevict (fldBits w 14 6) (fldBits w 8 6)) else none
  | 4 => if fld w 14 12 = 0 then some (.xflush (fldBits w 8 6)) else none
  | 5 => if fld w 20 6 = 0 then some (.xfillX24 (fldBits w 14 6) (fldBits w 8 6)) else none
  | _ => none

/-- Opcode 0x2D: CLK, CWAIT (R51). -/
def decodeScalar2D (w : Nat) : Option Instr :=
  match fld w 0 14 with
  | 0 => if fld w 14 7 = 0 then some (.clk (fldBits w 21 5)) else none
  | 1 => if fld w 20 6 = 0 then some (.cwait (fldBits w 14 6)) else none
  | _ => none

/-- Opcode 0x2E: FTLD, FTSW (R51). -/
def decodeScalar2E (w : Nat) : Option Instr :=
  match fld w 0 14 with
  | 0 => if fld w 20 6 = 0 then some (.ftld (fldBits w 14 6)) else none
  | 1 => if fld w 14 12 = 0 then some .ftsw else none
  | _ => none

/-- Opcode 0x30: SRR (R51). -/
def decodeScalar30 (w : Nat) : Option Instr :=
  if fld w 14 6 = 0 then some (.srr (fldBits w 20 6) (fldBits w 0 14)) else none

/-- Opcode 0x31: SRW (R51). -/
def decodeScalar31 (w : Nat) : Option Instr :=
  if fld w 20 6 = 0 then some (.srw (fldBits w 14 6) (fldBits w 0 14)) else none

/-- Opcode 0x32: FENCE (R51). -/
def decodeScalar32 (w : Nat) : Option Instr :=
  if fld w 5 21 = 0 then some (.fence (fldBits w 3 2) (fldBits w 0 3)) else none

/-- Opcode 0x33: TRAP (R51). -/
def decodeScalar33 (w : Nat) : Option Instr :=
  if fld w 8 18 = 0 then some (.trap (fldBits w 0 8)) else none

/-- Opcode 0x34: ERET (R51). -/
def decodeScalar34 (w : Nat) : Option Instr :=
  if fld w 0 26 = 0 then some .eret else none

/-- Opcode 0x35: NOP (R51). -/
def decodeScalar35 (w : Nat) : Option Instr :=
  if fld w 0 26 = 0 then some .nop else none

/-- Opcode 0x36: LAUNCH (R51). -/
def decodeScalar36 (w : Nat) : Option Instr :=
  if fld w 0 14 = 0 then some (.launch (fldBits w 20 6) (fldBits w 14 6)) else none

/-- Opcode 0x37: EXIT (R51). -/
def decodeScalar37 (w : Nat) : Option Instr :=
  if fld w 0 26 = 0 then some .exit else none

/-- Opcode 0x38: GRANT (R51). -/
def decodeScalar38 (w : Nat) : Option Instr :=
  if fld w 0 8 = 0 then some (.grant (fldBits w 20 6) (fldBits w 14 6) (fldBits w 8 6)) else none

/-- Opcode 0x39: GATE (R51). -/
def decodeScalar39 (w : Nat) : Option Instr :=
  if fld w 0 8 = 0 ∧ fld w 20 6 = 0 then some (.gate (fldBits w 14 6) (fldBits w 8 6)) else none

/-- Opcode 0x3A: DIGR, ERRQ_READ, ERRQ_REPAIR, ERRQ_LOG (R51). -/
def decodeScalar3A (w : Nat) : Option Instr :=
  match fld w 0 8 with
  | 0 => some (.digr (fldBits w 20 6) (fldBits w 14 6) (fldBits w 8 6))
  | 1 => some (.errqRead (fldBits w 20 6) (fldBits w 14 6) (fldBits w 8 6))
  | 2 => if fld w 8 6 = 0 then some (.errqRepair (fldBits w 20 6) (fldBits w 14 6)) else none
  | 3 => some (.errqLog (fldBits w 20 6) (fldBits w 14 6) (fldBits w 8 6))
  | _ => none

/-- Opcode 0x3B: CORECTL_DRAIN, CORECTL_ISOLATE, CORECTL_RELEASE, SCAN, SCANWT, LCMAP (R51). -/
def decodeScalar3B (w : Nat) : Option Instr :=
  match fld w 0 8 with
  | 0 => if fld w 8 6 = 0 then some (.corectlDrain (fldBits w 20 6) (fldBits w 14 6)) else none
  | 1 => if fld w 8 6 = 0 ∧ fld w 20 6 = 0 then some (.corectlIsolate (fldBits w 14 6)) else none
  | 2 => if fld w 8 6 = 0 ∧ fld w 20 6 = 0 then some (.corectlRelease (fldBits w 14 6)) else none
  | 4 => if fld w 20 6 = 0 then some (.scan (fldBits w 14 6) (fldBits w 8 6)) else none
  | 5 => if fld w 8 6 = 0 then some (.scanwt (fldBits w 20 6) (fldBits w 14 6)) else none
  | 6 => some (.lcmap (fldBits w 20 6) (fldBits w 14 6) (fldBits w 8 6))
  | _ => none

/-- Opcode 0x3C: WKILL (R51). -/
def decodeScalar3C (w : Nat) : Option Instr :=
  if fld w 0 8 = 0 then some (.wkill (fldBits w 20 6) (fldBits w 14 6) (fldBits w 8 6)) else none

/-- The scalar opcode map (R51): the instruction of opcode `op`, before the checks of field values of R53. -/
def scalarInstr (op w : Nat) : Option Instr :=
  if op = 0x00 then decodeScalar00 w
  else if op = 0x01 then decodeScalar01 w
  else if op = 0x02 then decodeScalar02 w
  else if op = 0x03 then decodeScalar03 w
  else if op = 0x04 then decodeScalar04 w
  else if op = 0x05 then decodeScalar05 w
  else if op = 0x06 then decodeScalar06 w
  else if op = 0x07 then decodeScalar07 w
  else if op = 0x08 then decodeScalar08 w
  else if op = 0x09 then decodeScalar09 w
  else if op = 0x0A then decodeScalar0A w
  else if op = 0x10 then decodeScalar10 w
  else if op = 0x11 then decodeScalar11 w
  else if op = 0x12 then decodeScalar12 w
  else if op = 0x13 then decodeScalar13 w
  else if op = 0x14 then decodeScalar14 w
  else if op = 0x18 then decodeScalar18 w
  else if op = 0x19 then decodeScalar19 w
  else if op = 0x1A then decodeScalar1A w
  else if op = 0x1B then decodeScalar1B w
  else if op = 0x1C then decodeScalar1C w
  else if op = 0x20 then decodeScalar20 w
  else if op = 0x21 then decodeScalar21 w
  else if op = 0x22 then decodeScalar22 w
  else if op = 0x23 then decodeScalar23 w
  else if op = 0x24 then decodeScalar24 w
  else if op = 0x25 then decodeScalar25 w
  else if op = 0x26 then decodeScalar26 w
  else if op = 0x27 then decodeScalar27 w
  else if op = 0x28 then decodeScalar28 w
  else if op = 0x29 then decodeScalar29 w
  else if op = 0x2A then decodeScalar2A w
  else if op = 0x2B then decodeScalar2B w
  else if op = 0x2C then decodeScalar2C w
  else if op = 0x2D then decodeScalar2D w
  else if op = 0x2E then decodeScalar2E w
  else if op = 0x30 then decodeScalar30 w
  else if op = 0x31 then decodeScalar31 w
  else if op = 0x32 then decodeScalar32 w
  else if op = 0x33 then decodeScalar33 w
  else if op = 0x34 then decodeScalar34 w
  else if op = 0x35 then decodeScalar35 w
  else if op = 0x36 then decodeScalar36 w
  else if op = 0x37 then decodeScalar37 w
  else if op = 0x38 then decodeScalar38 w
  else if op = 0x39 then decodeScalar39 w
  else if op = 0x3A then decodeScalar3A w
  else if op = 0x3B then decodeScalar3B w
  else if op = 0x3C then decodeScalar3C w
  else none

/-- The instruction a scalar word names by its opcode in bits [31:26] (R40). -/
def decodeScalarRaw (w : Nat) : Option Instr := scalarInstr (fld w 26 6) w

/-- The instruction a scalar word is (R40, R53); none where the word is not an instruction. -/
def decodeScalar (w : W32) : Option Instr :=
  match decodeScalarRaw w.toNat with
  | some i => if i.wf then some i else none
  | none => none

/-! ## Lane words -/

/-- The fields of a lane word held in three 32-bit words (R43). -/
def laneFields (w0 w1 w2 : Nat) : LaneF where
  la := fldBits w2 20 4
  g := fldBits w2 16 4
  gn := fldBits w2 15 1
  ty := fldBits w2 10 5
  lc := fldBits w2 9 1
  ab := fldBits w2 8 1
  vd := fldBits w2 0 8
  va := fldBits w1 24 8
  vb := fldBits w1 16 8
  ctl := fldBits w1 0 16
  c := fldBits w0 0 32


/-- The lane opcodes 0x00 to 0x0F (R52). -/
def laneInstr0 (lo : Nat) (f : LaneF) : Option Instr :=
  match lo with
  | 0 => some (.vadd f)
  | 1 => some (.vsub f)
  | 2 => some (.vmul f)
  | 3 => some (.vmulh f)
  | 4 => some (.vmad f)
  | 5 => some (.vand f)
  | 6 => some (.vor f)
  | 7 => some (.vxor f)
  | 8 => some (.vshl f)
  | 9 => some (.vshr f)
  | 10 => some (.vsar f)
  | 11 => some (.vmin f)
  | 12 => some (.vmax f)
  | 13 => some (.vabs f)
  | 14 => some (.vcnt f)
  | 15 => some (.vclz f)
  | _ => none

/-- The lane opcodes 0x10 to 0x1F (R52). -/
def laneInstr1 (lo : Nat) (f : LaneF) : Option Instr :=
  match lo with
  | 0 => some (.vbfx f)
  | 1 => some (.vbfi f)
  | 2 => some (.vsel f)
  | 3 => some (.vmov f)
  | 4 => some (.vwid f)
  | _ => none

/-- The lane opcodes 0x40 to 0x4F (R52). -/
def laneInstr4 (lo : Nat) (f : LaneF) : Option Instr :=
  match lo with
  | 0 => some (.vcmp f)
  | 1 => some (.mlog f)
  | 2 => some (.mcnt f)
  | 8 => some (.vbr f)
  | 9 => some (.lend f)
  | _ => none

/-- The lane opcodes 0x50 to 0x5F (R52). -/
def laneInstr5 (lo : Nat) (f : LaneF) : Option Instr :=
  match lo with
  | 0 => some (.vshuf f)
  | 1 => some (.vbcast f)
  | 2 => some (.vvote f)
  | 3 => some (.vrdl f)
  | 4 => some (.vscan f)
  | 5 => some (.vredx f)
  | _ => none

/-- The lane opcodes 0x60 to 0x6F (R52). -/
def laneInstr6 (lo : Nat) (f : LaneF) : Option Instr :=
  match lo with
  | 0 => some (.fadd f)
  | 1 => some (.fsub f)
  | 2 => some (.fmul f)
  | 3 => some (.ffma f)
  | 4 => some (.fmin f)
  | 5 => some (.fmax f)
  | 6 => some (.fdiv f)
  | 7 => some (.fsqrt f)
  | 8 => some (.frcp f)
  | 9 => some (.frsq f)
  | 10 => some (.fexp2 f)
  | 11 => some (.flog2 f)
  | 12 => some (.fcmp f)
  | 13 => some (.fclass f)
  | 14 => some (.fcvt f)
  | 15 => some (.vrot f)
  | _ => none

/-- The lane opcodes 0x70 to 0x7F (R52). -/
def laneInstr7 (lo : Nat) (f : LaneF) : Option Instr :=
  match lo with
  | 8 => some (.dadd f)
  | 9 => some (.dsub f)
  | 10 => some (.dmul f)
  | 11 => some (.dfma f)
  | 12 => some (.dqtz f)
  | 13 => some (.dcmp f)
  | 14 => some (.dcvt f)
  | _ => none

/-- The lane opcodes 0x80 to 0x8F (R52). -/
def laneInstr8 (lo : Nat) (f : LaneF) : Option Instr :=
  match lo with
  | 8 => some (.bqnt f)
  | 9 => some (.bdq f)
  | _ => none

/-- The lane opcodes 0x90 to 0x9F (R52). -/
def laneInstr9 (lo : Nat) (f : LaneF) : Option Instr :=
  match lo with
  | 0 => some (.vld f)
  | 1 => some (.vst f)
  | 2 => some (.vlds f)
  | 3 => some (.vsts f)
  | 4 => some (.vatom f)
  | 5 => some (.vcas f)
  | _ => none

/-- The lane opcodes 0xC0 to 0xCF (R52). -/
def laneInstrC (lo : Nat) (f : LaneF) : Option Instr :=
  match lo with
  | 0 => some (.mma f)
  | 1 => some (.mmaNs f)
  | 2 => some (.scacc f)
  | _ => none

/-- The lane opcodes 0xD0 to 0xDF (R52). -/
def laneInstrD (lo : Nat) (f : LaneF) : Option Instr :=
  match lo with
  | 0 => some (.attb f)
  | 1 => some (.attbResume f)
  | 2 => some (.kapp f)
  | _ => none

/-- The lane opcodes 0xE0 to 0xEF (R52). -/
def laneInstrE (lo : Nat) (f : LaneF) : Option Instr :=
  match lo with
  | 0 => some (.treq f)
  | 1 => some (.vstc f)
  | 2 => some (.vlda f)
  | 3 => some (.vft f)
  | _ => none

/-- The lane opcode map (R52), by the high and the low four bits of the opcode. -/
def laneInstr (hi lo : Nat) (f : LaneF) : Option Instr :=
  match hi with
  | 0 => laneInstr0 lo f
  | 1 => laneInstr1 lo f
  | 4 => laneInstr4 lo f
  | 5 => laneInstr5 lo f
  | 6 => laneInstr6 lo f
  | 7 => laneInstr7 lo f
  | 8 => laneInstr8 lo f
  | 9 => laneInstr9 lo f
  | 12 => laneInstrC lo f
  | 13 => laneInstrD lo f
  | 14 => laneInstrE lo f
  | _ => none

/-- The instruction a lane word is (R43, R53); none where the word is not an instruction. -/
def decodeLane (w0 w1 w2 : W32) : Option Instr :=
  match laneInstr (fld w2.toNat 28 4) (fld w2.toNat 24 4) (laneFields w0.toNat w1.toNat w2.toNat) with
  | some i => if i.wf then some i else none
  | none => none

/-! ## Bytes -/

/-- A little-endian 32-bit word (R3). -/
def word32 (b0 b1 b2 b3 : Byte) : W32 :=
  BitVec.ofNat 32 (b0.toNat + b1.toNat * 2 ^ 8 + b2.toNat * 2 ^ 16 + b3.toNat * 2 ^ 24)

/-- A scalar instruction from its four bytes. -/
def decodeScalarBytes : List Byte → Option Instr
  | [b0, b1, b2, b3] => decodeScalar (word32 b0 b1 b2 b3)
  | _ => none

/-- A lane instruction from its twelve bytes. -/
def decodeLaneBytes : List Byte → Option Instr
  | [b0, b1, b2, b3, b4, b5, b6, b7, b8, b9, b10, b11] =>
    decodeLane (word32 b0 b1 b2 b3) (word32 b4 b5 b6 b7) (word32 b8 b9 b10 b11)
  | _ => none

/-- The decoder on a word numbered as the opcode table numbers it: bit 0 is the least significant bit of the
first word. A scalar row has 32 bits, a lane row 96; no other length is an instruction. -/
def decodeTableWord (nbits w : Nat) : Option Instr :=
  if nbits = 32 then decodeScalar (fldBits w 0 32)
  else if nbits = 96 then decodeLane (fldBits w 0 32) (fldBits w 32 32) (fldBits w 64 32)
  else none

/-! ## Writing words -/

/-- The words of an instruction, first word first; none for a step that has no encoding. -/
def encodeLane (op : Nat) (f : LaneF) : List W32 :=
  [f.c,
   BitVec.ofNat 32 (f.va.toNat * 2 ^ 24 + f.vb.toNat * 2 ^ 16 + f.ctl.toNat),
   BitVec.ofNat 32 (op * 2 ^ 24 + f.la.toNat * 2 ^ 20 + f.g.toNat * 2 ^ 16 + f.gn.toNat * 2 ^ 15 +
     f.ty.toNat * 2 ^ 10 + f.lc.toNat * 2 ^ 9 + f.ab.toNat * 2 ^ 8 + f.vd.toNat)]

/-- A scalar word from its opcode and selector bits, the fields of [25:20], [19:14] and what lies below (R40). -/
def encodeScalar (base d a low : Nat) : Option (List W32) :=
  some [BitVec.ofNat 32 (base + d * 1048576 + a * 16384 + low)]

/-- The words of an instruction, by the tables of R51 and R52; none for a step that has no encoding. -/
def encode : Instr → Option (List W32)
  | .add d a b => encodeScalar 0x00000000 d.toNat a.toNat (b.toNat * 256)
  | .sub d a b => encodeScalar 0x00000001 d.toNat a.toNat (b.toNat * 256)
  | .mul d a b => encodeScalar 0x00000002 d.toNat a.toNat (b.toNat * 256)
  | .mulh d a b => encodeScalar 0x00000003 d.toNat a.toNat (b.toNat * 256)
  | .mulhn d a b => encodeScalar 0x00000004 d.toNat a.toNat (b.toNat * 256)
  | .div d a b => encodeScalar 0x00000005 d.toNat a.toNat (b.toNat * 256)
  | .divn d a b => encodeScalar 0x00000006 d.toNat a.toNat (b.toNat * 256)
  | .rem d a b => encodeScalar 0x00000007 d.toNat a.toNat (b.toNat * 256)
  | .remn d a b => encodeScalar 0x00000008 d.toNat a.toNat (b.toNat * 256)
  | .and d a b => encodeScalar 0x00000010 d.toNat a.toNat (b.toNat * 256)
  | .or d a b => encodeScalar 0x00000011 d.toNat a.toNat (b.toNat * 256)
  | .xor d a b => encodeScalar 0x00000012 d.toNat a.toNat (b.toNat * 256)
  | .shl d a b => encodeScalar 0x00000018 d.toNat a.toNat (b.toNat * 256)
  | .shr d a b => encodeScalar 0x00000019 d.toNat a.toNat (b.toNat * 256)
  | .sar d a b => encodeScalar 0x0000001A d.toNat a.toNat (b.toNat * 256)
  | .min d a b => encodeScalar 0x00000020 d.toNat a.toNat (b.toNat * 256)
  | .max d a b => encodeScalar 0x00000021 d.toNat a.toNat (b.toNat * 256)
  | .minn d a b => encodeScalar 0x00000022 d.toNat a.toNat (b.toNat * 256)
  | .maxn d a b => encodeScalar 0x00000023 d.toNat a.toNat (b.toNat * 256)
  | .setcEq d a b => encodeScalar 0x00000028 d.toNat a.toNat (b.toNat * 256)
  | .setcNe d a b => encodeScalar 0x00000029 d.toNat a.toNat (b.toNat * 256)
  | .setcLt d a b => encodeScalar 0x0000002A d.toNat a.toNat (b.toNat * 256)
  | .setcGe d a b => encodeScalar 0x0000002B d.toNat a.toNat (b.toNat * 256)
  | .setcLtn d a b => encodeScalar 0x0000002C d.toNat a.toNat (b.toNat * 256)
  | .setcGen d a b => encodeScalar 0x0000002D d.toNat a.toNat (b.toNat * 256)
  | .addi d a i => encodeScalar 0x04000000 d.toNat a.toNat i.toNat
  | .andi d a i => encodeScalar 0x08000000 d.toNat a.toNat i.toNat
  | .ori d a i => encodeScalar 0x0C000000 d.toNat a.toNat i.toNat
  | .xori d a i => encodeScalar 0x10000000 d.toNat a.toNat i.toNat
  | .shli d a i => encodeScalar 0x14000000 d.toNat a.toNat i.toNat
  | .shri d a i => encodeScalar 0x18000000 d.toNat a.toNat i.toNat
  | .sari d a i => encodeScalar 0x1C000000 d.toNat a.toNat i.toNat
  | .li d i => encodeScalar 0x20000000 d.toNat 0 i.toNat
  | .lih d i => encodeScalar 0x24000000 d.toNat 0 i.toNat
  | .orl d i => encodeScalar 0x28000000 d.toNat 0 i.toNat
  | .b o => encodeScalar 0x40000000 0 0 o.toNat
  | .call o => encodeScalar 0x48000000 0 0 o.toNat
  | .bcEq a b o => encodeScalar 0x44000000 a.toNat b.toNat o.toNat
  | .bcNe a b o => encodeScalar 0x44000800 a.toNat b.toNat o.toNat
  | .bcLt a b o => encodeScalar 0x44001000 a.toNat b.toNat o.toNat
  | .bcGe a b o => encodeScalar 0x44001800 a.toNat b.toNat o.toNat
  | .bcLtn a b o => encodeScalar 0x44002000 a.toNat b.toNat o.toNat
  | .bcGen a b o => encodeScalar 0x44002800 a.toNat b.toNat o.toNat
  | .bcBs a b o => encodeScalar 0x44003000 a.toNat b.toNat o.toNat
  | .bcBc a b o => encodeScalar 0x44003800 a.toNat b.toNat o.toNat
  | .ret => encodeScalar 0x4C000000 0 0 0
  | .jmpr a => encodeScalar 0x50000000 0 a.toNat 0
  | .sld d b z s o => encodeScalar 0x60000000 d.toNat b.toNat (z.toNat * 4096 + s.toNat * 1024 + o.toNat)
  | .sst d b z s o => encodeScalar 0x64000000 d.toNat b.toNat (z.toNat * 4096 + s.toNat * 1024 + o.toNat)
  | .sldAcq d b z s p o => encodeScalar 0x68000000 d.toNat b.toNat (z.toNat * 4096 + s.toNat * 1024 + p.toNat * 128 + o.toNat)
  | .sstRel d b z s p o => encodeScalar 0x6C000000 d.toNat b.toNat (z.toNat * 4096 + s.toNat * 1024 + p.toNat * 128 + o.toNat)
  | .satom d a b o k p => encodeScalar 0x70000000 d.toNat a.toNat (b.toNat * 256 + o.toNat * 32 + k.toNat * 8 + p.toNat)
  | .lrun i => encodeScalar 0x80000000 0 0 i.toNat
  | .lsync => encodeScalar 0x84000000 0 0 0
  | .barBk d => encodeScalar 0x88000000 d.toNat 0 0
  | .barGg d => encodeScalar 0x88000001 d.toNat 0 0
  | .bareBk d => encodeScalar 0x88000002 d.toNat 0 0
  | .bareGg d => encodeScalar 0x88000003 d.toNat 0 0
  | .binit a b => encodeScalar 0x8C000000 0 a.toNat (b.toNat * 256)
  | .barrive a b => encodeScalar 0x90000000 0 a.toNat (b.toNat * 256)
  | .bwait a => encodeScalar 0x94000000 0 a.toNat 0
  | .bcont a i => encodeScalar 0x98000000 0 a.toNat i.toNat
  | .yieldC a i => encodeScalar 0x9C000000 0 a.toNat i.toNat
  | .copy a c => encodeScalar 0xA0000000 0 a.toNat c.toNat
  | .mloop a => encodeScalar 0xA4000000 0 a.toNat 0
  | .kseqLd s a => encodeScalar 0xA8000000 s.toNat a.toNat 0
  | .kseqSt s a => encodeScalar 0xA8000001 s.toNat a.toNat 0
  | .klenCommit s a => encodeScalar 0xA8000002 s.toNat a.toNat 0
  | .klenReject s => encodeScalar 0xA8000003 s.toNat 0 0
  | .krot s a b => encodeScalar 0xA8000004 s.toNat a.toNat (b.toNat * 256)
  | .kreq s a b => encodeScalar 0xA8000005 s.toNat a.toNat (b.toNat * 256)
  | .ksum s a => encodeScalar 0xA8000006 s.toNat a.toNat 0
  | .pmark n => encodeScalar 0xAC000000 0 0 n.toNat
  | .xmap a b => encodeScalar 0xB0000000 0 a.toNat (b.toNat * 256)
  | .xlook d a b => encodeScalar 0xB0000001 d.toNat a.toNat (b.toNat * 256)
  | .xfill a b => encodeScalar 0xB0000002 0 a.toNat (b.toNat * 256)
  | .xevict a b => encodeScalar 0xB0000003 0 a.toNat (b.toNat * 256)
  | .xflush b => encodeScalar 0xB0000004 0 0 (b.toNat * 256)
  | .xfillX24 a b => encodeScalar 0xB0000005 0 a.toNat (b.toNat * 256)
  | .clk d => encodeScalar 0xB4000000 0 0 (d.toNat * 2097152)
  | .cwait a => encodeScalar 0xB4000001 0 a.toNat 0
  | .ftld a => encodeScalar 0xB8000000 0 a.toNat 0
  | .ftsw => encodeScalar 0xB8000001 0 0 0
  | .srr d r => encodeScalar 0xC0000000 d.toNat 0 r.toNat
  | .srw a r => encodeScalar 0xC4000000 0 a.toNat r.toNat
  | .fence k p => encodeScalar 0xC8000000 0 0 (k.toNat * 8 + p.toNat)
  | .trap n => encodeScalar 0xCC000000 0 0 n.toNat
  | .eret => encodeScalar 0xD0000000 0 0 0
  | .nop => encodeScalar 0xD4000000 0 0 0
  | .launch d a => encodeScalar 0xD8000000 d.toNat a.toNat 0
  | .exit => encodeScalar 0xDC000000 0 0 0
  | .grant d a b => encodeScalar 0xE0000000 d.toNat a.toNat (b.toNat * 256)
  | .gate a b => encodeScalar 0xE4000000 0 a.toNat (b.toNat * 256)
  | .digr d a b => encodeScalar 0xE8000000 d.toNat a.toNat (b.toNat * 256)
  | .errqRead d a b => encodeScalar 0xE8000001 d.toNat a.toNat (b.toNat * 256)
  | .errqRepair d a => encodeScalar 0xE8000002 d.toNat a.toNat 0
  | .errqLog d a b => encodeScalar 0xE8000003 d.toNat a.toNat (b.toNat * 256)
  | .corectlDrain d a => encodeScalar 0xEC000000 d.toNat a.toNat 0
  | .corectlIsolate a => encodeScalar 0xEC000001 0 a.toNat 0
  | .corectlRelease a => encodeScalar 0xEC000002 0 a.toNat 0
  | .scan a b => encodeScalar 0xEC000004 0 a.toNat (b.toNat * 256)
  | .scanwt d a => encodeScalar 0xEC000005 d.toNat a.toNat 0
  | .lcmap d a b => encodeScalar 0xEC000006 d.toNat a.toNat (b.toNat * 256)
  | .wkill d a b => encodeScalar 0xF0000000 d.toNat a.toNat (b.toNat * 256)
  | .vadd f => some (encodeLane 0x00 f)
  | .vsub f => some (encodeLane 0x01 f)
  | .vmul f => some (encodeLane 0x02 f)
  | .vmulh f => some (encodeLane 0x03 f)
  | .vmad f => some (encodeLane 0x04 f)
  | .vand f => some (encodeLane 0x05 f)
  | .vor f => some (encodeLane 0x06 f)
  | .vxor f => some (encodeLane 0x07 f)
  | .vshl f => some (encodeLane 0x08 f)
  | .vshr f => some (encodeLane 0x09 f)
  | .vsar f => some (encodeLane 0x0A f)
  | .vmin f => some (encodeLane 0x0B f)
  | .vmax f => some (encodeLane 0x0C f)
  | .vabs f => some (encodeLane 0x0D f)
  | .vcnt f => some (encodeLane 0x0E f)
  | .vclz f => some (encodeLane 0x0F f)
  | .vbfx f => some (encodeLane 0x10 f)
  | .vbfi f => some (encodeLane 0x11 f)
  | .vsel f => some (encodeLane 0x12 f)
  | .vmov f => some (encodeLane 0x13 f)
  | .vwid f => some (encodeLane 0x14 f)
  | .vcmp f => some (encodeLane 0x40 f)
  | .mlog f => some (encodeLane 0x41 f)
  | .mcnt f => some (encodeLane 0x42 f)
  | .vbr f => some (encodeLane 0x48 f)
  | .lend f => some (encodeLane 0x49 f)
  | .vshuf f => some (encodeLane 0x50 f)
  | .vbcast f => some (encodeLane 0x51 f)
  | .vvote f => some (encodeLane 0x52 f)
  | .vrdl f => some (encodeLane 0x53 f)
  | .vscan f => some (encodeLane 0x54 f)
  | .vredx f => some (encodeLane 0x55 f)
  | .fadd f => some (encodeLane 0x60 f)
  | .fsub f => some (encodeLane 0x61 f)
  | .fmul f => some (encodeLane 0x62 f)
  | .ffma f => some (encodeLane 0x63 f)
  | .fmin f => some (encodeLane 0x64 f)
  | .fmax f => some (encodeLane 0x65 f)
  | .fdiv f => some (encodeLane 0x66 f)
  | .fsqrt f => some (encodeLane 0x67 f)
  | .frcp f => some (encodeLane 0x68 f)
  | .frsq f => some (encodeLane 0x69 f)
  | .fexp2 f => some (encodeLane 0x6A f)
  | .flog2 f => some (encodeLane 0x6B f)
  | .fcmp f => some (encodeLane 0x6C f)
  | .fclass f => some (encodeLane 0x6D f)
  | .fcvt f => some (encodeLane 0x6E f)
  | .vrot f => some (encodeLane 0x6F f)
  | .vft f => some (encodeLane 0xE3 f)
  | .dadd f => some (encodeLane 0x78 f)
  | .dsub f => some (encodeLane 0x79 f)
  | .dmul f => some (encodeLane 0x7A f)
  | .dfma f => some (encodeLane 0x7B f)
  | .dqtz f => some (encodeLane 0x7C f)
  | .dcmp f => some (encodeLane 0x7D f)
  | .dcvt f => some (encodeLane 0x7E f)
  | .bqnt f => some (encodeLane 0x88 f)
  | .bdq f => some (encodeLane 0x89 f)
  | .vld f => some (encodeLane 0x90 f)
  | .vst f => some (encodeLane 0x91 f)
  | .vlds f => some (encodeLane 0x92 f)
  | .vsts f => some (encodeLane 0x93 f)
  | .vatom f => some (encodeLane 0x94 f)
  | .vcas f => some (encodeLane 0x95 f)
  | .mma f => some (encodeLane 0xC0 f)
  | .mmaNs f => some (encodeLane 0xC1 f)
  | .scacc f => some (encodeLane 0xC2 f)
  | .attb f => some (encodeLane 0xD0 f)
  | .attbResume f => some (encodeLane 0xD1 f)
  | .kapp f => some (encodeLane 0xD2 f)
  | .treq f => some (encodeLane 0xE0 f)
  | .vstc f => some (encodeLane 0xE1 f)
  | .vlda f => some (encodeLane 0xE2 f)
  | .laneBlockStart _ => none
  | .pathReconvergence _ _ => none
  | .laneLongCompletion _ _ _ => none
  | .streamUrgent _ _ => none
  | .faultDelivery _ => none
  | .parkReplay _ _ => none
  | .warpWake _ => none
  | .continuationSpawn _ _ _ => none
  | .registerMiss _ _ => none
  | .mirrorCompare _ _ _ _ => none
  | .chainCardRead _ _ => none
  | .copyJobStart _ => none
  | .copyChunk _ => none
  | .copyJobFinish _ => none
  | .ringReport _ => none
  | .poisonReport _ => none
  | .mloopStep _ => none
  | .energyRefill _ => none
  | .attbReissue _ _ => none
  | .timetableEntryStart _ _ => none
  | .pageMove _ _ _ => none
  | .syncSend _ _ => none
  | .syncReceive _ _ => none
  | .stampedCommit _ => none
  | .dieWide _ => none
  | .linkFlitSend _ => none
  | .linkFlitReceive _ _ _ => none
  | .linkReplay _ => none
  | .linkRetrain _ => none
  | .retrainComplete _ _ _ => none
  | .linkDeadTimeout _ => none
  | .advanceReceive _ => none
  | .routeRecompute _ _ => none
  | .packetForward _ => none
  | .packetReceive _ => none
  | .requestPerform _ => none
  | .e2eAckReceive _ => none
  | .e2eReplayTimeout _ _ => none
  | .gatePass _ _ => none
  | .errorBankUpdate _ _ _ _ _ => none
  | .scanComplete _ _ _ => none
  | .scanAbort _ => none
  | .hostProducerWrite _ _ => none
  | .hostRegisterWrite _ _ => none
  | .hostReservedAccess _ _ _ => none
  | .hostWindowAccess _ _ _ _ => none
  | .hostQueueAccept _ => none
  | .deviceQueueAccept => none
  | .pennantRetest _ => none
  | .graphAccept _ => none
  | .graphNodeAccept _ _ => none
  | .blockAdmission _ _ => none
  | .agePromotion _ => none
  | .preemptStart _ => none
  | .rung2Stop _ => none
  | .blockSave _ => none
  | .forcedReset _ => none
  | .blockResume _ _ => none
  | .launchCompletion _ => none
  | .completionRingWrite _ => none
  | .powerOnBringUp _ => none
  | .setting => none
  | .queue => none
  | .contextCreate => none
  | .contextDestroy => none
  | .window => none
  | .framePool => none
  | .tagStore => none
  | .tagRegister => none
  | .debug => none
  | .poisonRing => none
  | .fuseAdvance => none
  | .stateSummary _ => none
  | .attest _ => none
  | .reset _ => none
  | .thermalThrottle _ => none
  | .thermalRecover _ => none
  | .thermalShutdown => none
  | .illegalOp _ _ _ _ _ => none
  | .badCommand _ => none
  | .cwaitReturn _ => none
  | .asOfWaitEnd _ _ _ => none

/-- The decoder on the words the encoder writes. -/
def decodeWords : List W32 → Option Instr
  | [w] => decodeScalar w
  | [w0, w1, w2] => decodeLane w0 w1 w2
  | _ => none

end Sys2Proof
end

