-- ==== Sys2Proof/Config.lean ====
section
/-! DEFINITION. The order in which the device's agents move, and the values the manual leaves open (free values). -/

namespace Sys2Proof

/-- Who takes the next step: a warp's scalar stream, a path of its lane stream, one of its mirror's two streams,
or a step of an engine. -/
inductive Mover where
  | scalar (w : Nat)
  | lane (w p : Nat)
  | mirror (w : Nat) (lane : Bool)
  | event (i : Instr)
  deriving DecidableEq, Repr, Inhabited

/-- One turn: the nanoseconds that pass on the oscillator of each of the six dies before it, and who moves. -/
structure Turn where
  ticks : List Nat
  mover : Mover
  deriving DecidableEq, Repr, Inhabited

namespace Config

/-- DESIGN CHOICE (log 1): the turn taken when the state lists none. A free value: nothing constrains it. -/
opaque freeTurn : Nat → Turn

/-- DEDUCED (log 6): how many further blocks an ATTB visits before it is interrupted, a free value. -/
opaque freeVisits : Nat → Nat

/-- UNVERIFIED (log 8): a byte that the manual does not give, a free value. -/
opaque freeByte : Nat → Byte

/-- DESIGN CHOICE (log 16): a word the manual gives no value for: the backing address of a page that never had one, the
context of a request that came over the fabric. A free value. -/
opaque freeWord : Nat → W64

/-- DESIGN CHOICE (log 16): the HBM stack, 0 to 11 over the four dies, that holds a sector of physical memory. The manual
gives no rule for it. A free value. -/
opaque freeStack : Nat → Nat

/-- DESIGN CHOICE (log 25): where a backing lies that no move has used: 0 in host memory, l + 1 in peer memory over link l, another
number nowhere. The manual gives no map of backing addresses. A free value of the address. -/
opaque backingPlace : Nat → Nat

/-- DESIGN CHOICE (log 20): whether the walker gives the old of two values of an 8-byte unit, the one it holds and the one in
memory. R244 allows either. A free value of a counter and the unit's number. -/
opaque walkOld : Nat → Nat → Bool

/-- UNVERIFIED (log 8): the bytes of this device's image digests, of the seed of its identity key and of its expected scan
signatures, which the manual does not give. A free value. -/
opaque identityByte : Nat → Byte

end Config

end Sys2Proof
end

