-- ==== Sys2Proof/Machine/State.lean ====
section
/-! DEFINITION. Every piece of state the manual gives the AE-7160, as plain data, and the state after reset. -/

namespace Sys2Proof.Machine

/-- The reasons the machine stops with a fault. Every condition the manual calls a fault is a fault of a warp,
whose entry R188 describes, or a status of a job or launch; so none of them stops the machine. -/
inductive Fault where
  /-- Raised by no step: the machine itself never stops. Safe. -/
  | none
  deriving DecidableEq, Repr, Inhabited

/-- The reasons the model refuses an instruction. -/
inductive Refusal where
  /-- Raised by the arm of an instruction that has no meaning yet. Safe: nothing is concluded of it. -/
  | notModelled (mnemonic : String)
  deriving DecidableEq, Repr, Inhabited

/-! ## Warps -/

/-- A register write held until a long instruction completes (R49, R138). -/
structure RegW where
  reg : Nat
  lane : Nat
  val : W32
  deriving DecidableEq, Repr, Inhabited

/-- A mask write held until a long instruction completes: the lanes written and their bits (R81). -/
structure MaskW where
  mask : Nat
  lanes : W32
  bits : W32
  deriving DecidableEq, Repr, Inhabited

/-- A lane whose sectors were poisoned when a load read them; it is read again after repair (R143). -/
structure Reread where
  lane : Nat
  va : W64
  bytes : Nat
  vd : Nat
  sx : Bool
  deriving DecidableEq, Repr, Inhabited

/-- One read-modify-write (R65, R144, R145): `op` 0 swap, 1 add, 2 and, 3 or, 4 xor, 5 max, 6 min, 7 cas;
`ty` the type code of R46. -/
structure Rmw where
  op : Nat
  ty : Nat
  b : W64
  cmp : W64
  deriving DecidableEq, Repr, Inhabited

/-- A lane of an atomic that still has to pass an order gate (R352); `ret` names the register of its old value. -/
structure GateLane where
  lane : Nat
  va : W64
  rmw : Rmw
  ret : Option Nat
  deriving DecidableEq, Repr, Inhabited

/-- A queued stamped store (R303); `num` is the number of its VSTC among the lane instructions of its warp (R191). -/
structure Stamped where
  launch : Nat
  block : Nat
  widx : Nat
  ctx : Nat
  va : W64
  pa : Nat
  data : W64
  stamp : W64
  id : Nat
  num : Nat
  deriving DecidableEq, Repr, Inhabited

/-- A VLDA that waits until the die's E passes t + $ILIM (R305). -/
structure AsOf where
  t : W64
  lanes : List (Nat × W64)
  vd : Nat
  mask : Nat
  deriving DecidableEq, Repr, Inhabited

/-- Why a stream is parked (R141, R143, R284). -/
inductive ParkKind where
  | residency
  | poison
  | schedule
  deriving DecidableEq, Repr, Inhabited

/-- A park: what it waits for, as the addresses of the accesses that met it, lowest lane first; for a schedule miss,
the entries' numbers. `rmw` records the kind of access (R76). -/
structure Park where
  kind : ParkKind
  addrs : List W64
  access : Nat
  deriving DecidableEq, Repr, Inhabited

/-- What an ATTB writes when it ends (R264, R266): the state group and s56 to s61. -/
structure AttbEnd where
  writes : List RegW
  results : List W64
  deriving DecidableEq, Repr, Inhabited

/-- An ATTB in progress (R264 to R267): what its end writes, with the park it then takes if a block it came to was not
resident or poisoned; the units that each further 64 visits charge, how many such charges its visits need and how many have
been made; what it writes if it is interrupted at the block boundary before each of them; what it writes if it is interrupted
at a boundary that nothing fixes (log 6), with the charges made by then; and those of s56 to s61 that a later instruction of
its path has written (R31). -/
structure AttbWork where
  full : AttbEnd
  park : Option Park
  units : Nat
  need : Nat
  paid : Nat
  bounds : List AttbEnd
  cut : Option (AttbEnd × Nat)
  la : Nat
  lost : List Nat
  reads : List W32
  deriving DecidableEq, Repr, Inhabited

/-- An outstanding long lane instruction (R49): what is left of its lookahead, its destination set, and the
writes that its completion makes; `stamps` are stamped stores that wait for room in the commit queue (R305), `num` is its
number among the lane instructions that its warp has issued (R37). -/
structure Outst where
  left : Nat
  regs : List Nat
  masks : List Nat
  writes : List RegW
  maskWrites : List MaskW
  rereads : List Reread
  gates : List GateLane
  asOf : Option AsOf
  stamps : List Stamped
  attb : Option AttbWork
  num : Nat
  deriving DecidableEq, Repr, Inhabited

/-- Accesses of one instruction that left the device (R139): requests sent and not answered, answers, refusals; and the
atomics on gated lines of other devices: those still to be sent, and the one that passes the gate (R352); `kept` is the bank
record that ERRQ.read has taken and sent (R357). -/
structure IoWait where
  reqs : List (Nat × Nat × W64)
  answers : List (Nat × List Byte)
  refused : List (Nat × W64)
  gated : List GateLane
  passing : Option GateLane
  kept : List Byte
  deriving DecidableEq, Repr, Inhabited

/-- What acceptance has read with a launch record (R324): the record, its pennant block, its region descriptors, its graph
table and the code of its refusal; for a record that LAUNCH has read also its launch number (R329), its pennants with those that
have passed (R326), and whether a forced reset has taken its context meanwhile (R199). -/
structure Taken where
  bytes : List Byte
  pennants : List Byte
  regions : List Byte
  graph : List Byte
  refused : Option Nat
  num : Nat
  waits : List (W64 × W64 × Bool)
  forced : Bool
  deriving DecidableEq, Repr, Inhabited

/-- A sequence slot (R238, R239), with the units of the radix tree that its walker holds (R244). -/
structure Seq where
  loaded : Bool
  owner : Nat
  home : W64
  ctx : Nat
  root : W64
  c : W32
  t : W32
  bslog : Nat
  kfmt : Nat
  vfmt : Nat
  d : Nat
  gen : W32
  freq : W64
  cache : List (Nat × W64)
  deriving DecidableEq, Repr, Inhabited

/-- A path record (R29, R32): `rpc = none` is the reconvergence PC END. `cont` and `visits` are the continuation
bit K and the count w of R267; `retWait` marks a path that has come to an instruction that writes a return register
and waits (R82); `last` is the lane PC of the instruction before (R54). `reserved` is the slot and the first position of a KAPP that
has reserved its rows and waits for a busy frame, and `targets` the slot and the places of its rows (lane, frame, value block, row) as the reservation fixed them (R250); `lost` those of s56 to s61 that an interrupted ATTB no longer writes
(R31). -/
structure Path where
  live : Bool
  mask : W32
  pc : Nat
  rpc : Option Nat
  outs : List Outst
  cont : Bool
  visits : Nat
  park : Option Park
  io : Option IoWait
  retWait : Bool
  last : Nat
  reserved : Option (Nat × Nat)
  targets : Option (Seq × List (Nat × Nat × W64 × Nat))
  lost : List Nat
  deriving DecidableEq, Repr, Inhabited

/-- An entry of the divergence stack (R32); `from_` is the lane PC of the VBR that made it (R54). -/
structure StackEntry where
  isJoin : Bool
  mask : W32
  pc : Nat
  rpc : Option Nat
  arrived : W32
  from_ : Nat
  deriving DecidableEq, Repr, Inhabited

/-- A queued lane block (R30). -/
structure LaneBlock where
  pc : Nat
  args : List W64
  deriving DecidableEq, Repr, Inhabited

/-- What a warp's scalar stream waits for (R38, R63, R73, R182, R284, R304, R318, R352). -/
inductive ScalarWait where
  | none
  | bwait (object : Nat)
  | yield (object : Nat) (label : W64)
  | barrier (gang : Bool) (sd : Nat)
  | barrierDone (sd : Nat) (status : W64)
  | cwait (t : W64)
  | parked (p : Park)
  | io (w : IoWait)
  | gate (g : GateLane)
  | gated (old : W64)
  | mloop (job : Nat)
  | grant (entry at_ : Nat)
  | launch (t : Taken)
  deriving DecidableEq, Repr, Inhabited

/-- The fault report registers (R75, R76, R189). -/
structure Report where
  fault : W64
  faddr : W64
  fspc : W64
  flpc : W64
  fw0 : W32
  fw1 : W32
  fw2 : W32
  deriving DecidableEq, Repr, Inhabited

/-- A fault detected and not yet delivered (R188). `retry = false` for TRAP and SSTEP. `sstep` marks SSTEP. -/
structure Pending where
  code : Nat
  rep : Report
  sstep : Bool
  deriving DecidableEq, Repr, Inhabited

/-- An entry of a pair's value queue (R342): the stream and the number of the leader's instruction that pushed it, and the
words of the value once it has arrived. -/
structure ValueEntry where
  lane : Bool
  num : Nat
  value : Option (List W32)
  deriving DecidableEq, Repr, Inhabited

/-- A mirror warp as its leader sees it (R37, R341, R342): for each stream, the number of values pushed and the energy
units charged by each instruction the leader has issued and the mirror has not, oldest first; the effect held at the
comparator: that of path 0 or 1, of the scalar stream (2), or a fault to be delivered (3), and whether it has passed; the
value queue, oldest entry first; and since when each stream of the mirror has been ready (R36). -/
structure Mirror where
  lagS : List (Nat × Nat)
  lagL : List (Nat × Nat)
  held : Option Nat
  passed : Bool
  queue : List ValueEntry
  readyS : Option Nat
  readyL : Option Nat
  owed : Nat
  deriving DecidableEq, Repr, Inhabited

/-- A warp (R29, R198). `issuedS` and `issuedL` count the instructions that its streams have issued (R37); `savedLive` is
the live mask of the record that its absent registers are fetched from, `missed` those that an instruction has named (R201); `link` is s62 as it was before a CALL whose target
has not been fetched yet (R54, R57), `kvDone` the slot of a KROT, KREQ or KSUM that waits for a busy block and how many blocks it
has done (R253), `startL` the lane instructions issued before the running lane block (R191), `loopWord` the word of the MLOOP whose card is saved with the warp (R189). -/
structure Warp where
  launch : Nat
  block : Nat
  widx : Nat
  slot : Nat
  s : Sparse 64
  v : Sparse 32
  m : Sparse 32
  absent : List Nat
  missed : List Nat
  saveArea : W64
  savedLive : Nat
  pc : W64
  lastPc : W64
  wait : ScalarWait
  savedWait : ScalarWait
  woken : Bool
  path0 : Path
  path1 : Path
  lastPath : Nat
  stack : List StackEntry
  queue : List LaneBlock
  running : Option LaneBlock
  fpflags : W64
  fptraps : W64
  dflags : W64
  dtraps : W64
  rep : Report
  handler : Bool
  pend : Option Pending
  sstep : Bool
  freeze : Bool
  held : List (Nat × Nat)
  mirror : Option Mirror
  readyS : Option Nat
  readyL : Option Nat
  urgentS : Bool
  urgentL : Bool
  stopped : Bool
  issuedS : Nat
  issuedL : Nat
  link : Option W64
  kvDone : Option (Nat × Nat)
  startL : Nat
  loopWord : W32
  deriving DecidableEq, Repr, Inhabited

/-! ## Blocks -/

/-- A region descriptor (R148): mode 0 UNMAPPED, 1 PLAIN, 2 CACHE, 3 WINDOW. -/
structure Region where
  base : Nat
  len : Nat
  mode : Nat
  line : Nat
  ways : Nat
  gbase : W64
  deriving DecidableEq, Repr, Inhabited

/-- The state of a CACHE slot or a WINDOW line (R149). -/
structure LineState where
  valid : Bool
  dirty : Bool
  tag : W64
  deriving DecidableEq, Repr, Inhabited

/-- A copy channel (R206): its state and head; the next field of the last card entered (R216); a read of the next card that
has left the device, or waits for a page; and whether a COPY of h = 0 has come since that read was sent. -/
structure Chan where
  walking : Bool
  head : W64
  io : Option IoWait
  park : Option Park
  lastNext : W64
  again : Bool
  deriving DecidableEq, Repr, Inhabited

/-- An arrival at a barrier episode (R182): block within gang, warp index, and whether by BARE. -/
structure Arrival where
  gblock : Nat
  widx : Nat
  bare : Bool
  deriving DecidableEq, Repr, Inhabited

/-- A pending continuation (R180). `ready` marks one whose object has completed. -/
structure Cont where
  args : List W64
  label : W64
  object : Nat
  widx : Nat
  ready : Bool
  deriving DecidableEq, Repr, Inhabited

/-- A resident block (R25). `index` is its logical index, `gblock` its number within its gang; `unsavable` marks one whose
save area has failed its checks (R195), `damaged` lists the 32-byte units of its scratchpad that hold an uncorrectable
error (R143). -/
structure Block where
  launch : Nat
  index : W64
  gblock : Nat
  gang : W64
  lcore : Nat
  pcore : Nat
  scratch : Memory
  regions : KMap Region
  lines : KMap LineState
  chans : KMap Chan
  armed : List Nat
  episode : List Arrival
  abandoned : Bool
  completed : Bool
  conts : List Cont
  exited : List Nat
  killed : List (Nat × Nat × W64)
  digest : Sparse 64
  terms : Sparse 64
  redrawn : Bool
  unsavable : Bool
  damaged : List Nat
  deriving DecidableEq, Repr, Inhabited

/-! ## Launches -/

/-- A launch record (R323), its counts decoded from the last identifier. -/
structure LaunchRec where
  entry : W64
  sbase : W64
  lbase : W64
  sbytes : Nat
  lbytes : Nat
  counts : List Nat
  widths : List Nat
  vregs : Nat
  cls : Nat
  priv : Bool
  graph : Bool
  digc : Bool
  scratch : Nat
  mode : W32
  seed : W64
  refDigest : W64
  args : W64
  pennants : W64
  regions : W64
  timetable : W64
  entries : Nat
  fptraps : Nat
  dtraps : Nat
  handler : Nat
  save : W64
  completion : W64
  deriving DecidableEq, Repr, Inhabited

/-- The state of a timetable entry as the tier engine keeps it (R282, R283): its bytes as read when it started, its die,
the pages done, and how it is to end while its status page is not resident. -/
structure EntryState where
  started : Bool
  bytes : List Byte
  die : Nat
  page : Nat
  skipped : Nat
  retries : Nat
  poisoned : Bool
  closing : Option (Nat × Nat)
  ended : Bool
  missed : Bool
  deriving DecidableEq, Repr, Inhabited

/-- An order gate slot (R350 to R353). `wid`, `run` are the open chunk of a recording or the head chunk of a replay. -/
structure Gate where
  line : W64
  desc : W64
  log : W64
  cap : Nat
  used : Nat
  interval : Nat
  chunks : Nat
  hash : W64
  wid : Nat
  run : Nat
  open_ : Bool
  live : Bool
  deriving DecidableEq, Repr, Inhabited

/-- A saved block of a pre-empted launch (R197, R200): where its record stands, the block and its warps as they were, from
which resumption takes what the record has no field for (log 17), and the warps killed since (R359). -/
structure Saved where
  key : Nat
  addr : W64
  len : Nat
  block : Block
  warps : List (Nat × Warp)
  kills : List Nat
  deriving DecidableEq, Repr, Inhabited

/-- The counters and first-event fields of a completion record (R330). -/
structure Tally where
  killedCode : Nat
  killedWid : W64
  killedPc : W64
  copyCard : Option W64
  copyCode : Nat
  copyCause : Nat
  copyMore : Nat
  unplanned : Nat
  misses : Nat
  retries : Nat
  poisoned : Nat
  erroring : Nat
  untagged : Nat
  killedWarps : Nat
  preempts : Nat
  nondet : Bool
  diverged : Bool
  forced : Bool
  digest : W64
  deriving DecidableEq, Repr, Inhabited

/-- Who sent a launch: a host queue, or LAUNCH. -/
inductive Source where
  | host (q : Nat)
  | device
  | node (graph node : Nat)
  deriving DecidableEq, Repr, Inhabited

/-- An accepted launch (R323 to R338). `placed` counts the tasks already placed, `done` the tasks completed. `written` is 0, or 1
while the completion record is under way to another device, or 2 once that device has acknowledged it (R327). -/
structure Launch where
  record : LaunchRec
  ctx : Nat
  source : Source
  cls : Nat
  effective : Nat
  waits : List (W64 × W64 × Bool)
  raises : List (W64 × Bool × W64)
  regions : List Region
  admissibleAt : Option Nat
  movedAt : Nat
  order : Nat
  admitted : Nat
  placed : Nat
  done : Nat
  marker : Nat
  entries : KMap EntryState
  home : Option Nat
  gates : KMap Gate
  gangs : KMap (List Arrival)
  saved : List Saved
  saveNext : Nat
  map : List Nat
  tally : Tally
  digests : List (Nat × W64)
  refused : Option Nat
  capW : Nat
  ilim : Nat
  d1 : Nat
  d2 : Nat
  preCls : Nat
  ages : List Nat
  minWidth : Nat
  complete : Bool
  written : Nat
  deriving DecidableEq, Repr, Inhabited

/-- A record in the device launch queue, with what was read with it (R73, R324, R329). -/
structure QueuedRec where
  taken : Taken
  num : Nat
  ctx : Nat
  priv : Bool
  deriving DecidableEq, Repr, Inhabited

/-- The state of a graph node (R334): 0 waiting, 1 accepted, 2 completed, 3 cancelled. -/
structure GNode where
  state : Nat
  launch : Nat
  status : Nat
  code : Nat
  deriving DecidableEq, Repr, Inhabited

/-- A graph in an instance slot, or waiting for one (R333, R334); `image` is its table, header and nodes, as acceptance read it
(R324). -/
structure Graph where
  launch : Nat
  table : W64
  image : List Byte
  area : W64
  nodes : Nat
  slots : Nat
  slot : Option Nat
  states : KMap GNode
  priv : Bool
  deriving DecidableEq, Repr, Inhabited

/-- A safe point: its stream, its offset from the code base, its live-register mask (R193, R381). -/
structure SafePoint where
  lane : Bool
  pc : Nat
  live : Nat
  deriving DecidableEq, Repr, Inhabited

/-- A pre-emption of one launch on one core for another launch: its rung, the count of the core's die when the rung began,
and from rung 2 on the victim's safe points (R195, R338, R382). -/
structure Preempt where
  victim : Nat
  core : Nat
  rung : Nat
  since : Nat
  by_ : Nat
  safe : List SafePoint
  deriving DecidableEq, Repr, Inhabited

/-- A completion record waiting for its slot of the completion ring (R330), and the raises that follow it (R327): address,
whether it adds, value; `written` as in its launch. -/
structure RingRec where
  ctx : Nat
  bytes : List Byte
  raises : List (W64 × Bool × W64)
  written : Nat
  deriving DecidableEq, Repr, Inhabited

/-- A host queue control block (R328). -/
structure HostQueue where
  base : W64
  size : Nat
  cls : Nat
  priv : Bool
  enable : Bool
  ctx : Nat
  producer : W32
  consumer : W32
  ring : W64
  completed : Nat
  pending : List RingRec
  deriving DecidableEq, Repr, Inhabited

/-! ## Jobs of the copy and matrix engines -/

/-- An identity of a link as advance flits carry it (R312): device, I/O die, link number. -/
structure LinkId where
  device : Nat
  io : Nat
  link : Nat
  deriving DecidableEq, Repr, Inhabited

/-- A page's translation that a chunk pins (R217): the page, where it stands, and its entry. -/
structure Pin where
  va : W64
  base : Nat
  pte : W64
  deriving DecidableEq, Repr, Inhabited

/-- A copy or MLOOP job (R208, R210, R228, R229). `card` is its 64 bytes as read; `entry` is the index read for the chunk
under way; `sent` are the writes that targets have not acknowledged: request, first byte of their chunk, address; `kept` are the
pins of the chunks that such writes belong to (R217); `advSeen` are the routing versions that the job has counted the adoption of, less those long past (R215). -/
structure Job where
  block : Nat
  launch : Nat
  warp : Nat
  mloop : Bool
  chan : Nat
  addr : W64
  card : List Byte
  edges : List Nat
  started : Bool
  pos : Nat
  source : W64
  entry : Option Nat
  pin : List Pin
  sent : List (Nat × Nat × W64)
  kept : List (Nat × List Pin)
  park : Option Park
  io : Option IoWait
  err : Option (Nat × Nat × W64)
  finished : Bool
  stage : Nat
  ringSlot : Nat
  version : Nat
  replays : Nat
  retrains : Nat
  advances : Nat
  advSeen : List Nat
  traps : W64
  flags : Nat
  z : Bool
  word0 : W32
  deriving DecidableEq, Repr, Inhabited

/-! ## Cores -/

/-- The state of a core (R360). -/
inductive CoreState where
  | active
  | draining
  | isolated
  | scanning
  deriving DecidableEq, Repr, Inhabited

/-- A physical core: function table (R122), sequence slots (R238), state and scan (R360, R362); `lastLane` gives for each
partition the warp, or with `true` the mirror, that issued the last lane instruction (R36). -/
structure Core where
  bank0 : Sparse 32
  bank1 : Sparse 32
  activeBank : Nat
  pending : Bool
  owner : Nat
  slots : KMap Seq
  state : CoreState
  scanned : Bool
  aborted : Bool
  signalled : Bool
  scanEnd : Nat
  scanBuf : W64
  scanCtx : Nat
  lastLane : KMap (Nat × Bool)
  deriving DecidableEq, Repr, Inhabited

/-! ## Dies -/

/-- A violation record (R16). -/
structure VioRec where
  addr : W64
  device : Nat
  kind : Nat
  code : Nat
  ctx : W32
  origin : W32
  access : Nat
  len : Nat
  time : W64
  deriving DecidableEq, Repr, Inhabited

/-- The two ends of one synchronisation partner (R298, R299): the next sequence number and when it is due, the messages
sent with their counts, the last message received with its count. -/
structure SyncEnd where
  next : BitVec 16
  due : Nat
  sent : List (Nat × Nat)
  last : Option (Nat × Nat)
  deriving DecidableEq, Repr, Inhabited

/-- A die: stamp unit (R296 to R303), violation log (R16), frame pools and tags (R279), energy (R234), heat (R394): `hot` above
95 °C, `warm` not yet below 90 °C after a shutdown; `narrows` the last two narrowings, newest first, as count, E and L (R297);
`signals` the counts at which the class signals on their way to it were sent (R338, R369). Dies 4 and 5 are IO0 and IO1. -/
structure Die where
  count : Nat
  e0 : Nat
  l0 : Nat
  c0 : Nat
  queue : List Stamped
  wide : Bool
  sync : KMap SyncEnd
  inbox : List (Nat × SyncMsg)
  log : List VioRec
  logOver : Nat
  pool0 : List W64
  pool1 : List W64
  tagBase : W64
  tagLen : Nat
  tags : List (W64 × List W32)
  frames : List W64
  energy : KMap Nat
  refillAt : Nat
  hot : Bool
  released : Bool
  warm : Bool
  narrows : List (Nat × Nat × Nat)
  signals : List Nat
  deriving DecidableEq, Repr, Inhabited

/-- Where the backing of a page stands (R281), and in which memory: `place` 0 is the host's, l + 1 the peer's over link l (R275).
`dropped` marks a page that DROP left in tier 1 with the address of its backing. -/
structure Backing where
  ctx : Nat
  va : W64
  addr : W64
  dropped : Bool
  place : Nat
  deriving DecidableEq, Repr, Inhabited

/-- A page move the tier engine has taken on (R286, R292); `act` is the action of R280, `io` its requests to the peer whose
memory holds the backing (R275). -/
structure Move where
  ctx : Nat
  va : W64
  tier : Nat
  act : Nat
  die : Nat
  launch : Nat
  entry : Option Nat
  marked : Bool
  pte : W64
  io : Option IoWait
  deriving DecidableEq, Repr, Inhabited

/-- A poison report waiting for a slot of the ring (R358). -/
structure PoisonRep where
  kind : Nat
  die : Nat
  launch : Nat
  sector : W64
  requester : W64
  slot : Option Nat
  banked : Bool
  refused : Bool
  deriving DecidableEq, Repr, Inhabited

/-- An error bank record (R355). -/
structure Bank where
  severity : Nat
  ovf : Bool
  syndrome : Nat
  ce : Nat
  ue : Nat
  addr : W64
  time : W64
  deriving DecidableEq, Repr, Inhabited

/-! ## Fabric -/

/-- A packet (R309); `bad` marks one whose header breaks the layout, `via` the link it came over, `req` the request of this
device that it carries, `raw` the bytes of one that came over a link, `more` the lanes of its instruction that follow it on the
same location (R144; no bit of the header holds it, so it is 0 in one that came over a link: log 27). -/
structure Packet where
  dst : Nat
  ver : Nat
  src : Nat
  op : Nat
  len : Nat
  addr : W64
  sseq : Nat
  rseq : Nat
  key : W64
  operand : W64
  compare : W64
  aop : Nat
  code : Nat
  size : Nat
  data : List Byte
  bad : Bool
  via : Nat
  req : Nat
  raw : List Byte
  more : Nat
  deriving DecidableEq, Repr, Inhabited

/-- A flit (R308) without its CRC: type, sequence number and payload; `req` as in its packet. -/
structure Flit where
  ty : Nat
  seq : Nat
  payload : List Byte
  req : Nat
  deriving DecidableEq, Repr, Inhabited

/-- A link (R310, R311): `lane` is the lowest lane of the group it runs on, `wire` the flit it sent last (R308). -/
structure Link where
  next : Nat
  retry : List Flit
  sendq : List Flit
  expected : Nat
  discarding : Bool
  nakDue : Bool
  ackDue : Bool
  backoff : Nat
  resendAt : Option Nat
  resend : List Flit
  width : Nat
  lane : Nat
  wire : List Byte
  dead : Bool
  retraining : Bool
  failures : Nat
  retrains : Nat
  lastAccept : Nat
  rx : List Byte
  rxLeft : Nat
  deriving DecidableEq, Repr, Inhabited

/-- A router and the source and destination sides of its I/O die (R312 to R315); `waiting` are packets whose injection the
full source retry buffer stalls (R314). -/
structure Router where
  version : Nat
  dead : List LinkId
  table : KMap Nat
  recomputing : Bool
  inq : List Packet
  rxq : List Packet
  advq : List (Nat × LinkId)
  waiting : List Packet
  deriving DecidableEq, Repr, Inhabited

/-- Who waits for the answer of a request; `flush` is a block's write-backs, `engine` a read of the launch engine or a tier
engine, `replay` a warp's saved stores replayed on its new core (R171), `move` a page move, `record` and `ring` the completion
record of a launch or of a host queue (R327), `scan` the signature of a core's scan (R368). -/
inductive Asker where
  | scalar (w : Nat)
  | lane (w p : Nat)
  | job (j : Nat)
  | chan (block ch : Nat)
  | flush (block : Nat)
  | engine
  | replay (block widx : Nat)
  | move (key : Nat)
  | record (launch : Nat)
  | ring (queue : Nat)
  | scan (core : Nat)
  | none
  deriving DecidableEq, Repr, Inhabited

/-- An unacknowledged packet of a source stream (R314); `fresh` marks one that no link has taken yet (R215). -/
structure Unacked where
  pkt : Packet
  sentAt : Nat
  fresh : Bool
  deriving DecidableEq, Repr, Inhabited

/-- A source stream (R314). -/
structure OutStream where
  next : Nat
  unacked : List Unacked
  deriving DecidableEq, Repr, Inhabited

/-- An import table entry (R317). -/
structure Import where
  base : W64
  len : Nat
  key : W64
  ctx : Nat
  valid : Bool
  r : Bool
  w : Bool
  a : Bool
  deriving DecidableEq, Repr, Inhabited

/-- A destination stream (R315); `checked` is the index and the entry that the request at its base has been checked under,
while it waits on residency or poison, and `since` the request number at that check (R316, R318). -/
structure InStream where
  base : Nat
  held : List Packet
  checked : Option (Nat × Import)
  since : Nat
  deriving DecidableEq, Repr, Inhabited

/-- A request of this device awaiting its answer and its acknowledgement (R139, R314). -/
structure Request where
  asker : Asker
  dst : Nat
  sseq : Nat
  va : W64
  lane : Nat
  part : Nat
  launch : Nat
  answered : Bool
  acked : Bool
  deriving DecidableEq, Repr, Inhabited

/-- A unit on another device that the launch engine or a tier engine reads: for whom, and what the target gave: nothing yet,
a refusal, or its bytes. -/
structure FarRead where
  owner : Nat
  ctx : Nat
  va : W64
  req : Nat
  got : Option (Option (List Byte))
  deriving DecidableEq, Repr, Inhabited

/-! ## Device -/

/-- A context (R10, R390): its page-table root and fabric key. -/
structure Context where
  root : W64
  key : W64
  deriving DecidableEq, Repr, Inhabited

/-- The device-wide settings of R391. -/
structure Settings where
  ecc : Nat
  minWidth : Nat
  capW : Nat
  ilim : Nat
  d1 : Nat
  d2 : Nat
  preCls : Nat
  ages : List Nat
  latency : KMap Nat
  deviceId : Nat
  nextDeviceId : Nat
  nextEcc : Nat
  deriving DecidableEq, Repr, Inhabited

/-- A host window (R319, R390). -/
structure Window where
  ctx : Nat
  base : W64
  len : Nat
  valid : Bool
  r : Bool
  w : Bool
  deriving DecidableEq, Repr, Inhabited

/-- A retained task digest table (R347). -/
structure Retained where
  launch : Nat
  tasks : List (Nat × W64)
  count : Nat
  deriving DecidableEq, Repr, Inhabited

/-- The fabric part of the device. -/
structure Fabric where
  links : KMap Link
  routers : KMap Router
  outs : KMap OutStream
  ins : KMap InStream
  requests : KMap Request
  imports : KMap Import
  reads : List FarRead
  deriving DecidableEq, Repr, Inhabited

/-- The cores reserved for a gang, by its ordinals (R337). -/
structure Reserve where
  ordinals : List Nat
  cores : List Nat
  deriving DecidableEq, Repr, Inhabited

/-- The launch engine; `accepted` holds the records that LAUNCH has read and whose LAUNCH still waits (R73, R324), `rrNext` gives for each class the queue that the round robin offers room to first (R335). -/
structure LaunchEng where
  queues : KMap HostQueue
  device : List QueuedRec
  accepted : List QueuedRec
  lastNum : Nat
  launches : KMap Launch
  graphs : KMap Graph
  preempts : KMap Preempt
  reserved : KMap Reserve
  retained : List Retained
  rrNext : KMap Nat
  deriving DecidableEq, Repr, Inhabited

/-- A host request that waits at a window, with the window as it stood when the request came (R319, R390). -/
structure HostWait where
  win : Nat
  off : Nat
  write : Bool
  data : List Byte
  entry : Option Window
  deriving DecidableEq, Repr, Inhabited

/-- The steward and the host's side (R386 to R394). `map` is the core map as the steward keeps it across resets (R363),
`shutdown` the state after a die reached 105 °C (R394), `reported` the parks already reported (R358): stream, context, sector;
`reply` the last response that the host was given (R388), to a read or a refused access: its code, 0 for none, and the data read;
`waits` the host's requests that wait at a window (R390). -/
structure Mgmt where
  booted : Bool
  recovery : Bool
  shutdown : Bool
  map : List Nat
  settings : Settings
  contexts : KMap Context
  mailbox0 : Memory
  mailbox1 : Memory
  windows : KMap Window
  fuse : W32
  firmware : W64
  serial : List Byte
  secVersion : W32
  ringBase : W64
  ringCtx : Nat
  reports : List PoisonRep
  reported : List (Nat × Nat × W64)
  reply : Option (Nat × List Byte)
  waits : List HostWait
  deriving DecidableEq, Repr, Inhabited

/-- What a step runs for: the warp and the path whose instruction is executed, and the words it was fetched as. -/
structure Cursor where
  warp : Nat
  path : Nat
  word0 : W32
  word1 : W32
  word2 : W32
  deriving DecidableEq, Repr, Inhabited

/-- The whole machine. `host` holds the bytes behind pages of tier 2, `farPoison` their poisoned sectors. `turns`, `draws`, `cur` and `nextId` are the model's own (log 1, 4). -/
structure State where
  turns : List Turn
  draws : Nat
  cur : Cursor
  nextId : Nat
  mem : Memory
  host : Memory
  poison : List Nat
  farPoison : List Nat
  warps : KMap Warp
  blocks : KMap Block
  jobs : KMap Job
  moves : KMap Move
  backing : List Backing
  clean : List Nat
  cores : KMap Core
  dies : KMap Die
  coreMap : List Nat
  failed : List Nat
  banks : KMap Bank
  fab : Fabric
  eng : LaunchEng
  mgmt : Mgmt
  deriving DecidableEq, Repr, Inhabited

/-! ## Reset -/

/-- A die at reset (R296): the interval is the reset interval anchored at the count, which log 2 takes as 0. -/
def Die.reset : Die where
  count := 0
  e0 := 0
  l0 := 0xFFFFFFFFFFFFFFFF
  c0 := 0
  queue := []
  wide := true
  sync := []
  inbox := []
  log := []
  logOver := 0
  pool0 := []
  pool1 := []
  tagBase := 0
  tagLen := 0
  tags := []
  frames := []
  energy := []
  refillAt := 100
  hot := false
  released := false
  warm := false
  narrows := []
  signals := []

/-- A queue control block at reset (R328). -/
def HostQueue.reset : HostQueue where
  base := 0
  size := 0
  cls := 7
  priv := false
  enable := false
  ctx := 0
  producer := 0
  consumer := 0
  ring := 0
  completed := 0
  pending := []

/-- A link at reset (log 2): nothing sent, 16 lanes, backoff 64 ns (R310). -/
def Link.reset : Link where
  next := 0
  retry := []
  sendq := []
  expected := 0
  discarding := false
  nakDue := false
  ackDue := false
  backoff := 64
  resendAt := none
  resend := []
  width := 16
  lane := 0
  wire := []
  dead := false
  retraining := false
  failures := 0
  retrains := 0
  lastAccept := 0
  rx := []
  rxLeft := 0

/-- A router at reset (log 2): version 0, no dead link, an empty table. -/
def Router.reset : Router where
  version := 0
  dead := []
  table := []
  recomputing := false
  inq := []
  rxq := []
  advq := []
  waiting := []

/-- The settings' defaults (R391). -/
def Settings.reset : Settings where
  ecc := 0
  minWidth := 4
  capW := 2800
  ilim := 2000
  d1 := 50000
  d2 := 20000
  preCls := 1
  ages := [1000, 2000, 4000, 8000, 16000]
  latency := []
  deviceId := 0
  nextDeviceId := 0
  nextEcc := 0

/-- The launch engine at reset (R328, R329): no launch accepted, the next number is 1. -/
def LaunchEng.reset : LaunchEng where
  queues := (List.range 16).map fun q => (q, HostQueue.reset)
  device := []
  accepted := []
  lastNum := 0
  launches := []
  graphs := []
  preempts := []
  reserved := []
  retained := []
  rrNext := []

/-- The fabric at reset: seven links on IO0 (0 to 5 peer, 6 host) and six on IO1 (16 to 21). -/
def Fabric.reset : Fabric where
  links := ([0, 1, 2, 3, 4, 5, 6, 16, 17, 18, 19, 20, 21] : List Nat).map fun l => (l, Link.reset)
  routers := [(0, Router.reset), (1, Router.reset)]
  outs := []
  ins := []
  requests := []
  imports := []
  reads := []

/-- The steward at reset: bring-up has not run (R386), no context, no window, mailboxes of zeros. -/
def Mgmt.reset : Mgmt where
  booted := false
  recovery := false
  shutdown := false
  map := (List.range 40) ++ (List.range' 44 40) ++ (List.range' 88 40) ++ (List.range' 132 40)
  settings := Settings.reset
  contexts := []
  mailbox0 := []
  mailbox1 := []
  windows := []
  fuse := 0
  firmware := 0
  serial := []
  secVersion := 0
  ringBase := 0
  ringCtx := 0
  reports := []
  reported := []
  reply := none
  waits := []

/-- The machine right after reset. Log 2 and log 3 name every value the manual does not give; physical memory has no upper bound,
and what lies beyond the 960 GB of R2 is memory too (log 45). -/
def State.reset : State where
  turns := []
  draws := 0
  cur := ⟨0, 0, 0, 0, 0⟩
  nextId := 1
  mem := []
  host := []
  poison := []
  farPoison := []
  warps := []
  blocks := []
  jobs := []
  moves := []
  backing := []
  clean := []
  cores := []
  dies := (List.range 6).map fun d => (d, Die.reset)
  coreMap := (List.range 40) ++ (List.range' 44 40) ++ (List.range' 88 40) ++ (List.range' 132 40)
  failed := []
  banks := []
  fab := Fabric.reset
  eng := LaunchEng.reset
  mgmt := Mgmt.reset

end Sys2Proof.Machine
end

