-- ==== Sys2Proof/Machine/Ops.lean ====
section
/-! DEFINITION. The named operations over containers, registers, memory, translation, the violation log and the error
banks; taking a fault and returning from one; barrier objects and episodes; ending a warp and a block. -/

namespace Sys2Proof.Machine

/-! ## Containers -/

/-- The value at a key of a sparse store; an unlisted key reads 0. -/
def spGet {w : Nat} (m : Sparse w) (k : Nat) : BitVec w :=
  match m with
  | [] => 0
  | (a, v) :: t => if a = k then v else spGet t k

/-- Insert a value at a key, keys rising. -/
def spPut {w : Nat} (m : Sparse w) (k : Nat) (v : BitVec w) : Sparse w :=
  match m with
  | [] => [(k, v)]
  | (a, x) :: t => if a = k then (k, v) :: t else if k < a then (k, v) :: (a, x) :: t else (a, x) :: spPut t k v

/-- Write a key of a sparse store. Writing 0 removes the entry, so that equal stores are equal lists. -/
def spSet {w : Nat} (m : Sparse w) (k : Nat) (v : BitVec w) : Sparse w :=
  if v = 0 then m.filter (fun e => e.1 != k) else spPut m k v

/-- The canonical form of a sparse store: keys strictly rising, no entry equal to 0. -/
abbrev spWf {w : Nat} (m : Sparse w) : Prop := m.Pairwise (fun a b => a.1 < b.1) ∧ ∀ e ∈ m, e.2 ≠ 0

/-- The canonical form of a byte memory (log 3: an unlisted byte reads 0). -/
abbrev Memory.wf (m : Memory) : Prop := m.Pairwise (fun a b => a.1 < b.1) ∧ ∀ e ∈ m, e.2 ≠ 0

/-- What a byte that nothing has written reads as (log 3). -/
def unlistedByte : Byte := 0

/-- The record at a key of a map, if there is one. -/
def kGet? {α : Type} (m : KMap α) (k : Nat) : Option α :=
  match m with
  | [] => none
  | (a, v) :: t => if a = k then some v else kGet? t k

/-- The record at a key of a map; the type's default where there is none. -/
def kGet {α : Type} [Inhabited α] (m : KMap α) (k : Nat) : α := (kGet? m k).getD default

/-- Put a record at a key, keys rising. -/
def kSet {α : Type} (m : KMap α) (k : Nat) (v : α) : KMap α :=
  match m with
  | [] => [(k, v)]
  | (a, x) :: t => if a = k then (k, v) :: t else if k < a then (k, v) :: (a, x) :: t else (a, x) :: kSet t k v

/-- Remove a key. -/
def kErase {α : Type} (m : KMap α) (k : Nat) : KMap α := m.filter (fun e => e.1 != k)

/-- Change the records of a map one by one. -/
def kMap {α : Type} (f : Nat → α → α) (m : KMap α) : KMap α := m.map fun e => (e.1, f e.1 e.2)

/-- Replace the element at an index of a list. -/
def setAt {α : Type} (l : List α) (i : Nat) (x : α) : List α :=
  match l, i with
  | [], _ => []
  | _ :: t, 0 => x :: t
  | y :: t, i + 1 => y :: setAt t i x

/-! ## Bits and bytes (R3) -/

/-- The low `n` bytes of a number, least significant first. -/
def toBytes (n v : Nat) : List Byte :=
  match n with
  | 0 => []
  | n + 1 => BitVec.ofNat 8 v :: toBytes n (v / 256)

/-- The number whose little-endian bytes are given. -/
def ofBytes : List Byte → Nat
  | [] => 0
  | b :: t => b.toNat + 256 * ofBytes t

/-- Bytes `lo .. lo+n-1` of a record, as a number. -/
def fieldN (bs : List Byte) (lo n : Nat) : Nat := ofBytes ((bs.drop lo).take n)

/-- Bit `i` of a number. -/
def bitN (v i : Nat) : Nat := v / 2 ^ i % 2

/-- Lane `l` of a mask. -/
def hasLane (m : W32) (l : Nat) : Bool := m.getLsbD l

/-- The lanes of a mask, in rising order. -/
def lanesOf (m : W32) : List Nat := (List.range 32).filter (fun l => hasLane m l)

/-- The mask with exactly the lanes listed. -/
def maskOf (ls : List Nat) : W32 := ls.foldl (fun m l => m ||| (1#32 <<< l)) 0

/-- The upper byte of a 64-bit address is zero (R10). -/
def canonVa (a : W64) : Bool := a.toNat < 2 ^ 56

/-- Bytes `a .. a+n-1` of a byte memory. -/
def readBytes (m : Memory) (a : Nat) (n : Nat) : List Byte :=
  match n with
  | 0 => []
  | n + 1 => spGet m a :: readBytes m (a + 1) n

/-- Write bytes to a byte memory from an address upward. -/
def writeBytes (m : Memory) (a : Nat) (bs : List Byte) : Memory :=
  match bs with
  | [] => m
  | b :: t => writeBytes (spSet m a b) (a + 1) t

/-! ## Records of the state -/

def State.warp (s : State) (w : Nat) : Warp := kGet s.warps w
def State.setWarp (s : State) (w : Nat) (x : Warp) : State := { s with warps := kSet s.warps w x }
def State.modWarp (s : State) (w : Nat) (f : Warp → Warp) : State := s.setWarp w (f (s.warp w))
def State.block (s : State) (b : Nat) : Block := kGet s.blocks b
def State.setBlock (s : State) (b : Nat) (x : Block) : State := { s with blocks := kSet s.blocks b x }
def State.modBlock (s : State) (b : Nat) (f : Block → Block) : State := s.setBlock b (f (s.block b))
def State.launch (s : State) (l : Nat) : Launch := kGet s.eng.launches l
def State.setLaunch (s : State) (l : Nat) (x : Launch) : State :=
  { s with eng := { s.eng with launches := kSet s.eng.launches l x } }
def State.modLaunch (s : State) (l : Nat) (f : Launch → Launch) : State := s.setLaunch l (f (s.launch l))
def State.core (s : State) (c : Nat) : Core := kGet s.cores c
def State.setCore (s : State) (c : Nat) (x : Core) : State := { s with cores := kSet s.cores c x }
def State.die (s : State) (d : Nat) : Die := kGet s.dies d
def State.setDie (s : State) (d : Nat) (x : Die) : State := { s with dies := kSet s.dies d x }
def State.job (s : State) (j : Nat) : Job := kGet s.jobs j
def State.setJob (s : State) (j : Nat) (x : Job) : State := { s with jobs := kSet s.jobs j x }

/-- The warp the step runs for, its block and its launch. -/
def State.me (s : State) : Warp := s.warp s.cur.warp
def State.setMe (s : State) (x : Warp) : State := s.setWarp s.cur.warp x
def State.myBlock (s : State) : Block := s.block s.me.block
def State.myLaunch (s : State) : Launch := s.launch s.me.launch
def State.myCtx (s : State) : Nat := s.myLaunch.ctx
def State.myDie (s : State) : Nat := s.myBlock.pcore / 44

/-- The paths of a warp, by slot. -/
def warpPath (x : Warp) (p : Nat) : Path := if p = 0 then x.path0 else x.path1
def setPath (x : Warp) (p : Nat) (q : Path) : Warp := if p = 0 then { x with path0 := q } else { x with path1 := q }
/-- The path the step runs for. -/
def State.myPath (s : State) : Path := warpPath s.me s.cur.path
def State.setMyPath (s : State) (q : Path) : State := s.setMe (setPath s.me s.cur.path q)

/-- A free path slot. -/
def freePath : Path := ⟨false, 0, 0, none, [], false, 0, none, none, false, 0, none, none, []⟩

/-! ## Scalar registers (R29, R31) -/

/-- s0 reads zero. -/
def sreg (x : Warp) (r : BitVec 6) : W64 := if r = 0 then 0 else spGet x.s r.toNat
/-- A write to s0 is discarded. -/
def setSreg (x : Warp) (r : BitVec 6) (v : W64) : Warp := if r = 0 then x else { x with s := spSet x.s r.toNat v }
/-- The next scalar instruction. -/
def nextPc (x : Warp) : Warp :=
  { x with pc := x.pc + 4, lastPc := x.pc, wait := .none, issuedS := x.issuedS + 1, link := none }
/-- A transfer of control (R61). -/
def jumpPc (x : Warp) (t : W64) : Warp :=
  { x with pc := t, lastPc := x.pc, wait := .none, issuedS := x.issuedS + 1, link := none }

/-- A lane block is queued or running. -/
def laneBusy (x : Warp) : Bool := !x.queue.isEmpty || x.running.isSome
/-- The wait of R31, waived in handler mode (R191). -/
def laneWait (x : Warp) : Bool := !x.handler && laneBusy x
/-- A scalar instruction that names any of s56 to s63 waits for the lane blocks before it (R31, R57). -/
def sregWait (x : Warp) (rs : List (BitVec 6)) : Bool := laneWait x && rs.any (fun r => 56 ≤ r.toNat)

/-- The scalar instruction has written `v` to `d` and the stream goes on. -/
def State.scalarDone (s : State) (d : BitVec 6) (v : W64) : State := s.setMe (nextPc (setSreg s.me d v))
/-- The scalar instruction has written nothing and the stream goes on. -/
def State.scalarNext (s : State) : State := s.setMe (nextPc s.me)

/-! ## Lane registers and masks (R29, R45, R80) -/

/-- Lane `l` of register `n`. -/
def vreg (x : Warp) (n l : Nat) : W32 := spGet x.v (n * 32 + l)
def setVreg (x : Warp) (n l : Nat) (v : W32) : Warp := { x with v := spSet x.v (n * 32 + l) v }
/-- A register pair of lane `l`: bits [31:0] in v(n), bits [63:32] in v(n+1). -/
def vpair (x : Warp) (n l : Nat) : W64 := vreg x (n + 1) l ++ vreg x n l
/-- m0 reads the mask of the executing path. -/
def mreg (x : Warp) (p : Nat) (k : Nat) : W32 := if k = 0 then (warpPath x p).mask else spGet x.m k
/-- Write the bits of the given lanes of a mask; a write to m0 is discarded (R81). -/
def setMask (x : Warp) (k : Nat) (lanes bits : W32) : Warp :=
  if k = 0 then x else { x with m := spSet x.m k ((spGet x.m k &&& ~~~lanes) ||| (bits &&& lanes)) }

def applyRegWrites (x : Warp) (ws : List RegW) : Warp := ws.foldl (fun x e => setVreg x e.reg e.lane e.val) x
def applyMaskWrites (x : Warp) (ws : List MaskW) : Warp := ws.foldl (fun x e => setMask x e.mask e.lanes e.bits) x

/-! ## Launch fields -/

/-- The mode word's fields (R13). -/
def modeMirror (m : W32) : Bool := m.getLsbD 0
def modeDet (m : W32) : Nat := m.toNat / 2 % 4
def modeSm (m : W32) : Bool := m.getLsbD 3
def modeCtxf (m : W32) : Bool := m.getLsbD 4
def modeLclass (m : W32) : Bool := m.getLsbD 5
def modeSpan (m : W32) : Bool := m.getLsbD 6
def modeTacc (m : W32) : Bool := m.getLsbD 7
def State.myMode (s : State) : W32 := s.myLaunch.record.mode
def State.privileged (s : State) : Bool := s.myLaunch.record.priv

/-- Set the launch's NONDET flag (R348). -/
def State.setNondet (s : State) (l : Nat) : State :=
  s.modLaunch l fun x => { x with tally := { x.tally with nondet := true } }

/-! ## Time (R296, R303) -/

/-- 2^64 - 1, where times saturate. -/
def maxTime : Nat := 2 ^ 64 - 1
/-- ⌈Δ · 20 × 10⁻⁶⌉. -/
def drift (d : Nat) : Nat := (d + 49999) / 50000
/-- The interval of R296 before the hold of R303. -/
def rawE (d : Die) : Nat := min maxTime (d.e0 + (d.count - d.c0) - drift (d.count - d.c0))
def dieL (d : Die) : Nat := min maxTime (d.l0 + (d.count - d.c0) + drift (d.count - d.c0))
/-- The E a unit reports: never above the stamp of a queued store that has not committed (R303). -/
def dieE (d : Die) : Nat := d.queue.foldl (fun e q => min e q.stamp.toNat) (rawE d)
/-- A die is wide while L − E > $ILIM (R300). -/
def dieWideNow (ilim : Nat) (d : Die) : Bool := dieL d - dieE d > ilim

/-- A stamped store belongs to the lane block that fault delivery has stopped, which no row covers in handler mode (R191, R397). -/
def ofStopped (x : Warp) (num : Nat) : Bool := x.handler && x.running.isSome && x.startL < num

/-- A store of a warp is still to become visible: a stamped store has not committed or waits for room in its queue (R75, R303,
R305), or a saved store replayed on another device is not acknowledged (R171, R172); of the stamped stores only those that `f`
picks by number. -/
def State.storesDue (s : State) (x : Warp) (f : Nat → Bool) : Bool :=
  (s.dies.any fun d => d.2.queue.any fun q => q.block == x.block && q.widx == x.widx && f q.num) ||
    (x.path0.outs ++ x.path1.outs).any (fun j => !j.stamps.isEmpty) ||
    s.fab.requests.any fun e => e.2.asker == .replay x.block x.widx

/-- The same of all that a release in program order covers: in handler mode not those of the stopped lane block (R191). -/
def State.stampsPending (s : State) (x : Warp) : Bool := s.storesDue x fun n => !ofStopped x n

/-- The same of every store the warp has made, which EXIT and a read of $DIG wait for (R72, R75). -/
def State.stampsQueued (s : State) (x : Warp) : Bool := s.storesDue x fun _ => true

/-- A release of the current warp waits until its earlier stores are visible (R168, R171, R303). -/
def State.release (s : State) (body : State) : State := if s.stampsPending s.me then s else body

/-! ## Violation log and error banks (R15, R16, R355, R356) -/

/-- Write a record to the violation log of a die, for an access of a device (R16); its length field holds 1 to 65,535. -/
def State.logFrom (s : State) (device die : Nat) (addr : W64) (kind code ctx origin access len : Nat) : State :=
  let d := s.die die
  if d.log.length < 256 then
    s.setDie die { d with log := d.log ++ [⟨addr, device, kind, code, BitVec.ofNat 32 ctx,
      BitVec.ofNat 32 origin, access, max 1 (min len 65535), BitVec.ofNat 64 (dieE d)⟩] }
  else s.setDie die { d with logOver := min 0xFFFFFFFF (d.logOver + 1) }

/-- The same for an access of this device. -/
def State.logViolation (s : State) (die : Nat) (addr : W64) (kind code ctx origin access len : Nat) : State :=
  s.logFrom s.mgmt.settings.deviceId die addr kind code ctx origin access len

/-- R356: one error (severity 1 CE, 2 or 3 UE, 4 event) updates a bank's record in one step. -/
def bankStep (b : Bank) (sev syn : Nat) (addr time : W64) : Bank :=
  let light := sev = 1 ∨ sev = 4
  if b.severity = 0 then
    ⟨sev, false, syn, if light then 1 else 0, if light then 0 else 1, addr, time⟩
  else if b.severity = 1 ∨ b.severity = 4 then
    if light then { b with ce := min 0xFFFFFFFF (b.ce + 1) }
    else { b with severity := sev, syndrome := syn, addr := addr, time := time, ue := 1 }
  else if light then { b with ce := min 0xFFFFFFFF (b.ce + 1) }
  else { b with ue := min 0xFFFFFFFF (b.ue + 1), ovf := true }

def State.bankError (s : State) (bank sev syn : Nat) (addr : W64) : State :=
  let b := bankStep (kGet s.banks bank) sev syn addr (BitVec.ofNat 64 (dieE (s.die (bank / 256))))
  { s with banks := kSet s.banks bank b }

/-- The error bank of a physical core (R354). -/
def coreBank (core : Nat) : Nat := core / 44 * 256 + core % 44

/-! ## Translation (R10, R276, R277) -/

/-- The 8-byte unit of physical memory at an address. -/
def State.phys64 (s : State) (a : Nat) : Nat := ofBytes (readBytes s.mem a 8)

/-- What a walk finds: the page-table entry, where it stands, and whether it maps 2 MiB. -/
structure Walk where
  pte : W64
  at_ : Nat
  big : Bool
  deriving DecidableEq, Repr, Inhabited

/-- The entry fields of R277. -/
def pteAddr (p : W64) : Nat := p.toNat / 65536 * 65536
def pteKind (p : W64) : Nat := p.toNat / 256 % 4
def pteTier (p : W64) : Nat := p.toNat / 64 % 4
def pteFsz (p : W64) : Nat := p.toNat / 4096 % 16
def pteBig (p : W64) : Bool := p.getLsbD 10
def ptePin (p : W64) : Bool := p.getLsbD 5
def pteTagd (p : W64) : Bool := p.getLsbD 4
def pteX (p : W64) : Bool := p.getLsbD 3
def pteW (p : W64) : Bool := p.getLsbD 2
def pteR (p : W64) : Bool := p.getLsbD 1
def pteValid (p : W64) : Bool := p.getLsbD 0

/-- A PTE that translates (R275, R277). -/
def pteOk (p : W64) : Bool :=
  pteValid p && pteTier p != 3 && pteFsz p ≤ 8 && (pteFsz p == 0 || pteKind p == 2) &&
    (pteTier p == 0 || (!pteBig p && pteKind p != 3)) && (!pteBig p || p.toNat / 65536 % 32 == 0)

/-- A pointer entry: bit 0 set, bits [6:1] zero (R276). -/
def ptrOk (e : Nat) : Bool := e % 128 == 1
def ptrAddr (e : Nat) : Nat := e / 128 * 128

/-- The five-level walk of R276. -/
def State.walk (s : State) (root : W64) (va : W64) : Option Walk :=
  let a := va.toNat
  let e1 := s.phys64 (root.toNat + a / 2 ^ 46 % 1024 * 8)
  if !ptrOk e1 then none else
  let e2 := s.phys64 (ptrAddr e1 + a / 2 ^ 37 % 512 * 8)
  if !ptrOk e2 then none else
  let e3 := s.phys64 (ptrAddr e2 + a / 2 ^ 29 % 256 * 8)
  if !ptrOk e3 then none else
  let at4 := ptrAddr e3 + a / 2 ^ 21 % 256 * 8
  let p4 := BitVec.ofNat 64 (s.phys64 at4)
  if pteValid p4 && pteBig p4 then
    if pteOk p4 then some ⟨p4, at4, true⟩ else none
  else if !ptrOk (s.phys64 at4) then none else
  let at5 := ptrAddr (s.phys64 at4) + a / 2 ^ 16 % 32 * 8
  let p5 := BitVec.ofNat 64 (s.phys64 at5)
  if pteOk p5 && !pteBig p5 then some ⟨p5, at5, false⟩ else none

/-- The translation of an address of a context (R10); none where it fails. -/
def State.translate (s : State) (ctx : Nat) (va : W64) : Option Walk :=
  if !canonVa va then none else
  match kGet? s.mgmt.contexts ctx with
  | none => none
  | some c => s.walk c.root va

/-- The physical address, or for FABRIC the fabric address, that a walk gives an address. -/
def walkPa (wk : Walk) (va : W64) : Nat :=
  if wk.big then wk.pte.toNat / 2 ^ 21 * 2 ^ 21 + va.toNat % 2 ^ 21 else pteAddr wk.pte + va.toNat % 65536

/-- The tier engine has marked the page moving (R292). -/
def State.moving (s : State) (ctx : Nat) (va : W64) : Bool :=
  s.moves.any fun e => e.2.ctx == ctx && e.2.marked && e.2.va.toNat == va.toNat / 65536 * 65536

/-- The verdict of the checks of R139 on one access: `here` names the physical address, `away` a page not resident or
moving, `remote` a FABRIC page, `bad` a failed check with its code. -/
inductive Verdict where
  | here (pa : Nat) (pte : W64)
  | remote (addr : W64)
  | away
  | bad (code : Nat)
  deriving DecidableEq, Repr, Inhabited

/-- The codes of R11 that the checks use. -/
def cPRIV : Nat := 0x02
def cXLATE : Nat := 0x03
def cPERM : Nat := 0x04
def cALIGN : Nat := 0x05
def cOPERAND : Nat := 0x0A
def cIMPORT : Nat := 0x15

/-- The permission an access needs (R140): 0 read, 1 write, 2 read-modify-write, 3 fetch; 4 stamped store, which
needs w on a STAMPED page, 5 as-of load, which needs r on one (R305). On a FABRIC page the target checks reads and writes
(R139, R140). -/
def permOk (p : W64) (access : Nat) : Bool :=
  let far := pteKind p == 3
  match access with
  | 0 => far || pteR p
  | 1 => far || (pteW p && pteKind p != 1)
  | 2 => far || (pteR p && pteW p && pteKind p != 1)
  | 3 => pteX p
  | 4 => pteW p && pteKind p == 1
  | _ => pteR p && pteKind p == 1

/-- The r and w bits that a scalar access needs, on a page of any kind (R62). -/
def scalarPerm (p : W64) (access : Nat) : Bool :=
  match access with
  | 0 => pteR p
  | 1 => pteW p
  | _ => pteR p && pteW p

/-- Check one global access of a context (R10, R139, R140, R141). -/
def State.check (s : State) (ctx : Nat) (va : W64) (access : Nat) : Verdict :=
  match s.translate ctx va with
  | none => .bad cXLATE
  | some wk =>
    if !permOk wk.pte access then .bad cPERM
    else if pteKind wk.pte = 3 then .remote (BitVec.ofNat 64 (walkPa wk va))
    else if pteTier wk.pte ≠ 0 ∨ s.moving ctx va then .away
    else .here (walkPa wk va) wk.pte

/-- The check of an access that has passed its translation before and holds its page where it stands: a mark of a move, which waits for
it, does not stop it (R18, R292). -/
def State.checkHeld (s : State) (ctx : Nat) (va : W64) (access : Nat) : Verdict :=
  match s.translate ctx va with
  | none => .bad cXLATE
  | some wk =>
    if !permOk wk.pte access then .bad cPERM
    else if pteKind wk.pte = 3 then .remote (BitVec.ofNat 64 (walkPa wk va))
    else if pteTier wk.pte ≠ 0 then .away
    else .here (walkPa wk va) wk.pte

/-- The check of a scalar access, which needs the permission of its page on another device too (R62). -/
def State.checkScalar (s : State) (ctx : Nat) (va : W64) (access : Nat) : Verdict :=
  match s.check ctx va access, s.translate ctx va with
  | .remote fa, some wk => if scalarPerm wk.pte access then .remote fa else .bad cPERM
  | v, _ => v

/-! ## Memory (R158, R248, R326, R350) -/

/-- The 64-byte line of memory that an address of a context names: whether it is on another device, and its number there. -/
def State.lineOfVa (s : State) (ctx : Nat) (va : W64) : Option (Bool × Nat) :=
  (s.translate ctx va).map fun wk => (pteKind wk.pte == 3, walkPa wk va / 64)

/-- Two addresses of a context name one line, by whatever addresses it is mapped at. -/
def State.sameLine (s : State) (ctx : Nat) (a b : W64) : Bool :=
  a.toNat / 64 == b.toNat / 64 || ((s.lineOfVa ctx a).isSome && s.lineOfVa ctx a == s.lineOfVa ctx b)

/-- The gate slot of a launch that governs an address, if one does (R350): its line is gated at every address that maps it. -/
def State.gateOf (s : State) (l : Launch) (va : W64) : Option Nat :=
  (l.gates.find? fun e => e.2.live && s.sameLine l.ctx e.2.line va).map (·.1)

/-- The launches whose gated line a range of this device's memory, or with `far` of another's, meets (R350). -/
def State.gateOwners (s : State) (far : Bool) (pa n : Nat) : List Nat :=
  (s.eng.launches.filter fun e => e.2.gates.any fun g =>
    g.2.live && (match s.translate e.2.ctx g.2.line with
      | some wk => (pteKind wk.pte == 3) == far && walkPa wk g.2.line < pa + n && pa < walkPa wk g.2.line + 64
      | none => false)).map (·.1)

/-- The flag bytes of the key frames that a range of a SUMMARISED page meets (R245, R248, R277). -/
def staleFlags (pte : W64) (pa n : Nat) : List Nat :=
  let z := 2 ^ (pteFsz pte + 8)
  (List.range ((pa + n - 1) / z + 1 - pa / z)).map fun i => (pa / z + i) * z + 4

/-- Set the STALE flag in each of the flag bytes given. -/
def markStale (m : Memory) (fs : List Nat) : Memory := fs.foldl (fun m f => spSet m f (spGet m f ||| 1)) m

/-- A pennant wait of a launch passes against memory as it stands (R326). -/
def State.waitPasses (s : State) (ctx : Nat) (addr value : W64) : Bool :=
  match s.check ctx addr 0 with
  | .here pa _ => s.phys64 pa ≥ value.toNat
  | _ => false

/-- A list of pennant waits of a context after a store to a range: a wait on a word that the store meets is tested against the
value the store leaves (R326). -/
def State.hitWaits (s : State) (ctx pa n : Nat) (ws : List (W64 × W64 × Bool)) : List (W64 × W64 × Bool) :=
  ws.map fun (a, v, hit) =>
    match s.check ctx a 0 with
    | .here q _ => (a, v, hit || (q < pa + n && pa < q + 8 && decide (s.phys64 q ≥ v.toNat)))
    | _ => (a, v, hit)

/-- The records that LAUNCH has read, with their pennant waits changed. -/
def mapTaken (f : Nat → List (W64 × W64 × Bool) → List (W64 × W64 × Bool)) (qs : List QueuedRec) : List QueuedRec :=
  qs.map fun q => { q with taken := { q.taken with waits := f q.ctx q.taken.waits } }

/-- R326: after a store to a range, every wait of an accepted launch or of a record that LAUNCH has read is tested; a wait that
passes is marked, and the re-test step makes it final. -/
def State.watchStore (s : State) (pa n : Nat) : State :=
  { s with eng := { s.eng with
      launches := kMap (fun _ (l : Launch) => { l with waits := s.hitWaits l.ctx pa n l.waits }) s.eng.launches
      device := mapTaken (s.hitWaits · pa n ·) s.eng.device
      accepted := mapTaken (s.hitWaits · pa n ·) s.eng.accepted } }

/-- The frames still unwritten since they were fetched from tier 2, after a store to a range (R281). -/
def dirtied (clean : List Nat) (pa n : Nat) : List Nat := clean.filter fun f => !(f < pa + n && pa < f + 65536)

/-- A store's bytes enter memory: on a SUMMARISED page the STALE flag of each frame they meet is set (R166, R248), and the watched
pennant words it meets are tested (R326). -/
def State.storeAt (s : State) (pte : W64) (pa : Nat) (bs : List Byte) : State :=
  let s := { s with mem := writeBytes s.mem pa bs, clean := dirtied s.clean pa bs.length }
  let s := if pteKind pte = 2 then { s with mem := markStale s.mem (staleFlags pte pa bs.length) } else s
  s.watchStore pa bs.length

/-- R348, R350: a store or atomic to a gated line sets the NONDET flag of the launch that owns the gate, unless it is
that launch's own atomic. -/
def State.noteGated (s : State) (agent : Option Nat) (atomic : Bool) (pa n : Nat) : State :=
  (s.gateOwners false pa n).foldl (fun s l => if atomic && agent == some l then s else s.setNondet l) s

/-- The same for one to a fabric address, which this device sends to its target. -/
def State.noteFar (s : State) (agent : Option Nat) (atomic : Bool) (fa : W64) (n : Nat) : State :=
  (s.gateOwners true fa.toNat n).foldl (fun s l => if atomic && agent == some l then s else s.setNondet l) s

/-- The same for one to an address of a context that stands on a FABRIC page. -/
def State.noteFarVa (s : State) (ctx : Nat) (agent : Option Nat) (atomic : Bool) (va : W64) (n : Nat) : State :=
  match s.translate ctx va with
  | some wk => s.noteFar agent atomic (BitVec.ofNat 64 (walkPa wk va)) n
  | none => s

/-- The sectors of 32 bytes that a range of physical memory meets, and whether one is poisoned (R143). -/
def State.poisoned (s : State) (pa n : Nat) : Bool :=
  s.poison.any fun q => q * 32 < pa + n && pa < q * 32 + 32

/-- The SplitMix finaliser of R337. -/
def mix (z : W64) : W64 :=
  let z := (z ^^^ (z >>> 30)) * 0xBF58476D1CE4E5B9
  let z := (z ^^^ (z >>> 27)) * 0x94D049BB133111EB
  z ^^^ (z >>> 31)

/-- One digest term (R345). -/
def digestTerm (ea x : W64) (id n : Nat) : W64 :=
  mix (ea ^^^ x.rotateLeft 17 ^^^ (BitVec.ofNat 64 id <<< 48) ^^^ BitVec.ofNat 64 n)

/-- Add the terms of one store of `bytes` at `ea` with the logical lane id given; a 16-byte store gives two (R345). -/
def blockTerms (b : Block) (widx id : Nat) (ea : W64) (bytes : List Byte) : Block :=
  let one (b : Block) (ea : W64) (bs : List Byte) : Block :=
    { b with
      digest := spSet b.digest widx (spGet b.digest widx +
        digestTerm ea (BitVec.ofNat 64 (ofBytes bs)) id (spGet b.terms id).toNat)
      terms := spSet b.terms id (spGet b.terms id + 1) }
  if bytes.length = 16 then one (one b ea (bytes.take 8)) (ea + 8) (bytes.drop 8) else one b ea bytes

/-! ## Scratchpad (R134, R148, R174) -/

/-- The block of the launch that stands at index `k` of the same gang, by key. -/
def State.gangBlock (s : State) (b : Block) (k : Nat) : Option Nat :=
  (s.blocks.find? fun e => e.2.launch == b.launch && e.2.gang == b.gang && e.2.gblock == k).map (·.1)

/-- The region that holds a scratch offset, if one does (R148). -/
def regionAt (b : Block) (o : Nat) : Option (Nat × Region) :=
  b.regions.find? fun e => e.2.mode != 0 && e.2.base ≤ o && o < e.2.base + e.2.len

/-- The key of the state of line `k` of region `r`. -/
def lineKey (r k : Nat) : Nat := r * 65536 + k

/-- A store to bytes of an ARMED barrier object is refused (R174). -/
def armedHit (b : Block) (o n : Nat) : Bool := b.armed.any fun q => q < o + n && o < q + 32

/-! ## Raising and delivering a fault (R188 to R190) -/

/-- The $FAULT value of R76. -/
def faultWord (code stream path access n : Nat) : W64 :=
  BitVec.ofNat 64 (code + stream * 256 + path * 512 + access * 1024 + n * 65536)

/-- A scalar fault at the current instruction (R189); `spc` is the value of $FSPC. While another fault waits to be delivered,
the instruction is un-issued and faults again after ERET (R188). -/
def State.raiseScalarAt (s : State) (code : Nat) (addr : W64) (access n : Nat) (spc : W64) : State :=
  let x := s.me
  if x.pend.isSome then s.setMe { x with wait := .none } else
  s.setMe { x with
    wait := .none
    pend := some ⟨code, ⟨faultWord code 0 0 access n, addr, spc, 0, s.cur.word0, s.cur.word1, s.cur.word2⟩, false⟩ }

/-- The lane PC a path issues from next: an interrupted ATTB is re-issued where it stands (R268). -/
def issuePc (q : Path) : Nat := if q.cont then q.pc - 12 * q.visits else q.pc

/-- A lane fault at the current instruction of the current path (R189). While another fault waits to be delivered, the
instruction is un-issued and faults again after ERET (R188). -/
def State.raiseLane (s : State) (code : Nat) (addr : W64) (access : Nat) : State :=
  let x := s.me
  let q := s.myPath
  let y := x
  let x := setPath x s.cur.path { q with io := none, park := none, reserved := none, targets := none }
  if y.pend.isSome then s.setMe x else
  s.setMe { x with
    pend := some ⟨code, ⟨faultWord code 1 s.cur.path access 0, addr, x.pc, BitVec.ofNat 64 (issuePc q),
      s.cur.word0, s.cur.word1, s.cur.word2⟩, false⟩ }

/-- Every instruction issued before delivery has completed (R188). -/
def drained (x : Warp) : Bool :=
  x.path0.outs.isEmpty && x.path1.outs.isEmpty && x.path0.io.isNone && x.path1.io.isNone &&
    x.path0.reserved.isNone && x.path1.reserved.isNone && x.kvDone.isNone &&
    (match x.wait with
     | .io _ => false
     | .gate _ => false
     | .gated _ => false
     | .grant _ _ => false
     | _ => true)

/-- The wait that survives a handler: an access that is parked replays instead (R190, R200). A LAUNCH that has read its record is
accepted (R324), so it keeps waiting and reads nothing again (DESIGN CHOICE, log 28: the manual does not say whether such a LAUNCH
counts as issued). -/
def keepWait (w : ScalarWait) : ScalarWait :=
  match w with
  | .parked _ => .none
  | .io _ => .none
  | .gate _ => .none
  | .gated _ => .none
  | w => w

/-! ### Barrier objects (R173 to R176) -/

/-- The fields of a barrier object at a scratch offset. -/
structure Obj where
  count : W64
  waiters : W32
  conts : W32
  gen : W32
  state : Nat
  clean : Bool
  deriving DecidableEq, Repr, Inhabited

def readObj (b : Block) (o : Nat) : Obj :=
  let bs := readBytes b.scratch o 32
  ⟨BitVec.ofNat 64 (fieldN bs 0 8), BitVec.ofNat 32 (fieldN bs 8 4), BitVec.ofNat 32 (fieldN bs 12 4),
    BitVec.ofNat 32 (fieldN bs 16 4), fieldN bs 20 1, fieldN bs 21 11 == 0⟩

/-- The object is not malformed (R173). -/
def objOk (q : Obj) : Bool := q.state ≤ 2 && q.clean

/-- The barrier unit keeps the object's bytes current (R173) and alone writes it while ARMED (R174). The objects so protected
are those the unit itself has armed; bytes that an ordinary store gave state 1 act as ARMED and are not protected (DESIGN
CHOICE, log 42). -/
def writeObj (b : Block) (o : Nat) (q : Obj) : Block :=
  { b with
    scratch := writeBytes b.scratch o (toBytes 8 q.count.toNat ++ toBytes 4 q.waiters.toNat ++
      toBytes 4 q.conts.toNat ++ toBytes 4 q.gen.toNat ++ toBytes 12 q.state)
    armed := if q.state = 1 then (if b.armed.contains o then b.armed else b.armed ++ [o])
             else b.armed.filter (· != o) }

/-- R176: wake the warps recorded in `waiters` and mark the continuations recorded in `conts`. -/
def State.objComplete (s : State) (bk : Nat) (waiters conts : W32) : State :=
  let s := { s with warps := kMap (fun _ (x : Warp) =>
      if x.block = bk && hasLane waiters x.widx then { x with woken := true } else x) s.warps }
  let mark (c : Cont) : Cont := if hasLane conts c.widx then { c with ready := true } else c
  s.modBlock bk fun b => { b with conts := b.conts.map mark }

/-- An arrival of `n` at an object that is not IDLE (R175). An arrival of 0 at an ARMED object whose count an ordinary store has
left 0 completes it, as the table's row n ≥ count says (DESIGN CHOICE, log 42: the sentence below the table says that an arrival of
0 changes nothing). -/
def State.objArrive (s : State) (bk o : Nat) (n : W64) : State :=
  let b := s.block bk
  let q := readObj b o
  if q.state ≠ 1 then s
  else if n.toNat < q.count.toNat then s.setBlock bk (writeObj b o { q with count := q.count - n })
  else
    (s.setBlock bk (writeObj b o { q with count := 0, waiters := 0, conts := 0, gen := q.gen + 1, state := 2 })).objComplete
      bk q.waiters q.conts

/-- The checks of R174 on an object's offset, before its bytes are read; none where they pass. -/
def objFault (b : Block) (scratch : Nat) (o : W64) : Option Nat :=
  let bad := match regionAt b o.toNat with
    | some (_, r) => r.mode == 2 || r.mode == 3
    | none => false
  if bad then some cOPERAND
  else if o.toNat % 32 ≠ 0 then some cALIGN
  else if o.toNat / 2 ^ 21 ≠ 0 ∨ o.toNat + 32 > scratch then some cPERM
  else none

/-- Clear warp `w`'s bits in the object it waits on or left a continuation on (R176, R181). -/
def clearObjBits (b : Block) (o w : Nat) : Block :=
  let q := readObj b o
  if q.state = 1 then
    writeObj b o { q with waiters := q.waiters &&& ~~~(1#32 <<< w), conts := q.conts &&& ~~~(1#32 <<< w) }
  else b

/-! ### Barrier episodes (R182 to R185) -/

/-- The number of warps of a block. -/
def count1 (l : Launch) : Nat := l.record.counts.getD 0 1
/-- The number of blocks of a gang. -/
def count2 (l : Launch) : Nat := l.record.counts.getD 1 1

/-- Warp `w` of the block counts as arrived without arriving: it has exited or was killed (R183). -/
def goneWarp (b : Block) (w : Nat) : Bool := b.exited.contains w || b.killed.any (·.1 == w)

/-- Every participant of the block episode has arrived (R183). -/
def bkEpisodeDone (l : Launch) (b : Block) : Bool :=
  !b.episode.isEmpty && (List.range (count1 l)).all fun w => goneWarp b w || b.episode.any (·.widx == w)

/-- The blocks of a gang that are resident, by key. -/
def State.gangKeys (s : State) (launch : Nat) (gang : W64) : List Nat :=
  (s.blocks.filter fun e => e.2.launch == launch && e.2.gang == gang).map (·.1)

/-- A block is being stopped: its launch is pre-empted in rung 2 on a core that a block of its gang stands on, or a block of
its gang has been saved; a gang is stopped and saved as a whole (R195). -/
def State.stopping (s : State) (bk : Nat) : Bool :=
  let q := s.block bk
  (s.launch q.launch).saved.any (fun c => c.block.gang == q.gang) ||
  s.eng.preempts.any fun e => e.2.victim == q.launch && e.2.rung == 2 &&
    (s.gangKeys q.launch q.gang).any fun k => (s.block k).pcore == e.2.core

/-- The arrivals of the open gang episode. -/
def gangEpisode (l : Launch) (gang : W64) : List Arrival := (kGet? l.gangs gang.toNat).getD []

/-- Every participant of the gang episode has arrived: a block of the gang that has completed counts whole (R72). -/
def State.ggEpisodeDone (s : State) (launch : Nat) (gang : W64) : Bool :=
  let l := s.launch launch
  let ep := gangEpisode l gang
  !ep.isEmpty && (s.gangKeys launch gang).all fun k =>
    let b := s.block k
    b.completed || (List.range (count1 l)).all fun w =>
      goneWarp b w || ep.any (fun a => a.gblock == b.gblock && a.widx == w)

/-- R185: the BARE arriver that takes the epilogue role. `last` is the arrival that completed the episode, none when
an exit or a kill did; `alive` says which arrivals' warps are neither killed nor exited. -/
def roleOf (det : Nat) (ep : List Arrival) (alive : Arrival → Bool) : Option Arrival :=
  let bares := ep.filter fun a => a.bare && alive a
  if det = 0 then bares.getLast?
  else bares.foldl (fun best a => match best with
    | none => some a
    | some b => if a.gblock < b.gblock || (a.gblock == b.gblock && a.widx < b.widx) then some a else some b) none

/-- Give an episode's status to one waiting warp (R182): at once, or at ERET for one in its handler. -/
def finishBarrier (gang : Bool) (status : W64) (x : Warp) : Warp :=
  match x.wait with
  | .barrier g sd => if g == gang then setSreg { x with wait := .none } (BitVec.ofNat 6 sd) status else x
  | _ =>
    match x.savedWait with
    | .barrier g sd => if g == gang then { x with savedWait := .barrierDone sd status } else x
    | _ => x

/-- R183 to R185: if the block episode is complete, return its status to every participant and open the next. -/
def State.settleBk (s : State) (bk : Nat) : State :=
  let b := s.block bk
  let l := s.launch b.launch
  if !bkEpisodeDone l b then s else
  let role := roleOf (modeDet l.record.mode) b.episode fun a => !goneWarp b a.widx
  let status (w : Nat) : W64 :=
    (if b.abandoned then 1 else 0) + (match role with | some a => if a.widx = w then 2 else 0 | none => 0)
  let s := s.setBlock bk { b with episode := [] }
  { s with warps := kMap (fun _ (x : Warp) =>
      if x.block = bk then finishBarrier false (status x.widx) x else x) s.warps }

/-- The same for the gang episode. -/
def State.settleGg (s : State) (launch : Nat) (gang : W64) : State :=
  if !s.ggEpisodeDone launch gang then s else
  let l := s.launch launch
  let ep := gangEpisode l gang
  let keys := s.gangKeys launch gang
  let dead := keys.any fun k => (s.block k).abandoned
  let alive (a : Arrival) : Bool := keys.any fun k => (s.block k).gblock == a.gblock && !goneWarp (s.block k) a.widx
  let role := roleOf (modeDet l.record.mode) ep alive
  let s' := s.setLaunch launch { l with gangs := kErase l.gangs gang.toNat }
  { s' with warps := kMap (fun _ (x : Warp) =>
      let b := s.block x.block
      if keys.contains x.block then
        finishBarrier true ((if dead then 1 else 0) + (match role with
          | some a => if a.gblock = b.gblock && a.widx = x.widx then 2 else 0
          | none => 0)) x
      else x) s.warps }

def State.settleEpisodes (s : State) (bk : Nat) : State :=
  let b := s.block bk
  (s.settleBk bk).settleGg b.launch b.gang

/-! ## Promotion (R141, R286) -/

/-- A move that leaves its page in tier 0 (R286). -/
def promotes (m : Move) : Bool := m.act == 1 && m.tier == 0

/-- A move whose page is done and whose entry only waits to write its status (R282). -/
def State.closes (s : State) (m : Move) : Bool :=
  match m.entry with
  | some e => (kGet (s.launch m.launch).entries e).closing.isSome
  | none => false

/-- A started and unended FETCH to tier 0 of a launch of the context still has the page before it. -/
def State.fetchDue (s : State) (ctx : Nat) (va : W64) : Bool :=
  s.eng.launches.any fun l => l.2.ctx == ctx && l.2.entries.any fun e =>
    let b := e.2.bytes
    let at_ := fieldN b 0 8
    e.2.started && !e.2.ended && e.2.closing.isNone && fieldN b 20 1 == 1 && fieldN b 21 1 == 0 &&
      at_ + 65536 * e.2.page ≤ va.toNat && va.toNat < at_ + fieldN b 8 8

/-- Ask the tier engine of a die to promote a page, unless the last move of it to be taken on does so, or the timetable has
requested it (R141, R286). -/
def State.promote (s : State) (ctx : Nat) (va : W64) (die launch : Nat) : State :=
  let page := BitVec.ofNat 64 (va.toNat / 65536 * 65536)
  let last := (s.moves.filter fun e => e.2.ctx == ctx && e.2.va == page && !s.closes e.2).getLast?
  if last.map (fun e => promotes e.2) == some true || (last.isNone && s.fetchDue ctx va) then s
  else
    let s := { s with
      moves := kSet s.moves s.nextId ⟨ctx, page, 0, 1, die, launch, none, false, 0, none⟩
      nextId := s.nextId + 1 }
    if (kGet? s.eng.launches launch).isNone then s
    else s.modLaunch launch fun l =>
      { l with tally := { l.tally with unplanned := min 0xFFFFFFFF (l.tally.unplanned + 1) } }

/-! ## Requests that leave the device (R139, R309, R314) -/

/-- No access that left the device. -/
def noIo : IoWait := ⟨[], [], [], [], none, []⟩

/-- Every access of an instruction that left the device has been answered, and none has still to be sent. -/
def ioDone (io : IoWait) : Bool := io.reqs.isEmpty && io.gated.isEmpty && io.passing.isNone

/-- The I/O die that owns the stream to a device (R314). -/
def ioOf (device : Nat) : Nat := device % 2

/-- A header with nothing in it. -/
def blankPacket : Packet := ⟨0, 0, 0, 0, 0, 0, 0, 0, 0, 0, 0, 0, 0, 0, [], false, 0, 0, [], 0⟩

/-- The payload flits of a packet. -/
def dataFlits (p : Packet) : Nat := (p.data.length + 63) / 64

/-- The bytes of a source retry buffer that packets take: 72 for each flit (log 27). -/
def retryBytes (ps : List Packet) : Nat := (ps.map fun p => 72 * (1 + dataFlits p)).sum

/-- The packets that an I/O die holds unacknowledged (R314). -/
def State.retryHeld (s : State) (r : Nat) : List Packet :=
  (s.fab.outs.filter fun e => ioOf e.1 == r).flatMap fun e => e.2.unacked.map (·.pkt)

/-- The source retry buffer of an I/O die has room for one more packet: 3 MiB (R314). -/
def State.retryRoom (s : State) (r : Nat) (p : Packet) : Bool :=
  retryBytes (s.retryHeld r) + 72 * (1 + dataFlits p) ≤ 3145728

/-- A packet of a stream is sent: it is kept until acknowledged, and enters the router with the router's version unless a
recomputation holds injection (R313, R314). -/
def State.launchPacket (s : State) (p : Packet) : State :=
  let o := kGet s.fab.outs p.dst
  let r := kGet s.fab.routers (ioOf p.dst)
  let p := { p with ver := r.version }
  let r' := if r.recomputing then r else { r with inq := r.inq ++ [p] }
  let now := (s.die (4 + ioOf p.dst)).count
  { s with fab := { s.fab with
      outs := kSet s.fab.outs p.dst { o with unacked := o.unacked ++ [⟨p, now, r.recomputing⟩] }
      routers := kSet s.fab.routers (ioOf p.dst) r' } }

/-- Put a packet into the stream to its destination (R314): it takes the stream's next sequence number, and is sent, or
waits while the source retry buffer has no room for it. -/
def State.inject (s : State) (p : Packet) : State :=
  let o := kGet s.fab.outs p.dst
  let r := kGet s.fab.routers (ioOf p.dst)
  let p := { p with src := s.mgmt.settings.deviceId, sseq := o.next }
  let s := { s with fab := { s.fab with outs := kSet s.fab.outs p.dst { o with next := (o.next + 1) % 2 ^ 32 } } }
  if r.waiting.isEmpty && s.retryRoom (ioOf p.dst) p then s.launchPacket p
  else { s with fab := { s.fab with routers := kSet s.fab.routers (ioOf p.dst) { r with waiting := r.waiting ++ [p] } } }

/-- The device a fabric address names (R316). -/
def fabDevice (a : W64) : Nat := a.toNat / 2 ^ 52

/-- The launch that an asker works for. -/
def State.askerLaunch (s : State) (a : Asker) : Nat :=
  match a with
  | .scalar w => (s.warp w).launch
  | .lane w _ => (s.warp w).launch
  | .job j => (s.job j).launch
  | .chan b _ => (s.block b).launch
  | .flush b => (s.block b).launch
  | .replay b _ => (s.block b).launch
  | .move k => (kGet s.moves k).launch
  | .record l => l
  | .engine | .ring _ | .scan _ | .none => 0

/-- Send a request and note who waits for its answer; the key of the request. -/
def State.sendRequest (s : State) (asker : Asker) (ctx : Nat) (va fa : W64) (lane part : Nat) (p : Packet) :
    State × Nat :=
  let id := s.nextId
  let dst := fabDevice fa
  let key := (kGet s.mgmt.contexts ctx).key
  let sseq := (kGet s.fab.outs dst).next
  let launch := s.askerLaunch asker
  let s := ({ s with nextId := id + 1 }).inject { p with dst := dst, addr := fa, key := key, req := id }
  ({ s with fab := { s.fab with
      requests := kSet s.fab.requests id ⟨asker, dst, sseq, va, lane, part, launch, false, false⟩ } }, id)

/-- log2 of the access unit of a packet: the widest, to 8 bytes, to which its address and its length are aligned (R309). -/
def unitOf (va : W64) (n : Nat) : Nat :=
  if va.toNat % 8 = 0 && n % 8 = 0 then 3 else if va.toNat % 4 = 0 && n % 4 = 0 then 2
  else if va.toNat % 2 = 0 && n % 2 = 0 then 1 else 0

/-- The packets of a read, a write and an atomic (R309). -/
def readPacket (va : W64) (n : Nat) : Packet := { blankPacket with op := 1, len := n, size := unitOf va n }
def writePacket (va : W64) (bs : List Byte) : Packet :=
  { blankPacket with op := 0, len := bs.length, size := unitOf va bs.length, data := bs }

/-- A range split at the 256-byte boundaries of its addresses: index, address, length (R309). -/
def pieces (va : W64) (n : Nat) : List (Nat × W64 × Nat) :=
  let a := va.toNat
  (List.range ((a % 256 + n + 255) / 256)).map fun i =>
    let lo := max a (a / 256 * 256 + 256 * i)
    let hi := min (a + n) (a / 256 * 256 + 256 * i + 256)
    (i, BitVec.ofNat 64 lo, hi - lo)

/-- Writes of an engine to a page of another device, which nothing waits for (R309, R398). -/
def State.sendWrite (s : State) (asker : Asker) (ctx : Nat) (va fa : W64) (bs : List Byte) : State :=
  (pieces va bs.length).foldl (fun s (_, a, k) =>
    ((s.noteFar none false (fa + (a - va)) k).sendRequest asker ctx a (fa + (a - va)) 0 0 (writePacket a ((bs.drop (a - va).toNat).take k))).1) s

/-- The requests for which a block or a launch still waits: not answered, or not acknowledged (R167, R172). -/
def State.requestsOf (s : State) (f : Request → Bool) : Bool := s.fab.requests.any fun e => f e.2

/-! ### Ending a warp and a block (R72, R190, R156) -/

/-- A line of a WINDOW region is clean. -/
def State.cleanLine (s : State) (bk r k : Nat) : State :=
  s.modBlock bk fun b => { b with lines := kSet b.lines (lineKey r k) { kGet b.lines (lineKey r k) with dirty := false } }

/-- Write back one dirty line of a WINDOW region of a block to its global address (R156). A line whose page is not resident
is asked for and stays dirty; one on a page of another device is sent there; one that fails its checks is not written, a
refused one with its violation record (R15). -/
def State.writeBackLine (s : State) (ctx bk : Nat) (r : Nat) (g : Region) (k : Nat) : State :=
  let b := s.block bk
  let size := 2 ^ g.line
  let va := g.gbase + BitVec.ofNat 64 (k * size)
  let bs := readBytes b.scratch (g.base + k * size) size
  let die := b.pcore / 44
  match s.check ctx va 1 with
  | .here pa pte => ((s.storeAt pte pa bs).noteGated (some b.launch) false pa size).cleanLine bk r k
  | .away => s.promote ctx va die b.launch
  | .remote fa => (s.sendWrite (.flush bk) ctx va fa bs).cleanLine bk r k
  | .bad c =>
    (if c = cPERM then s.logViolation die va 0 c ctx b.lcore 1 size else s).cleanLine bk r k

def State.flushWindow (s : State) (ctx bk r : Nat) (g : Region) : State :=
  ((List.range (g.len / 2 ^ g.line)).filter fun k =>
    let st := kGet (s.block bk).lines (lineKey r k)
    st.valid && st.dirty).foldl (fun s k => s.writeBackLine ctx bk r g k) s

/-- All warps of a block have gone and no continuation of it is pending (R72, R181). -/
def blockOver (l : Launch) (b : Block) : Bool := b.conts.isEmpty && (List.range (count1 l)).all (goneWarp b)

/-- A WINDOW line of a block has still to be written back, or a write-back has not been acknowledged (R156). -/
def State.flushing (s : State) (bk : Nat) : Bool :=
  let b := s.block bk
  b.regions.any (fun e => e.2.mode == 3 && (List.range (e.2.len / 2 ^ e.2.line)).any fun k =>
    let st := kGet b.lines (lineKey e.1 k)
    st.valid && st.dirty) ||
  s.requestsOf fun q => q.asker == .flush bk

/-- A block completes when all its warps have gone and no continuation of it is pending (R72, R181), and its dirty WINDOW
lines have been written back (R156): its task digest joins the launch's (R346), its room is free, and it is no longer
abandoned (R184). While a write-back waits for its page or its target, LAUNCH_COMPLETION tries again. -/
def State.settleBlock (s : State) (bk : Nat) : State :=
  let b := s.block bk
  let l := s.launch b.launch
  if b.completed || !blockOver l b then s else
  let s := (b.regions.filter (fun e => e.2.mode == 3)).foldl (fun s e => s.flushWindow l.ctx bk e.1 e.2) s
  if s.flushing bk then s else
  let d := (List.range (count1 l)).foldl (fun a w => a + spGet b.digest w) 0
  let s := s.modBlock bk fun b => { b with completed := true, abandoned := false }
  s.modLaunch b.launch fun l => { l with
    done := l.done + 1
    digests := l.digests ++ [(b.index.toNat / 2 ^ (5 + l.record.widths.getD 0 0), d)]
    tally := { l.tally with digest := l.tally.digest + mix (d ^^^ b.index) } }

/-- A range of a block's scratchpad holds an uncorrectable error (R143). -/
def damagedAt (b : Block) (o n : Nat) : Bool := b.damaged.any fun u => u * 32 < o + n && o < u * 32 + 32

/-- The bookkeeping common to a warp's end: it leaves its slot, episodes and the block are settled. -/
def State.endWarp (s : State) (w : Nat) : State :=
  let bk := (s.warp w).block
  (({ s with warps := kErase s.warps w }).settleEpisodes bk).settleBlock bk

/-- R346, R330: the first killed warp of a launch, and how many there are. -/
def tallyKill (t : Tally) (code : Nat) (wid pc : W64) : Tally :=
  { t with
    killedWarps := min 65535 (t.killedWarps + 1)
    killedCode := if t.killedCode = 0 then code else t.killedCode
    killedWid := if t.killedCode = 0 then wid else t.killedWid
    killedPc := if t.killedCode = 0 then pc else t.killedPc }

/-- A warp's $WID, the lane field zero (R24). -/
def warpWid (b : Block) (widx : Nat) : W64 := b.index + BitVec.ofNat 64 (widx * 32)

/-- The record that LAUNCH has read under a number enters the device launch queue. -/
def State.queueTaken (s : State) (num : Nat) : State :=
  { s with eng := { s.eng with
      device := s.eng.device ++ s.eng.accepted.filter (·.num == num)
      accepted := s.eng.accepted.filter (·.num != num) } }

/-- The number of a record that a waiting LAUNCH has read. -/
def launchNum (w : ScalarWait) : Option Nat :=
  match w with
  | .launch t => some t.num
  | _ => none

/-- R190: halt a warp at once and for good, as killed with the code given. A record that its LAUNCH has read is accepted and goes
on to the queue (R324, log 28). -/
def State.haltWarp (s : State) (w code : Nat) (pc : W64) : State :=
  let x := s.warp w
  let s := ([x.wait, x.savedWait].filterMap launchNum).foldl State.queueTaken s
  let b := s.block x.block
  let b := match x.wait with
    | .bwait o => clearObjBits b o x.widx
    | .yield o _ => clearObjBits b o x.widx
    | _ => match x.savedWait with
      | .bwait o => clearObjBits b o x.widx
      | .yield o _ => clearObjBits b o x.widx
      | _ => b
  let s := s.setBlock x.block { b with
    abandoned := true
    killed := b.killed ++ [(x.widx, code, pc)]
    conts := b.conts.filter (·.widx != x.widx) }
  let s := s.modLaunch x.launch fun l => { l with tally := tallyKill l.tally code (warpWid b x.widx) pc }
  s.endWarp w

/-- R143, R356: a warp consumes an uncorrectable error of its scratchpad: its core's bank records it, and the warp halts. -/
def State.consume (s : State) (w off : Nat) : State :=
  let x := s.warp w
  (s.bankError (coreBank (s.block x.block).pcore) 3 0x0001 (BitVec.ofNat 64 off)).haltWarp w 0x11 x.pc

/-! ### Delivery and return -/

/-- R188: TAKING A FAULT. A waiting scalar instruction (BWAIT, YIELD.C, BAR, CWAIT) has issued, so the scalar PC stands
after it. The report registers take the pending report. A warp in handler mode, or whose launch has
no handler, is halted; any other enters handler mode at the handler entry, its lane stream stopped where it stands. -/
def State.deliverFault (s : State) (w : Nat) : State :=
  let x := s.warp w
  match x.pend with
  | none => s
  | some f =>
    let l := s.launch x.launch
    -- a lane fault and SSTEP report the first scalar instruction not issued (R189)
    let lane := f.rep.fault.getLsbD 8
    let x' := { x with rep := if lane || f.sstep then { f.rep with fspc := x.pc } else f.rep, pend := none }
    if x.handler || l.record.handler = 0 then
      (s.setWarp w x').haltWarp w f.code x'.rep.fspc
    else
      s.setWarp w { x' with
        handler := true
        savedWait := keepWait x.wait
        wait := .none
        path0 := { x.path0 with park := none }
        path1 := { x.path1 with park := none }
        link := none
        pc := l.record.sbase + BitVec.ofNat 64 l.record.handler
        lastPc := x.pc }

/-- SSTEP waits until the stepped instruction has completed (R203): a scalar one until its stream waits for nothing, a lane one for
nothing that the scalar stream waits for. -/
def stepDone (x : Warp) (f : Pending) : Bool := !f.sstep || f.rep.fault.getLsbD 8 || x.wait == .none

/-- Deliver the pending fault of the current warp in the step that raised it when nothing issued before it is still to
complete and no mirror has to agree (R188, R343); otherwise FAULT_DELIVERY delivers it. -/
def State.tryDeliver (s : State) : State :=
  let x := s.me
  let stepped := match x.pend with
    | some f => stepDone x f
    | none => false
  if stepped && drained x && x.mirror.isNone then s.deliverFault s.cur.warp else s

/-- A scalar instruction faults at its own address (R57, R189). -/
def State.scalarFault (s : State) (code : Nat) (addr : W64) (access : Nat) : State :=
  (s.raiseScalarAt code addr access 0 s.me.pc).tryDeliver

/-- A lane instruction faults (R139, R189). -/
def State.laneFault (s : State) (code : Nat) (addr : W64) (access : Nat) : State :=
  (s.raiseLane code addr access).tryDeliver

/-- R192: RETURNING FROM A FAULT. Handler mode ends, the scalar stream resumes at $FSPC with the wait it was in, and
the lane paths where delivery left them. -/
def State.eretWarp (s : State) (w : Nat) : State :=
  let x := s.warp w
  let y := { x with
    handler := false, wait := x.savedWait, savedWait := .none, pc := x.rep.fspc, lastPc := x.pc, issuedS := x.issuedS + 1,
    link := none }
  match x.savedWait with
  | .barrierDone sd st => s.setWarp w (setSreg { y with wait := .none } (BitVec.ofNat 6 sd) st)
  | _ => s.setWarp w y

end Sys2Proof.Machine
end

