-- ==== Sys2Proof/Machine/Num.lean ====
section
/-! DEFINITION. Binary number formats, rounding and exact arithmetic (R55, R98 to R103, R116, R117). -/

namespace Sys2Proof.Machine

/-- The value an encoding denotes (R55 Val): a NaN, an infinity, or (−1)^neg × mag × 2^exp. -/
inductive FVal where
  | nan (signalling : Bool)
  | inf (neg : Bool)
  | fin (neg : Bool) (mag : Nat) (exp : Int)
  deriving DecidableEq, Repr, Inhabited

/-- A binary format (R98): exponent bits, trailing significand bits, bias, and what an all-ones exponent means:
0 infinity and NaN, 1 E4M3's single NaN, 2 nothing special. -/
structure Fmt where
  w : Nat
  p : Nat
  bias : Nat
  special : Nat
  deriving DecidableEq, Repr, Inhabited

def fmtF64 : Fmt := ⟨11, 52, 1023, 0⟩
def fmtF32 : Fmt := ⟨8, 23, 127, 0⟩
def fmtF16 : Fmt := ⟨5, 10, 15, 0⟩
def fmtBF16 : Fmt := ⟨8, 7, 127, 0⟩
def fmtE4M3 : Fmt := ⟨4, 3, 7, 1⟩
def fmtE5M2 : Fmt := ⟨5, 2, 15, 0⟩
def fmtE2M3 : Fmt := ⟨2, 3, 1, 2⟩
def fmtE3M2 : Fmt := ⟨3, 2, 3, 2⟩
def fmtE2M1 : Fmt := ⟨2, 1, 1, 2⟩

/-- The element format of a type code (R46, R98). -/
def fmtOf (ty : Nat) : Fmt :=
  match ty with
  | 0x08 => fmtF32
  | 0x09 => fmtF64
  | 0x0A => fmtF16
  | 0x0B => fmtBF16
  | 0x0C => fmtF16
  | 0x0D => fmtBF16
  | 0x0E => fmtE4M3
  | 0x0F => fmtE5M2
  | 0x10 => fmtE2M3
  | 0x11 => fmtE3M2
  | 0x12 => fmtE2M1
  | _ => fmtF32

/-- The flag bits of R77. -/
def fNV : Nat := 1
def fDZ : Nat := 2
def fOF : Nat := 4
def fUF : Nat := 8
def fNX : Nat := 16

/-- The number of bits of a magnitude. -/
def bitLen (n : Nat) : Nat := if n = 0 then 0 else Nat.log2 n + 1

/-- Val (R55, R98, R99). -/
def decodeF (f : Fmt) (b : Nat) : FVal :=
  let neg := b / 2 ^ (f.w + f.p) % 2 == 1
  let e := b / 2 ^ f.p % 2 ^ f.w
  let m := b % 2 ^ f.p
  if e = 2 ^ f.w - 1 ∧ f.special = 0 then
    if m = 0 then .inf neg else .nan (m < 2 ^ (f.p - 1))
  else if e = 2 ^ f.w - 1 ∧ f.special = 1 ∧ m = 2 ^ f.p - 1 then .nan false
  else if e = 0 then .fin neg m (1 - f.bias - f.p)
  else .fin neg (m + 2 ^ f.p) (e - f.bias - f.p)

/-- QNaN (R55); formats without a NaN take +0 (R101). -/
def qnan (f : Fmt) : Nat :=
  match f.special with
  | 0 => (2 ^ f.w - 1) * 2 ^ f.p + 2 ^ (f.p - 1)
  | 1 => 2 ^ (f.w + f.p) - 1
  | _ => 0

/-- The code of the largest finite magnitude. -/
def largestCode (f : Fmt) : Nat :=
  match f.special with
  | 0 => (2 ^ f.w - 1) * 2 ^ f.p - 1
  | 1 => 2 ^ (f.w + f.p) - 2
  | _ => 2 ^ (f.w + f.p) - 1

def infCode (f : Fmt) : Nat := (2 ^ f.w - 1) * 2 ^ f.p

def signCode (f : Fmt) (neg : Bool) : Nat := if neg then 2 ^ (f.w + f.p) else 0

/-- Whether a magnitude with the remainder given is rounded up (R55): `half` compares the discarded part with half a
unit (0 below, 1 equal, 2 above); `odd` says the kept part is odd. Modes 0 RNE, 1 RTZ, 2 RUP, 3 RDN, 4 RNA. -/
def roundUp (rm : Nat) (neg odd : Bool) (half : Nat) : Bool :=
  match rm with
  | 0 => half = 2 || (half = 1 && odd)
  | 1 => false
  | 2 => !neg
  | 3 => neg
  | _ => 1 ≤ half

/-- A magnitude `n × 2^-t` rounded to an integer, and whether that is inexact. -/
def roundShift (rm : Nat) (neg : Bool) (n t : Nat) : Nat × Bool :=
  let q := n / 2 ^ t
  let r := n % 2 ^ t
  if r = 0 then (q, false) else
  let half := if 2 * r < 2 ^ t then 0 else if 2 * r = 2 ^ t then 1 else 2
  (if roundUp rm neg (q % 2 == 1) half then q + 1 else q, true)

/-- A magnitude rounded to a multiple of `2^q`, in those units. -/
def roundTo (rm : Nat) (neg : Bool) (mag : Nat) (e q : Int) : Nat × Bool :=
  if q ≤ e then (mag * 2 ^ (e - q).toNat, false) else roundShift rm neg mag (q - e).toNat

/-- Round (R55) of a value into a format: the code and the flags. An exact zero keeps its sign. An infinity that becomes
the largest magnitude raises OF and, as the result differs from it, NX (DEDUCED, log 23). -/
def roundF (f : Fmt) (x : FVal) (rm : Nat) : Nat × Nat :=
  match x with
  | .nan _ => (qnan f, if f.special = 2 then fNV else 0)
  | .inf neg =>
    if f.special = 0 then (signCode f neg + infCode f, 0) else (signCode f neg + largestCode f, fOF ||| fNX)
  | .fin neg mag e =>
    if mag = 0 then (signCode f neg, 0) else
    let top : Int := (bitLen mag : Int) - 1 + e
    let emin : Int := 1 - f.bias
    let q : Int := max top emin - f.p
    let (m, inexact) := roundTo rm neg mag e q
    let code := (q - (emin - f.p)).toNat * 2 ^ f.p + m
    if code > largestCode f then
      if f.special ≠ 0 then (signCode f neg + largestCode f, fOF ||| fNX)
      else
        let toInf := rm = 0 || rm = 4 || (rm = 2 && !neg) || (rm = 3 && neg)
        (signCode f neg + (if toInf then infCode f else largestCode f), fOF ||| fNX)
    else if !inexact then (signCode f neg + code, 0)
    else
      -- tiny: rounded to the significand precision with the exponent unbounded, below the smallest normal
      let qu : Int := top - f.p
      let (mu, _) := roundTo rm neg mag e qu
      let tiny := (bitLen mu : Int) - 1 + qu < emin
      (signCode f neg + code, if tiny then fNX ||| fUF else fNX)

/-! ## Exact arithmetic on values -/

def isNan : FVal → Bool
  | .nan _ => true
  | _ => false
def isSnan : FVal → Bool
  | .nan s => s
  | _ => false
def isInf : FVal → Bool
  | .inf _ => true
  | _ => false
def isZero : FVal → Bool
  | .fin _ m _ => m == 0
  | _ => false
def isNeg : FVal → Bool
  | .nan _ => false
  | .inf n => n
  | .fin n _ _ => n

/-- The signed integer `±mag` in units of `2^q`, `q ≤ exp`. -/
def scaled (x : FVal) (q : Int) : Int :=
  match x with
  | .fin neg m e => if neg then -((m * 2 ^ (e - q).toNat : Nat) : Int) else ((m * 2 ^ (e - q).toNat : Nat) : Int)
  | _ => 0

def expOf : FVal → Int
  | .fin _ _ e => e
  | _ => 0

/-- NV of the operands: a signalling NaN among them (R99, R116). -/
def nvOf (xs : List FVal) : Nat := if xs.any isSnan then fNV else 0

/-- The value of a signed integer in units of `2^q`; an exact zero takes the sign given. -/
def ofScaled (v q : Int) (zeroNeg : Bool) : FVal := if v = 0 then .fin zeroNeg 0 0 else .fin (v < 0) v.natAbs q

def negF : FVal → FVal
  | .nan s => .nan s
  | .inf n => .inf (!n)
  | .fin n m e => .fin (!n) m e

/-- a + b exactly, with the flags of R116 and the zero's sign of R102. -/
def addF (a b : FVal) (rm : Nat) : FVal × Nat :=
  if isNan a || isNan b then (.nan false, nvOf [a, b]) else
  match a, b with
  | .inf n, .inf k => if n = k then (.inf n, 0) else (.nan false, fNV)
  | .inf n, _ => (.inf n, 0)
  | _, .inf k => (.inf k, 0)
  | _, _ =>
    let q := min (expOf a) (expOf b)
    let v := scaled a q + scaled b q
    let zn := if isZero a && isZero b && isNeg a == isNeg b then isNeg a else rm == 3
    (ofScaled v q zn, 0)

/-- a × b exactly (R116). -/
def mulF (a b : FVal) : FVal × Nat :=
  if isNan a || isNan b then (.nan false, nvOf [a, b]) else
  let neg := isNeg a != isNeg b
  match a, b with
  | .fin _ m e, .fin _ k g => (.fin neg (m * k) (e + g), 0)
  | _, _ => if isZero a || isZero b then (.nan false, fNV) else (.inf neg, 0)

/-- a × b + c exactly (R116). -/
def fmaF (a b c : FVal) (rm : Nat) : FVal × Nat :=
  if isNan a || isNan b || isNan c then (.nan false, nvOf [a, b, c])
  else
    let (p, f) := mulF a b
    if isNan p then (.nan false, f) else addF p c rm

/-- A magnitude with one more bit that records whether something was cut off below it. -/
def jam (neg : Bool) (n : Nat) (e : Int) (sticky : Bool) : FVal := .fin neg (2 * n + (if sticky then 1 else 0)) (e - 1)

/-- a / b with 70 bits of quotient and a sticky bit; a and b finite, b not zero. -/
def ratio (neg : Bool) (m : Nat) (e : Int) (k : Nat) (g : Int) : FVal :=
  let s := 70 + bitLen k
  let n := m * 2 ^ s
  jam neg (n / k) (e - g - s) (n % k != 0)

/-- FDIV's value (R116). -/
def divF (a b : FVal) : FVal × Nat :=
  if isNan a || isNan b then (.nan false, nvOf [a, b]) else
  let neg := isNeg a != isNeg b
  match a, b with
  | .inf _, .inf _ => (.nan false, fNV)
  | .inf _, _ => (.inf neg, 0)
  | _, .inf _ => (.fin neg 0 0, 0)
  | .fin _ m e, .fin _ k g =>
    if k = 0 then (if m = 0 then (.nan false, fNV) else (.inf neg, fDZ))
    else if m = 0 then (.fin neg 0 0, 0)
    else (ratio neg m e k g, 0)
  | _, _ => (.nan false, 0)

/-- Newton's step for the integer square root; the iterates fall until they reach it. -/
def isqrtFrom (fuel n x : Nat) : Nat :=
  match fuel with
  | 0 => x
  | k + 1 => if (x + n / x) / 2 < x then isqrtFrom k n ((x + n / x) / 2) else x

/-- ⌊√n⌋. -/
def isqrt (n : Nat) : Nat := if n = 0 then 0 else isqrtFrom (bitLen n + 8) n (2 ^ (bitLen n / 2 + 1))

/-- √(m × 2^e) with 64 more bits than it needs and a sticky bit. -/
def rootF (m : Nat) (e : Int) : FVal :=
  let odd := e % 2 ≠ 0
  let n := (if odd then 2 * m else m) * 2 ^ 128
  let g := (if odd then e - 1 else e) - 128
  let r := isqrt n
  jam false r (g / 2) (r * r != n)

/-- FSQRT's value (R116). -/
def sqrtF (a : FVal) : FVal × Nat :=
  match a with
  | .nan s => (.nan false, if s then fNV else 0)
  | .inf neg => if neg then (.nan false, fNV) else (.inf false, 0)
  | .fin neg m e =>
    if m = 0 then (.fin neg 0 0, 0) else if neg then (.nan false, fNV) else (rootF m e, 0)

/-- FRCP's value (R116). -/
def rcpF (a : FVal) : FVal × Nat :=
  match a with
  | .nan s => (.nan false, if s then fNV else 0)
  | .inf neg => (.fin neg 0 0, 0)
  | .fin neg m e => if m = 0 then (.inf neg, fDZ) else (ratio neg 1 0 m e, 0)

/-- FRSQ's value (R116): 1/√a from √(1/a). -/
def rsqF (a : FVal) : FVal × Nat :=
  match a with
  | .nan s => (.nan false, if s then fNV else 0)
  | .inf neg => if neg then (.nan false, fNV) else (.fin false 0 0, 0)
  | .fin neg m e =>
    if m = 0 then (.inf neg, fDZ) else if neg then (.nan false, fNV)
    else
      -- 1/√(m·2^e) = √(2^(2k)/m) · 2^(-k - e/2), with e made even
      let odd := e % 2 ≠ 0
      let m := if odd then 2 * m else m
      let e := if odd then e - 1 else e
      let k := 96 + bitLen m
      let n := 2 ^ (2 * k) / m
      let r := isqrt n
      (jam false r (-(k : Int) - e / 2) (r * r * m != 2 ^ (2 * k)), 0)

/-! ## The transcendental functions, to more bits than a rounding of FP32 can ask for (log 11) -/

/-- The fixed-point precision of the functions below. -/
def tBits : Nat := 192

/-- `2^(2^-k) × 2^tBits` for k = 1, 2, …, by repeated square roots, applied to the fraction bits given, first bit
first: the product over the bits that are set. -/
def exp2Bits (bits : List Bool) (root acc : Nat) : Nat :=
  match bits with
  | [] => acc
  | b :: t =>
    let root := isqrt (root * 2 ^ tBits)
    exp2Bits t root (if b then acc * root / 2 ^ tBits else acc)

/-- The `n` bits of a fraction `f / 2^n`, most significant first. -/
def fracBits (f n : Nat) : List Bool := (List.range n).map fun i => f / 2 ^ (n - 1 - i) % 2 == 1

/-- 2^(±m × 2^e) for a finite nonzero argument. An integer argument is exact; below 2^-150 the result is 1 with a part
cut off; from 2^20 on it lies outside every format. -/
def exp2Fin (neg : Bool) (m : Nat) (e : Int) : FVal :=
  let top : Int := (bitLen m : Int) - 1 + e
  if top ≥ 20 then jam false 1 (if neg then -5000 else 5000) true
  else if top < -150 then
    if neg then jam false (2 ^ 192 - 1) (-192) true else jam false (2 ^ 192) (-192) true
  else
    -- the argument is v / 2^t exactly
    let t := (max 0 (-e)).toNat
    let v : Int := (if neg then -1 else 1) * ((m * 2 ^ (max 0 e).toNat : Nat) : Int)
    let i := v / (2 ^ t : Nat)
    let f := (v % (2 ^ t : Nat)).toNat
    if f = 0 then .fin false 1 i
    else jam false (exp2Bits (fracBits f t) (2 ^ (tBits + 1)) (2 ^ tBits)) (i - tBits) true

/-- The same to `q` bits below the point; each bit adds an error of less than 8 units below the true value. -/
def exp2At (q : Nat) (bits : List Bool) (root acc : Nat) : Nat :=
  match bits with
  | [] => acc
  | b :: t =>
    let root := isqrt (root * 2 ^ q)
    exp2At q t root (if b then acc * root / 2 ^ q else acc)

/-- Two numbers that 2^d × 2^p lies between, for d ≤ 0; they are equal where 2^d × 2^p is an integer. -/
def exp2Ends (p : Nat) (d : FVal) : Nat × Nat :=
  match d with
  | .fin neg m e =>
    let t := (max 0 (-e)).toNat
    let v : Int := (if neg then -1 else 1) * ((m * 2 ^ (max 0 e).toNat : Nat) : Int)
    let i := v / (2 ^ t : Nat)
    let f := (v % (2 ^ t : Nat)).toNat
    if i < -(p : Int) then (0, 1)
    else if f = 0 then (2 ^ ((p : Int) + i).toNat, 2 ^ ((p : Int) + i).toNat)
    else
      let y := exp2At (p + 16) (fracBits f t) (2 ^ (p + 17)) (2 ^ (p + 16))
      let k := (16 - i).toNat
      (y / 2 ^ k, (y + 8 * t + 8) / 2 ^ k + 1)
  | _ => (0, 0)

/-- FEXP2's value (R116). -/
def exp2F (a : FVal) : FVal × Nat :=
  match a with
  | .nan s => (.nan false, if s then fNV else 0)
  | .inf neg => (if neg then .fin false 0 0 else .inf false, 0)
  | .fin neg m e => (if m = 0 then .fin false 1 0 else exp2Fin neg m e, 0)

/-- The bits of log2 of `x / 2^320`, 1 ≤ that < 2, by repeated squaring: `n` of them, appended to `acc`. -/
def log2Bits (n x acc : Nat) : Nat :=
  match n with
  | 0 => acc
  | n + 1 =>
    let y := x * x / 2 ^ 320
    if y ≥ 2 ^ 321 then log2Bits n (y / 2) (2 * acc + 1) else log2Bits n y (2 * acc)

/-- log2 of a finite positive value; exact for a power of two. -/
def log2Fin (m : Nat) (e : Int) : FVal :=
  let k : Int := (bitLen m : Int) - 1 + e
  let n := bitLen m - 1
  if m = 2 ^ n then .fin (k < 0) k.natAbs 0
  else
    let bits := log2Bits 128 (m * 2 ^ 320 / 2 ^ n) 0
    if k ≥ 0 then jam false (k.toNat * 2 ^ 128 + bits) (-128) true
    else jam true (k.natAbs * 2 ^ 128 - bits - 1) (-128) true

/-- FLOG2's value (R116). -/
def log2F (a : FVal) : FVal × Nat :=
  match a with
  | .nan s => (.nan false, if s then fNV else 0)
  | .inf neg => if neg then (.nan false, fNV) else (.inf false, 0)
  | .fin neg m e =>
    if m = 0 then (.inf true, fDZ) else if neg then (.nan false, fNV) else (log2Fin m e, 0)

/-- ⌊π × 2^256⌋. -/
def piBits : Nat := 0x3243f6a8885a308d313198a2e03707344a4093822299f31d0082efa98ec4e6c89

/-- Σ ± x^k / k! from a first term on, in units of 2^-tBits: the alternating series of sine and cosine. `x2` is x². -/
def taylor (fuel k term x2 : Nat) (acc : Int) (neg : Bool) : Int :=
  match fuel with
  | 0 => acc
  | n + 1 =>
    let t := term * x2 / 2 ^ tBits / ((k + 1) * (k + 2))
    taylor n (k + 2) t x2 (if neg then acc - t else acc + t) (!neg)

/-- cos and sin of 2π·t/2^48 for t up to one eighth of a turn, in units of 2^-tBits. -/
def cosSinSmall (t : Nat) : Int × Int :=
  let x := 2 * piBits * t / 2 ^ (256 + 48 - tBits)
  let x2 := x * x / 2 ^ tBits
  (taylor 24 0 (2 ^ tBits) x2 (2 ^ tBits : Nat) true, taylor 24 1 x x2 x true)

/-- cos and sin of 2π·t/2^48, t below 2^48, as values; a multiple of a quarter turn is exact, its zeros +0 (R121). -/
def cosSin (t : Nat) : FVal × FVal :=
  let quad := t / 2 ^ 46
  let r := t % 2 ^ 46
  let one : FVal := .fin false 1 0
  let zero : FVal := .fin false 0 0
  let v (x : Int) : FVal := jam false x.toNat (-(tBits : Int)) true
  let (c, s) :=
    if r = 0 then (one, zero)
    else if r ≤ 2 ^ 45 then ((v (cosSinSmall r).1), (v (cosSinSmall r).2))
    else ((v (cosSinSmall (2 ^ 46 - r)).2), (v (cosSinSmall (2 ^ 46 - r)).1))
  let neg (x : FVal) : FVal := if isZero x then x else negF x
  match quad with
  | 0 => (c, s)
  | 1 => (neg s, c)
  | 2 => (neg c, neg s)
  | _ => (s, neg c)

/-! ## Comparison (R117, R118) -/

/-- a < b of two values that are not NaN; −0 equals +0. -/
def ltF (a b : FVal) : Bool :=
  match a, b with
  | .inf n, .inf k => n && !k
  | .inf n, _ => n
  | _, .inf k => !k
  | _, _ => let q := min (expOf a) (expOf b); scaled a q < scaled b q

def eqF (a b : FVal) : Bool :=
  match a, b with
  | .inf n, .inf k => n == k
  | .inf _, _ => false
  | _, .inf _ => false
  | _, _ => let q := min (expOf a) (expOf b); scaled a q == scaled b q

/-- FMIN and FMAX on codes (R117): −0 below +0; one NaN gives the other operand; two give QNaN. -/
def minmaxF (f : Fmt) (max : Bool) (x y : Nat) : Nat × Nat :=
  let a := decodeF f x
  let b := decodeF f y
  let nv := nvOf [a, b]
  if isNan a && isNan b then (qnan f, nv)
  else if isNan a then (y, nv)
  else if isNan b then (x, nv)
  else
    let less := ltF a b || (eqF a b && isNeg a && !isNeg b)
    (if less != max then x else y, nv)

/-- The conditions of R118. -/
def condF (cc : Nat) (a b : FVal) : Bool :=
  let un := isNan a || isNan b
  match cc with
  | 0 => !un && eqF a b
  | 1 => un || !eqF a b
  | 2 => !un && ltF a b
  | 3 => !un && (ltF b a || eqF a b)
  | 4 => !un && (ltF a b || eqF a b)
  | 5 => !un && ltF b a
  | 6 => !un
  | _ => un

/-- The class word's bit (R119). -/
def classBit (f : Fmt) (b : Nat) : Nat :=
  match decodeF f b with
  | .nan s => if s then 0 else 1
  | .inf n => if n then 2 else 9
  | .fin n m _ => if m = 0 then (if n then 5 else 6) else if m < 2 ^ f.p then (if n then 4 else 7) else (if n then 3 else 8)

/-! ## Integers as values -/

/-- The bits and signedness of an integer element type (R46, R106). -/
def intBits (ty : Nat) : Nat :=
  match ty with
  | 0 => 32 | 1 => 32 | 2 => 64 | 3 => 64 | 4 => 16 | 5 => 16 | 6 => 8 | _ => 8
def intSigned (ty : Nat) : Bool := ty % 2 == 0

/-- An element read as iN or nN. -/
def intVal (bits : Nat) (signed : Bool) (x : Nat) : Int :=
  if signed && x % 2 ^ bits ≥ 2 ^ (bits - 1) then (x % 2 ^ bits : Nat) - (2 ^ bits : Nat) else ((x % 2 ^ bits : Nat) : Int)

/-- An integer's N low bits. -/
def intCode (bits : Nat) (v : Int) : Nat := (v % (2 ^ bits : Nat)).toNat

def intLeast (bits : Nat) (signed : Bool) : Int := if signed then -((2 ^ (bits - 1) : Nat) : Int) else 0
def intGreatest (bits : Nat) (signed : Bool) : Int :=
  if signed then ((2 ^ (bits - 1) : Nat) : Int) - 1 else ((2 ^ bits : Nat) : Int) - 1

def ofInt (v : Int) : FVal := .fin (v < 0) v.natAbs 0

/-- A finite value rounded to an integer (R120): the integer, and whether that is inexact. -/
def toInt (x : FVal) (rm : Nat) : Int × Bool :=
  match x with
  | .fin neg m e =>
    let (n, inexact) := roundTo rm neg m e 0
    (if neg then -(n : Int) else n, inexact)
  | _ => (0, false)

/-- FCVT into an integer type (R120): the code and the flags. -/
def cvtInt (bits : Nat) (signed : Bool) (x : FVal) (rm : Nat) : Nat × Nat :=
  match x with
  | .nan _ => (0, fNV)
  | .inf neg => (intCode bits (if neg then intLeast bits signed else intGreatest bits signed), fNV)
  | .fin _ _ _ =>
    let (z, inexact) := toInt x rm
    if z < intLeast bits signed then (intCode bits (intLeast bits signed), fNV)
    else if z > intGreatest bits signed then (intCode bits (intGreatest bits signed), fNV)
    else (intCode bits z, if inexact then fNX else 0)

/-! ## Scale formats (R103) -/

/-- Val(E3M5, c); 0xFF is NaN. -/
def decodeE3M5 (c : Nat) : FVal :=
  if c = 0xFF then .nan false
  else if c / 32 = 0 then .fin false c (-7)
  else .fin false (32 + c % 32) ((c / 32 : Nat) - 8)

/-- Val(E8M0, c); 0xFF is NaN. -/
def decodeE8M0 (c : Nat) : FVal := if c = 0xFF then .nan false else .fin false 1 ((c : Int) - 127)

end Sys2Proof.Machine
end

