-- ==== Sys2Proof/Machine/Operands.lean ====
section
/-! DEFINITION. The operand forms of the lane words: guards, registers, pairs, argument registers, literals, packed
elements, and the issue rules that come before an instruction's own effect (R45 to R49, R55, R80, R82). -/

namespace Sys2Proof.Machine

/-- The argument registers a0 to a7 of the running block. -/
def areg (x : Warp) (k : Nat) : W64 := match x.running with
  | some b => b.args.getD k 0
  | none => 0

/-- active(g) (R47). -/
def active (x : Warp) (p : Nat) (f : LaneF) : W32 :=
  let m := (warpPath x p).mask
  if f.gn = 1 then m &&& ~~~(mreg x p f.g.toNat) else m &&& mreg x p f.g.toNat

/-- A lane register read as an operand of the type: a pair for pair types, else zero-extended. -/
def readV (x : Warp) (pair : Bool) (n l : Nat) : Nat := if pair then (vpair x n l).toNat else (vreg x n l).toNat

/-- Operand A (R55). -/
def opA (x : Warp) (f : LaneF) (l : Nat) : Nat := readV x (isPair f.ty) f.va.toNat l

/-- Operand B of an instruction whose register or argument it is (R43). -/
def opReg (x : Warp) (f : LaneF) (l : Nat) : Nat :=
  if f.ab = 1 then (if isPair f.ty then (areg x f.vb.toNat).toNat else (areg x f.vb.toNat).toNat % 2 ^ 32)
  else readV x (isPair f.ty) f.vb.toNat l

/-- OpB (R55): on a two-source instruction a literal replaces it. -/
def opB (x : Warp) (f : LaneF) (l : Nat) : Nat := if f.lc = 1 then f.c.toNat else opReg x f l

/-- OpC (R55). -/
def opC (x : Warp) (f : LaneF) (l : Nat) : Nat := if f.lc = 1 then f.c.toNat else readV x (isPair f.ty) f.vc.toNat l

/-- The width of an element and the number of them in a value of the type (R46). -/
def elemBits (ty : Nat) : Nat :=
  match ty with
  | 2 => 64 | 3 => 64 | 9 => 64 | 0x13 => 64 | 4 => 16 | 5 => 16 | 0x0A => 16 | 0x0B => 16 | 6 => 8 | 7 => 8 | _ => 32
def elemCount (ty : Nat) : Nat :=
  match ty with
  | 4 => 2 | 5 => 2 | 0x0A => 2 | 0x0B => 2 | 6 => 4 | 7 => 4 | _ => 1

/-- Elem (R55). -/
def elem (bits x e : Nat) : Nat := x / 2 ^ (bits * e) % 2 ^ bits

/-- The value whose elements are given, first lowest. -/
def packElems (bits : Nat) : List Nat → Nat
  | [] => 0
  | e :: t => e % 2 ^ bits + 2 ^ bits * packElems bits t

/-- The register writes of one lane's result: one register, or a pair (R45). -/
def resultW (pair : Bool) (n l v : Nat) : List RegW :=
  if pair then [⟨n, l, BitVec.ofNat 32 v⟩, ⟨n + 1, l, BitVec.ofNat 32 (v / 2 ^ 32)⟩] else [⟨n, l, BitVec.ofNat 32 v⟩]

/-- The lane register numbers of an operand. -/
def regsOf (pair : Bool) (n : BitVec 8) : List Nat := if pair then [n.toNat, n.toNat + 1] else [n.toNat]
def regsB (f : LaneF) : List Nat := if f.ab = 1 then [] else regsOf (isPair f.ty) f.vb

/-- Registers named by destination and A; by destination, A and OpB; by destination, A, B and OpC. -/
def useDA (f : LaneF) : List Nat := regsOf (isPair f.ty) f.vd ++ regsOf (isPair f.ty) f.va
def useDAB (f : LaneF) : List Nat := useDA f ++ (if f.lc = 1 then [] else regsB f)
def useDABC (f : LaneF) : List Nat := useDA f ++ regsB f ++ (if f.lc = 1 then [] else regsOf (isPair f.ty) f.vc)
/-- The same where the destination is a mask. -/
def useAB (f : LaneF) : List Nat := regsOf (isPair f.ty) f.va ++ (if f.lc = 1 then [] else regsB f)

/-- Lane `k` of register `n` as a cross-lane instruction reads it (R80). -/
def crossV (x : Warp) (p : Nat) (pair : Bool) (n k : Nat) : Nat :=
  if hasLane (warpPath x p).mask k then readV x pair n k else 0

/-! ## Before an instruction issues (R49, R45, R201, R230) -/

/-- What the checks common to every lane instruction say: go on, or the state the attempt leaves. -/
inductive Pre where
  | go
  | stop (s : State)
  deriving DecidableEq, Repr, Inhabited

/-- The lane registers held by MLOOP jobs (R229, R230). -/
def heldReg (x : Warp) (n : Nat) : Bool := x.held.any fun h => h.2 ≤ n && n < h.2 + 32

/-- R358: report a park on a poisoned sector once for each path or job and sector. -/
def State.reportPoison (s : State) (key kind die launch : Nat) (va requester : W64) : State :=
  let sector := BitVec.ofNat 64 (va.toNat / 32 * 32)
  let mark := (key, (s.launch launch).ctx, sector)
  if s.mgmt.reported.contains mark then s
  else { s with mgmt := { s.mgmt with
    reports := s.mgmt.reports ++ [⟨kind, die, launch, sector, requester, none, false, false⟩]
    reported := s.mgmt.reported ++ [mark] } }

/-- The key of a warp's path (0, 1) or scalar stream (2) among the poison reports. -/
def streamKey (w p : Nat) : Nat := w * 4 + p

/-- R143: the path waits for its outstanding loads, those whose window has closed or all of them; a lane of one that
met a poisoned sector is reported as a park. -/
def State.holdPath (s : State) (every : Bool) : State :=
  let requester := warpWid s.myBlock s.me.widx
  let key := streamKey s.cur.warp s.cur.path
  (s.myPath.outs.filter fun j => every || j.left == 0).foldl (fun s j =>
    j.rereads.foldl (fun s r => s.reportPoison key 0 s.myDie s.me.launch r.va requester) s) s

/-- The absent registers that an instruction names are noted: REGISTER_MISS fetches them (R201). -/
def noteMiss (x : Warp) (regs : List Nat) : Warp :=
  if regs.any x.absent.contains then { x with missed := regs.filter x.absent.contains } else x

/-- R49, R45, R230, R201 in the order of R12: an outstanding instruction whose window has closed makes this one wait;
naming a member of a destination set faults LOOKAHEAD; a register at or above vregs faults OPERAND; a held or absent
register makes it wait. -/
def State.lanePre (s : State) (regs masks : List Nat) : Pre :=
  let x := s.me
  let q := s.myPath
  if q.outs.any (fun j => j.left == 0) then .stop (s.holdPath false)
  else if q.outs.any (fun j => regs.any j.regs.contains || masks.any j.masks.contains) then
    .stop (s.laneFault 0x06 0 0)
  else if regs.any (fun n => s.myLaunch.record.vregs ≤ n) then .stop (s.laneFault cOPERAND 0 0)
  else if regs.any (heldReg x) || regs.any x.absent.contains then .stop (s.setMe (noteMiss x regs))
  else .go

/-- Nothing is left for an outstanding instruction to wait for. -/
def outReady (j : Outst) : Bool := j.rereads.isEmpty && j.gates.isEmpty && j.asOf.isNone && j.stamps.isEmpty

/-- The path has accesses that it has issued and that are not performed: loads of poisoned sectors, atomics at an order
gate, as-of loads that wait. A later access of the path waits for them (R147, R160 to R164; DESIGN CHOICE, log 41). -/
def memHeld (q : Path) : Bool := q.outs.any fun j => !j.rereads.isEmpty || !j.gates.isEmpty || j.asOf.isSome

/-- The masks an instruction reads through its guard. -/
def guardMask (f : LaneF) : List Nat := if f.g = 0 then [] else [f.g.toNat]

/-- A mask as a member of a destination set; a write to m0 is discarded and is no member. -/
def maskD (k : Nat) : List Nat := if k = 0 then [] else [k]

/-- An instruction has issued: each outstanding one of the path has one less left (R49), and the path goes on. -/
def stepPath (q : Path) : Path :=
  { q with
    pc := q.pc + 12
    outs := q.outs.map (fun j => { j with left := j.left - 1 })
    io := none
    park := none
    retWait := false
    last := q.pc
    reserved := none
    targets := none }

/-- The warp `x` after its short lane instruction of path `p` has issued. -/
def laneIssued (x : Warp) (p : Nat) : Warp :=
  { setPath x p (stepPath (warpPath x p)) with lastPath := p, issuedL := x.issuedL + 1 }

/-- A short lane instruction's effect: `f` applied to the warp, and the path goes on. -/
def State.laneDone (s : State) (x : Warp) : State := s.setMe (laneIssued x s.cur.path)

/-- An outstanding record with nothing to wait for. -/
def outst (left : Nat) (regs masks : List Nat) (ws : List RegW) (ms : List MaskW) : Outst :=
  ⟨left, regs, masks, ws, ms, [], [], none, [], none, 0⟩

/-- A long lane instruction issues: it becomes outstanding with its lookahead count (R49). -/
def State.laneLong (s : State) (o : Outst) : State :=
  let x := laneIssued s.me s.cur.path
  let q := warpPath x s.cur.path
  s.setMe (setPath x s.cur.path { q with outs := q.outs ++ [{ o with num := x.issuedL }] })

/-! ### The value queue of a mirrored pair (R342) -/

/-- The entries of an instruction that are still to arrive take their values, in order. -/
def fillEntries (lane : Bool) (num : Nat) : List ValueEntry → List (List W32) → List ValueEntry
  | [], _ => []
  | e :: es, vs =>
    if e.lane == lane && e.num == num && e.value.isNone then
      { e with value := some (vs.headD []) } :: fillEntries lane num es (vs.drop 1)
    else e :: fillEntries lane num es vs

/-- Values arrive in the queue of a warp's pair. -/
def fillQueue (x : Warp) (lane : Bool) (num : Nat) (vs : List (List W32)) : Warp :=
  { x with mirror := x.mirror.map fun m => { m with queue := fillEntries lane num m.queue vs } }

/-- The values of a lane instruction's register writes, lane by lane. -/
def laneValues (ws : List RegW) : List (List W32) :=
  (List.range 32).filterMap fun l =>
    let v := (ws.filter (·.lane == l)).map (·.val)
    if v.isEmpty then none else some v

/-- Run a lane instruction's own effect after the common checks. -/
def State.laneRun (s : State) (regs masks : List Nat) (body : State → State) : State :=
  match s.lanePre regs masks with
  | .stop t => t
  | .go => body s

/-- The same for an instruction that accesses memory: it waits behind the accesses that its path has not performed. -/
def State.memRun (s : State) (regs masks : List Nat) (body : State → State) : State :=
  s.laneRun regs masks fun s => if memHeld s.myPath then s.holdPath true else body s

/-- R82: while the other path is live, an instruction that writes a return register waits, unless it is slot 0's and
slot 1 waits at such an instruction too. -/
def State.retHeld (s : State) : Bool :=
  let x := s.me
  let other := warpPath x (1 - s.cur.path)
  other.live && !(s.cur.path == 0 && other.retWait)

/-- Mark the path as waiting at an instruction that writes a return register. -/
def State.markRet (s : State) : State := s.setMyPath { s.myPath with retWait := true }

end Sys2Proof.Machine
end

