-- ==== Sys2Proof/Machine/Flags.lean ====
section
/-! DEFINITION. The floating-point and decimal flags and their traps (R56, R77). -/

namespace Sys2Proof.Machine

/-- OR flags into $FPFLAGS. -/
def orFp (x : Warp) (fl : Nat) : Warp := { x with fpflags := x.fpflags ||| BitVec.ofNat 64 fl }
/-- OR flags into $DFLAGS. -/
def orDec (x : Warp) (fl : Nat) : Warp := { x with dflags := x.dflags ||| BitVec.ofNat 64 fl }

/-- A raised flag is enabled in a trap register. -/
def trapHit (traps : W64) (fl : Nat) : Bool := traps &&& BitVec.ofNat 64 (fl % 32) != 0

/-- The lookahead with which a long instruction issues: none while a trap register enables one of the flags it can raise,
so that its path waits for its completion (R132). -/
def lookOf (traps : W64) (can la : Nat) : Nat := if trapHit traps can then 0 else la

/-- R56: the flags raised are ORed; when one is enabled, nothing else is written and the instruction ends with FP_TRAP,
otherwise `done` gives the state its effect leaves. -/
def State.fpEnd (s : State) (fl : Nat) (done : State → State) : State :=
  let t := s.setMe (orFp s.me fl)
  if trapHit s.me.fptraps fl then t.laneFault 0x08 0 0 else done t

/-- The same for the decimal flags, with DEC_TRAP. -/
def State.decEnd (s : State) (fl : Nat) (done : State → State) : State :=
  let t := s.setMe (orDec s.me fl)
  if trapHit s.me.dtraps fl then t.laneFault 0x09 0 0 else done t

/-- A short instruction that writes the registers given. -/
def State.writeRegs (s : State) (ws : List RegW) : State := s.laneDone (applyRegWrites s.me ws)

/-- A short instruction that writes a mask. -/
def State.writeMask (s : State) (k : Nat) (lanes bits : W32) : State := s.laneDone (setMask s.me k lanes bits)

/-- The union of the flags of a list of results. -/
def orFlags (l : List (Nat × Nat)) : Nat := l.foldl (fun a e => a ||| e.2) 0

/-- An exact binary result with its flags, rounded to a format (R116). -/
def roundCode (fm : Fmt) (rm : Nat) (r : FVal × Nat) : Nat × Nat :=
  let (c, g) := roundF fm r.1 rm
  (c, r.2 ||| g)

/-- One floating addition on codes. -/
def addCode (fm : Fmt) (rm a b : Nat) : Nat × Nat := roundCode fm rm (addF (decodeF fm a) (decodeF fm b) rm)

end Sys2Proof.Machine
end

