-- ==== Sys2Proof/Machine/Access.lean ====
section
/-! DEFINITION. Accesses to memory: what a warp's load, store or atomic does from its checks to its completion, on this
device and through the fabric (R62 to R65, R134 to R146, R309, R314, R345, R350). -/

namespace Sys2Proof.Machine

/-! ## Read-modify-writes -/

/-- The bytes an atomic of a type moves. -/
def rmwBytes (ty : Nat) : Nat := if ty = 2 ∨ ty = 3 ∨ ty = 9 then 8 else 4

/-- The new value of a read-modify-write; none where a cas fails (R65, R144, R145). -/
def rmwNew (r : Rmw) (old : W64) : Option W64 :=
  let bits := 8 * rmwBytes r.ty
  let o := old.toNat % 2 ^ bits
  let b := r.b.toNat % 2 ^ bits
  let flt := r.ty = 8 ∨ r.ty = 9
  let f := fmtOf r.ty
  let signed := r.ty = 0 ∨ r.ty = 2
  let out (n : Nat) : Option W64 := some (BitVec.ofNat 64 (n % 2 ^ bits))
  match r.op with
  | 0 => out b
  | 1 => if flt then out (roundF f (addF (decodeF f o) (decodeF f b) 0).1 0).1 else out (o + b)
  | 2 => out (o &&& b)
  | 3 => out (o ||| b)
  | 4 => out (o ^^^ b)
  | 5 => if flt then out (minmaxF f true o b).1
         else out (if intVal bits signed o < intVal bits signed b then b else o)
  | 6 => if flt then out (minmaxF f false o b).1
         else out (if intVal bits signed o < intVal bits signed b then o else b)
  | _ => if o = r.cmp.toNat % 2 ^ bits then out b else none

/-- The value an atomic leaves in the word: for a cas that does not write, the old one (R352). -/
def rmwAfter (r : Rmw) (old : W64) : W64 := (rmwNew r old).getD old

/-! ## Effects of stores beyond the bytes -/

/-- A store of the current warp to this device's memory: the bytes, and the gates they meet. -/
def State.warpStore (s : State) (pte : W64) (pa : Nat) (bs : List Byte) : State :=
  let l := s.me.launch
  (s.storeAt pte pa bs).noteGated (some l) false pa bs.length

/-- The digest terms of a warp's store (R345). -/
def State.digest (s : State) (id : Nat) (ea : W64) (bs : List Byte) : State :=
  let x := s.me
  s.modBlock x.block fun b => blockTerms b x.widx id ea bs

/-- The digest's lane id of a scalar store, and of lane `l` (R345). -/
def scalarId (x : Warp) : Nat := 0x400 + x.widx
def laneId (x : Warp) (l : Nat) : Nat := 32 * x.widx + l

/-- One atomic on this device by the current warp: the old value and the state after (R65, R144). -/
def State.rmwHere (s : State) (id : Nat) (va : W64) (pte : W64) (pa : Nat) (r : Rmw) : W64 × State :=
  let n := rmwBytes r.ty
  let old := BitVec.ofNat 64 (ofBytes (readBytes s.mem pa n))
  match rmwNew r old with
  | none => (old, s)
  | some v =>
    let bs := toBytes n v.toNat
    (old, ((s.storeAt pte pa bs).noteGated (some s.me.launch) true pa n).digest id va bs)

/-- R348: under DET ≠ FREE an atomic on a line that is not gated sets NONDET when it is a swap or a cas, or when it
delivers its old value. -/
def State.noteAtomic (s : State) (r : Rmw) (delivers : Bool) : State :=
  if modeDet s.myMode ≠ 0 && (r.op = 0 || r.op = 7 || delivers) then s.setNondet s.me.launch else s

/-! ## Atomics on other devices (R309) -/

/-- aop of R309: the operation, unsigned for max and min, floating for add, max and min. -/
def aopOf (r : Rmw) : Nat :=
  let op := match r.op with | 4 => 7 | 5 => 4 | 6 => 5 | 7 => 6 | k => k
  let flt := r.ty = 8 ∨ r.ty = 9
  op + (if (r.op = 5 ∨ r.op = 6) ∧ (r.ty = 1 ∨ r.ty = 3) then 8 else 0) +
    (if flt ∧ (r.op = 1 ∨ r.op = 5 ∨ r.op = 6) then 16 else 0)
def atomicPacket (r : Rmw) : Packet :=
  { blankPacket with op := 3, operand := r.b, compare := r.cmp, aop := aopOf r, size := Nat.log2 (rmwBytes r.ty) }

/-! ## Scalar accesses (R62, R63, R65) -/

/-- What the checks of a scalar access give: a place on this device, bytes a target answered, or the state in which
the instruction waits or has faulted. -/
inductive Got where
  | here (pa : Nat) (pte : W64)
  | remote (bs : List Byte)
  | stop (s : State)
  deriving DecidableEq, Repr, Inhabited

/-- A failed check of the current warp writes a violation record when it is a permission (R15, R16). -/
def State.logWarp (s : State) (code : Nat) (va : W64) (access n : Nat) : State :=
  if code = cPERM then
    s.logViolation s.myDie va 0 code s.myCtx s.myBlock.lcore access n
  else s

/-- The scalar stream parks (R63): on residency its pages are asked for, on poison the sector is reported. An instruction with
accesses that targets have answered keeps them, and waits. -/
def State.parkScalar (s : State) (kind : ParkKind) (va : W64) (access : Nat) : State :=
  let w := s.cur.warp
  let s := match kind with
    | .residency => s.promote s.myCtx va s.myDie s.me.launch
    | _ => s.reportPoison (streamKey w 2) 0 s.myDie s.me.launch va (warpWid s.myBlock s.me.widx)
  match s.me.wait with
  | .io _ => s
  | _ => s.setMe { s.me with wait := .parked ⟨kind, [va], access⟩ }

/-- The key under which an answer that has passed an order gate stands (R352). -/
def passedKey (l : Nat) : Nat := l + 64

/-- The answer that a lane's request has brought. -/
def answerOf (w : IoWait) (l : Nat) : List Byte :=
  ((kGet? w.answers l).orElse fun _ => kGet? w.answers (passedKey l)).getD []

/-- The order gate has passed the atomic of a lane (R352). -/
def gatePassed (w : IoWait) (l : Nat) : Bool := (kGet? w.answers (passedKey l)).isSome

/-- The checks of one scalar access of `n` bytes (R63): `access` 0 read, 1 write, 2 read-modify-write. `p` is the
request that a FABRIC page sends; an atomic `g` on a gated line is left to GATE_PASS, which sends it (R352). -/
def State.scalarGot (s : State) (va : W64) (n access : Nat) (p : Packet) (g : Option GateLane) : Got :=
  match s.me.wait with
  | .io w =>
    if !ioDone w then .stop s
    else match w.refused with
      | (_, a) :: _ => .stop ((s.setMe { s.me with wait := .none }).scalarFault cIMPORT a access)
      | [] => .remote (answerOf w 0)
  | _ =>
    match s.checkScalar s.myCtx va access with
    | .bad c => .stop ((s.logWarp c va access n).scalarFault c va access)
    | .away => .stop (s.parkScalar .residency va access)
    | .remote fa =>
      match g, s.gateOf s.myLaunch va with
      | some a, some _ => .stop (s.setMe { s.me with wait := .io { noIo with gated := [a] } })
      | _, _ =>
        let (t, id) := s.sendRequest (.scalar s.cur.warp) s.myCtx va fa 0 0 p
        .stop (t.setMe { t.me with wait := .io { noIo with reqs := [(id, 0, va)] } })
    | .here pa pte =>
      if access ≠ 1 && s.poisoned pa n then .stop (s.parkScalar .poison va access) else .here pa pte

/-- What the checks of a record give: its bytes (none for a write), or the state in which the instruction waits or has
faulted. -/
inductive RecGot where
  | bytes (bs : List Byte)
  | stop (s : State)
  deriving DecidableEq, Repr, Inhabited

/-- What reading a record gives, before any fault is raised: its bytes, a failed check, or the state in which the
instruction waits. -/
inductive Look where
  | bytes (bs : List Byte)
  | bad (code : Nat) (addr : W64)
  | stop (s : State)
  deriving DecidableEq, Repr, Inhabited

def verdictBad (c : Nat) : Verdict → Bool
  | .bad d => d == c
  | _ => false

/-- The current path parks (R141, R143): for each address its page is asked for or its sector reported. -/
def State.parkLane (s : State) (kind : ParkKind) (vas : List W64) (access : Nat) : State :=
  let w := s.cur.warp
  let p := s.cur.path
  let one (s : State) (va : W64) : State := match kind with
    | .residency => s.promote s.myCtx va s.myDie s.me.launch
    | _ => s.reportPoison (streamKey w p) 0 s.myDie s.me.launch va (warpWid s.myBlock s.me.widx)
  let s := vas.foldl one s
  s.setMyPath { s.myPath with park := some ⟨kind, vas, access⟩ }

/-- The same operations for the current scalar stream (`lane` false) or the current path. -/
def State.parkAs (s : State) (lane : Bool) (kind : ParkKind) (va : W64) (access : Nat) : State :=
  if lane then s.parkLane kind [va] access else s.parkScalar kind va access
def State.faultAs (s : State) (lane : Bool) (code : Nat) (addr : W64) (access : Nat) : State :=
  if lane then s.laneFault code addr access else s.scalarFault code addr access
def State.ioAs (s : State) (lane : Bool) : IoWait :=
  if lane then s.myPath.io.getD noIo else match s.me.wait with | .io w => w | _ => noIo
def State.setIoAs (s : State) (lane : Bool) (io : IoWait) : State :=
  if lane then s.setMyPath { s.myPath with io := some io } else s.setMe { s.me with wait := .io io }
def State.askerAs (s : State) (lane : Bool) : Asker :=
  if lane then .lane s.cur.warp s.cur.path else .scalar s.cur.warp

/-- The units of 8 bytes of a record, with the verdicts of the checks of an access by the rules of SLD and SST (R63). -/
def State.unitsOf (s : State) (lane : Bool) (va : W64) (n access : Nat) : List (Nat × W64 × Verdict) :=
  (List.range ((n + 7) / 8)).map fun i =>
    let a := va + BitVec.ofNat 64 (8 * i)
    (i, a, if lane then s.check s.myCtx a access else s.checkScalar s.myCtx a access)

/-- What the checks of a record's units stop at, none where they pass: the first failure in the order of R12; pages not resident
and poisoned sectors park. -/
def State.unitsStop (s : State) (lane : Bool) (access : Nat) (vs : List (Nat × W64 × Verdict)) : Option Look :=
  match vs.find? (fun e => verdictBad cXLATE e.2.2) with
  | some (_, a, _) => some (.bad cXLATE a)
  | none =>
    match vs.find? (fun e => verdictBad cPERM e.2.2) with
    | some (_, a, _) => some (.bad cPERM a)
    | none =>
      match vs.find? (fun e => match e.2.2 with | .away => true | _ => false) with
      | some (_, a, _) => some (.stop (s.parkAs lane .residency a access))
      | none =>
        match vs.find? (fun e => match e.2.2 with | .here pa _ => access != 1 && s.poisoned pa 8 | _ => false) with
        | some (_, a, _) => some (.stop (s.parkAs lane .poison a access))
        | none => none

/-- Ask the targets of units on FABRIC pages, or send them the bytes of `data`: the state after, and the requests with their keys. -/
def State.askUnits (s : State) (lane : Bool) (access key : Nat) (data : List Byte) (ask : List (Nat × W64 × W64)) :
    State × List (Nat × Nat × W64) :=
  ask.foldl (fun (acc : State × List (Nat × Nat × W64)) (i, a, fa) =>
    let pk := if access = 1 then writePacket a ((data.drop (8 * i)).take 8) else readPacket a 8
    let t := if access = 1 then acc.1.noteFar (some s.me.launch) false fa 8 else acc.1
    let (t, id) := t.sendRequest (s.askerAs lane) s.myCtx a fa (key + i) 0 pk
    (t, acc.2 ++ [(id, key + i, a)])) (s, [])

/-- The units on FABRIC pages. -/
def farUnits (vs : List (Nat × W64 × Verdict)) : List (Nat × W64 × W64) :=
  vs.filterMap fun (i, a, v) => match v with | .remote fa => some (i, a, fa) | _ => none

/-- The checks of a record of `n` bytes that an instruction reads (`access` 0 or 2) or writes with `data` (`access` 1), made in
units of 8 bytes at an aligned address; units on FABRIC pages are asked of their targets, with the keys from `key` on, and the
stream waits until all are answered. -/
def State.look (s : State) (lane : Bool) (va : W64) (n access key : Nat) (data : List Byte) : Look :=
  let vs := s.unitsOf lane va n access
  match s.unitsStop lane access vs with
  | some r => r
  | none =>
    let io := s.ioAs lane
    let ask := (farUnits vs).filter fun e => (kGet? io.answers (key + e.1)).isNone
    if !io.reqs.isEmpty then .stop s
    else match vs.find? (fun e => io.refused.any fun r => r.1 == key + e.1) with
      | some (_, a, _) => .bad cIMPORT a
      | none =>
        if ask.isEmpty then
          .bytes ((vs.flatMap fun (i, _, v) => match v with
            | .here pa _ => if access = 1 then [] else readBytes s.mem pa 8
            | _ => (kGet? io.answers (key + i)).getD []).take n)
        else
          let (t, reqs) := s.askUnits lane access key data ask
          .stop (t.setIoAs lane { io with reqs := reqs })

/-- A failed check becomes the instruction's fault, a failed permission with its violation record (R15). -/
def State.badAs (s : State) (lane : Bool) (code : Nat) (addr : W64) (access n : Nat) : State :=
  (s.logWarp code addr access n).faultAs lane code addr access

/-- A record that a scalar instruction reads or writes: its bytes, or the state it waits or has faulted in. -/
def State.recordGot (s : State) (va : W64) (n access key : Nat) (data : List Byte) : RecGot :=
  match s.look false va n access key data with
  | .bytes bs => .bytes bs
  | .stop t => .stop t
  | .bad c a => .stop (s.badAs false c a access n)

/-- The bytes of a range of a context's address space, unit by unit; a unit that is not on this device reads 0. Used after
the checks of an access have passed. -/
def State.readVa (s : State) (ctx : Nat) (va : W64) (n : Nat) : List Byte :=
  ((List.range ((n + 7) / 8)).flatMap fun i =>
    match s.check ctx (va + BitVec.ofNat 64 (8 * i)) 0 with
    | .here pa _ => readBytes s.mem pa 8
    | _ => toBytes 8 0).take n

/-- Store bytes to a context's address space in units of 8 bytes at an aligned address, where they translate. -/
def State.writeVa (s : State) (ctx : Nat) (agent : Option Nat) (va : W64) (bs : List Byte) : State :=
  match bs with
  | [] => s
  | _ => (List.range ((bs.length + 7) / 8)).foldl (fun s i =>
      match s.check ctx (va + BitVec.ofNat 64 (8 * i)) 1 with
      | .here pa pte => (s.storeAt pte pa ((bs.drop (8 * i)).take 8)).noteGated agent false pa 8
      | _ => s) s

/-! ## Lane accesses (R136, R139, R141, R143) -/

/-- What the checks of a lane instruction's accesses give: the lanes on this device with their places, the lanes
answered by targets, the lanes on pages that are not resident; or the state in which it waits or has faulted. -/
inductive LaneGot where
  | go (here : List (Nat × W64 × Nat × W64)) (remote : List (Nat × W64 × List Byte)) (away : List (Nat × W64))
  | stop (s : State)
  deriving DecidableEq, Repr, Inhabited

/-- The first of a list of addresses on each page or sector of the given size. -/
def firstPer (size : Nat) (vas : List W64) : List W64 :=
  vas.foldl (fun acc a => if acc.any (fun b => b.toNat / size == a.toNat / size) then acc else acc ++ [a]) []

/-- The access kind $FAULT reports (R76): a stamped store writes, an as-of load reads. -/
def accessKind (access : Nat) : Nat := match access with | 4 => 1 | 5 => 0 | k => k

/-- R136, R139: the checks of every active lane before any access, in the order of R12; the state the fault leaves, if
one fails. `accs` are the lanes with their addresses, rising. -/
def State.laneChecks (s : State) (accs : List (Nat × W64)) (n access : Nat) : Option State :=
  let kind := accessKind access
  match accs.find? (fun e => e.2.toNat % n != 0) with
  | some (_, a) => some (s.laneFault cALIGN a kind)
  | none =>
    match accs.find? (fun e => verdictBad cXLATE (s.check s.myCtx e.2 access)) with
    | some (_, a) => some (s.laneFault cXLATE a kind)
    | none =>
      match accs.find? (fun e => verdictBad cPERM (s.check s.myCtx e.2 access)) with
      | some (_, a) => some ((s.logWarp cPERM a kind n).laneFault cPERM a kind)
      | none => none

/-- The lowest of the lanes that access a fabric address, whatever addresses they name it by (R137). -/
def sharedLane (far : List (Nat × W64 × W64)) (fa : W64) : Nat := ((far.find? fun e => e.2.2 == fa).map (·.1)).getD 0

/-- The lanes of an instruction with those of one location beside each other, in rising order (R144). -/
def byPlace (far : List (Nat × W64 × W64)) : List (Nat × W64 × W64) :=
  far.flatMap fun e => if sharedLane far e.2.2 == e.1 then far.filter fun f => f.2.2 == e.2.2 else []

/-- The lanes after lane `l` on a location. -/
def lanesAfter (far : List (Nat × W64 × W64)) (l : Nat) (fa : W64) : Nat := (far.filter fun e => e.2.2 == fa && l < e.1).length

/-- The request of a lane has been answered. -/
def answered (w : IoWait) (l : Nat) : Bool := (kGet? w.answers l).isSome || gatePassed w l

/-- R139, R141, R143: the checks of `laneChecks`, then residency, poison and the import checks of FABRIC lanes. `send l`
is the request of lane `l`; with `nr` a lane on a page that is not resident does not park (R142). Lanes that load the same
bytes share one request (R137), and atomics on one location are sent one after the other (R144); a lane that `gate` gives an atomic
of, on a gated line of another device, is left to GATE_PASS (R352). -/
def State.laneGot (s : State) (accs : List (Nat × W64)) (n access : Nat) (nr : Bool) (send : Nat → W64 → Packet)
    (gate : Nat → W64 → Option GateLane) : LaneGot :=
  match s.laneChecks accs n access with
  | some t => .stop t
  | none =>
    let kind := accessKind access
    let vs := accs.map fun (l, a) => (l, a, s.check s.myCtx a access)
    let away := vs.filterMap fun (l, a, v) => match v with | .away => some (l, a) | _ => none
    if !nr && !away.isEmpty then .stop (s.parkLane .residency (firstPer 65536 (away.map (·.2))) kind)
    else
      let here := vs.filterMap fun (l, a, v) => match v with | .here pa pte => some (l, a, pa, pte) | _ => none
      let bad := here.filterMap fun (_, a, pa, _) => if s.poisoned pa n then some a else none
      if access = 2 && !bad.isEmpty then .stop (s.parkLane .poison (firstPer 32 bad) kind)
      else
        let far := vs.filterMap fun (l, a, v) => match v with | .remote fa => some (l, a, fa) | _ => none
        let w := s.myPath.io.getD noIo
        if !ioDone w then .stop s
        else match far.find? (fun e => w.refused.any fun r => r.1 == e.1) with
          | some (_, a, _) => .stop (s.laneFault cIMPORT a kind)
          | none =>
            let key (l : Nat) (fa : W64) : Nat := if access = 0 then sharedLane far fa else l
            let due := far.filter fun (l, _, fa) => key l fa == l && !answered w l
            if due.isEmpty then .go here (far.map fun (l, a, fa) => (l, a, answerOf w (key l fa))) away
            else
              let gated := due.filterMap fun (l, a, _) => gate l a
              let now := due.filter fun (l, a, _) => (gate l a).isNone
              let (t, reqs) := (byPlace now).foldl (fun (acc : State × List (Nat × Nat × W64)) (l, a, fa) =>
                let p := { send l a with more := if access = 2 then lanesAfter now l fa else 0 }
                let (t, id) := acc.1.sendRequest (.lane s.cur.warp s.cur.path) s.myCtx a fa l 0 p
                (t, acc.2 ++ [(id, l, a)])) (s, [])
              .stop (t.setMyPath { t.myPath with io := some { w with reqs := reqs, gated := gated } })

/-- A loaded unit's register writes (R136): `size` codes 0 b, 1 h, 2 w, 3 d, 4 q. -/
def loadWrites (vd l : Nat) (sx : Bool) (bs : List Byte) : List RegW :=
  let v := ofBytes bs
  match bs.length with
  | 1 => [⟨vd, l, if sx then BitVec.ofInt 32 (intVal 8 true v) else BitVec.ofNat 32 v⟩]
  | 2 => [⟨vd, l, if sx then BitVec.ofInt 32 (intVal 16 true v) else BitVec.ofNat 32 v⟩]
  | 4 => [⟨vd, l, BitVec.ofNat 32 v⟩]
  | 8 => [⟨vd, l, BitVec.ofNat 32 v⟩, ⟨vd + 1, l, BitVec.ofNat 32 (v / 2 ^ 32)⟩]
  | _ => (List.range 4).map fun i => ⟨vd + i, l, BitVec.ofNat 32 (v / 2 ^ (32 * i))⟩

/-- The bytes a store of `n` bytes takes from a data register group or argument register (R135). -/
def storeData (x : Warp) (f : LaneF) (n l : Nat) : List Byte :=
  if f.ab = 1 then toBytes n (areg x f.vb.toNat).toNat
  else if n = 16 then toBytes 16 ((List.range 4).foldr (fun i a => (vreg x (f.vb.toNat + i) l).toNat + 2 ^ 32 * a) 0)
  else if n = 8 then toBytes 8 (vpair x f.vb.toNat l).toNat
  else toBytes n (vreg x f.vb.toNat l).toNat

/-- The global address of lane `l` (R134). -/
def laneVa (x : Warp) (f : LaneF) (l : Nat) : W64 := vpair x f.va.toNat l + f.aux.signExtend 64

/-- The local offset of lane `l` (R134). -/
def laneOff (x : Warp) (f : LaneF) (l : Nat) : Nat := (vreg x f.va.toNat l + f.aux.signExtend 32).toNat

end Sys2Proof.Machine
end

