-- ==== Sys2Proof/Machine/Code.lean ====
section
/-! DEFINITION. Fetching an instruction's words, and the faults of a fetch that fails (R54). -/

namespace Sys2Proof.Machine

/-- What fetching words of code gives: the words, a failed check, or the state in which the stream waits. -/
inductive CodeGot where
  | words (ws : List W32)
  | bad (code : Nat) (addr : W64)
  | wait (s : State)
  deriving DecidableEq, Repr, Inhabited

/-- Fetch `n` words of a context's code for a warp: each is translated and needs execute permission (R54). A page that is
not resident is asked for, a poisoned sector reported, and the stream waits. An executable page of kind FABRIC fails XLATE (DESIGN
CHOICE, log 44: the manual does not say what a fetch from another device's memory does). -/
def State.codeGot (s : State) (w : Nat) (va : W64) (n : Nat) : CodeGot :=
  let x := s.warp w
  let b := s.block x.block
  let ctx := (s.launch x.launch).ctx
  (List.range n).foldl (fun acc i =>
    match acc with
    | .words ws =>
      let a := va + BitVec.ofNat 64 (4 * i)
      match s.check ctx a 3 with
      | .bad c => .bad c a
      | .remote _ => .bad cXLATE a
      | .away => .wait (s.promote ctx a (b.pcore / 44) x.launch)
      | .here pa _ =>
        if s.poisoned pa 4 then
          .wait (s.reportPoison (streamKey w 3) 0 (b.pcore / 44) x.launch a (warpWid b x.widx))
        else .words (ws ++ [BitVec.ofNat 32 (ofBytes (readBytes s.mem pa 4))])
    | r => r) (.words [])

/-- The address of a lane instruction of a launch. -/
def laneCode (l : LaunchRec) (pc : Nat) : W64 := l.lbase + BitVec.ofNat 64 pc

/-- The three words of the lane instruction at a lane PC; past the end of the section the fetch fails XLATE (R54). -/
def State.laneWords (s : State) (w pc : Nat) : CodeGot :=
  let l := (s.launch (s.warp w).launch).record
  if pc + 12 > l.lbytes then .bad cXLATE (laneCode l pc) else s.codeGot w (laneCode l pc) 3

/-- The word of the scalar instruction at a PC; outside the section the fetch fails XLATE (R40, R72). -/
def State.scalarWords (s : State) (w : Nat) (pc : W64) : CodeGot :=
  let l := (s.launch (s.warp w).launch).record
  if (pc - l.sbase).toNat + 4 > l.sbytes then .bad cXLATE pc else s.codeGot w pc 1

/-- The words at an address as a fault reports them: what is there, or zeros. -/
def State.reportWords (s : State) (w : Nat) (va : W64) (n : Nat) : List W32 :=
  match s.codeGot w va n with
  | .words ws => ws
  | _ => []

/-- R15, R54: a fetch refused execute permission writes a violation record of access kind 3. -/
def State.logFetch (s : State) (code : Nat) (va : W64) (n : Nat) : State := s.logWarp code va 3 n

/-- A scalar fetch that fails faults at the instruction that led to it; the link of a CALL is given back (R54, R57). -/
def State.scalarFetchFault (s : State) (w code : Nat) (addr : W64) : State :=
  let x := s.warp w
  let s := match x.link with
    | some v => s.setWarp w { setSreg x 62 v with link := none }
    | none => s
  let ws := s.reportWords w x.lastPc 1
  let s := { s with cur := ⟨w, 0, ws.getD 0 0, 0, 0⟩ }
  ((s.logFetch code addr 4).raiseScalarAt code addr 3 0 x.lastPc).tryDeliver

/-- A lane fetch that fails faults at the last instruction its path executed, to which the path returns. A block whose first fetch
fails only after its LRUN has checked it, the tables having changed, faults at its first instruction (DESIGN CHOICE, log 44). -/
def State.laneFetchFault (s : State) (w p code : Nat) (addr : W64) : State :=
  let x := s.warp w
  let q := warpPath x p
  let l := (s.launch x.launch).record
  let ws := s.reportWords w (laneCode l q.last) 3
  let s := { s with cur := ⟨w, p, ws.getD 0 0, ws.getD 1 0, ws.getD 2 0⟩ }
  let s := s.setWarp w (setPath x p { q with pc := q.last })
  (s.logFetch code addr 12).laneFault code addr 3

end Sys2Proof.Machine
end

