-- ==== Sys2Proof/Machine/LaneInt.lean ====
section
/-! DEFINITION. Lane integer arithmetic, fields, selection, moves, compares and mask logic (R79 to R90). -/

namespace Sys2Proof.Machine

/-- Run a short lane instruction that writes one register or pair per active lane with `val x l`, where `x` is the warp
as the instruction finds it (R79). -/
def State.laneMap (s : State) (f : LaneF) (regs masks : List Nat) (val : Warp → Nat → Nat) : State :=
  s.laneRun regs (guardMask f ++ masks) fun s =>
    s.writeRegs ((lanesOf (active s.me s.cur.path f)).flatMap fun l => resultW (isPair f.ty) f.vd.toNat l (val s.me l))

/-- Apply an element operation to each element of A, B and C (R55, R84). -/
def elemMap (ty : Nat) (op : Nat → Nat → Nat → Nat) (a b c : Nat) : Nat :=
  packElems (elemBits ty) ((List.range (elemCount ty)).map fun e =>
    op (elem (elemBits ty) a e) (elem (elemBits ty) b e) (elem (elemBits ty) c e))

/-- R84: narrow the exact result, saturating or wrapping. -/
def narrow (bits : Nat) (signed sat : Bool) (v : Int) : Nat :=
  intCode bits (if sat then max (intLeast bits signed) (min v (intGreatest bits signed)) else v)

/-- An integer operation by its exact result. -/
def intOp (ty : Nat) (sat : Bool) (op : Int → Int → Int → Int) (a b c : Nat) : Nat :=
  let n := elemBits ty
  let sg := intSigned ty
  elemMap ty (fun a b c => narrow n sg sat (op (intVal n sg a) (intVal n sg b) (intVal n sg c))) a b c

/-- The number of 1 bits, and the number of leading 0 bits, of an N-bit value. -/
def popCount (n a : Nat) : Nat := ((List.range n).filter fun i => a.testBit i).length
def leadZeros (n a : Nat) : Nat := n - bitLen (a % 2 ^ n)

/-- The shifts: the amount is taken modulo N, whatever the signedness. -/
def shlN (n a b : Nat) : Nat := a * 2 ^ (b % n) % 2 ^ n
def shrN (n a b : Nat) : Nat := a / 2 ^ (b % n)
def sarN (n a b : Nat) : Nat := intCode n (intVal n true a / (2 ^ (b % n) : Nat))

/-- The value of vadd (R84). -/
def valVadd (ty : Nat) (sat : Bool) (a b : Nat) : Nat := intOp ty sat (fun a b _ => a + b) a b 0
/-- vadd (R84). -/
def execVadd (f : LaneF) (s : State) : Host.Outcome State Fault Refusal :=
  .next (s.laneMap f (useDAB f) [] fun x l => valVadd f.ty.toNat (f.ctlN 0 1 == 1) (opA x f l) (opB x f l))

/-- The value of vsub (R84). -/
def valVsub (ty : Nat) (sat : Bool) (a b : Nat) : Nat := intOp ty sat (fun a b _ => a - b) a b 0
/-- vsub (R84). -/
def execVsub (f : LaneF) (s : State) : Host.Outcome State Fault Refusal :=
  .next (s.laneMap f (useDAB f) [] fun x l => valVsub f.ty.toNat (f.ctlN 0 1 == 1) (opA x f l) (opB x f l))

/-- The value of vmul (R84). -/
def valVmul (ty : Nat) (a b : Nat) : Nat := intOp ty false (fun a b _ => a * b) a b 0
/-- vmul (R84). -/
def execVmul (f : LaneF) (s : State) : Host.Outcome State Fault Refusal :=
  .next (s.laneMap f (useDAB f) [] fun x l => valVmul f.ty.toNat (opA x f l) (opB x f l))

/-- The value of vmulh (R84). -/
def valVmulh (ty : Nat) (a b : Nat) : Nat := intOp ty false (fun a b _ => a * b / (2 ^ elemBits ty : Nat)) a b 0
/-- vmulh (R84). -/
def execVmulh (f : LaneF) (s : State) : Host.Outcome State Fault Refusal :=
  .next (s.laneMap f (useDAB f) [] fun x l => valVmulh f.ty.toNat (opA x f l) (opB x f l))

/-- The value of vmin (R84). -/
def valVmin (ty : Nat) (a b : Nat) : Nat := intOp ty false (fun a b _ => min a b) a b 0
/-- vmin (R84). -/
def execVmin (f : LaneF) (s : State) : Host.Outcome State Fault Refusal :=
  .next (s.laneMap f (useDAB f) [] fun x l => valVmin f.ty.toNat (opA x f l) (opB x f l))

/-- The value of vmax (R84). -/
def valVmax (ty : Nat) (a b : Nat) : Nat := intOp ty false (fun a b _ => max a b) a b 0
/-- vmax (R84). -/
def execVmax (f : LaneF) (s : State) : Host.Outcome State Fault Refusal :=
  .next (s.laneMap f (useDAB f) [] fun x l => valVmax f.ty.toNat (opA x f l) (opB x f l))

/-- The value of vand (R84). -/
def valVand (a b : Nat) : Nat := a &&& b
/-- vand (R84). -/
def execVand (f : LaneF) (s : State) : Host.Outcome State Fault Refusal :=
  .next (s.laneMap f (useDAB f) [] fun x l => valVand (opA x f l) (opB x f l))

/-- The value of vor (R84). -/
def valVor (a b : Nat) : Nat := a ||| b
/-- vor (R84). -/
def execVor (f : LaneF) (s : State) : Host.Outcome State Fault Refusal :=
  .next (s.laneMap f (useDAB f) [] fun x l => valVor (opA x f l) (opB x f l))

/-- The value of vxor (R84). -/
def valVxor (a b : Nat) : Nat := a ^^^ b
/-- vxor (R84). -/
def execVxor (f : LaneF) (s : State) : Host.Outcome State Fault Refusal :=
  .next (s.laneMap f (useDAB f) [] fun x l => valVxor (opA x f l) (opB x f l))

/-- The value of vshl (R84). -/
def valVshl (ty : Nat) (a b : Nat) : Nat := elemMap ty (fun a b _ => shlN (elemBits ty) a b) a b 0
/-- vshl (R84). -/
def execVshl (f : LaneF) (s : State) : Host.Outcome State Fault Refusal :=
  .next (s.laneMap f (useDAB f) [] fun x l => valVshl f.ty.toNat (opA x f l) (opB x f l))

/-- The value of vshr (R84). -/
def valVshr (ty : Nat) (a b : Nat) : Nat := elemMap ty (fun a b _ => shrN (elemBits ty) a b) a b 0
/-- vshr (R84). -/
def execVshr (f : LaneF) (s : State) : Host.Outcome State Fault Refusal :=
  .next (s.laneMap f (useDAB f) [] fun x l => valVshr f.ty.toNat (opA x f l) (opB x f l))

/-- The value of vsar (R84). -/
def valVsar (ty : Nat) (a b : Nat) : Nat := elemMap ty (fun a b _ => sarN (elemBits ty) a b) a b 0
/-- vsar (R84). -/
def execVsar (f : LaneF) (s : State) : Host.Outcome State Fault Refusal :=
  .next (s.laneMap f (useDAB f) [] fun x l => valVsar f.ty.toNat (opA x f l) (opB x f l))

/-- The value of vmad (R84). -/
def valVmad (ty a b c : Nat) : Nat := intOp ty false (fun a b c => a * b + c) a b c
/-- vmad (R84): B is a register or argument, C a register or the literal. -/
def execVmad (f : LaneF) (s : State) : Host.Outcome State Fault Refusal :=
  .next (s.laneMap f (useDABC f) [] fun x l => valVmad f.ty.toNat (opA x f l) (opReg x f l) (opC x f l))

/-- The value of vabs (R84). -/
def valVabs (ty : Nat) (sat : Bool) (a : Nat) : Nat := intOp ty sat (fun a _ _ => |a|) a 0 0
/-- vabs (R84). -/
def execVabs (f : LaneF) (s : State) : Host.Outcome State Fault Refusal :=
  .next (s.laneMap f (useDA f) [] fun x l => valVabs f.ty.toNat (f.ctlN 0 1 == 1) (opA x f l))

/-- The value of vcnt (R84). -/
def valVcnt (ty : Nat) (a : Nat) : Nat := elemMap ty (fun a _ _ => popCount (elemBits ty) a) a 0 0
/-- vcnt (R84). -/
def execVcnt (f : LaneF) (s : State) : Host.Outcome State Fault Refusal :=
  .next (s.laneMap f (useDA f) [] fun x l => valVcnt f.ty.toNat (opA x f l))

/-- The value of vclz (R84). -/
def valVclz (ty : Nat) (a : Nat) : Nat := elemMap ty (fun a _ _ => leadZeros (elemBits ty) a) a 0 0
/-- vclz (R84). -/
def execVclz (f : LaneF) (s : State) : Host.Outcome State Fault Refusal :=
  .next (s.laneMap f (useDA f) [] fun x l => valVclz f.ty.toNat (opA x f l))

/-- The value of vbfx (R85). -/
def valVbfx (signed : Bool) (a b c : Nat) : Nat :=
  let p := b % 32
  let w := min (c % 64) (32 - p)
  if w = 0 then 0 else intCode 32 (intVal w signed (a / 2 ^ p))
/-- vbfx (R85). -/
def execVbfx (f : LaneF) (s : State) : Host.Outcome State Fault Refusal :=
  .next (s.laneMap f (useDABC f) [] fun x l => valVbfx (f.ty == 0) (opA x f l) (opReg x f l) (opC x f l))

/-- The value of vbfi (R85). -/
def valVbfi (a b c : Nat) : Nat :=
  let p := c % 32
  let w := min (c / 2 ^ 8 % 64) (32 - p)
  b / 2 ^ (p + w) * 2 ^ (p + w) + a % 2 ^ w * 2 ^ p + b % 2 ^ p
/-- vbfi (R85). -/
def execVbfi (f : LaneF) (s : State) : Host.Outcome State Fault Refusal :=
  .next (s.laneMap f (useDABC f) [] fun x l => valVbfi (opA x f l) (opReg x f l) (opC x f l))

/-- vsel (R86): a mask of the executing path selects A or B. -/
def execVsel (f : LaneF) (s : State) : Host.Outcome State Fault Refusal :=
  .next (s.laneMap f (useDAB f) (maskD (f.ctlN 0 4)) fun x l =>
    if hasLane (mreg x s.cur.path (f.ctlN 0 4)) l then opA x f l else opB x f l)

/-- vmov (R86): a register, or the literal. -/
def execVmov (f : LaneF) (s : State) : Host.Outcome State Fault Refusal :=
  .next (s.laneMap f (if f.lc = 1 then [f.vd.toNat] else useDA f) [] fun x l =>
    if f.lc = 1 then f.c.toNat else opA x f l)

/-- A field of a work identifier: level `lv` of a launch's widths (R23). -/
def widField (widths : List Nat) (id lv : Nat) : Nat :=
  if lv = 0 then id % 32
  else id / 2 ^ (5 + (widths.take (lv - 1)).foldl (· + ·) 0) % 2 ^ (widths.getD (lv - 1) 0)

/-- vwid (R87). -/
def execVwid (f : LaneF) (s : State) : Host.Outcome State Fault Refusal :=
  .next (s.laneMap f [f.vd.toNat] [] fun x l =>
    let id := (warpWid (s.block x.block) x.widx).toNat + l
    widField (s.launch x.launch).record.widths id (f.c.toNat % 8) / 2 ^ (if f.c.getLsbD 8 then 32 else 0) % 2 ^ 32)

/-- Run a short lane instruction that writes mask vd for the active lanes (R81). -/
def State.laneMask (s : State) (f : LaneF) (regs masks : List Nat) (val : Warp → Nat → Bool) : State :=
  s.laneRun regs (guardMask f ++ maskD f.vd.toNat ++ masks) fun s =>
    let act := active s.me s.cur.path f
    s.writeMask f.vd.toNat act (maskOf ((lanesOf act).filter (val s.me)))

/-- The conditions of R88 on one element. -/
def condI (cc : Nat) (a b : Int) : Bool :=
  match cc with
  | 0 => a == b
  | 1 => a != b
  | 2 => a < b
  | 3 => a ≥ b
  | 4 => a ≤ b
  | _ => a > b
/-- The condition holds for every element (R88). -/
def valVcmp (ty cc a b : Nat) : Bool :=
  let n := elemBits ty
  (List.range (elemCount ty)).all fun e => condI cc (intVal n (intSigned ty) (elem n a e)) (intVal n (intSigned ty) (elem n b e))
/-- vcmp (R88). -/
def execVcmp (f : LaneF) (s : State) : Host.Outcome State Fault Refusal :=
  .next (s.laneMask f (useAB f) [] fun x l => valVcmp f.ty.toNat (f.ctlN 0 3) (opA x f l) (opB x f l))

/-- mlog (R89): bit 2a + b of the truth table. -/
def execMlog (f : LaneF) (s : State) : Host.Outcome State Fault Refusal :=
  .next (s.laneMask f [] (maskD f.va.toNat ++ maskD f.vb.toNat) fun x l =>
    let a := if hasLane (mreg x s.cur.path f.va.toNat) l then 2 else 0
    let b := if hasLane (mreg x s.cur.path f.vb.toNat) l then 1 else 0
    f.ctl.getLsbD (a + b))

/-- A return register has been written: an ATTB outstanding on the path no longer writes it at its end (R31). -/
def loseRet (q : Path) (r : Nat) : Path :=
  { q with outs := q.outs.map fun j => { j with attb := j.attb.map fun a => { a with lost := a.lost ++ [r] } } }

/-- Run a short lane instruction that writes a return register (R82). -/
def State.laneRet (s : State) (f : LaneF) (regs masks : List Nat) (val : Warp → W64) : State :=
  s.laneRun regs (guardMask f ++ masks) fun s =>
    if s.retHeld then s.markRet
    else s.laneDone (setPath (setSreg s.me (f.vd.setWidth 6) (val s.me)) s.cur.path (loseRet s.myPath (f.vd.toNat % 64)))

/-- mcnt (R90). -/
def execMcnt (f : LaneF) (s : State) : Host.Outcome State Fault Refusal :=
  .next (s.laneRet f [] (maskD f.va.toNat) fun x =>
    BitVec.ofNat 64 (lanesOf (mreg x s.cur.path f.va.toNat &&& active x s.cur.path f)).length)

/-- The value of vvote (R95). -/
def valVvote (fn : Nat) (m act : W32) : W64 :=
  match fn with
  | 0 => (m &&& act).setWidth 64
  | 1 => if m &&& act = 0 then 0 else 1
  | _ => if m &&& act = act then 1 else 0
/-- vvote (R95). -/
def execVvote (f : LaneF) (s : State) : Host.Outcome State Fault Refusal :=
  .next (s.laneRet f [] (maskD f.va.toNat) fun x =>
    valVvote (f.ctlN 0 2) (mreg x s.cur.path f.va.toNat) (active x s.cur.path f))

end Sys2Proof.Machine
end

