-- ==== Sys2Proof/Machine/LaneCross.lean ====
section
/-! DEFINITION. Divergence and block end, and movement between lanes (R30, R32 to R34, R91 to R96). -/

namespace Sys2Proof.Machine

/-! ## Paths and the divergence stack (R32, R33) -/

/-- A join whose arrived mask equals its mask. -/
def joinDone (e : StackEntry) : Bool := e.isJoin && e.arrived == e.mask

/-- Remove the last element that satisfies a test, with what is left. -/
def popLast (p : StackEntry → Bool) (l : List StackEntry) : Option (StackEntry × List StackEntry) :=
  match l.reverse.find? p with
  | none => none
  | some e => some (e, (l.reverse.eraseP p).reverse)

/-- R33: after a path slot has been freed, joins that have become empty are discarded, and the slot takes the most
recently pushed complete join, else the most recently pushed suspended entry. Its first fetch follows the VBR that made the
entry (R54). -/
def settleJoins (x : Warp) (p : Nat) : Warp :=
  let st := x.stack.filter fun e => !(e.isJoin && e.mask == 0)
  match popLast joinDone st with
  | some (e, rest) => setPath { x with stack := rest } p { freePath with live := true, mask := e.mask, pc := e.pc, rpc := e.rpc, last := e.from_ }
  | none =>
    match popLast (fun e => !e.isJoin) st with
    | some (e, rest) => setPath { x with stack := rest } p { freePath with live := true, mask := e.mask, pc := e.pc, rpc := e.rpc, last := e.from_ }
    | none => { x with stack := st }

/-- A path comes to its reconvergence PC: the most recent join with that PC gains its lanes. -/
def joinArrive (st : List StackEntry) (q : Nat) (m : W32) : List StackEntry :=
  match popLast (fun e => e.isJoin && e.pc == q) st with
  | none => st
  | some _ =>
    let r := st.reverse
    let i := r.findIdx fun e => e.isJoin && e.pc == q
    (r.modify i fun e => { e with arrived := e.arrived ||| m }).reverse

/-- PATH_RECONVERGENCE (R33): enabled while the path stands at its reconvergence PC with nothing outstanding. -/
def opPathReconvergence (w p : Nat) (s : State) : State :=
  let x := s.warp w
  let q := warpPath x p
  if p ≤ 1 && q.live && !x.stopped && q.rpc == some q.pc && q.outs.isEmpty then
    let x := { setPath x p freePath with stack := joinArrive x.stack q.pc q.mask }
    s.setWarp w (settleJoins x p)
  else s
def execPathReconvergence (w p : Nat) (s : State) : Host.Outcome State Fault Refusal := .next (opPathReconvergence w p s)

/-- LANE_BLOCK_START (R30): the next queued block takes path slot 0 with all 32 lanes. -/
def opLaneBlockStart (w : Nat) (s : State) : State :=
  let x := s.warp w
  match x.running, x.queue with
  | none, b :: rest =>
    if x.handler || x.pend.isSome || x.stopped then s
    else s.setWarp w { x with
      running := some b
      startL := x.issuedL
      queue := rest
      path0 := { freePath with live := true, mask := BitVec.allOnes 32, pc := b.pc, last := b.pc }
      path1 := freePath
      lastPath := 0
      stack := [] }
  | _, _ => s
def execLaneBlockStart (w : Nat) (s : State) : Host.Outcome State Fault Refusal := .next (opLaneBlockStart w s)

/-- A lane PC reached from `pc + 12` by a signed count of instructions; none outside the code section. -/
def lanePc (l : LaunchRec) (pc : Nat) (off : Int) : Option Nat :=
  let t : Int := pc + 12 + 12 * off
  if 0 ≤ t ∧ t < l.lbytes then some t.toNat else none

/-- VBR (R91, R32). A target or reconvergence PC below 0 is reported in $FADDR as its 64-bit two's complement (DESIGN
CHOICE: the manual gives $FADDR that lane PC and no form for one below 0, log 42). -/
def opVbr (f : LaneF) (s : State) : State :=
  let x := s.me
  let p := s.cur.path
  let q := s.myPath
  let l := s.myLaunch.record
  let tOff : Int := f.aux.toInt
  let qOff : Int := (f.ctl.extractLsb' 0 13).toInt
  if !q.outs.isEmpty then s.holdPath true
  else match lanePc l q.pc tOff, lanePc l q.pc qOff with
    | none, _ => s.laneFault cXLATE (BitVec.ofInt 64 (q.pc + 12 + 12 * tOff)) 0
    | _, none => s.laneFault cXLATE (BitVec.ofInt 64 (q.pc + 12 + 12 * qOff)) 0
    | some t, some r =>
      let taken := active x p f &&& mreg x p f.va.toNat
      let rest := q.mask &&& ~~~taken
      if taken = 0 then s.laneDone x
      else if rest = 0 then s.setMe { setPath x p { stepPath q with pc := t } with lastPath := p, issuedL := x.issuedL + 1 }
      else
        let other := warpPath x (1 - p)
        let need := if other.live then 2 else 1
        if x.stack.length + need > 16 then s.laneFault 0x07 0 0
        else
          let join : StackEntry := ⟨true, q.mask, r, q.rpc, 0, q.pc⟩
          let y := { setPath x p { stepPath q with mask := rest, rpc := some r } with lastPath := p, issuedL := x.issuedL + 1 }
          if other.live then s.setMe { y with stack := x.stack ++ [join, ⟨false, taken, t, some r, 0, q.pc⟩] }
          else s.setMe { setPath y (1 - p) { freePath with live := true, mask := taken, pc := t, rpc := some r, last := q.pc } with
            stack := x.stack ++ [join] }
def execVbr (f : LaneF) (s : State) : Host.Outcome State Fault Refusal := .next (opVbr f s)

/-- The path in slot `p` executes LEND (R33, R92): its lanes leave every pending join, and when no path is left the
block ends. -/
def endPath (x : Warp) (p : Nat) : Warp :=
  let m := (warpPath x p).mask
  let strip (e : StackEntry) : StackEntry := if e.isJoin then { e with mask := e.mask &&& ~~~m } else e
  let y := settleJoins { setPath x p freePath with stack := x.stack.map strip, lastPath := p, issuedL := x.issuedL + 1 } p
  if y.path0.live || y.path1.live then y else { y with running := none, stack := [] }
/-- LEND (R92). -/
def opLend (s : State) : State := if !s.myPath.outs.isEmpty then s.holdPath true else s.setMe (endPath s.me s.cur.path)
def execLend (_f : LaneF) (s : State) : Host.Outcome State Fault Refusal := .next (opLend s)

/-! ## Movement between lanes (R93 to R95) -/

/-- A long lane instruction that writes registers when it completes (R49). -/
def State.longRegs (s : State) (left : Nat) (dst : List Nat) (ws : List RegW) : State :=
  s.laneLong (outst left dst [] ws [])

/-- The source lane of VSHUF, or none where the lane takes A (R93). -/
def shufLane (mode l b : Nat) : Option Nat :=
  match mode with
  | 0 => some (b % 32)
  | 1 => some ((l ^^^ (b % 32)) % 32)
  | 2 => if b % 64 > l then none else some (l - b % 64)
  | _ => if l + b % 64 > 31 then none else some (l + b % 64)
/-- vshuf (R93). -/
def opVshuf (f : LaneF) (s : State) : State :=
  s.laneRun (useDAB f) (guardMask f) fun s =>
    let x := s.me
    let p := s.cur.path
    s.longRegs f.la.toNat [f.vd.toNat] ((lanesOf (active x p f)).flatMap fun l =>
      resultW false f.vd.toNat l (match shufLane (f.ctlN 0 2) l (opB x f l) with
        | some k => crossV x p false f.va.toNat k
        | none => opA x f l))
def execVshuf (f : LaneF) (s : State) : Host.Outcome State Fault Refusal := .next (opVshuf f s)

/-- The lane VBCAST and VRDL read (R94). -/
def bcastLane (x : Warp) (p : Nat) (f : LaneF) : Nat := opB x f ((lanesOf (active x p f)).headD 0) % 32
/-- vbcast (R94). -/
def execVbcast (f : LaneF) (s : State) : Host.Outcome State Fault Refusal :=
  .next (s.laneMap f (useDAB f) [] fun x _ => crossV x s.cur.path false f.va.toNat (bcastLane x s.cur.path f))
/-- vrdl (R94). -/
def execVrdl (f : LaneF) (s : State) : Host.Outcome State Fault Refusal :=
  .next (s.laneRet f (useAB f) [] fun x =>
    if active x s.cur.path f = 0 then 0
    else BitVec.ofNat 64 (crossV x s.cur.path false f.va.toNat (bcastLane x s.cur.path f)))

/-! ## Scans and reductions (R96) -/

/-- One combining step of two present values: the value and the flags. -/
def combine (ty op rm a b : Nat) : Nat × Nat :=
  let fm := fmtOf ty
  let n := elemBits ty
  let flt := ty = 8 ∨ ty = 9
  let sg := intSigned ty
  match op with
  | 0 => if flt then addCode fm rm a b else ((a + b) % 2 ^ n, 0)
  | 1 => if flt then minmaxF fm false a b else (if intVal n sg b < intVal n sg a then b else a, 0)
  | 2 => if flt then minmaxF fm true a b else (if intVal n sg a < intVal n sg b then b else a, 0)
  | 3 => (a &&& b, 0)
  | 4 => (a ||| b, 0)
  | _ => (a ^^^ b, 0)

/-- Comb of R96 with its flags. -/
def comb (ty op rm : Nat) (u w : Option Nat × Nat) : Option Nat × Nat :=
  match u.1, w.1 with
  | none, _ => (w.1, u.2 ||| w.2)
  | _, none => (u.1, u.2 ||| w.2)
  | some a, some b => let (c, fl) := combine ty op rm a b; (some c, u.2 ||| w.2 ||| fl)

/-- Pair up neighbours: one level of VREDX's tree. -/
def redPairs (ty op rm : Nat) : List (Option Nat × Nat) → List (Option Nat × Nat)
  | a :: b :: t => comb ty op rm a b :: redPairs ty op rm t
  | l => l
/-- VREDX's tree: five levels. -/
def redTree (ty op rm fuel : Nat) (l : List (Option Nat × Nat)) : List (Option Nat × Nat) :=
  match fuel with
  | 0 => l
  | k + 1 => redTree ty op rm k (redPairs ty op rm l)

/-- One level of VSCAN's tree: every lane from `d` on combines with the lane `d` below it. Flags are kept apart. -/
def scanStep (ty op rm d : Nat) (l : List (Option Nat)) (fl : Nat) : List (Option Nat) × Nat :=
  let r := (l.zip (List.replicate d none ++ l)).map fun (x, y) => comb ty op rm (y, 0) (x, 0)
  (r.map (·.1), r.foldl (fun a e => a ||| e.2) fl)

/-- Identity(⊕) of R96. -/
def identity (ty op : Nat) : Nat :=
  let n := elemBits ty
  let flt := ty = 8 ∨ ty = 9
  let fm := fmtOf ty
  match op with
  | 1 => if flt then infCode fm else intCode n (intGreatest n (intSigned ty))
  | 2 => if flt then signCode fm true + infCode fm else intCode n (intLeast n (intSigned ty))
  | 3 => 2 ^ n - 1
  | _ => 0

/-- The source of a scan: the active lanes' values. -/
def scanSrc (x : Warp) (f : LaneF) (act : W32) : List (Option Nat) :=
  (List.range 32).map fun l => if hasLane act l then some (opA x f l) else none

/-- The values VSCAN gives the lanes, and the flags. -/
def valVscan (ty op rm : Nat) (excl : Bool) (src : List (Option Nat)) : List Nat × Nat :=
  let (r, fl) := ([1, 2, 4, 8, 16] : List Nat).foldl (fun a d => scanStep ty op rm d a.1 a.2) (src, 0)
  let y := if excl then none :: r.dropLast else r
  (y.map fun e => e.getD (identity ty op), fl)

/-- The value VREDX gives, and the flags. -/
def valVredx (ty op rm : Nat) (src : List (Option Nat)) : Nat × Nat :=
  match redTree ty op rm 5 (src.map fun e => (e, 0)) with
  | e :: _ => (e.1.getD 0, e.2)
  | [] => (0, 0)

/-- vscan (R96). -/
def opVscan (f : LaneF) (s : State) : State :=
  s.laneRun (useDA f) (guardMask f) fun s =>
    let act := active s.me s.cur.path f
    let (ys, fl) := valVscan f.ty.toNat (f.ctlN 0 3) (f.ctlN 13 3) (f.ctlN 3 1 == 1) (scanSrc s.me f act)
    s.fpEnd fl fun s => s.longRegs f.la.toNat (regsOf (isPair f.ty) f.vd)
      ((lanesOf act).flatMap fun l => resultW (isPair f.ty) f.vd.toNat l (ys.getD l 0))
def execVscan (f : LaneF) (s : State) : Host.Outcome State Fault Refusal := .next (opVscan f s)

/-- vredx (R96). -/
def opVredx (f : LaneF) (s : State) : State :=
  s.laneRun (useDA f) (guardMask f) fun s =>
    let act := active s.me s.cur.path f
    let (y, fl) := valVredx f.ty.toNat (f.ctlN 0 3) (f.ctlN 13 3) (scanSrc s.me f act)
    s.fpEnd fl fun s => s.longRegs f.la.toNat (regsOf (isPair f.ty) f.vd)
      ((lanesOf act).flatMap fun l => resultW (isPair f.ty) f.vd.toNat l y)
def execVredx (f : LaneF) (s : State) : Host.Outcome State Fault Refusal := .next (opVredx f s)

end Sys2Proof.Machine
end

