-- ==== Sys2Proof/Machine/LaneMem.lean ====
section
/-! DEFINITION. Lane loads, stores and atomics, and the completion and replay of long lane instructions
(R134 to R146). -/

namespace Sys2Proof.Machine

/-- The access size in bytes (R135). -/
def accBytes (f : LaneF) : Nat := 2 ^ f.ctlN 0 3

/-- The registers of a data group. -/
def dataRegs (n base : Nat) : List Nat := (List.range (if n = 16 then 4 else if n = 8 then 2 else 1)).map (base + ·)

/-- The active lanes with their global addresses. -/
def laneAccs (x : Warp) (p : Nat) (f : LaneF) : List (Nat × W64) := (lanesOf (active x p f)).map fun l => (l, laneVa x f l)

/-- A load becomes outstanding: the lanes' writes, the lanes to be read again after repair, the residency mask. -/
def State.loadIssue (s : State) (f : LaneF) (n : Nat) (ws : List RegW) (rr : List Reread) (ms : List MaskW)
    (masks : List Nat) : State :=
  s.laneLong { outst f.la.toNat (dataRegs n f.vd.toNat) masks ws ms with rereads := rr }

/-- VLD (R136, R142, R143). -/
def opVld (f : LaneF) (s : State) : State :=
  let n := accBytes f
  let nr := f.ctlN 9 1 == 1
  let sx := f.ctlN 3 1 == 1
  let mk := if nr then maskD (f.vc.toNat % 16) else []
  let vd := f.vd.toNat
  s.memRun (dataRegs n vd ++ regsOf true f.va) (guardMask f ++ mk) fun s =>
    let accs := laneAccs s.me s.cur.path f
    match s.laneGot accs n 0 nr (fun _ a => readPacket a n) (fun _ _ => none) with
    | .stop t => t
    | .go here far away =>
      let (bad, good) := here.partition fun (_, _, pa, _) => s.poisoned pa n
      let ws := (good.flatMap fun (l, _, pa, _) => loadWrites vd l sx (readBytes s.mem pa n)) ++
        (far.flatMap fun (l, _, bs) => loadWrites vd l sx bs) ++
        (if nr then away.flatMap fun (l, _) => (dataRegs n vd).map fun r => ⟨r, l, 0⟩ else [])
      let ms : List MaskW :=
        if nr then [⟨f.vc.toNat % 16, active s.me s.cur.path f, maskOf (away.map (·.1))⟩] else []
      s.loadIssue f n ws (bad.map fun (l, a, _, _) => ⟨l, a, n, vd, sx⟩) ms mk
def execVld (f : LaneF) (s : State) : Host.Outcome State Fault Refusal := .next (opVld f s)

/-- A lane release waits for the warp's stamped stores (R147, R168). -/
def State.laneRelease (s : State) (f : LaneF) (body : State) : State := if f.ctlN 4 2 < 2 then body else s.release body

/-- VST (R136, R137): the lanes in rising order, so that the highest stands. -/
def opVst (f : LaneF) (s : State) : State :=
  let n := accBytes f
  s.memRun ((if f.ab = 1 then [] else dataRegs n f.vb.toNat) ++ regsOf true f.va) (guardMask f) fun s =>
    let x := s.me
    let accs := laneAccs x s.cur.path f
    match s.laneGot accs n 1 false (fun l a => writePacket a (storeData x f n l)) (fun _ _ => none) with
    | .stop t => t
    | .go here far _ =>
      let s := here.foldl (fun s (l, a, pa, pte) =>
        (s.warpStore pte pa (storeData x f n l)).digest (laneId x l) a (storeData x f n l)) s
      let s := far.foldl (fun s (l, a, _) =>
        (s.noteFarVa s.myCtx (some x.launch) false a n).digest (laneId x l) a (storeData x f n l)) s
      s.laneLong (outst f.la.toNat [] [] [] [])
def execVst (f : LaneF) (s : State) : Host.Outcome State Fault Refusal := .next (s.laneRelease f (opVst f s))

/-! ## Scratch (R134, R149, R174) -/

/-- A local offset of a lane names a block of the gang and an offset in its scratchpad; none where it fails its bound. -/
def State.localPlace (s : State) (gang : Bool) (off : Nat) : Option (Nat × Nat) :=
  let x := s.me
  let l := s.myLaunch
  if gang then
    let k := off / 2 ^ 21 % 64
    if off / 2 ^ 27 ≠ 0 ∨ k ≥ count2 l ∨ off % 2 ^ 21 ≥ l.record.scratch then none
    else some ((s.gangBlock s.myBlock k).getD x.block, off % 2 ^ 21)
  else if off ≥ l.record.scratch then none else some (x.block, off)

/-- The WINDOW line an offset stands in, if it does: the line's key, the region, its number, the line's number. -/
def windowLine (b : Block) (o : Nat) : Option (Nat × Region × Nat) :=
  match regionAt b o with
  | some (r, g) => if g.mode = 3 then some (lineKey r ((o - g.base) / 2 ^ g.line), g, (o - g.base) / 2 ^ g.line) else none
  | none => none

/-- A lane whose WINDOW line is not valid: its lane, block, line key, region, line number and global address. -/
structure Miss where
  lane : Nat
  block : Nat
  key : Nat
  region : Region
  line : Nat
  va : W64
  deriving DecidableEq, Repr, Inhabited

def State.missOf (s : State) (l bk o : Nat) : Option Miss :=
  let b := s.block bk
  match windowLine b o with
  | some (key, g, k) =>
    if (kGet b.lines key).valid then none
    else some ⟨l, bk, key, g, k, g.gbase + BitVec.ofNat 64 (o - g.base)⟩
  | none => none

/-- The global address of the first byte of a line. -/
def lineVa (m : Miss) : W64 := m.region.gbase + BitVec.ofNat 64 (m.line * 2 ^ m.region.line)

/-- The key under which the answer for a unit of 8 bytes of a line to be filled stands: it names the unit's address, above the keys
of the lanes. -/
def fillUnit (m : Miss) (i : Nat) : Nat := (lineVa m + BitVec.ofNat 64 (8 * i)).toNat + 128

/-- The first byte of a line in its scratchpad. -/
def lineOff (m : Miss) : Nat := m.region.base + m.line * 2 ^ m.region.line

/-- R149: fill the invalid WINDOW lines that the lanes touch, as part of the instruction, once their checks have passed: the
reads of each whole line, parked by R141 and R143, and filled once each. -/
def State.fillLines (s : State) (ms : List Miss) : State :=
  let one := ms.foldl (fun (acc : List Miss) m =>
    if acc.any (fun e => e.block == m.block && e.key == m.key) then acc else acc ++ [m]) []
  let per (m : Miss) : Nat := 2 ^ m.region.line / 8
  let units := one.flatMap fun m => (List.range (per m)).map fun i => (fillUnit m i, lineVa m + BitVec.ofNat 64 (8 * i))
  match s.laneGot units 8 0 false (fun _ a => readPacket a 8) (fun _ _ => none) with
  | .stop t => t
  | .go here far _ =>
    let bad := here.filterMap fun (_, a, pa, _) => if s.poisoned pa 8 then some a else none
    if !bad.isEmpty then s.parkLane .poison (firstPer 32 bad) 0
    else
      let bytesAt (k : Nat) : List Byte :=
        match here.find? (fun e => e.1 == k) with
        | some (_, _, pa, _) => readBytes s.mem pa 8
        | none => match far.find? (fun e => e.1 == k) with
          | some (_, _, bs) => bs
          | none => toBytes 8 0
      one.foldl (fun s m => s.modBlock m.block fun b => { b with
        scratch := writeBytes b.scratch (lineOff m) ((List.range (per m)).flatMap fun i => bytesAt (fillUnit m i))
        lines := kSet b.lines m.key ⟨true, false, 0⟩ }) s

/-- A fill is refused: its line fails its permission, or would overwrite an ARMED barrier object (R139, R174). -/
def State.fillRefused (s : State) (nr : Bool) (m : Miss) : Bool :=
  match s.check s.myCtx m.va 0 with
  | .bad c => c == cPERM
  | .away => !nr && armedHit (s.block m.block) (lineOff m) (2 ^ m.region.line)
  | _ => armedHit (s.block m.block) (lineOff m) (2 ^ m.region.line)

/-- What the checks of a scratch access give: the lanes with their blocks and offsets, their lines filled, and the lanes
whose fill meets a page that is not resident under .nr (R142). -/
inductive LocalGot where
  | go (s : State) (lanes : List (Nat × Nat × Nat)) (away : List Nat)
  | stop (s : State)
  deriving DecidableEq, Repr, Inhabited

/-- The checks of VLDS and VSTS (R134, R136, R139, R149, R174). A fill refused over an ARMED object reports the global address that
it would read, with access 0 (DESIGN CHOICE, log 42: R174 does not say which address a refused fill of a lane names). -/
def State.localGot (s : State) (f : LaneF) (n : Nat) (store nr : Bool) : LocalGot :=
  let x := s.me
  let gang := f.ctlN 10 1 == 1
  let kind := if store then 1 else 0
  let offs := (lanesOf (active x s.cur.path f)).map fun l => (l, laneOff x f l)
  match offs.find? (fun e => e.2 % n != 0) with
  | some (_, o) => .stop (s.laneFault cALIGN (BitVec.ofNat 64 o) kind)
  | none =>
    let ps := offs.filterMap fun (l, o) => (s.localPlace gang o).map fun q => (l, q.1, q.2)
    let misses := ps.filterMap fun (l, bk, o) => s.missOf l bk o
    let refused := offs.filter fun (_, o) =>
      match s.localPlace gang o with
      | none => true
      | some (bk, q) => store && armedHit (s.block bk) q n
    -- XLATE of a fill comes before PERM of a bound, and the lowest failing lane is named (R12, R136)
    let far := misses.find? fun m => verdictBad cXLATE (s.check s.myCtx m.va 0)
    let below (m : Miss) : Bool := match refused with
      | (l, _) :: _ => m.lane < l
      | [] => true
    match far, misses.find? (fun m => below m && s.fillRefused nr m), refused with
    | some m, _, _ => .stop (s.laneFault cXLATE m.va 0)
    | none, some m, _ => .stop ((s.logWarp cPERM m.va 0 (2 ^ m.region.line)).laneFault cPERM m.va 0)
    | none, none, (_, o) :: _ =>
      .stop ((s.logWarp cPERM (BitVec.ofNat 64 o) kind n).laneFault cPERM (BitVec.ofNat 64 o) kind)
    | none, none, [] =>
      let away := if nr then misses.filter fun m => s.check s.myCtx m.va 0 == .away else []
      let fill := misses.filter fun m => !away.contains m
      let ps := ps.filter fun (l, _, _) => !(away.any fun m => m.lane == l)
      if fill.isEmpty then .go s ps (away.map (·.lane))
      else
        let t := s.fillLines fill
        if ps.all fun (l, bk, o) => (t.missOf l bk o).isNone then .go t ps (away.map (·.lane)) else .stop t

/-- VLDS (R136, R142). One that reads bytes with an uncorrectable error halts its warp (R143). -/
def opVlds (f : LaneF) (s : State) : State :=
  let n := accBytes f
  let nr := f.ctlN 9 1 == 1
  let mk := if nr then maskD (f.vc.toNat % 16) else []
  s.memRun (dataRegs n f.vd.toNat ++ [f.va.toNat]) (guardMask f ++ mk) fun s =>
    match s.localGot f n false nr with
    | .stop t => t
    | .go t ls away =>
      match ls.find? fun (_, bk, o) => damagedAt (t.block bk) o n with
      | some (_, _, o) => t.consume t.cur.warp o
      | none =>
      let ws := ls.flatMap fun (l, bk, o) =>
        loadWrites f.vd.toNat l (f.ctlN 3 1 == 1) (readBytes (t.block bk).scratch o n)
      let zs := away.flatMap fun l => (dataRegs n f.vd.toNat).map fun r => ⟨r, l, 0⟩
      let ms : List MaskW := if nr then [⟨f.vc.toNat % 16, active s.me s.cur.path f, maskOf away⟩] else []
      t.loadIssue f n (ws ++ zs) [] ms mk
def execVlds (f : LaneF) (s : State) : Host.Outcome State Fault Refusal := .next (opVlds f s)

/-- A store into a scratchpad; a WINDOW line becomes dirty (R149). -/
def localStore (b : Block) (o : Nat) (bs : List Byte) : Block :=
  let b' := { b with scratch := writeBytes b.scratch o bs }
  match windowLine b o with
  | some (key, _, _) => { b' with lines := kSet b.lines key { kGet b.lines key with dirty := true } }
  | none => b'

/-- VSTS (R136, R137). -/
def opVsts (f : LaneF) (s : State) : State :=
  let n := accBytes f
  s.memRun ((if f.ab = 1 then [] else dataRegs n f.vb.toNat) ++ [f.va.toNat]) (guardMask f) fun s =>
    match s.localGot f n true false with
    | .stop t => t
    | .go t ls _ =>
      let x := s.me
      (ls.foldl (fun t (l, bk, o) => t.modBlock bk fun b => localStore b o (storeData x f n l)) t).laneLong
        (outst f.la.toNat [] [] [] [])
def execVsts (f : LaneF) (s : State) : Host.Outcome State Fault Refusal := .next (opVsts f s)

/-! ## Atomics (R144 to R146) -/

/-- The writes of an atomic's old value in lane `l`. -/
def oldWrites (pair : Bool) (vd l : Nat) (old : W64) : List RegW := resultW pair vd l old.toNat

/-- One atomic per active lane: lanes on a gated line of the launch are left to GATE_PASS, the others are performed in
rising order (R144, R146, R352). `ret` says that vd takes the old values; `rmw l` is lane `l`'s operation. NONDET_ATOMIC
reports the address 0, which R189 allows beside the lowest failing lane's, and access 0 (DESIGN CHOICE, log 42). -/
def State.laneAtomic (s : State) (f : LaneF) (ret : Bool) (rmw : Nat → Rmw) (n : Nat) : State :=
  let x := s.me
  let pair := isPair f.ty
  let vd := f.vd.toNat
  let accs := laneAccs x s.cur.path f
  let gated (va : W64) : Bool := (s.gateOf s.myLaunch va).isSome
  let flt := f.ty == 8 || f.ty == 9
  match s.laneChecks accs n 2 with
  | some t => t
  | none =>
    if flt && modeDet s.myMode != 0 && !(accs.all fun e => gated e.2) then s.laneFault 0x0F 0 0
    else
    let gate (l : Nat) (a : W64) : GateLane := ⟨l, a, rmw l, if ret then some vd else none⟩
    match s.laneGot accs n 2 false (fun l _ => atomicPacket (rmw l)) (fun l a => if gated a then some (gate l a) else none) with
    | .stop t => t
    | .go here far _ =>
      let (later, now) := here.partition fun (_, a, _, _) => gated a
      let (s, ws) := now.foldl (fun (acc : State × List RegW) (l, a, pa, pte) =>
        let (old, t) := (acc.1.noteAtomic (rmw l) ret).rmwHere (laneId x l) a pte pa (rmw l)
        (t, acc.2 ++ (if ret then oldWrites pair vd l old else []))) (s, [])
      let (s, ws) := far.foldl (fun (acc : State × List RegW) (l, a, bs) =>
        let old := BitVec.ofNat 64 (ofBytes bs)
        let t := if (s.myPath.io.map fun w => gatePassed w l) == some true then acc.1
          else (acc.1.noteFarVa s.myCtx (some x.launch) true a n).noteAtomic (rmw l) ret
        let t := match rmwNew (rmw l) old with
          | some v => t.digest (laneId x l) a (toBytes n v.toNat)
          | none => t
        (t, acc.2 ++ (if ret then oldWrites pair vd l old else []))) (s, ws)
      let gates : List GateLane := later.map fun (l, a, _, _) => gate l a
      s.laneLong { outst f.la.toNat (if ret then regsOf pair f.vd else []) [] ws [] with gates := gates }

/-- vatom (R144). -/
def opVatom (f : LaneF) (s : State) : State :=
  let ret := f.ctlN 9 1 == 1
  let pair := isPair f.ty
  s.memRun ((if ret then regsOf pair f.vd else []) ++ regsB f ++ regsOf true f.va) (guardMask f) fun s =>
    let x := s.me
    s.laneAtomic f ret (fun l => ⟨f.ctlN 0 4, f.ty.toNat, BitVec.ofNat 64 (opReg x f l), 0⟩) (rmwBytes f.ty.toNat)
def execVatom (f : LaneF) (s : State) : Host.Outcome State Fault Refusal := .next (s.laneRelease f (opVatom f s))

/-- vcas (R145). -/
def opVcas (f : LaneF) (s : State) : State :=
  let pair := isPair f.ty
  s.memRun (regsOf pair f.vd ++ regsOf pair f.vb ++ regsOf pair f.vc ++ regsOf true f.va) (guardMask f) fun s =>
    let x := s.me
    s.laneAtomic f true (fun l => ⟨7, f.ty.toNat, BitVec.ofNat 64 (readV x pair f.vb.toNat l),
      BitVec.ofNat 64 (readV x pair f.vc.toNat l)⟩) (rmwBytes f.ty.toNat)
def execVcas (f : LaneF) (s : State) : Host.Outcome State Fault Refusal := .next (s.laneRelease f (opVcas f s))

/-! ## Completion and replay (R138, R141, R143) -/

/-- Read again the lanes of an outstanding load whose sectors are no longer poisoned (R143); its pages do not move meanwhile. -/
def State.readAgain (s : State) (ctx : Nat) (j : Outst) : Outst :=
  let at_ (r : Reread) : Option Nat := match s.checkHeld ctx r.va 0 with
    | .here pa _ => if s.poisoned pa r.bytes then none else some pa
    | _ => none
  { j with
    writes := j.writes ++ j.rereads.flatMap fun r => match at_ r with
      | some pa => loadWrites r.vd r.lane r.sx (readBytes s.mem pa r.bytes)
      | none => []
    rereads := j.rereads.filter fun r => (at_ r).isNone }

/-- A parked access can go on: every page it waits for is resident, every sector unpoisoned; or its page no longer
passes the checks, which its replay will find (R141, R143). A PMARK goes on when its entries have ended (R284). -/
def State.parkOver (s : State) (launch : Nat) (p : Park) : Bool :=
  let l := s.launch launch
  match p.kind with
  | .schedule => p.addrs.all fun e => (kGet l.entries e.toNat).ended
  | _ => p.addrs.all fun a => match s.check l.ctx a 0 with
    | .away => false
    | .here pa _ => p.kind == .residency || !(s.poisoned (pa / 32 * 32) 32)
    | _ => true

/-- The promotions of the pages that a park still waits for are asked for again, where none is under way (R286, R287). -/
def State.askAgain (s : State) (x : Warp) (p : Park) : State :=
  let ctx := (s.launch x.launch).ctx
  if p.kind == .residency then
    p.addrs.foldl (fun s a =>
      if s.check ctx a 0 == .away then s.promote ctx a ((s.block x.block).pcore / 44) x.launch else s) s
  else s

/-- PARK_REPLAY (R141, R143): `which` names path 0 or 1, or the scalar stream (2). The park ends and the access runs again
from its checks at its next issue; a load's poisoned lanes are read again. -/
def opParkReplay (w which : Nat) (s : State) : State :=
  let x := s.warp w
  let ctx := (s.launch x.launch).ctx
  if (kGet? s.warps w).isNone || x.stopped then s
  else if which = 2 then
    match x.wait with
    | .parked p => if s.parkOver x.launch p then s.setWarp w { x with wait := .none } else s.askAgain x p
    | _ => s
  else if which ≤ 1 then
    let q := warpPath x which
    let q := { q with outs := q.outs.map fun (j : Outst) => if j.rereads.isEmpty then j else s.readAgain ctx j }
    match q.park with
    | some p =>
      if s.parkOver x.launch p then s.setWarp w (setPath x which { q with park := none })
      else (s.setWarp w (setPath x which q)).askAgain x p
    | none => s.setWarp w (setPath x which q)
  else s
def execParkReplay (w which : Nat) (s : State) : Host.Outcome State Fault Refusal := .next (opParkReplay w which s)

end Sys2Proof.Machine
end

