-- ==== Sys2Proof/Machine/LaneFloat.lean ====
section
/-! DEFINITION. Lane floating point: arithmetic, compares, classes, conversion, rotation and the function table
(R115 to R125). -/

namespace Sys2Proof.Machine

/-- Apply a floating operation to each element: the packed results and the OR of the flags (R116). -/
def elemF (ty : Nat) (op : Fmt → Nat → Nat → Nat → Nat × Nat) (a b c : Nat) : Nat × Nat :=
  let n := elemBits ty
  let r := (List.range (elemCount ty)).map fun e => op (fmtOf ty) (elem n a e) (elem n b e) (elem n c e)
  (packElems n (r.map (·.1)), orFlags r)

/-- The lanes' results of a floating instruction, and the OR of the flags over them (R56). -/
def laneResults (act : W32) (val : Nat → Nat × Nat) : List (Nat × Nat) × Nat :=
  let r := (lanesOf act).map fun l => (l, val l)
  (r.map fun e => (e.1, e.2.1), r.foldl (fun a e => a ||| e.2.2) 0)

/-- Run a short floating instruction: flags, traps, then one write per active lane (R56, R116). -/
def State.floatMap (s : State) (f : LaneF) (regs : List Nat) (pair : Bool) (val : Warp → Nat → Nat × Nat) : State :=
  s.laneRun regs (guardMask f) fun s =>
    let (ys, fl) := laneResults (active s.me s.cur.path f) (val s.me)
    s.fpEnd fl fun s => s.writeRegs (ys.flatMap fun e => resultW pair f.vd.toNat e.1 e.2)

/-- The same for a long one, whose writes come at its completion; `can` are the flags it can raise (R132). -/
def State.floatLong (s : State) (can : Nat) (f : LaneF) (regs : List Nat) (pair : Bool) (val : Warp → Nat → Nat × Nat) : State :=
  s.laneRun regs (guardMask f) fun s =>
    let (ys, fl) := laneResults (active s.me s.cur.path f) (val s.me)
    s.fpEnd fl fun s =>
      s.longRegs (lookOf s.me.fptraps can f.la.toNat) (regsOf pair f.vd) (ys.flatMap fun e => resultW pair f.vd.toNat e.1 e.2)

/-- One element of fadd and its flags (R116). -/
def valFadd (fm : Fmt) (rm : Nat) (a b : Nat) : Nat × Nat := addCode fm rm a b
/-- fadd (R116). -/
def execFadd (f : LaneF) (s : State) : Host.Outcome State Fault Refusal :=
  .next (s.floatMap f (useDAB f) (isPair f.ty) fun x l =>
    elemF f.ty.toNat (fun fm a b _ => valFadd fm (f.ctlN 13 3) a b) (opA x f l) (opB x f l) 0)

/-- One element of fsub and its flags (R116). -/
def valFsub (fm : Fmt) (rm : Nat) (a b : Nat) : Nat × Nat := roundCode fm rm (addF (decodeF fm a) (negF (decodeF fm b)) rm)
/-- fsub (R116). -/
def execFsub (f : LaneF) (s : State) : Host.Outcome State Fault Refusal :=
  .next (s.floatMap f (useDAB f) (isPair f.ty) fun x l =>
    elemF f.ty.toNat (fun fm a b _ => valFsub fm (f.ctlN 13 3) a b) (opA x f l) (opB x f l) 0)

/-- One element of fmul and its flags (R116). -/
def valFmul (fm : Fmt) (rm : Nat) (a b : Nat) : Nat × Nat := roundCode fm rm (mulF (decodeF fm a) (decodeF fm b))
/-- fmul (R116). -/
def execFmul (f : LaneF) (s : State) : Host.Outcome State Fault Refusal :=
  .next (s.floatMap f (useDAB f) (isPair f.ty) fun x l =>
    elemF f.ty.toNat (fun fm a b _ => valFmul fm (f.ctlN 13 3) a b) (opA x f l) (opB x f l) 0)

/-- One element of ffma and its flags (R116). -/
def valFfma (fm : Fmt) (rm : Nat) (a b c : Nat) : Nat × Nat := roundCode fm rm (fmaF (decodeF fm a) (decodeF fm b) (decodeF fm c) rm)
/-- ffma (R116). -/
def execFfma (f : LaneF) (s : State) : Host.Outcome State Fault Refusal :=
  .next (s.floatMap f (useDABC f) (isPair f.ty) fun x l =>
    elemF f.ty.toNat (fun fm a b c => valFfma fm (f.ctlN 13 3) a b c) (opA x f l) (opReg x f l) (opC x f l))

/-- One element of fmin and its flags (R117). -/
def valFmin (fm : Fmt) (a b : Nat) : Nat × Nat := minmaxF fm false a b
/-- fmin (R117). -/
def execFmin (f : LaneF) (s : State) : Host.Outcome State Fault Refusal :=
  .next (s.floatMap f (useDAB f) (isPair f.ty) fun x l =>
    elemF f.ty.toNat (fun fm a b _ => valFmin fm a b) (opA x f l) (opB x f l) 0)

/-- One element of fmax and its flags (R117). -/
def valFmax (fm : Fmt) (a b : Nat) : Nat × Nat := minmaxF fm true a b
/-- fmax (R117). -/
def execFmax (f : LaneF) (s : State) : Host.Outcome State Fault Refusal :=
  .next (s.floatMap f (useDAB f) (isPair f.ty) fun x l =>
    elemF f.ty.toNat (fun fm a b _ => valFmax fm a b) (opA x f l) (opB x f l) 0)

/-- One element of fdiv and its flags (R116). -/
def valFdiv (fm : Fmt) (rm : Nat) (a b : Nat) : Nat × Nat := roundCode fm rm (divF (decodeF fm a) (decodeF fm b))
/-- fdiv (R116). -/
def execFdiv (f : LaneF) (s : State) : Host.Outcome State Fault Refusal :=
  .next (s.floatLong 31 f (useDAB f) (isPair f.ty) fun x l =>
    elemF f.ty.toNat (fun fm a b _ => valFdiv fm (f.ctlN 13 3) a b) (opA x f l) (opB x f l) 0)

/-- One element of fsqrt and its flags (R116). -/
def valFsqrt (fm : Fmt) (rm : Nat) (a : Nat) : Nat × Nat := roundCode fm rm (sqrtF (decodeF fm a))
/-- fsqrt (R116). -/
def execFsqrt (f : LaneF) (s : State) : Host.Outcome State Fault Refusal :=
  .next (s.floatLong (fNV ||| fNX) f (useDA f) (isPair f.ty) fun x l =>
    elemF f.ty.toNat (fun fm a _ _ => valFsqrt fm (f.ctlN 13 3) a) (opA x f l) 0 0)

/-- One element of frcp and its flags (R116). -/
def valFrcp (fm : Fmt) (rm : Nat) (a : Nat) : Nat × Nat := roundCode fm rm (rcpF (decodeF fm a))
/-- frcp (R116). -/
def execFrcp (f : LaneF) (s : State) : Host.Outcome State Fault Refusal :=
  .next (s.floatLong (fDZ ||| fOF ||| fUF ||| fNX) f (useDA f) (isPair f.ty) fun x l =>
    elemF f.ty.toNat (fun fm a _ _ => valFrcp fm (f.ctlN 13 3) a) (opA x f l) 0 0)

/-- One element of frsq and its flags (R116). -/
def valFrsq (fm : Fmt) (rm : Nat) (a : Nat) : Nat × Nat := roundCode fm rm (rsqF (decodeF fm a))
/-- frsq (R116). -/
def execFrsq (f : LaneF) (s : State) : Host.Outcome State Fault Refusal :=
  .next (s.floatLong (fNV ||| fDZ ||| fNX) f (useDA f) (isPair f.ty) fun x l =>
    elemF f.ty.toNat (fun fm a _ _ => valFrsq fm (f.ctlN 13 3) a) (opA x f l) 0 0)

/-- One element of fexp2 and its flags (R116). -/
def valFexp2 (fm : Fmt) (rm : Nat) (a : Nat) : Nat × Nat := roundCode fm rm (exp2F (decodeF fm a))
/-- fexp2 (R116). -/
def execFexp2 (f : LaneF) (s : State) : Host.Outcome State Fault Refusal :=
  .next (s.floatLong (fOF ||| fUF ||| fNX) f (useDA f) (isPair f.ty) fun x l =>
    elemF f.ty.toNat (fun fm a _ _ => valFexp2 fm (f.ctlN 13 3) a) (opA x f l) 0 0)

/-- One element of flog2 and its flags (R116). -/
def valFlog2 (fm : Fmt) (rm : Nat) (a : Nat) : Nat × Nat := roundCode fm rm (log2F (decodeF fm a))
/-- flog2 (R116). -/
def execFlog2 (f : LaneF) (s : State) : Host.Outcome State Fault Refusal :=
  .next (s.floatLong (fNV ||| fDZ ||| fNX) f (useDA f) (isPair f.ty) fun x l =>
    elemF f.ty.toNat (fun fm a _ _ => valFlog2 fm (f.ctlN 13 3) a) (opA x f l) 0 0)

/-! ## Compare and classify (R118, R119) -/

/-- FCMP's bit of a lane and its flags: the condition holds for every element; a signalling NaN raises NV. -/
def valFcmp (ty cc a b : Nat) : Bool × Nat :=
  let n := elemBits ty
  let fm := fmtOf ty
  let es := (List.range (elemCount ty)).map fun e => (decodeF fm (elem n a e), decodeF fm (elem n b e))
  (es.all fun e => condF cc e.1 e.2, es.foldl (fun fl e => fl ||| nvOf [e.1, e.2]) 0)
/-- fcmp (R118). -/
def opFcmp (f : LaneF) (s : State) : State :=
  s.laneRun (useAB f) (guardMask f ++ maskD f.vd.toNat) fun s =>
    let x := s.me
    let act := active x s.cur.path f
    let r := (lanesOf act).map fun l => (l, valFcmp f.ty.toNat (f.ctlN 0 3) (opA x f l) (opB x f l))
    s.fpEnd (r.foldl (fun a e => a ||| e.2.2) 0) fun s =>
      s.writeMask f.vd.toNat act (maskOf ((r.filter (·.2.1)).map (·.1)))
def execFcmp (f : LaneF) (s : State) : Host.Outcome State Fault Refusal := .next (opFcmp f s)

/-- The class words of a value's elements: 16 bits apart, 32 or 64 wide (R119). -/
def valFclass (ty a : Nat) : Nat :=
  let n := elemBits ty
  packElems 16 ((List.range (elemCount ty)).map fun e => 2 ^ classBit (fmtOf ty) (elem n a e))
/-- fclass (R119). -/
def execFclass (f : LaneF) (s : State) : Host.Outcome State Fault Refusal :=
  .next (s.laneMap f (useDA f) [] fun x l => valFclass f.ty.toNat (opA x f l))

/-! ## Conversion (R120) -/

/-- The elements of a packed type and their width, by type code; an unpacked type has one. -/
def cvtCount (ty : Nat) : Nat := match ty with | 4 => 2 | 5 => 2 | 0x0A => 2 | 0x0B => 2 | _ => 1
def cvtInteger (ty : Nat) : Bool := ty ≤ 5
def cvtBits (ty : Nat) : Nat := if cvtInteger ty then elemBits ty else (fmtOf ty).w + (fmtOf ty).p + 1

/-- One element converted: its code and flags. -/
def cvtElem (dst src rm e : Nat) : Nat × Nat :=
  let v : FVal := if cvtInteger src then ofInt (intVal (cvtBits src) (intSigned src) e) else decodeF (fmtOf src) e
  if cvtInteger dst then cvtInt (cvtBits dst) (intSigned dst) v rm
  else roundCode (fmtOf dst) rm (v, nvOf [v])

/-- FCVT's value and flags (R120). -/
def valFcvt (dst src rm a : Nat) : Nat × Nat :=
  let r := (List.range (cvtCount src)).map fun e => cvtElem dst src rm (elem (cvtBits src) a e)
  (packElems (cvtBits dst) (r.map (·.1)), orFlags r)
/-- fcvt (R120). -/
def execFcvt (f : LaneF) (s : State) : Host.Outcome State Fault Refusal :=
  let src := f.ctl.extractLsb' 0 5
  .next (s.floatMap f (regsOf (isPair f.ty) f.vd ++ regsOf (isPair src) f.va) (isPair f.ty) fun x l =>
    valFcvt f.ty.toNat src.toNat (f.ctlN 13 3) (readV x (isPair src) f.va.toNat l))

/-! ## Rotary (R121) -/

/-- One coordinate: p × c ± q × s, exact and then rounded once, with the special cases of FFMA. -/
def rotOne (fm : Fmt) (rm : Nat) (p c q s : FVal) (minus : Bool) : Nat × Nat :=
  if isNan p || isNan q then roundCode fm rm (.nan false, nvOf [p, q])
  else
    let (u, g) := mulF p c
    let (v, h) := mulF q s
    if isNan u || isNan v then roundCode fm rm (.nan false, g ||| h)
    else roundCode fm rm (addF u (if minus then negF v else v) rm)

/-- VROT's pair (x', y') and flags. R55's rounding of the cosine and the sine raises its flags too (DEDUCED, log 13). -/
def valVrot (fm : Fmt) (rm : Nat) (x y pos : Nat) (fr : W64) : Nat × Nat × Nat :=
  let t := pos * fr.toNat % 2 ^ 48
  let (co, si) := cosSin t
  let (c, g) := roundF fmtF32 co 0
  let (s, h) := roundF fmtF32 si 0
  let cv := decodeF fmtF32 c
  let sv := decodeF fmtF32 s
  let xv := decodeF fm x
  let yv := decodeF fm y
  let (x', i) := rotOne fm rm xv cv yv sv true
  let (y', j) := rotOne fm rm xv sv yv cv false
  (x', y', g ||| h ||| i ||| j)

/-- vrot (R121). -/
def opVrot (f : LaneF) (s : State) : State :=
  let wide := f.ty == 8
  let two (n : BitVec 8) : List Nat := regsOf wide n
  s.laneRun (two f.vd ++ two f.va ++ (if f.ab = 1 then [] else [f.vb.toNat])) (guardMask f) fun s =>
    let x := s.me
    let fr := areg x (f.ctlN 0 3)
    let r := (lanesOf (active x s.cur.path f)).map fun l =>
      let a := readV x wide f.va.toNat l
      let n := if wide then 32 else 16
      let pos := if f.ab = 1 then (areg x f.vb.toNat).toNat % 2 ^ 32 else (vreg x f.vb.toNat l).toNat
      let (x', y', fl) := valVrot (fmtOf f.ty.toNat) (f.ctlN 13 3) (elem n a 0) (elem n a 1) pos fr
      (resultW wide f.vd.toNat l (packElems n [x', y']), fl)
    s.fpEnd (r.foldl (fun a e => a ||| e.2) 0) fun s => s.writeRegs (r.flatMap (·.1))
def execVrot (f : LaneF) (s : State) : Host.Outcome State Fault Refusal := .next (opVrot f s)

/-! ## The function table (R122 to R125) -/

/-- The physical core a warp runs on. -/
def State.myCore (s : State) : Nat := s.myBlock.pcore

/-- Store words of 32 bits into a bank. -/
def bankOf (bs : List Byte) : Sparse 32 :=
  (List.range 256).foldl (fun m i => spSet m i (BitVec.ofNat 32 (fieldN bs (4 * i) 4))) []

/-- ftld (R123): it loads the inactive bank. -/
def opFtld (a : BitVec 6) (s : State) : State :=
  let x := s.me
  let va := sreg x a
  if laneWait x then s
  else if va.toNat % 64 ≠ 0 then s.scalarFault cALIGN va 0
  else if !canonVa va then s.scalarFault cXLATE va 0
  else match s.recordGot va 1024 0 0 [] with
    | .stop t => t
    | .bytes bs =>
      let c := s.core s.myCore
      let c := if c.activeBank = 0 then { c with bank1 := bankOf bs } else { c with bank0 := bankOf bs }
      (s.setCore s.myCore { c with pending := true, owner := x.launch }).scalarNext
def execFtld (a : BitVec 6) (s : State) : Host.Outcome State Fault Refusal := .next (opFtld a s)

/-- ftsw (R124). -/
def opFtsw (s : State) : State :=
  let c := s.core s.myCore
  if laneWait s.me then s
  else if c.pending then
    (s.setCore s.myCore { c with activeBank := 1 - c.activeBank, pending := false }).scalarNext
  else s.scalarNext
def execFtsw (s : State) : Host.Outcome State Fault Refusal := .next (opFtsw s)

/-- VFT's value and flags (R125): d is rounded, then φ × d + e0 is rounded once. -/
def valVft (bank : Sparse 32) (wrap : Bool) (a : Nat) : Nat × Nat :=
  let i := a / 2 ^ 24 % 256
  let j := if i = 255 then (if wrap then 0 else 255) else i + 1
  let e0 := decodeF fmtF32 (spGet bank i).toNat
  let e1 := decodeF fmtF32 (spGet bank j).toNat
  let (d, g) := roundCode fmtF32 0 (addF e1 (negF e0) 0)
  let (y, h) := roundCode fmtF32 0 (fmaF (.fin false (a % 2 ^ 24) (-24)) (decodeF fmtF32 d) e0 0)
  (y, g ||| h)
/-- vft (R125). -/
def opVft (f : LaneF) (s : State) : State :=
  let c := s.core s.myCore
  if c.owner = 0 ∨ c.owner ≠ s.me.launch then
    s.laneRun [f.vd.toNat, f.va.toNat] (guardMask f) fun s => s.laneFault cOPERAND 0 0
  else
    s.floatMap f [f.vd.toNat, f.va.toNat] false fun x l =>
      valVft (if c.activeBank = 0 then c.bank0 else c.bank1) (f.ctlN 0 1 == 1) (vreg x f.va.toNat l).toNat
def execVft (f : LaneF) (s : State) : Host.Outcome State Fault Refusal := .next (opVft f s)

end Sys2Proof.Machine
end

