-- ==== Sys2Proof/Machine/ScalarAlu.lean ====
section
/-! DEFINITION. Scalar arithmetic, logic, shifts, comparisons and immediates (R58 to R60). -/

namespace Sys2Proof.Machine

/-- R57, R58: a register instruction waits for the lane blocks before it when it names s56 to s63, reads its sources,
and writes `f` of them. -/
def State.aluRR (s : State) (d a b : BitVec 6) (f : W64 → W64 → W64) : State :=
  if sregWait s.me [d, a, b] then s else s.scalarDone d (f (sreg s.me a) (sreg s.me b))

/-- R60: the same with an immediate for the second source. -/
def State.aluRI (s : State) (d a : BitVec 6) (f : W64 → W64) : State :=
  if sregWait s.me [d, a] then s else s.scalarDone d (f (sreg s.me a))

/-- The low six bits of a shift amount. -/
def shamt (b : W64) : Nat := b.toNat % 64

/-- R59: the quotient; it never faults. -/
def quotS (a b : W64) : W64 := if b = 0 then BitVec.allOnes 64 else BitVec.ofInt 64 (a.toInt.tdiv b.toInt)
def quotU (a b : W64) : W64 := if b = 0 then BitVec.allOnes 64 else BitVec.ofNat 64 (a.toNat / b.toNat)
/-- R59: the remainder, with the sign of the dividend. -/
def remS (a b : W64) : W64 := if b = 0 then a else BitVec.ofInt 64 (a.toInt.tmod b.toInt)
def remU (a b : W64) : W64 := if b = 0 then a else BitVec.ofNat 64 (a.toNat % b.toNat)

/-- R61: conditions 0 to 7 of BC, of which 0 to 5 serve SETC. -/
def condS (cc : Nat) (a b : W64) : Bool :=
  match cc with
  | 0 => a == b
  | 1 => a != b
  | 2 => a.slt b
  | 3 => !(a.slt b)
  | 4 => a.ult b
  | 5 => !(a.ult b)
  | 6 => a.getLsbD (shamt b)
  | _ => !(a.getLsbD (shamt b))
def setc (cc : Nat) (a b : W64) : W64 := if condS cc a b then 1 else 0

/-- The value of add (R58). -/
def valAdd (a b : W64) : W64 := a + b
/-- add (R58). -/
def execAdd (d a b : BitVec 6) (s : State) : Host.Outcome State Fault Refusal := .next (s.aluRR d a b valAdd)

/-- The value of sub (R58). -/
def valSub (a b : W64) : W64 := a - b
/-- sub (R58). -/
def execSub (d a b : BitVec 6) (s : State) : Host.Outcome State Fault Refusal := .next (s.aluRR d a b valSub)

/-- The value of mul (R58). -/
def valMul (a b : W64) : W64 := a * b
/-- mul (R58). -/
def execMul (d a b : BitVec 6) (s : State) : Host.Outcome State Fault Refusal := .next (s.aluRR d a b valMul)

/-- The value of mulh (R58). -/
def valMulh (a b : W64) : W64 := BitVec.ofInt 64 (a.toInt * b.toInt / 2 ^ 64)
/-- mulh (R58). -/
def execMulh (d a b : BitVec 6) (s : State) : Host.Outcome State Fault Refusal := .next (s.aluRR d a b valMulh)

/-- The value of mulhn (R58). -/
def valMulhn (a b : W64) : W64 := BitVec.ofNat 64 (a.toNat * b.toNat / 2 ^ 64)
/-- mulhn (R58). -/
def execMulhn (d a b : BitVec 6) (s : State) : Host.Outcome State Fault Refusal := .next (s.aluRR d a b valMulhn)

/-- The value of div (R59). -/
def valDiv (a b : W64) : W64 := quotS a b
/-- div (R59). -/
def execDiv (d a b : BitVec 6) (s : State) : Host.Outcome State Fault Refusal := .next (s.aluRR d a b valDiv)

/-- The value of divn (R59). -/
def valDivn (a b : W64) : W64 := quotU a b
/-- divn (R59). -/
def execDivn (d a b : BitVec 6) (s : State) : Host.Outcome State Fault Refusal := .next (s.aluRR d a b valDivn)

/-- The value of rem (R59). -/
def valRem (a b : W64) : W64 := remS a b
/-- rem (R59). -/
def execRem (d a b : BitVec 6) (s : State) : Host.Outcome State Fault Refusal := .next (s.aluRR d a b valRem)

/-- The value of remn (R59). -/
def valRemn (a b : W64) : W64 := remU a b
/-- remn (R59). -/
def execRemn (d a b : BitVec 6) (s : State) : Host.Outcome State Fault Refusal := .next (s.aluRR d a b valRemn)

/-- The value of and (R58). -/
def valAnd (a b : W64) : W64 := a &&& b
/-- and (R58). -/
def execAnd (d a b : BitVec 6) (s : State) : Host.Outcome State Fault Refusal := .next (s.aluRR d a b valAnd)

/-- The value of or (R58). -/
def valOr (a b : W64) : W64 := a ||| b
/-- or (R58). -/
def execOr (d a b : BitVec 6) (s : State) : Host.Outcome State Fault Refusal := .next (s.aluRR d a b valOr)

/-- The value of xor (R58). -/
def valXor (a b : W64) : W64 := a ^^^ b
/-- xor (R58). -/
def execXor (d a b : BitVec 6) (s : State) : Host.Outcome State Fault Refusal := .next (s.aluRR d a b valXor)

/-- The value of shl (R58). -/
def valShl (a b : W64) : W64 := a <<< shamt b
/-- shl (R58). -/
def execShl (d a b : BitVec 6) (s : State) : Host.Outcome State Fault Refusal := .next (s.aluRR d a b valShl)

/-- The value of shr (R58). -/
def valShr (a b : W64) : W64 := a >>> shamt b
/-- shr (R58). -/
def execShr (d a b : BitVec 6) (s : State) : Host.Outcome State Fault Refusal := .next (s.aluRR d a b valShr)

/-- The value of sar (R58). -/
def valSar (a b : W64) : W64 := a.sshiftRight (shamt b)
/-- sar (R58). -/
def execSar (d a b : BitVec 6) (s : State) : Host.Outcome State Fault Refusal := .next (s.aluRR d a b valSar)

/-- The value of min (R58). -/
def valMin (a b : W64) : W64 := if a.slt b then a else b
/-- min (R58). -/
def execMin (d a b : BitVec 6) (s : State) : Host.Outcome State Fault Refusal := .next (s.aluRR d a b valMin)

/-- The value of max (R58). -/
def valMax (a b : W64) : W64 := if a.slt b then b else a
/-- max (R58). -/
def execMax (d a b : BitVec 6) (s : State) : Host.Outcome State Fault Refusal := .next (s.aluRR d a b valMax)

/-- The value of minn (R58). -/
def valMinn (a b : W64) : W64 := if a.ult b then a else b
/-- minn (R58). -/
def execMinn (d a b : BitVec 6) (s : State) : Host.Outcome State Fault Refusal := .next (s.aluRR d a b valMinn)

/-- The value of maxn (R58). -/
def valMaxn (a b : W64) : W64 := if a.ult b then b else a
/-- maxn (R58). -/
def execMaxn (d a b : BitVec 6) (s : State) : Host.Outcome State Fault Refusal := .next (s.aluRR d a b valMaxn)

/-- The value of setcEq (R61). -/
def valSetcEq (a b : W64) : W64 := setc 0 a b
/-- setcEq (R61). -/
def execSetcEq (d a b : BitVec 6) (s : State) : Host.Outcome State Fault Refusal := .next (s.aluRR d a b valSetcEq)

/-- The value of setcNe (R61). -/
def valSetcNe (a b : W64) : W64 := setc 1 a b
/-- setcNe (R61). -/
def execSetcNe (d a b : BitVec 6) (s : State) : Host.Outcome State Fault Refusal := .next (s.aluRR d a b valSetcNe)

/-- The value of setcLt (R61). -/
def valSetcLt (a b : W64) : W64 := setc 2 a b
/-- setcLt (R61). -/
def execSetcLt (d a b : BitVec 6) (s : State) : Host.Outcome State Fault Refusal := .next (s.aluRR d a b valSetcLt)

/-- The value of setcGe (R61). -/
def valSetcGe (a b : W64) : W64 := setc 3 a b
/-- setcGe (R61). -/
def execSetcGe (d a b : BitVec 6) (s : State) : Host.Outcome State Fault Refusal := .next (s.aluRR d a b valSetcGe)

/-- The value of setcLtn (R61). -/
def valSetcLtn (a b : W64) : W64 := setc 4 a b
/-- setcLtn (R61). -/
def execSetcLtn (d a b : BitVec 6) (s : State) : Host.Outcome State Fault Refusal := .next (s.aluRR d a b valSetcLtn)

/-- The value of setcGen (R61). -/
def valSetcGen (a b : W64) : W64 := setc 5 a b
/-- setcGen (R61). -/
def execSetcGen (d a b : BitVec 6) (s : State) : Host.Outcome State Fault Refusal := .next (s.aluRR d a b valSetcGen)

/-- The value of addi (R60). -/
def valAddi (i : BitVec 14) (a : W64) : W64 := a + i.signExtend 64
/-- addi (R60). -/
def execAddi (d a : BitVec 6) (i : BitVec 14) (s : State) : Host.Outcome State Fault Refusal := .next (s.aluRI d a (valAddi i))

/-- The value of andi (R60). -/
def valAndi (i : BitVec 14) (a : W64) : W64 := a &&& i.setWidth 64
/-- andi (R60). -/
def execAndi (d a : BitVec 6) (i : BitVec 14) (s : State) : Host.Outcome State Fault Refusal := .next (s.aluRI d a (valAndi i))

/-- The value of ori (R60). -/
def valOri (i : BitVec 14) (a : W64) : W64 := a ||| i.setWidth 64
/-- ori (R60). -/
def execOri (d a : BitVec 6) (i : BitVec 14) (s : State) : Host.Outcome State Fault Refusal := .next (s.aluRI d a (valOri i))

/-- The value of xori (R60). -/
def valXori (i : BitVec 14) (a : W64) : W64 := a ^^^ i.setWidth 64
/-- xori (R60). -/
def execXori (d a : BitVec 6) (i : BitVec 14) (s : State) : Host.Outcome State Fault Refusal := .next (s.aluRI d a (valXori i))

/-- The value of shli (R60). -/
def valShli (i : BitVec 6) (a : W64) : W64 := a <<< i.toNat
/-- shli (R60). -/
def execShli (d a i : BitVec 6) (s : State) : Host.Outcome State Fault Refusal := .next (s.aluRI d a (valShli i))

/-- The value of shri (R60). -/
def valShri (i : BitVec 6) (a : W64) : W64 := a >>> i.toNat
/-- shri (R60). -/
def execShri (d a i : BitVec 6) (s : State) : Host.Outcome State Fault Refusal := .next (s.aluRI d a (valShri i))

/-- The value of sari (R60). -/
def valSari (i : BitVec 6) (a : W64) : W64 := a.sshiftRight i.toNat
/-- sari (R60). -/
def execSari (d a i : BitVec 6) (s : State) : Host.Outcome State Fault Refusal := .next (s.aluRI d a (valSari i))

/-- li (R60). -/
def execLi (d : BitVec 6) (i : BitVec 14) (s : State) : Host.Outcome State Fault Refusal :=
  .next (s.aluRI d 0 (fun _ => i.signExtend 64))

/-- lih (R60): imm20 to bits [63:44]. -/
def execLih (d : BitVec 6) (i : BitVec 20) (s : State) : Host.Outcome State Fault Refusal :=
  .next (s.aluRI d 0 (fun _ => i.setWidth 64 <<< 44))

/-- orl (R60): imm20 ORed into bits [43:24] of the destination. -/
def execOrl (d : BitVec 6) (i : BitVec 20) (s : State) : Host.Outcome State Fault Refusal :=
  .next (s.aluRI d d (fun a => a ||| i.setWidth 64 <<< 24))

end Sys2Proof.Machine
end

