-- ==== Sys2Proof/Machine/ScalarCtl.lean ====
section
/-! DEFINITION. Branches, calls, lane control, fences, traps and special registers (R61, R67 to R72, R74, R75). -/

namespace Sys2Proof.Machine

/-! ## Branches (R61) -/

/-- PC + 4 + 4 × a signed word offset. -/
def target {n : Nat} (x : Warp) (o : BitVec n) : W64 := x.pc + 4 + (o.signExtend 64 <<< 2)

def execB (o : BitVec 26) (s : State) : Host.Outcome State Fault Refusal := .next (s.setMe (jumpPc s.me (target s.me o)))

/-- CALL waits as R31 states for the link s62, which a failed fetch of its target gives back (R54, R57). -/
def opCall (o : BitVec 26) (s : State) : State :=
  let x := s.me
  if laneWait x then s
  else s.setMe { jumpPc (setSreg x 62 (x.pc + 4)) (target x o) with link := some (sreg x 62) }
def execCall (o : BitVec 26) (s : State) : Host.Outcome State Fault Refusal := .next (opCall o s)

/-- BC with condition `cc`. -/
def State.branchC (s : State) (cc : Nat) (a b : BitVec 6) (o : BitVec 11) : State :=
  let x := s.me
  if sregWait x [a, b] then s
  else if condS cc (sreg x a) (sreg x b) then s.setMe (jumpPc x (target x o)) else s.scalarNext

def execBcEq (a b : BitVec 6) (o : BitVec 11) (s : State) : Host.Outcome State Fault Refusal := .next (s.branchC 0 a b o)
def execBcNe (a b : BitVec 6) (o : BitVec 11) (s : State) : Host.Outcome State Fault Refusal := .next (s.branchC 1 a b o)
def execBcLt (a b : BitVec 6) (o : BitVec 11) (s : State) : Host.Outcome State Fault Refusal := .next (s.branchC 2 a b o)
def execBcGe (a b : BitVec 6) (o : BitVec 11) (s : State) : Host.Outcome State Fault Refusal := .next (s.branchC 3 a b o)
def execBcLtn (a b : BitVec 6) (o : BitVec 11) (s : State) : Host.Outcome State Fault Refusal := .next (s.branchC 4 a b o)
def execBcGen (a b : BitVec 6) (o : BitVec 11) (s : State) : Host.Outcome State Fault Refusal := .next (s.branchC 5 a b o)
def execBcBs (a b : BitVec 6) (o : BitVec 11) (s : State) : Host.Outcome State Fault Refusal := .next (s.branchC 6 a b o)
def execBcBc (a b : BitVec 6) (o : BitVec 11) (s : State) : Host.Outcome State Fault Refusal := .next (s.branchC 7 a b o)

/-- A jump through a register; a target with nonzero low bits faults ALIGN at the jump (R54). -/
def State.jumpReg (s : State) (a : BitVec 6) : State :=
  let x := s.me
  let t := sreg x a
  if sregWait x [a] then s
  else if t.toNat % 4 ≠ 0 then s.scalarFault cALIGN t 0
  else s.setMe (jumpPc x t)

def execRet (s : State) : Host.Outcome State Fault Refusal := .next (s.jumpReg 62)
def execJmpr (a : BitVec 6) (s : State) : Host.Outcome State Fault Refusal := .next (s.jumpReg a)

/-! ## Lane control (R67, R68) -/

/-- The instructions that fault PRIV in handler mode (R191). -/
def State.notInHandler (s : State) (body : State) : State :=
  if s.me.handler then s.scalarFault cPRIV 0 0 else body

/-- Only a warp of a privileged launch may go on (R51). -/
def State.needPriv (s : State) (body : State) : State :=
  if s.privileged then body else s.scalarFault cPRIV 0 0

/-- LRUN (R67). It transfers control to the block, so a first fetch of it that fails translation or execute permission faults at the
LRUN (R54); the fetch is checked when the LRUN executes, before it can wait for the queue (DEDUCED: an instruction that can fault
holds its stream until its last check has passed, R57). -/
def opLrun (i : BitVec 26) (s : State) : State :=
  let x := s.me
  let l := s.myLaunch.record
  s.notInHandler
    (if 12 * i.toNat ≥ l.lbytes then s.scalarFault cXLATE (l.lbase + BitVec.ofNat 64 (12 * i.toNat)) 0
     else match s.laneWords s.cur.warp (12 * i.toNat) with
     | .bad c a => (s.logFetch c a 12).scalarFault c a 3
     | _ =>
      if x.queue.length ≥ 8 then s
      else
       let args := (List.range 8).map fun k => spGet x.s (40 + k)
       s.setMe (nextPc { x with queue := x.queue ++ [⟨12 * i.toNat, args⟩] }))
def execLrun (i : BitVec 26) (s : State) : Host.Outcome State Fault Refusal := .next (opLrun i s)

def opLsync (s : State) : State := s.notInHandler (if laneBusy s.me || !s.me.held.isEmpty then s else s.scalarNext)
def execLsync (s : State) : Host.Outcome State Fault Refusal := .next (opLsync s)

/-! ## System (R69 to R72) -/

/-- FENCE waits for the lane blocks before it; accesses of this model are performed in the order the steps are
taken, so that every kind at every scope is met (log 5), once the stamped stores that a release covers are visible. -/
def opFence (k : BitVec 2) (_p : BitVec 3) (s : State) : State :=
  if laneWait s.me || !s.me.held.isEmpty then s else if k = 0 then s.scalarNext else s.release s.scalarNext
def execFence (k : BitVec 2) (p : BitVec 3) (s : State) : Host.Outcome State Fault Refusal := .next (opFence k p s)

/-- TRAP (R70): $FSPC is the address of the instruction after it. -/
def opTrap (n : BitVec 8) (s : State) : State := (s.raiseScalarAt 0x19 0 0 n.toNat (s.me.pc + 4)).tryDeliver
def execTrap (n : BitVec 8) (s : State) : Host.Outcome State Fault Refusal := .next (opTrap n s)

/-- ERET (R71, R192). -/
def opEret (s : State) : State :=
  if s.me.handler then s.eretWarp s.cur.warp else s.scalarFault cPRIV 0 0
def execEret (s : State) : Host.Outcome State Fault Refusal := .next (opEret s)

def execNop (s : State) : Host.Outcome State Fault Refusal := .next s.scalarNext

/-- EXIT (R72, R192): in handler mode the queued and stopped lane blocks are discarded. -/
def opExit (s : State) : State :=
  let x := s.me
  if (!x.handler && laneBusy x) || !x.held.isEmpty || s.stampsQueued x then s
  else ((s.modBlock x.block fun b => { b with exited := b.exited ++ [x.widx] }).endWarp s.cur.warp)
def execExit (s : State) : Host.Outcome State Fault Refusal := .next (opExit s)

/-! ## Special registers (R74 to R77) -/

/-- The registers of the map. -/
def srListed (r : Nat) : Bool :=
  r ≤ 0x008 || (0x010 ≤ r && r ≤ 0x013) || (0x020 ≤ r && r ≤ 0x023) || (0x030 ≤ r && r ≤ 0x036) ||
    r == 0x040 || r == 0x041 || r == 0x050 || r == 0x060

/-- The four flag and trap registers, whose access waits for the lane blocks before it. -/
def srFlags (r : Nat) : Bool := 0x020 ≤ r && r ≤ 0x023

/-- $FPFLAGS and $FPTRAPS, whose access waits for the warp's MLOOP jobs (R230). -/
def srLoop (x : Warp) (r : Nat) : Bool := (r == 0x020 || r == 0x021) && !x.held.isEmpty

/-- Reads marked N. -/
def srN (r : Nat) : Bool :=
  r == 0x002 || r == 0x005 || r == 0x006 || r == 0x007 || r == 0x010 || r == 0x012 || r == 0x013
/-- Reads marked F. -/
def srF (r : Nat) : Bool := r == 0x001 || r == 0x003

/-- The value of a special register (R75). -/
def State.srValue (s : State) (x : Warp) (r : Nat) : W64 :=
  let b := s.block x.block
  let l := s.launch x.launch
  let n (v : Nat) : W64 := BitVec.ofNat 64 v
  match r / 16, r % 16 with
  | 0, 0 => warpWid b x.widx
  | 0, 1 => n b.lcore
  | 0, 2 => n b.pcore
  | 0, 3 => n (b.pcore / 44)
  | 0, 4 => n s.mgmt.settings.deviceId
  | 0, 5 => n (x.slot % 6)
  | 0, 6 => n x.slot
  | 0, 7 => n x.launch
  | 0, 8 => l.record.seed
  | 1, 0 => n l.effective
  | 1, 1 => l.record.mode.setWidth 64
  | 1, 2 => n l.marker
  | 1, 3 => n ((kGet? (s.die (b.pcore / 44)).energy l.ctx).getD (2 ^ 20))
  | 2, 0 => x.fpflags
  | 2, 1 => x.fptraps
  | 2, 2 => x.dflags
  | 2, 3 => x.dtraps
  | 3, 0 => x.rep.fault
  | 3, 1 => x.rep.faddr
  | 3, 2 => x.rep.fspc
  | 3, 3 => x.rep.flpc
  | 3, 4 => x.rep.fw0.setWidth 64
  | 3, 5 => x.rep.fw1.setWidth 64
  | 3, 6 => x.rep.fw2.setWidth 64
  | 4, 0 => if x.sstep then 1 else 0
  | 4, 1 => if x.freeze then 1 else 0
  | 5, 0 => spGet b.digest x.widx
  | 6, 0 => n l.ilim
  | _, _ => 0

/-- R74: what a read does to the launch's NONDET flag. -/
def State.srNondet (s : State) (x : Warp) (r : Nat) : State :=
  let free := modeDet s.myMode == 0
  if srN r || (srF r && (free || (s.block x.block).redrawn)) then s.setNondet x.launch else s

def opSrr (d : BitVec 6) (r : BitVec 14) (s : State) : State :=
  let x := s.me
  let k := r.toNat
  if !srListed k then s.scalarFault 0x01 0 0
  else if sregWait x [d] || (srFlags k && laneWait x) || srLoop x k || (k == 0x050 && s.stampsQueued x) then s
  else (s.srNondet x k).scalarDone d (s.srValue x k)
def execSrr (d : BitVec 6) (r : BitVec 14) (s : State) : Host.Outcome State Fault Refusal := .next (opSrr d r s)

/-- The bits of a writable register that are not reserved. -/
def srMask (r : Nat) : W64 :=
  match r / 16, r % 16 with
  | 2, 0 => 0x11F
  | 2, _ => 0x1F
  | _, _ => 1

/-- Write a writable register. -/
def srPut (x : Warp) (r : Nat) (v : W64) : Warp :=
  match r / 16, r % 16 with
  | 2, 0 => { x with fpflags := v }
  | 2, 1 => { x with fptraps := v }
  | 2, 2 => { x with dflags := v }
  | 2, 3 => { x with dtraps := v }
  | 4, 0 => { x with sstep := v.getLsbD 0 }
  | 4, 1 => { x with freeze := v.getLsbD 0 }
  | _, _ => x

def opSrw (a : BitVec 6) (r : BitVec 14) (s : State) : State :=
  let x := s.me
  let k := r.toNat
  let rwp := k == 0x040 || k == 0x041
  let v := sreg x a
  if !srListed k then s.scalarFault 0x01 0 0
  else if sregWait x [a] || (srFlags k && laneWait x) || srLoop x k then s
  else if !srFlags k && !s.privileged then s.scalarFault cPRIV 0 0
  else if !srFlags k && !rwp then s.scalarNext
  else if v &&& ~~~(srMask k) != 0 then s.scalarFault cOPERAND 0 0
  else s.setMe (nextPc (srPut x k v))
def execSrw (a : BitVec 6) (r : BitVec 14) (s : State) : Host.Outcome State Fault Refusal := .next (opSrw a r s)

end Sys2Proof.Machine
end

