-- ==== Sys2Proof/Machine/Copy.lean ====
section
/-! DEFINITION. Accesses by the engines, and the copy engine: channels, cards, footprints, chunks and completion
(R206 to R217). -/

namespace Sys2Proof.Machine

/-! ## Accesses by an engine (R212) -/

/-- What an engine's access gives: its bytes (none for a write), a failure with its code and address, or the state in
which it waits, with its requests and what it parks on. -/
inductive EngGot where
  | bytes (bs : List Byte)
  | fail (code : Nat) (addr : W64)
  | wait (s : State) (io : IoWait) (park : Option Park)
  deriving DecidableEq, Repr, Inhabited

/-- Who makes an engine's access. -/
structure Eng where
  ctx : Nat
  die : Nat
  launch : Nat
  asker : Asker
  key : Nat
  kind : Nat
  requester : W64
  deriving DecidableEq, Repr, Inhabited

/-- The poisoned sectors of a range that stands at `pa`, as addresses of the range. -/
def State.badSectors (s : State) (a : W64) (pa n : Nat) : List W64 :=
  (List.range ((pa % 32 + n + 31) / 32)).filterMap fun i =>
    let lo := pa / 32 * 32 + 32 * i
    if s.poison.contains (lo / 32) then some (a + BitVec.ofNat 64 (max pa lo - pa)) else none

/-- One access of an engine, piece by piece: the first failing piece's code; pages that are not resident are asked
for; a poisoned sector of a read makes it wait and is reported, or with `entry` fails it (R211); pieces on FABRIC pages are
asked of their targets with keys from `key` on. `chk` gives the verdict on an address. -/
def State.engGot (s : State) (e : Eng) (chk : W64 → Verdict) (io : IoWait) (va : W64) (n access key : Nat) (data : List Byte)
    (entry : Bool) : EngGot :=
  let vs : List (Nat × W64 × Nat × Verdict) := (pieces va n).map fun (i, a, k) => (i, a, k, chk a)
  match vs.find? (fun v => match v.2.2.2 with | .bad _ => true | _ => false) with
  | some (_, a, _, .bad c) => .fail c a
  | some (_, a, _, _) => .fail cXLATE a
  | none =>
    let away := vs.filterMap fun (_, a, _, v) => match v with | .away => some a | _ => none
    let bad := vs.flatMap fun (_, a, k, v) => match v with
      | .here pa _ => if access != 1 then s.badSectors a pa k else []
      | _ => []
    if !away.isEmpty then
      .wait (away.foldl (fun s a => s.promote e.ctx a e.die e.launch) s) io (some ⟨.residency, away, access⟩)
    else match bad with
      | a :: _ =>
        if entry then .fail 0x10 a
        else .wait (bad.foldl (fun s a => s.reportPoison e.key e.kind e.die e.launch a e.requester) s) io
          (some ⟨.poison, bad, access⟩)
      | [] =>
        let ask := vs.filterMap fun (i, a, k, v) => match v with
          | .remote fa => if (kGet? io.answers (key + i)).isSome then none else some (i, a, k, fa)
          | _ => none
        if !io.reqs.isEmpty then .wait s io none
        else match vs.find? (fun v => io.refused.any fun r => r.1 == key + v.1) with
        | some (_, a, _, _) => .fail cIMPORT a
        | none =>
          if ask.isEmpty then
            .bytes (vs.flatMap fun (i, _, k, v) => match v with
              | .here pa _ => if access = 1 then [] else readBytes s.mem pa k
              | _ => ((kGet? io.answers (key + i)).getD []).take k)
          else
            let (t, reqs) := ask.foldl (fun (acc : State × List (Nat × Nat × W64)) (i, a, k, fa) =>
              let off := (a - va).toNat
              let pk := if access = 1 then writePacket a ((data.drop off).take k) else readPacket a k
              let t := if access = 1 then acc.1.noteFar (some e.launch) false fa k else acc.1
              let (t, id) := t.sendRequest e.asker e.ctx a fa (key + i) 0 pk
              (t, acc.2 ++ [(id, key + i, a)])) (s, [])
            .wait t { io with reqs := reqs } none

/-- The translation of an address's page as a pin holds it (R217). -/
def State.pinOf (s : State) (ctx : Nat) (va : W64) : Option Pin :=
  let page := BitVec.ofNat 64 (va.toNat / 65536 * 65536)
  (s.translate ctx page).map fun wk => ⟨page, walkPa wk page, wk.pte⟩

/-- The verdict on an address whose page may be pinned: the pinned translation stands (R217). -/
def State.pinCheck (s : State) (ctx : Nat) (ps : List Pin) (access : Nat) (va : W64) : Verdict :=
  match ps.find? fun p => p.va.toNat == va.toNat / 65536 * 65536 with
  | some p =>
    let at_ := p.base + va.toNat % 65536
    if pteKind p.pte = 3 then .remote (BitVec.ofNat 64 at_) else .here at_ p.pte
  | none => s.check ctx va access

/-- Store an engine's bytes where they fall on this device, once its access has passed. -/
def State.engStore (s : State) (chk : W64 → Verdict) (launch : Nat) (va : W64) (bs : List Byte) : State :=
  (pieces va bs.length).foldl (fun s (_, a, k) =>
    match chk a with
    | .here pa pte => (s.storeAt pte pa ((bs.drop (a - va).toNat).take k)).noteGated (some launch) false pa k
    | _ => s) s

/-! ## Channels and COPY (R206, R207) -/

/-- copy (R207). While a read of the next card is under way at its target, a COPY of h = 0 makes the walk read the card again if
its OWN was clear (R206). -/
def opCopy (a : BitVec 6) (c : BitVec 3) (s : State) : State :=
  let x := s.me
  let h := sreg x a
  let ch := kGet s.myBlock.chans c.toNat
  if sregWait x [a] || s.stampsPending x then s
  else if h.toNat % 64 ≠ 0 then s.scalarFault cALIGN h 0
  else if !canonVa h then s.scalarFault cXLATE h 0
  else if ch.walking then
    if h = 0 then
      (s.modBlock x.block fun b => { b with chans := kSet b.chans c.toNat { ch with again := ch.io.isSome } }).scalarNext
    else s
  else
    let head := if h = 0 then ch.head else h
    (s.modBlock x.block fun b =>
      { b with chans := kSet b.chans c.toNat { ch with walking := head != 0, head := head, io := none, park := none } }).scalarNext
def execCopy (a : BitVec 6) (c : BitVec 3) (s : State) : Host.Outcome State Fault Refusal := .next (opCopy a c s)

/-! ## Cards (R208, R209, R211) -/

def cNext (k : List Byte) : W64 := BitVec.ofNat 64 (fieldN k 0 8)
def cSrc (k : List Byte) : Nat := fieldN k 8 8
def cDst (k : List Byte) : Nat := fieldN k 16 8
def cLen (k : List Byte) : Nat := fieldN k 24 4
def cOp (k : List Byte) : Nat := fieldN k 28 1
def cCtl (k : List Byte) : Nat := fieldN k 29 1
def cScope (k : List Byte) : Nat := fieldN k 30 1
def cElem (k : List Byte) : Nat := fieldN k 31 1
def cAux (k : List Byte) : Nat := fieldN k 32 8
def cObj (k : List Byte) : Nat := fieldN k 40 4
def cRing (k : List Byte) : W64 := BitVec.ofNat 64 (fieldN k 48 8)
def cRfp (k : List Byte) : Nat := fieldN k 56 4
def cWfp (k : List Byte) : Nat := fieldN k 60 4
def cBit (k : List Byte) (i : Nat) : Bool := bitN (cCtl k) i == 1

/-- Two ranges meet. -/
def rangesMeet (a n b m : Nat) : Bool := a < b + m && b < a + n

/-- The range a footprint word names (R209). -/
def fpBase (w : Nat) : Nat := w % 65536 * 32
def fpLen (w : Nat) : Nat := w / 65536 * 32
def fpMeet (a b : Nat) : Bool := rangesMeet (fpBase a) (fpLen a) (fpBase b) (fpLen b) && fpLen a != 0 && fpLen b != 0
def fpHolds (w o n : Nat) : Bool := fpBase w ≤ o && o + n ≤ fpBase w + fpLen w

/-- The scratch ranges that a card names whole lie in its footprints (R209); the elements that indices name are checked chunk
by chunk (R212). -/
def fpCovers (k : List Byte) : Bool :=
  let op := cOp k
  let len := cLen k
  let reads := if op = 4 then len / 2 + len / (8 * 2 ^ cElem k) else len
  len == 0 || ((!cBit k 1 || op == 2 || fpHolds (cRfp k) (cSrc k) reads) && (!cBit k 2 || op == 3 || fpHolds (cWfp k) (cDst k) len))

/-- A card that breaks R208, R209 or R211, with the code its job ends with; 0 where it breaks none. -/
def cardCode (k : List Byte) : Nat :=
  let op := cOp k
  let e := 2 ^ cElem k
  let len := cLen k
  let srcl := cBit k 1
  let dstl := cBit k 2
  let elems := op == 2 || op == 3
  if fieldN k 44 4 ≠ 0 || op > 5 || cCtl k ≥ 64 || cScope k > 5 || (cNext k).toNat % 64 ≠ 0 ||
      (if cBit k 3 then cObj k % 32 ≠ 0 else cObj k ≠ 0) || (!cBit k 4 && cRing k != 0) ||
      cElem k > (if elems then 3 else if op = 4 then 1 else 0) || (cAux k ≠ 0 && (op == 0 || op == 4)) then cOPERAND
  else if op = 0 && srcl == dstl && rangesMeet (cSrc k) len (cDst k) len then cOPERAND
  else if op = 1 && (cSrc k ≠ 0 || srcl) then cOPERAND
  else if elems && len % e ≠ 0 then cOPERAND
  else if op = 4 && (len % 256 ≠ 0 || cDst k % 256 ≠ 0) then cOPERAND
  else if op = 5 && srcl then cOPERAND
  else if !fpCovers k then cOPERAND
  else if elems && (cSrc k % e ≠ 0 || cDst k % e ≠ 0) then cALIGN
  else 0

/-- A job has finished: its last byte has been accepted, or an error has ended it, and no write of it is unacknowledged (R214,
R216). What it then reports keeps no other job waiting. -/
def jobOver (j : Job) : Bool :=
  if j.mloop then j.finished || (j.stage == 2 && j.err.isSome)
  else (j.err.isSome || (j.started && cLen j.card ≤ j.pos)) && j.sent.isEmpty

/-- The jobs of a block that a new job takes an edge from (R213). -/
def State.edgesOf (s : State) (b : Nat) (rfp wfp : Nat) (ser : Bool) (ch : Nat) : List Nat :=
  (s.jobs.filter fun e =>
    let j := e.2
    let r := if j.mloop then fieldN j.card 56 4 else cRfp j.card
    let w := if j.mloop then fieldN j.card 60 4 else cWfp j.card
    j.block == b && !jobOver j && (fpMeet w rfp || fpMeet r wfp || fpMeet w wfp || (ser && !j.mloop && j.chan == ch))).map (·.1)

/-- The entered and unfinished jobs of a core (R210). -/
def State.coreJobs (s : State) (core : Nat) : Nat :=
  (s.jobs.filter fun e => (s.block e.2.block).pcore == core && !jobOver e.2).length

/-- A copy error that no ring entry reports goes to the launch completion record (R216, R330). -/
def State.copyError (s : State) (launch code cause : Nat) (card : W64) : State :=
  s.modLaunch launch fun l =>
    let t := l.tally
    { l with tally := match t.copyCard with
      | none => { t with copyCard := some card, copyCode := code, copyCause := cause }
      | some _ => { t with copyMore := min 65535 (t.copyMore + 1) } }

def State.modChan (s : State) (b ch : Nat) (f : Chan → Chan) : State :=
  s.modBlock b fun q => { q with chans := kSet q.chans ch (f (kGet q.chans ch)) }

/-- The engine of a block's core as a requester. -/
def State.copyEng (s : State) (b : Nat) (asker : Asker) (key : Nat) (card : W64) : Eng :=
  let q := s.block b
  ⟨(s.launch q.launch).ctx, q.pcore / 44, q.launch, asker, key, 1, card⟩

/-- A block whose warps have been stopped for a save issues no new record (R196). -/
def State.blockStopping (s : State) (b : Nat) : Bool :=
  s.stopping b && s.warps.all fun e => e.2.block != b || e.2.stopped

/-- The read of a card fails (R216). -/
def State.cardFail (s : State) (b ch code : Nat) (a : W64) : State :=
  let q := s.block b
  let c := kGet q.chans ch
  let s := if code = cPERM then s.logViolation (q.pcore / 44) a 1 code (s.launch q.launch).ctx q.lcore 0 64 else s
  (s.modChan b ch fun c => { c with walking := false, io := none, park := none, again := false }).copyError q.launch 0x1C code c.head

/-- CHAIN_CARD_READ (R210). A head that is not aligned fails as the read of the card (DEDUCED, log 40). A channel one of whose
jobs waits for a ring slot is stalled (R215). -/
def opChainCardRead (b ch : Nat) (s : State) : State :=
  let q := s.block b
  let c := kGet q.chans ch
  let mine := s.jobs.filter fun e => e.2.block == b && !e.2.mloop && e.2.chan == ch
  if !c.walking || (kGet? s.blocks b).isNone || (mine.filter fun e => !jobOver e.2).length ≥ 4 ||
      mine.any (fun e => e.2.stage == 2) || s.coreJobs q.pcore ≥ 64 || s.blockStopping b then s
  else
    let e := s.copyEng b (.chan b ch) (2 ^ 40 + b * 8 + ch) c.head
    let got := if c.head.toNat % 64 = 0 then s.engGot e (fun a => s.check e.ctx a 0) (c.io.getD noIo) c.head 64 0 0 [] true
      else .fail cALIGN c.head
    match got with
    | .wait t io park => t.modChan b ch fun c =>
      { c with io := if io == noIo then none else some io, park := park, again := c.again && !io.reqs.isEmpty }
    | .fail code a => s.cardFail b ch code a
    | .bytes card =>
      if !cBit card 0 then s.modChan b ch fun c => { c with walking := c.again, io := none, park := none, again := false }
      else
        let code := cardCode card
        let at_ := if code = cALIGN then BitVec.ofNat 64 (if cSrc card % 2 ^ cElem card ≠ 0 then cSrc card else cDst card) else 0
        let job : Job :=
          { block := b, launch := q.launch, warp := 0, mloop := false, chan := ch, addr := c.head, card := card,
            edges := if code = 0 then s.edgesOf b (cRfp card) (cWfp card) (cBit card 5) ch else [],
            started := false, pos := 0, source := 0, entry := none, pin := [], sent := [], kept := [],
            park := none, io := none, err := if code = 0 then none else some (code, 0, at_), finished := false, stage := 0, ringSlot := 0,
            version := 0, replays := 0, retrains := 0, advances := 0, advSeen := [], traps := 0, flags := 0, z := false, word0 := 0 }
        let s := { s with jobs := kSet s.jobs s.nextId job, nextId := s.nextId + 1 }
        s.modChan b ch fun _ => ⟨cNext card != 0 && code == 0, cNext card, none, none, cNext card, false⟩
def execChainCardRead (b ch : Nat) (s : State) : Host.Outcome State Fault Refusal := .next (opChainCardRead b ch s)

/-! ## Jobs (R211 to R213, R216, R217) -/

/-- The edges of a job have finished. -/
def State.edgesDone (s : State) (j : Job) : Bool := j.edges.all fun k => ((kGet? s.jobs k).map jobOver).getD true

/-- An error ends a job at the chunk where it arises, and its channel stops at the next field of the last card entered (R216). -/
def State.jobFail (s : State) (k code cause : Nat) (addr : W64) : State :=
  let j := s.job k
  (s.setJob k { j with err := some (code, cause, addr), io := none, pin := [], park := none }).modChan j.block j.chan
    fun c => { c with walking := false, head := c.lastNext, io := none, park := none, again := false }

/-- A job's access refused for permission writes a violation record, of the copy engine or the matrix engine (R15, R16). -/
def State.logJob (s : State) (k code : Nat) (addr : W64) (access n : Nat) : State :=
  let j := s.job k
  let q := s.block j.block
  if code = cPERM then
    s.logViolation (q.pcore / 44) addr (if j.mloop then 2 else 1) code (s.launch j.launch).ctx q.lcore access n
  else s

/-- A failed access of a job: PERM writes a violation record (R15, R212). `entry` reports ENTRY_FETCH with the code as
its cause (R211). -/
def State.accessFail (s : State) (k code : Nat) (addr : W64) (access n : Nat) (entry : Bool) : State :=
  let s := s.logJob k code addr access n
  if entry then s.jobFail k 0x1C code addr else s.jobFail k code 0 addr

def Job.ioOf (j : Job) : IoWait := j.io.getD noIo

/-- A wait for the repair of poison. -/
def poisonPark (p : Option Park) : Bool := p.any fun p => p.kind == .poison

/-- The verdict on an address of a job's access, its pins holding (R217). -/
def State.jobCheck (s : State) (j : Job) (access : Nat) (va : W64) : Verdict :=
  s.pinCheck (s.launch j.launch).ctx j.pin access va

/-- Leave a job waiting; after a forced reset it does not wait for the repair of poison, which ends it (R199, R212). -/
def State.jobWait (s : State) (k : Nat) (io : IoWait) (park : Option Park) : State :=
  if (s.launch (s.job k).launch).tally.forced && poisonPark park then { s with jobs := kErase s.jobs k }
  else s.setJob k { s.job k with io := some io, park := park }

/-- COPY_JOB_START (R211, R213): every edge has finished; copy.ind reads its pointer. -/
def opCopyJobStart (k : Nat) (s : State) : State :=
  let j := s.job k
  if (kGet? s.jobs k).isNone || j.mloop || j.started || j.err.isSome || !s.edgesDone j then s
  else if cOp j.card ≠ 5 then s.setJob k { j with started := true, source := BitVec.ofNat 64 (cSrc j.card) }
  else
    let aux := BitVec.ofNat 64 (cAux j.card)
    if aux.toNat % 8 ≠ 0 then s.jobFail k 0x1C cALIGN aux
    else match s.engGot (s.copyEng j.block (.job k) (2 ^ 41 + k) j.addr) (s.jobCheck j 0) j.ioOf aux 8 0 0 [] true with
      | .wait t io park => t.jobWait k io park
      | .fail code a => s.accessFail k code a 0 8 true
      | .bytes bs =>
        let p := BitVec.ofNat 64 (ofBytes bs)
        if !cBit j.card 2 && rangesMeet p.toNat (cLen j.card) (cDst j.card) (cLen j.card) then s.jobFail k cOPERAND 0 p
        else s.setJob k { j with started := true, source := p, io := none, park := none }
def execCopyJobStart (k : Nat) (s : State) : Host.Outcome State Fault Refusal := .next (opCopyJobStart k s)

/-- The check of a scratch access of a job (R212): footprint and region, then the bound, then ARMED objects. -/
def scratchCode (b : Block) (scratch fp o n : Nat) (write : Bool) : Nat :=
  let plain := b.regions.all fun e => e.2.mode == 0 || e.2.mode == 1 || !rangesMeet e.2.base e.2.len o n
  if !fpHolds fp o n || !plain then cOPERAND
  else if o + n > scratch then cPERM
  else if write && armedHit b o n then cPERM
  else 0

/-- What translating a chunk's pages gives: its pins, a failure, or the state in which it waits for a page. -/
inductive PinGot where
  | pins (ps : List Pin)
  | fail (code : Nat) (addr : W64) (access n : Nat)
  | wait (s : State) (park : Park)
  deriving DecidableEq, Repr, Inhabited

/-- The pages of a chunk's ranges (address, length, access), each with an address in it. -/
def chunkPages (rs : List (W64 × Nat × Nat)) : List (W64 × Nat × Nat) :=
  rs.flatMap fun (va, n, access) =>
    let lo := va.toNat / 65536
    (List.range ((va.toNat % 65536 + n + 65535) / 65536)).map fun i =>
      (if i = 0 then va else BitVec.ofNat 64 ((lo + i) * 65536), access, n)

/-- R217: the pages of a chunk are translated and checked once, and pinned; a page that is not resident is asked for. -/
def State.chunkPins (s : State) (k : Nat) (rs : List (W64 × Nat × Nat)) : PinGot :=
  let j := s.job k
  let e := s.copyEng j.block (.job k) (2 ^ 41 + k) j.addr
  let vs : List (W64 × Nat × Nat × Verdict) := (chunkPages rs).map fun (a, access, n) => (a, access, n, s.check e.ctx a access)
  match vs.find? (fun v => match v.2.2.2 with | .bad _ => true | _ => false) with
  | some (a, access, n, .bad c) => .fail c a access n
  | some (a, access, n, _) => .fail cXLATE a access n
  | none =>
    match vs.find? (fun v => v.2.2.2 == .away) with
    | some (a, access, _, _) => .wait (s.promote e.ctx a e.die e.launch) ⟨.residency, [a], access⟩
    | none => .pins (vs.filterMap fun v => s.pinOf e.ctx v.1)

/-- The source bytes of a chunk, from scratch or memory, range by range: all of them, or what it meets first. -/
def State.chunkRead (s : State) (k : Nat) (key : Nat) : List (Bool × Nat × Nat) → EngGot
  | [] => .bytes []
  | (local_, a, n) :: rest =>
    let j := s.job k
    let got := if local_ then .bytes (readBytes (s.block j.block).scratch a n)
      else s.engGot (s.copyEng j.block (.job k) (2 ^ 41 + k) j.addr) (s.jobCheck j 0) j.ioOf (BitVec.ofNat 64 a) n 0 key [] false
    match got with
    | .bytes bs => match s.chunkRead k (key + 1024) rest with
      | .bytes cs => .bytes (bs ++ cs)
      | r => r
    | r => r

/-- A packet of the chunk at a position has not been acknowledged. -/
def chunkSent (j : Job) (pos : Nat) : Bool := j.sent.any fun e => e.2.1 == pos

/-- The pins that a job holds: those of the chunk under way and those of every chunk whose packets are not all acknowledged, since
its last byte has not been accepted (R214, R217). -/
def pinsHeld (j : Job) : List Pin := j.pin ++ j.kept.flatMap fun e => if chunkSent j e.1 then e.2 else []

/-- A chunk's bytes are written and counted: to scratch, to memory, or as packets of which the job goes on to the next chunk
before they are acknowledged (R214, R216). -/
def State.chunkWrite (s : State) (k : Nat) (local_ : Bool) (a : Nat) (bs : List Byte) : State :=
  let j := s.job k
  let va := BitVec.ofNat 64 a
  let done (s : State) (sent : List (Nat × Nat × W64)) : State := s.setJob k { s.job k with
    pos := j.pos + bs.length, sent := j.sent ++ sent, entry := none, io := none, park := none, pin := []
    kept := j.kept.filter (fun e => chunkSent j e.1) ++ (if sent.isEmpty then [] else [(j.pos, j.pin)]) }
  if local_ then done (s.modBlock j.block fun q => { q with scratch := writeBytes q.scratch a bs }) []
  else
    let far := (pieces va bs.length).filterMap fun (_, b, n) => match s.jobCheck j 1 b with
      | .remote fa => some (b, n, fa)
      | _ => none
    let (s, sent) := far.foldl (fun (acc : State × List (Nat × Nat × W64)) (b, n, fa) =>
      let (t, id) := (acc.1.noteFar (some j.launch) false fa n).sendRequest (.job k) (s.launch j.launch).ctx b fa 0 0 (writePacket b ((bs.drop (b - va).toNat).take n))
      (t, acc.2 ++ [(id, j.pos, b)])) (s, [])
    done (s.engStore (s.jobCheck j 1) j.launch va bs) sent

/-- The scratch ranges of a chunk that break R212: the code, the offset, the length and the access; reads before writes. -/
def State.breaches (s : State) (k : Nat) (srcs : List (Bool × Nat × Nat)) (dsts : List (Bool × Nat × Nat)) :
    List (Nat × Nat × Nat × Nat) :=
  let j := s.job k
  let ranges := (srcs.map fun (l, a, m) => (l, a, m, false)) ++ (dsts.map fun (l, a, m) => (l, a, m, true))
  ranges.filterMap fun (l, a, m, w) =>
    let c := if l then scratchCode (s.block j.block) (s.launch j.launch).record.scratch
      (if w then cWfp j.card else cRfp j.card) a m w else 0
    if c = 0 then none else some (c, a, m, if w then 1 else 0)

/-- One chunk of `n` destination bytes (R212, R217): the checks of its scratch ranges, the translation of its pages, its reads
and its write. `srcs` are its sources, `dst` its destination, `entry` marks sources at an address that was read, `make` gives the
bytes, and `bad` the address that a source without them reports. -/
def State.chunkRun (s : State) (k : Nat) (srcs : List (Bool × Nat × Nat)) (dst : Bool × Nat) (n : Nat) (entry : Bool)
    (make : List Byte → Option (List Byte)) (bad : W64) : State :=
  let j := s.job k
  match s.breaches k srcs [(dst.1, dst.2, n)] with
  | (c, a, m, access) :: _ => s.accessFail k c (BitVec.ofNat 64 a) access m false
  | [] =>
    let far := (srcs.filterMap fun (l, a, m) => if l then none else some (BitVec.ofNat 64 a, m, 0)) ++
      (if dst.1 then [] else [(BitVec.ofNat 64 dst.2, n, 1)])
    match if j.pin.isEmpty then s.chunkPins k far else .pins j.pin with
    | .fail c a access m => s.accessFail k c a access m (entry && access == 0)
    | .wait t park => t.jobWait k j.ioOf (some park)
    | .pins ps =>
      let s := s.setJob k { s.job k with pin := ps }
      match s.chunkRead k 1024 srcs with
      | .wait t io park => t.jobWait k io park
      | .fail c a => s.accessFail k c a 0 n entry
      | .bytes bs =>
        match make bs with
        | none => s.jobFail k cOPERAND 0 bad
        | some out => s.chunkWrite k dst.1 dst.2 out

/-- A target has acknowledged or refused a chunk that the job sent: the first refused chunk in the job's order ends it, and its
bytes are those before that chunk (R216). -/
def State.jobSent (s : State) (k id : Nat) (refused : Bool) : State :=
  let j := s.job k
  match j.sent.find? fun e => e.1 == id with
  | none => s
  | some (_, p, a) =>
    let j' := { j with sent := j.sent.filter fun e => e.1 != id }
    if !refused || (j.err.isSome && j.pos ≤ p) then s.setJob k j'
    else
      let s := s.setJob k { j' with pos := min p j.pos }
      if j.err.isNone then s.jobFail k cIMPORT 0 a else s.setJob k { s.job k with err := some (cIMPORT, 0, a) }

/-- The bytes of the next chunk of a copy or fill: at most 2 KiB, naturally aligned at the destination, and within one
page of the source (R217; DEDUCED, log 40). -/
def chunkLen (j : Job) : Nat :=
  let k := j.card
  let n := min (cLen k - j.pos) (2048 - (cDst k + j.pos) % 2048)
  if cOp k ≠ 1 && !cBit k 1 then min n (65536 - (j.source.toNat + j.pos) % 65536) else n

/-- Expand 256 dense bytes: the kept values and the nibbles of 256 / 4e groups; none at a bad nibble (R211). -/
def expandChunk (e : Nat) (kept nibs : List Byte) : Option (List Byte) :=
  expandGroups e kept nibs (256 / (4 * e)) 0
where
  /-- Groups `j ..` of the chunk. -/
  expandGroups (e : Nat) (kept nibs : List Byte) (n j : Nat) : Option (List Byte) :=
    match n with
    | 0 => some []
    | n + 1 =>
      let nib := (nibs.getD (j / 2) 0).toNat / (if j % 2 = 0 then 1 else 16) % 16
      let zero := List.replicate e (0 : Byte)
      let at_ (i : Nat) : List Byte := if i = nib % 4 then (kept.drop (2 * j * e)).take e
        else if i = nib / 4 then (kept.drop ((2 * j + 1) * e)).take e else zero
      if nib % 4 < nib / 4 then
        (expandGroups e kept nibs n (j + 1)).map fun t => at_ 0 ++ at_ 1 ++ at_ 2 ++ at_ 3 ++ t
      else none

/-- One chunk of gather (op 2) or scatter (op 3): one element (R211), its index read first, once the range that no index names has
passed its checks (R212). -/
def State.elemChunk (s : State) (k : Nat) : State :=
  let j := s.job k
  let c := j.card
  let e := 2 ^ cElem c
  let i := j.pos / e
  let run (s : State) (ix : Nat) : State :=
    let src := (cSrc c + if cOp c = 2 then ix * e else i * e) % 2 ^ 64
    let dst := (cDst c + if cOp c = 2 then i * e else ix * e) % 2 ^ 64
    s.chunkRun k [(cBit c 1, src, e)] (cBit c 2, dst) e false some 0
  let aux := BitVec.ofNat 64 (cAux c + 4 * i)
  match j.entry with
  | some ix => run s ix
  | none =>
    match (if cOp c = 2 then s.breaches k [] [(cBit c 2, (cDst c + i * e) % 2 ^ 64, e)]
      else s.breaches k [(cBit c 1, (cSrc c + i * e) % 2 ^ 64, e)] []) with
    | (code, a, m, access) :: _ => s.accessFail k code (BitVec.ofNat 64 a) access m false
    | [] =>
    if aux.toNat % 4 ≠ 0 then s.jobFail k 0x1C cALIGN aux
    else match s.engGot (s.copyEng j.block (.job k) (2 ^ 41 + k) j.addr) (s.jobCheck j 0) j.ioOf aux 4 0 0 [] true with
      | .wait t io park => t.jobWait k io park
      | .fail code a => s.accessFail k code a 0 4 true
      | .bytes ix => run (s.setJob k { j with entry := some (ofBytes ix), io := none, park := none }) (ofBytes ix)

/-- One chunk of expand (op 4): 256 dense bytes (R211). -/
def State.expChunk (s : State) (k : Nat) : State :=
  let j := s.job k
  let c := j.card
  let e := 2 ^ cElem c
  let per := 256 / (4 * e)
  let g := j.pos / (4 * e)
  let nibs := cSrc c + cLen c / 2 + g / 2
  s.chunkRun k [(cBit c 1, cSrc c + g * 2 * e, 128), (cBit c 1, nibs, per / 2)] (cBit c 2, cDst c + j.pos) 256 false
    (fun bs => expandChunk e (bs.take 128) (bs.drop 128)) (BitVec.ofNat 64 nibs)

/-- COPY_CHUNK (R217): one chunk is translated, pinned and moved. -/
def opCopyChunk (k : Nat) (s : State) : State :=
  let j := s.job k
  let c := j.card
  if (kGet? s.jobs k).isNone || j.mloop || !j.started || j.err.isSome || j.stage ≠ 0 || j.pos ≥ cLen c then s
  else
    let n := chunkLen j
    let dst := (cBit c 2, cDst c + j.pos)
    match cOp c with
    | 2 => s.elemChunk k
    | 3 => s.elemChunk k
    | 4 => s.expChunk k
    | 1 => s.chunkRun k [] dst n false
        (fun _ => some ((List.range n).map fun i => (toBytes 8 (cAux c)).getD ((j.pos + i) % 8) 0)) 0
    | op => s.chunkRun k [(cBit c 1, (j.source.toNat + j.pos) % 2 ^ 64, n)] dst n (op == 5) some 0
def execCopyChunk (k : Nat) (s : State) : Host.Outcome State Fault Refusal := .next (opCopyChunk k s)

/-! ## Completion (R214 to R216) -/

/-- Step 3 of R214 and the job's end: an error no ring entry has reported is recorded, the object receives the whole
length, and the job leaves the scheduler. The completion record has no field for a report of success, so that of a job without
error whose ring takes no entry is not recorded (DESIGN CHOICE, log 44). -/
def State.jobEnd (s : State) (k : Nat) (reported : Bool) : State :=
  let j := s.job k
  let c := j.card
  let s := match j.err with
    | some (code, cause, _) => if reported then s else s.copyError j.launch code cause j.addr
    | none => s
  let s :=
    if !cBit c 3 then s
    else
      let q := s.block j.block
      let l := s.launch j.launch
      let o := cObj c
      match objFault q l.record.scratch (BitVec.ofNat 64 o) with
      | some code =>
        if code = cPERM then
          (s.logViolation (q.pcore / 44) (BitVec.ofNat 64 o) 1 cPERM l.ctx q.lcore 2 32).copyError j.launch cPERM 0 j.addr
        else s.copyError j.launch cOPERAND 0 j.addr
      | none =>
        let ob := readObj q o
        if !objOk ob || ob.state = 0 then s.copyError j.launch cOPERAND 0 j.addr
        else s.objArrive j.block o (BitVec.ofNat 64 (cLen c))
  { s with jobs := kErase s.jobs k }

/-- After the OWN store the ring entry is due (stage 1), or the job ends (R214). -/
def State.ownNext (s : State) (k : Nat) : State :=
  if cBit (s.job k).card 4 then s.setJob k { s.job k with stage := 1, io := none, park := none, pin := [] } else s.jobEnd k false

/-- The OWN store fails: OWN stays, the failure is the job's error, and the steps after it are taken (R214). A job that an error
has ended before keeps that one (DESIGN CHOICE, log 40: the manual does not say which of the two is reported). -/
def State.ownFail (s : State) (k code : Nat) (a : W64) : State :=
  (if (s.job k).err.isSome then s.logJob k code a 1 1 else s.accessFail k code a 1 1 false).ownNext k

/-- COPY_JOB_FINISH (R214): the OWN store; then the ring entry is due (stage 1), or the job ends. -/
def opCopyJobFinish (k : Nat) (s : State) : State :=
  let j := s.job k
  let c := j.card
  if (kGet? s.jobs k).isNone || j.mloop || j.stage ≠ 0 || !jobOver j then s
  else
    let own := j.addr + 29
    let e := s.copyEng j.block (.job k) (2 ^ 41 + k) j.addr
    let bs := [BitVec.ofNat 8 (cCtl c - cCtl c % 2)]
    match s.engGot e (s.jobCheck j 1) j.ioOf own 1 1 8192 bs false with
    | .wait t io park => t.jobWait k io park
    | .fail code a => s.ownFail k code a
    | .bytes _ => (s.engStore (s.jobCheck j 1) j.launch own bs).ownNext k
def execCopyJobFinish (k : Nat) (s : State) : Host.Outcome State Fault Refusal := .next (opCopyJobFinish k s)

/-- The 32 bytes of a ring entry (R215). -/
def ringEntry (j : Job) : List Byte :=
  let (st, code, cause, addr) : Nat × Nat × Nat × W64 := match j.err with
    | none => (1, 0, 0, 0)
    | some (code, cause, a) => (2, code, cause, a)
  [BitVec.ofNat 8 st, BitVec.ofNat 8 code, BitVec.ofNat 8 cause, BitVec.ofNat 8 (j.chan + j.version * 16)] ++
    toBytes 4 j.pos ++ toBytes 8 addr.toNat ++ toBytes 8 j.addr.toNat ++ toBytes 4 (min 0xFFFFFFFF j.replays) ++
    toBytes 1 (min 255 j.retrains) ++ toBytes 1 (min 255 j.advances) ++ toBytes 2 0

/-- The header of a ring is valid (R215). -/
def ringOk (base : W64) (h : List Byte) : Bool :=
  base.toNat % 32 == 0 && 2 ≤ fieldN h 4 1 && fieldN h 4 1 ≤ 16 && fieldN h 5 27 == 0

/-- The increment of a producer index, as the request that a FABRIC page sends. -/
def bumpPacket : Packet := { blankPacket with op := 3, operand := 1, aop := 1, size := 2 }

/-- One atomic of an engine on a word of 32 bits; the old value. -/
def State.engBump (s : State) (e : Eng) (io : IoWait) (va : W64) (key : Nat) : EngGot :=
  match s.check e.ctx va 2 with
  | .bad c => .fail c va
  | .away => .wait (s.promote e.ctx va e.die e.launch) io (some ⟨.residency, [va], 2⟩)
  | .here pa _ => if s.poisoned pa 4 then .fail 0x10 va else .bytes (readBytes s.mem pa 4)
  | .remote fa =>
    match io.refused, kGet? io.answers key with
    | (_, a) :: _, _ => .fail cIMPORT a
    | [], some bs => .bytes bs
    | [], none =>
      if !io.reqs.isEmpty then .wait s io none
      else
        let (t, id) := (s.noteFar (some e.launch) false fa 4).sendRequest e.asker e.ctx va fa key 0 bumpPacket
        .wait t { io with reqs := [(id, key, va)] } none

/-- Add one to the word where it stands on this device. -/
def State.bumpHere (s : State) (ctx launch : Nat) (va : W64) (old : List Byte) : State :=
  s.engStore (fun a => s.check ctx a 2) launch va (toBytes 4 (ofBytes old + 1))

/-- RING_REPORT (R215): stage 1 takes a slot; stage 2 waits until it is free and writes bytes [8:31], then [0:7]. Any
failure sends the report to the launch completion record, one of permission with its violation record (R15). A poisoned header,
producer word or slot is such a failure too, and is not waited for (DESIGN CHOICE, log 44). -/
def opRingReport (k : Nat) (s : State) : State :=
  let j := s.job k
  let c := j.card
  let base := cRing c
  let e := s.copyEng j.block (.job k) (2 ^ 41 + k) j.addr
  let lost (s : State) (code : Nat) (a : W64) (access n : Nat) : State := (s.logJob k code a access n).jobEnd k false
  let ro := fun (a : W64) => s.check e.ctx a 0
  let wo := fun (a : W64) => s.check e.ctx a 1
  if (kGet? s.jobs k).isNone || j.mloop then s
  else if j.stage = 1 then
    if base.toNat % 32 ≠ 0 then s.jobEnd k false
    else match s.engGot e ro j.ioOf base 32 0 0 [] true with
    | .wait t io park => t.jobWait k io park
    | .fail c a => lost s c a 0 32
    | .bytes h =>
      if !ringOk base h then s.jobEnd k false
      else match s.engBump e j.ioOf base 1024 with
        | .wait t io park => t.jobWait k io park
        | .fail c a => lost s c a 2 4
        | .bytes old =>
          let s := s.bumpHere e.ctx j.launch base old
          s.setJob k { j with stage := 2, ringSlot := ofBytes old % 2 ^ fieldN h 4 1, io := none, park := none }
  else if j.stage = 2 then
    let slot := base + BitVec.ofNat 64 (32 + 32 * j.ringSlot)
    let ent := ringEntry j
    match s.engGot e ro j.ioOf slot 1 0 0 [] true with
    | .wait t io park => t.jobWait k io park
    | .fail c a => lost s c a 0 1
    | .bytes b =>
      if b.getD 0 0 ≠ 0 then s.setJob k { j with io := none }
      else match s.engGot e wo j.ioOf (slot + 8) 24 1 1024 (ent.drop 8) false with
        | .wait t io park => t.jobWait k io park
        | .fail c a => lost s c a 1 24
        | .bytes _ =>
          match s.engGot e wo j.ioOf slot 8 1 2048 (ent.take 8) false with
          | .wait t io park => t.jobWait k io park
          | .fail c a => lost s c a 1 8
          | .bytes _ =>
            ((s.engStore wo j.launch (slot + 8) (ent.drop 8)).engStore wo j.launch slot (ent.take 8)).jobEnd k true
  else s
/-- The promotion of a page that a job's access has parked on fails: as if its translation had failed (R287). An entry read and
the source of a copy.ind report it as ENTRY_FETCH (R211); the OWN store and a ring access fail as R214 and R215 state. -/
def State.jobParkFail (s : State) (k : Nat) (p : Park) : State :=
  let j := s.job k
  let a := p.addrs.headD 0
  if j.stage = 1 || j.stage = 2 then s.jobEnd k false
  else if jobOver j then s.ownFail k cXLATE a
  else
    let op := cOp j.card
    let entry := p.access == 0 && (op == 5 || ((op == 2 || op == 3) && j.entry.isNone))
    s.accessFail k cXLATE a p.access 0 entry
def execRingReport (k : Nat) (s : State) : Host.Outcome State Fault Refusal := .next (opRingReport k s)

end Sys2Proof.Machine
end

