-- ==== Sys2Proof/Machine/Matrix.lean ====
section
/-! DEFINITION. The matrix engine: fragments, MMA, MMA.ns, SCACC, MLOOP jobs and the energy budget (R112, R113,
R219 to R234). -/

namespace Sys2Proof.Machine

/-! ## Energy (R233, R234) -/

/-- The full budget. -/
def fullEnergy : Nat := 2 ^ 20
/-- The budget of a context on a die; one not yet drawn on is full. -/
def State.budget (s : State) (die ctx : Nat) : Nat := (kGet? (s.die die).energy ctx).getD fullEnergy
/-- Debit a charge. -/
def State.debit (s : State) (die ctx units : Nat) : State :=
  let d := s.die die
  s.setDie die { d with energy := kSet d.energy ctx (s.budget die ctx - units) }
/-- The units of a class: the larger of the declared and the minimum (R233). -/
def energyUnits (declared least : Nat) : Nat := 2 ^ max declared least
/-- Run an instruction that charges the budget of its context, once the budget covers it. -/
def State.charged (s : State) (units : Nat) (body : State → State) : State :=
  if s.budget s.myDie s.myCtx < units then s else body (s.debit s.myDie s.myCtx units)

/-- The contexts with resident warps on a die. -/
def State.dieCtxs (s : State) (die : Nat) : List Nat :=
  ((s.warps.filter fun e => (s.block e.2.block).pcore / 44 == die).map fun e => (s.launch e.2.launch).ctx).eraseDups

/-- The power cap a context's budget on a die is refilled by: 1,200 W while the die is throttled (R394); else the cap its
newest launch there was admitted under (R14), clamped (R234). -/
def State.refillCap (s : State) (die ctx : Nat) : Nat :=
  let caps := (s.eng.launches.filter fun e => e.2.ctx == ctx &&
    s.warps.any fun x => x.2.launch == e.1 && (s.block x.2.block).pcore / 44 == die).map (·.2.capW)
  if (s.die die).hot then 1200 else min 2800 (max 1200 (caps.getLastD s.mgmt.settings.capW))

/-- ENERGY_REFILL (R234): once in every 100 ns of the die. -/
def opEnergyRefill (die : Nat) (s : State) : State :=
  let d := s.die die
  if die ≥ 4 || d.count < d.refillAt then s
  else
    let cs := s.dieCtxs die
    let gain (c : Nat) : Nat := 32000 * (s.refillCap die c - 1000) / 1800 / cs.length
    s.setDie die { d with
      refillAt := d.refillAt + 100
      energy := cs.foldl (fun m c => kSet m c (min fullEnergy (s.budget die c + gain c))) d.energy }
def execEnergyRefill (die : Nat) (s : State) : Host.Outcome State Fault Refusal := .next (opEnergyRefill die s)

/-! ## Fragments (R219, R220) -/

/-- The width of an element of a format. -/
def fragBits (fmt : Nat) : Nat :=
  if fmt = 0x0C ∨ fmt = 0x0D then 16 else if fmt = 0x10 ∨ fmt = 0x11 then 6 else if fmt = 0x12 then 4 else 8
/-- The two formats are integers. -/
def fragInt (fmt : Nat) : Bool := fmt == 6 || fmt == 7
/-- K (R219). -/
def fragK (afmt bfmt : Nat) : Nat :=
  if fragBits afmt = 16 then 16 else if afmt = 0x12 ∧ bfmt = 0x12 then 64 else 32
/-- The registers of an operand group (R220). -/
def fragRegs (fmt k : Nat) : Nat := k * fragBits fmt / 32
/-- The scale registers of one operand: none, one in MX form, two in native form. -/
def scaleRegs (mode : Nat) : Nat := if mode = 3 then 0 else mode

/-- Element `k` of a lane's fragment; `r` gives the registers of the group (R220, R111). -/
def fragElem (fmt kk : Nat) (r : Nat → Nat) (k : Nat) : Nat :=
  let w := fragBits fmt
  if w = 6 then r (k / 8) / 2 ^ (4 * (k % 8)) % 16 + 16 * (r (kk / 8 + k / 16) / 2 ^ (2 * (k % 16)) % 4)
  else r (k * w / 32) / 2 ^ (k * w % 32) % 2 ^ w

/-- Scale byte `t` of a lane. -/
def scaleByte (r : Nat → Nat) (t : Nat) : Nat := r (t / 4) / 2 ^ (8 * (t % 4)) % 256

/-! ## The window sum (R112, R113) -/

/-- floor(log2 |p|) of a nonzero finite value. -/
def topOf : FVal → Option Int
  | .fin _ m e => if m = 0 then none else some ((bitLen m : Int) - 1 + e)
  | _ => none

/-- A value's magnitude cut to a multiple of 2^q, signed, in those units. -/
def cutTo (q : Int) : FVal → Int
  | .fin neg m e =>
    let n : Int := if q ≤ e then ((m * 2 ^ (e - q).toNat : Nat) : Int) else ((m / 2 ^ (q - e).toNat : Nat) : Int)
    if neg then -n else n
  | _ => 0

/-- The sum of a step's products, and the flags of R112. Each product stands beside the flags it raised. -/
def windowSum (ps : List (FVal × Nat)) : FVal × Nat :=
  let vs := ps.map (·.1)
  let pos := vs.any fun v => isInf v && !isNeg v
  let neg := vs.any fun v => isInf v && isNeg v
  let fl := ps.foldl (fun a e => a ||| e.2) (if pos && neg then fNV else 0)
  if vs.any isNan || (pos && neg) then (.nan false, fl)
  else if pos || neg then (.inf neg, fl)
  else match vs.filterMap topOf with
    | [] => (.fin (vs.all isNeg) 0 0, fl)
    | t :: ts =>
      let q := ts.foldl max t - 79
      (ofScaled (vs.foldl (fun a v => a + cutTo q v) 0) q false, fl)

/-! ## One K-step (R223, R224) -/

/-- What one K-step reads: its formats, scale mode, Z, and its operands by lane and register. -/
structure Step where
  afmt : Nat
  bfmt : Nat
  mode : Nat
  z : Bool
  a : Nat → Nat → Nat
  b : Nat → Nat → Nat
  sa : Nat → Nat → Nat
  sb : Nat → Nat → Nat
  d : Nat → Nat → Nat

/-- The exact product of element `k` of row `i` and column `j`, with its scales in native form (R112, R223). -/
def Step.product (t : Step) (kk i j k : Nat) : FVal × Nat :=
  let xa := decodeF (fmtOf t.afmt) (fragElem t.afmt kk (t.a i) k)
  let xb := decodeF (fmtOf t.bfmt) (fragElem t.bfmt kk (t.b j) k)
  match t.mode with
  | 0 => mulF xa xb
  | 1 =>
    let ca := scaleByte (t.sa i) (k / 32)
    let cb := scaleByte (t.sb j) (k / 32)
    mulF (if ca = 0xFF then .nan false else xa) (if cb = 0xFF then .nan false else xb)
  | _ =>
    let ca := scaleByte (t.sa i) (k / 8)
    let cb := scaleByte (t.sb j) (k / 8)
    let (p, f) := mulF (if ca = 0xFF then .nan false else xa) (if cb = 0xFF then .nan false else xb)
    ((mulF p (mulF (decodeE3M5 ca) (decodeE3M5 cb)).1).1, f)

/-- A finite value times 2^e; any other unchanged. -/
def shiftF (v : FVal) (e : Int) : FVal :=
  match v with
  | .fin n m g => .fin n m (g + e)
  | v => v

/-- The sum of sub-step `h` (R113, R223). -/
def Step.sub (t : Step) (kk i j lo n h : Nat) : FVal × Nat :=
  let (v, f) := windowSum ((List.range n).map fun k => t.product kk i j (lo + k))
  if t.mode = 1 then
    (shiftF v ((scaleByte (t.sa i) h : Int) - 127 + ((scaleByte (t.sb j) h : Int) - 127)), f)
  else (v, f)

/-- The exact integer sum of a step. -/
def Step.intSum (t : Step) (kk i j : Nat) : Int :=
  (List.range kk).foldl (fun a k =>
    a + intVal 8 (intSigned t.afmt) (fragElem t.afmt kk (t.a i) k) * intVal 8 (intSigned t.bfmt) (fragElem t.bfmt kk (t.b j) k)) 0

/-- One element of MMA (R223): its code and flags. -/
def Step.mma (t : Step) (i j : Nat) : Nat × Nat :=
  let kk := fragK t.afmt t.bfmt
  let c := if t.z then 0 else t.d i j
  if fragInt t.afmt then
    (intCode 32 (min (intGreatest 32 true) (max (intLeast 32 true) (intVal 32 true c + t.intSum kk i j))), 0)
  else
    let n := if t.mode = 1 then 32 else kk
    (List.range (kk / n)).foldl (fun (c : Nat × Nat) h =>
      let (v, f) := t.sub kk i j (h * n) n h
      let (r, g) := roundCode fmtF32 0 (addF (decodeF fmtF32 c.1) v 0)
      (r, c.2 ||| f ||| g)) (c, 0)

/-- One element of MMA.ns (R224). -/
def Step.ns (t : Step) (i j : Nat) : Nat × Nat :=
  let kk := fragK t.afmt t.bfmt
  if fragInt t.afmt then (intCode 32 (t.intSum kk i j), 0) else roundCode fmtF32 0 (t.sub kk i j 0 kk 0)

/-- Every element of a 32 by 32 group: row, column, code, flags. -/
def tile (f : Nat → Nat → Nat × Nat) : List (Nat × Nat × Nat × Nat) :=
  (List.range 32).flatMap fun i => (List.range 32).map fun j => let (v, g) := f i j; (i, j, v, g)

def tileFlags (t : List (Nat × Nat × Nat × Nat)) : Nat := t.foldl (fun a e => a ||| e.2.2.2) 0
def tileWrites (d : Nat) (t : List (Nat × Nat × Nat × Nat)) : List RegW :=
  t.map fun e => ⟨d + e.1, e.2.1, BitVec.ofNat 32 e.2.2.1⟩

/-! ## MMA, MMA.ns and SCACC (R221 to R226) -/

/-- Consecutive registers. -/
def group (base n : Nat) : List Nat := (List.range n).map (base + ·)

/-- The operand faults of R222, after those of R45. -/
def State.groupBad (s : State) (d : List Nat) (srcs : List Nat) : Bool :=
  s.myPath.mask != BitVec.allOnes 32 || srcs.any d.contains

/-- The flags the matrix instructions may raise (R226). -/
def matrixFlags : Nat := fNV ||| fOF ||| fUF ||| fNX

/-- A long matrix instruction: its charge, its faults, its flags and traps, and its writes. With a possible flag
enabled its path waits until it completes (R132, R226). -/
def State.matrixRun (s : State) (f : LaneF) (least : Nat) (d srcs : List Nat) (flt : Bool)
    (body : Warp → List (Nat × Nat × Nat × Nat)) : State :=
  s.laneRun (d ++ srcs) [] fun s => s.charged (energyUnits (f.ctlN 11 2) least) fun s =>
    if s.groupBad d srcs then s.laneFault cOPERAND 0 0
    else
      let t := body s.me
      let left := if flt && trapHit s.me.fptraps matrixFlags then 0 else f.la.toNat
      s.fpEnd (tileFlags t) fun s => s.laneLong (outst left d [] (tileWrites f.vd.toNat t) [])

/-- The operands of MMA and MMA.ns as a step (R220, R221). -/
def mmaStep (x : Warp) (f : LaneF) : Step :=
  let afmt := f.aux.toNat % 32
  let bfmt := f.aux.toNat / 32 % 32
  let mode := f.aux.toNat / 1024 % 4
  let reg (base l j : Nat) : Nat := (vreg x (base + j) l).toNat
  { afmt := afmt, bfmt := bfmt, mode := mode, z := f.aux.getLsbD 12
    a := reg f.va.toNat, b := reg f.vb.toNat
    sa := reg f.vc.toNat, sb := reg (f.vc.toNat + scaleRegs mode)
    d := fun i j => (vreg x (f.vd.toNat + i) j).toNat }

/-- The source registers of MMA. -/
def mmaSrcs (f : LaneF) : List Nat :=
  let afmt := f.aux.toNat % 32
  let bfmt := f.aux.toNat / 32 % 32
  let k := fragK afmt bfmt
  group f.va.toNat (fragRegs afmt k) ++ group f.vb.toNat (fragRegs bfmt k) ++
    group f.vc.toNat (2 * scaleRegs (f.aux.toNat / 1024 % 4))

/-- The minimum class of a step (R233). -/
def mmaClass (afmt bfmt : Nat) : Nat := match fragK afmt bfmt with | 16 => 0 | 32 => 1 | _ => 2
def fieldClass (f : LaneF) : Nat := mmaClass (f.aux.toNat % 32) (f.aux.toNat / 32 % 32)

def execMma (f : LaneF) (s : State) : Host.Outcome State Fault Refusal :=
  .next (s.matrixRun f (fieldClass f) (group f.vd.toNat 32) (mmaSrcs f) (!fragInt (f.aux.toNat % 32)) fun x =>
    tile (mmaStep x f).mma)
def execMmaNs (f : LaneF) (s : State) : Host.Outcome State Fault Refusal :=
  .next (s.matrixRun f (fieldClass f) (group f.vd.toNat 32) (mmaSrcs f) (!fragInt (f.aux.toNat % 32)) fun x =>
    tile (mmaStep x f).ns)

/-- One element of SCACC (R225): the exact product of three factors and the accumulator, rounded once. -/
def scaleAcc (p rs cs d : FVal) (rm : Nat) : Nat × Nat :=
  if [p, rs, cs, d].any isNan then roundCode fmtF32 rm (.nan false, nvOf [p, rs, cs, d])
  else
    let (q, f) := mulF p rs
    let (q, g) := if isNan q then (q, 0) else mulF q cs
    if isNan q then roundCode fmtF32 rm (q, f ||| g) else roundCode fmtF32 rm (addF q d rm)

def scaccElem (x : Warp) (f : LaneF) (i j : Nat) : Nat × Nat :=
  let v (r l : Nat) : FVal := decodeF fmtF32 (vreg x r l).toNat
  let rs := if f.ab = 1 then decodeF fmtF32 ((areg x f.vb.toNat).toNat % 2 ^ 32) else v f.vb.toNat i
  let cs := if f.aux.getLsbD 0 then v f.vc.toNat j else .fin false 1 0
  scaleAcc (v (f.va.toNat + i) j) rs cs (v (f.vd.toNat + i) j) (f.ctlN 13 3)

def scaccSrcs (f : LaneF) : List Nat :=
  group f.va.toNat 32 ++ (if f.ab = 1 then [] else [f.vb.toNat]) ++ (if f.aux.getLsbD 0 then [f.vc.toNat] else [])

def execScacc (f : LaneF) (s : State) : Host.Outcome State Fault Refusal :=
  .next (s.matrixRun f 0 (group f.vd.toNat 32) (scaccSrcs f) true fun x => tile (scaccElem x f))

/-! ## MLOOP (R227 to R231) -/

def lA (k : List Byte) : Nat := fieldN k 0 4
def lB (k : List Byte) : Nat := fieldN k 4 4
def lAs (k : List Byte) : Nat := fieldN k 8 4
def lBs (k : List Byte) : Nat := fieldN k 12 4
def lInc (k : List Byte) (lo n : Nat) : Int := intVal (8 * n) true (fieldN k lo n)
def lSteps (k : List Byte) : Nat := fieldN k 28 4
def lCtl (k : List Byte) : Nat := fieldN k 32 2
def lAfmt (k : List Byte) : Nat := lCtl k % 32
def lBfmt (k : List Byte) : Nat := lCtl k / 32 % 32
def lMode (k : List Byte) : Nat := lCtl k / 1024 % 4
def lAcc (k : List Byte) : Nat := fieldN k 34 1
def lClass (k : List Byte) : Nat := fieldN k 35 1
def lObj (k : List Byte) : Nat := fieldN k 36 4
def lFlags (k : List Byte) : Nat := fieldN k 40 1
def lRfp (k : List Byte) : Nat := fieldN k 56 4

/-- The images of a card: offset, increment, bytes, and the multiple the first two must be of (R228). -/
def loopImages (k : List Byte) : List (Nat × Int × Nat × Nat) :=
  let kk := fragK (lAfmt k) (lBfmt k)
  let unit (fmt : Nat) : Nat := if fragBits fmt = 6 then 256 else 128
  let n := scaleRegs (lMode k)
  [(lA k, lInc k 16 4, 128 * fragRegs (lAfmt k) kk, unit (lAfmt k)),
   (lB k, lInc k 20 4, 128 * fragRegs (lBfmt k) kk, unit (lBfmt k))] ++
    (if n = 0 then [] else [(lAs k, lInc k 24 2, 128 * n, 128), (lBs k, lInc k 26 2, 128 * n, 128)])

/-- The operand checks of R229 on a card. -/
def cardOperand (vregs : Nat) (k : List Byte) : Bool :=
  !mmaCombo (lAfmt k) (lBfmt k) (lMode k) || lCtl k ≥ 0x2000 || lAcc k + 31 ≥ vregs || lClass k ≥ 4 || lFlags k ≥ 2 ||
    fieldN k 41 1 > 5 || fieldN k 42 14 ≠ 0 || fieldN k 60 4 ≠ 0 ||
    (if lFlags k = 1 then lObj k % 32 ≠ 0 else lObj k ≠ 0) || (lMode k == 0 && (lAs k != 0 || lBs k != 0))

/-- The image ranges of the first and the last step: those of the steps between lie within them, so one of the two fails a footprint
or the bound whenever any step does, and its offset is the one reported (DESIGN CHOICE, log 44: the manual does not say which failing
step's offset is). -/
def loopSpans (k : List Byte) : List (Int × Nat) :=
  if lSteps k = 0 then []
  else (loopImages k).flatMap fun (o, d, n, _) => [((o : Int), n), ((o : Int) + d * ((lSteps k - 1 : Nat) : Int), n)]

/-- The image ranges of every step: with both ends inside scratchpad there are at most 2^14 distinct ones. -/
def loopRanges (k : List Byte) : List (Nat × Nat) :=
  (loopImages k).flatMap fun (o, d, n, _) =>
    (List.range (if d = 0 then min 1 (lSteps k) else lSteps k)).map fun (i : Nat) => (((o : Int) + d * (i : Int)).toNat, n)

/-- The registers a job holds meet those of a card. -/
def heldMeets (x : Warp) (acc : Nat) : Bool := x.held.any fun h => h.2 < acc + 32 && acc < h.2 + 32

/-- Enter an MLOOP card as a job of a warp: it takes its edges and holds its group (R213, R229). -/
def State.enterLoop (s : State) (w : Nat) (addr : W64) (card : List Byte) (word : W32) : State × Nat :=
  let x := s.warp w
  let traps := if fragInt (lAfmt card) then 0 else x.fptraps
  let job : Job :=
    { block := x.block, launch := x.launch, warp := w, mloop := true, chan := 0, addr := addr, card := card,
      edges := s.edgesOf x.block (lRfp card) 0 false 0, started := false, pos := 0, source := 0, entry := none,
      pin := (s.pinOf (s.launch x.launch).ctx addr).toList, sent := [], kept := [], park := none, io := none, err := none, finished := false, stage := 0, ringSlot := 0, version := 0, replays := 0,
      retrains := 0, advances := 0, advSeen := [], traps := traps, flags := 0, z := (lCtl card).testBit 12, word0 := word }
  let id := s.nextId
  (({ s with jobs := kSet s.jobs id job, nextId := id + 1 }).setWarp w { x with held := x.held ++ [(id, lAcc card)] }, id)

/-- The loop's possible flags include an enabled one (R132). -/
def loopSuspends (traps : W64) : Bool := trapHit traps matrixFlags

/-- MLOOP (R229). The conditions on the card's bytes follow the read, in the order of R12: all of OPERAND, then ALIGN, then the bound. -/
def opMloop (a : BitVec 6) (s : State) : State :=
  let x := s.me
  let c := sreg x a
  let isIo := match x.wait with | .io _ => true | _ => false
  if (sregWait x [a] && !isIo) || s.stampsPending x then s
  else if c.toNat % 64 ≠ 0 then s.scalarFault cALIGN c 0
  else match s.recordGot c 64 2 0 [] with
    | .stop t => t
    | .bytes k =>
      let l := s.myLaunch.record
      let spans := loopSpans k
      if cardOperand l.vregs k then s.scalarFault cOPERAND c 0
      else match spans.find? (fun (o, n) => o < 0 || !fpHolds (lRfp k) o.toNat n) with
      | some (o, _) => s.scalarFault cOPERAND (BitVec.ofNat 64 (o % 2 ^ 32).toNat) 0
      | none =>
        let meets (r : Nat × Nat) : Bool :=
          s.myBlock.regions.any fun e => e.2.mode ≥ 2 && rangesMeet e.2.base e.2.len r.1 r.2
        match (loopRanges k).find? meets with
        | some (o, _) => s.scalarFault cOPERAND (BitVec.ofNat 64 o) 0
        | none =>
          match (loopImages k).find? (fun (o, d, _, u) => o % u != 0 || d % u != 0) with
          | some (o, _, _, _) => s.scalarFault cALIGN (BitVec.ofNat 64 o) 0
          | none =>
            match spans.find? (fun (o, n) => o.toNat + n > l.scratch) with
            | some (o, n) =>
              let va := BitVec.ofNat 64 o.toNat
              (s.logWarp cPERM va 0 n).scalarFault cPERM va 0
            | none =>
              if heldMeets x (lAcc k) || s.coreJobs s.myBlock.pcore ≥ 64 then s
              else
                let (t, id) := s.enterLoop s.cur.warp c k s.cur.word0
                let y := nextPc t.me
                t.setMe (if loopSuspends (t.job id).traps then { y with wait := .mloop id } else y)
def execMloop (a : BitVec 6) (s : State) : Host.Outcome State Fault Refusal := .next (opMloop a s)

/-- Replace bytes of a card. -/
def cardPut (k : List Byte) (lo : Nat) (bs : List Byte) : List Byte := k.take lo ++ bs ++ k.drop (lo + bs.length)

/-- The card after one step: offsets advanced, a step fewer, Z cleared (R229). -/
def cardStep (k : List Byte) : List Byte :=
  let adv (o : Nat) (d : Int) : List Byte := toBytes 4 (((o : Int) + d) % 2 ^ 32).toNat
  let k := cardPut k 0 (adv (lA k) (lInc k 16 4) ++ adv (lB k) (lInc k 20 4) ++ adv (lAs k) (lInc k 24 2) ++
    adv (lBs k) (lInc k 26 2))
  cardPut (cardPut k 28 (toBytes 4 (lSteps k - 1))) 32 (toBytes 2 (lCtl k % 0x1000))

/-- The operands of a job's next step, from its block's scratchpad and its warp's group (R228). -/
def loopStep (b : Block) (x : Warp) (k : List Byte) : Step :=
  let image (o l j : Nat) : Nat := ofBytes (readBytes b.scratch (o + 128 * j + 4 * l) 4)
  { afmt := lAfmt k, bfmt := lBfmt k, mode := lMode k, z := (lCtl k).testBit 12
    a := image (lA k), b := image (lB k), sa := image (lAs k), sb := image (lBs k)
    d := fun i j => (vreg x (lAcc k + i) j).toNat }

/-- Release the registers of a job; the scalar stream suspended at it goes on. -/
def releaseLoop (x : Warp) (k : Nat) : Warp :=
  { x with
    held := x.held.filter (·.1 != k)
    wait := if x.wait = .mloop k then .none else x.wait
    savedWait := if x.savedWait = .mloop k then .none else x.savedWait }

/-- The write-back of a card (R229): the fields a step changes, as ordinary stores of the job. -/
def State.loopBack (s : State) (k : Nat) : EngGot :=
  let j := s.job k
  let e := s.copyEng j.block (.job k) (2 ^ 41 + k) j.addr
  let lo := j.card.take 16
  let hi := (j.card.drop 28).take 6
  let chk := s.jobCheck j 1
  match s.engGot e chk j.ioOf j.addr 16 1 0 lo false with
  | .bytes _ =>
    match s.engGot e chk j.ioOf (j.addr + 28) 6 1 1024 hi false with
    | .bytes _ => .wait ((s.engStore chk j.launch j.addr lo).engStore chk j.launch (j.addr + 28) hi) noIo none
    | r => r
  | r => r

/-- The arrival of a finished loop at its object (R229, R214). -/
def State.loopArrive (s : State) (k : Nat) : State :=
  let j := s.job k
  if lFlags j.card = 0 then s
  else
    let q := s.block j.block
    let l := s.launch j.launch
    let o := lObj j.card
    match objFault q l.record.scratch (BitVec.ofNat 64 o) with
    | some code =>
      let s := if code = cPERM then s.logViolation (q.pcore / 44) (BitVec.ofNat 64 o) 2 cPERM l.ctx q.lcore 2 32 else s
      s.copyError j.launch code 0 j.addr
    | none =>
      let ob := readObj q o
      if !objOk ob || ob.state = 0 then s.copyError j.launch cOPERAND 0 j.addr else s.objArrive j.block o 1

/-- The MLOOP of a loop that traps while another fault waits to be delivered, or after it has been, counts as not issued and issues
again after ERET (R188): the scalar stream stands before it again, in a handler by way of $FSPC (R189). -/
def unissueLoop (x : Warp) (k : Nat) : Warp :=
  let y := releaseLoop x k
  if x.wait = .mloop k then { y with pc := x.pc - 4 }
  else if x.savedWait = .mloop k then { y with rep := { x.rep with fspc := x.rep.fspc - 4 } }
  else y

/-- The end of a loop after its write-back: stage 2 releases its registers and reports; a loop that trapped faults its
warp at the MLOOP (R231), in place of SSTEP (R203), or leaves that to the MLOOP's next issue where another fault came first (R188;
DEDUCED for a trap that comes in the handler, log 44); a poisoned one has halted it. -/
def State.loopEnd (s : State) (k : Nat) : State :=
  let j := s.job k
  match j.err with
  | some (0x08, _, _) =>
    let x := s.warp j.warp
    if (kGet? s.warps j.warp).isNone then { s with jobs := kErase s.jobs k }
    else if x.wait = .mloop k && (x.pend.map (·.sstep)).getD true then
      let t := { s with cur := ⟨j.warp, 0, j.word0, 0, 0⟩, jobs := kErase s.jobs k }
      let t := t.setWarp j.warp { releaseLoop x k with pend := none }
      ((t.raiseScalarAt 0x08 j.addr 0 0 (x.pc - 4)).tryDeliver)
    else { s.setWarp j.warp (unissueLoop x k) with jobs := kErase s.jobs k }
  | _ =>
    let t := s.loopArrive k
    let t := if (kGet? t.warps j.warp).isSome then t.setWarp j.warp (releaseLoop (t.warp j.warp) k) else t
    { t with jobs := kErase t.jobs k }

/-- Write the card back and go to stage 2; a card that can no longer be written is reported as a copy error. -/
def State.loopClose (s : State) (k : Nat) : State :=
  match s.loopBack k with
  | .wait t io none =>
    if io.reqs.isEmpty then (t.setJob k { t.job k with stage := 2, io := none, pin := [] }) else t.jobWait k io none
  | .wait t io park => t.jobWait k io park
  | .fail code a =>
    let n := if (s.job k).addr.toNat + 28 ≤ a.toNat then 6 else 16
    ((s.logJob k code a 1 n).copyError (s.job k).launch code 0 (s.job k).addr).setJob k { s.job k with stage := 2, io := none, pin := [] }
  | .bytes _ => s

/-- The other loops of the warp that are still running. -/
def State.loopsOf (s : State) (w : Nat) : Nat := (s.jobs.filter fun e => e.2.mloop && e.2.warp == w && !e.2.finished).length

/-- MLOOP_STEP (R229, R231): one step, or the loop's end. A loop of a block that is being saved stops at the step
boundary with its card written back (stage 3); a warp record holds one card, so the others of its warp run on. A loop whose
warp has been halted ends at the boundary too, its arrival made, and an image with an uncorrectable error halts it (R231). -/
def opMloopStep (k : Nat) (s : State) : State :=
  let j := s.job k
  if (kGet? s.jobs k).isNone || !j.mloop || !s.edgesDone j || j.stage = 3 then s
  else if (kGet? s.warps j.warp).isNone && j.err.isNone then s.setJob k { j with err := some (0, 0, 0) }
  else if j.stage = 2 then
    if j.finished && j.err.isNone && lSteps j.card ≠ 0 then
      (s.setJob k { j with stage := 3 }).modWarp j.warp fun x => { x with loopWord := j.word0 }
    else s.loopEnd k
  else if j.err.isSome || lSteps j.card = 0 || j.finished then s.loopClose k
  else if s.blockStopping j.block && s.loopsOf j.warp ≤ 1 then (s.setJob k { j with finished := true }).loopClose k
  else
    let b := s.block j.block
    let x := s.warp j.warp
    let die := b.pcore / 44
    let ctx := (s.launch j.launch).ctx
    let units := energyUnits (lClass j.card) (mmaClass (lAfmt j.card) (lBfmt j.card))
    match (loopImages j.card).find? fun (o, _, n, _) => damagedAt b o n with
    | some (o, _, _, _) => s.consume j.warp o
    | none =>
    if s.budget die ctx < units then s
    else if (group (lAcc j.card) 32).any x.absent.contains then s.setWarp j.warp (noteMiss x (group (lAcc j.card) 32))
    else
      let s := s.debit die ctx units
      let t := tile (loopStep b x j.card).mma
      let fl := tileFlags t
      let s := s.setWarp j.warp (orFp x fl)
      if trapHit j.traps fl then s.setJob k { j with started := true, err := some (0x08, 0, j.addr) }
      else
        let s := s.setJob k { j with started := true, card := cardStep j.card, z := false }
        s.setWarp j.warp (applyRegWrites (s.warp j.warp) (tileWrites (lAcc j.card) t))
def execMloopStep (k : Nat) (s : State) : Host.Outcome State Fault Refusal := .next (opMloopStep k s)

end Sys2Proof.Machine
end

