-- ==== Sys2Proof/Machine/Seq.lean ====
section
/-! DEFINITION. Sequences: slots, the radix walk, key frames and their summaries, KAPP, KLEN and block maintenance
(R238 to R254). -/

namespace Sys2Proof.Machine

/-! ## Slots (R238 to R241, R251) -/

/-- The formats of keys and values. -/
def kvFormat (n : Nat) : Bool := (0x0C ≤ n && n ≤ 0x0F) || n == 0x12

/-- A descriptor obeys R238. -/
def seqOk (k : List Byte) : Bool :=
  let d := fieldN k 18 2
  fieldN k 0 8 ≠ 0 && fieldN k 0 8 % 128 == 0 && fieldN k 8 4 ≤ fieldN k 12 4 && 1 ≤ fieldN k 16 1 && fieldN k 16 1 ≤ 9 &&
    kvFormat (fieldN k 17 1) && kvFormat (fieldN k 20 1) && d % 2 == 0 && 2 ≤ d && d ≤ 256 &&
    ((fieldN k 17 1 != 0x12 && fieldN k 20 1 != 0x12) || d % 32 == 0) &&
    fieldN k 21 3 == 0 && fieldN k 28 4 == 0 && fieldN k 32 8 % 8 == 0 && fieldN k 40 24 == 0

/-- The slot a descriptor loads. -/
def seqOf (k : List Byte) (owner : Nat) (home : W64) (ctx : Nat) : Seq where
  loaded := true
  owner := owner
  home := home
  ctx := ctx
  root := BitVec.ofNat 64 (fieldN k 0 8)
  c := BitVec.ofNat 32 (fieldN k 8 4)
  t := BitVec.ofNat 32 (fieldN k 12 4)
  bslog := fieldN k 16 1
  kfmt := fieldN k 17 1
  vfmt := fieldN k 20 1
  d := fieldN k 18 2
  gen := BitVec.ofNat 32 (fieldN k 24 4)
  freq := BitVec.ofNat 64 (fieldN k 32 8)
  cache := []

/-- A slot of the current core. -/
def State.seq (s : State) (k : Nat) : Seq := kGet (s.core s.myCore).slots k
def State.setSeq (s : State) (k : Nat) (q : Seq) : State :=
  let c := s.core s.myCore
  s.setCore s.myCore { c with slots := kSet c.slots k q }
/-- The slot is loaded by the launch of the current warp (R240). -/
def State.seqMine (s : State) (k : Nat) : Bool := (s.seq k).loaded && (s.seq k).owner == s.me.launch

/-- A KROT, KREQ or KSUM of another warp on a slot of a core waits for a busy block (R241, R253). -/
def State.maintWaits (s : State) (core k : Nat) : Bool :=
  s.warps.any fun e => (s.block e.2.block).pcore == core && e.1 != s.cur.warp && (e.2.kvDone.map (·.1)) == some k

/-- A KAPP has reserved positions on a slot of a core and has not completed, or another warp's maintenance of it is under way
(R241). -/
def State.kappWaits (s : State) (core k : Nat) : Bool :=
  s.maintWaits core k || s.warps.any fun e => (s.block e.2.block).pcore == core &&
    ((e.2.path0.reserved.map (·.1)) == some k || (e.2.path1.reserved.map (·.1)) == some k)

/-- A scalar operation on a slot: it waits for the lane blocks before it, the slot must be the launch's, and every KAPP that has
reserved positions on it completes first (R240, R241). -/
def State.slotRun (s : State) (k : BitVec 6) (regs : List (BitVec 6)) (body : Seq → State) : State :=
  let isIo := match s.me.wait with | .io _ => true | _ => false
  if (laneWait s.me || sregWait s.me regs) && !isIo then s
  else if !s.seqMine k.toNat then s.scalarFault cOPERAND 0 0
  else if s.kappWaits s.myCore k.toNat then s
  else body (s.seq k.toNat)

/-- kseq.ld (R239). -/
def opKseqLd (k a : BitVec 6) (s : State) : State :=
  let x := s.me
  let va := sreg x a
  let q := s.seq k.toNat
  let isIo := match x.wait with | .io _ => true | _ => false
  if laneWait x && !isIo then s
  else if q.loaded && q.owner ≠ x.launch then s.scalarFault cOPERAND 0 0
  else if s.maintWaits s.myCore k.toNat then s
  else if va.toNat % 64 ≠ 0 then s.scalarFault cALIGN va 0
  else match s.recordGot va 64 0 0 [] with
    | .stop t => t
    | .bytes bs =>
      if !seqOk bs then s.scalarFault cOPERAND va 0
      else (s.setSeq k.toNat (seqOf bs x.launch va s.myCtx)).scalarNext
def execKseqLd (k a : BitVec 6) (s : State) : Host.Outcome State Fault Refusal := .next (opKseqLd k a s)

/-- The 8 and the 4 bytes that a write-back stores at +8 and +24 (R239). -/
def seqLens (q : Seq) : List Byte := toBytes 4 q.c.toNat ++ toBytes 4 q.t.toNat
def seqGen (q : Seq) : List Byte := toBytes 4 q.gen.toNat

/-- kseq.st (R239). -/
def opKseqSt (k a : BitVec 6) (s : State) : State :=
  s.slotRun k [a] fun q =>
    let va := sreg s.me a
    if va.toNat % 64 ≠ 0 then s.scalarFault cALIGN va 1
    else match s.recordGot (va + 8) 8 1 0 (seqLens q) with
      | .stop t => t
      | .bytes _ =>
        match s.recordGot (va + 24) 4 1 8 (seqGen q) with
        | .stop t => t
        | .bytes _ =>
          let l := some s.me.launch
          ((s.writeVa s.myCtx l (va + 8) (seqLens q)).writeVa s.myCtx l (va + 24) (seqGen q)).scalarNext
def execKseqSt (k a : BitVec 6) (s : State) : Host.Outcome State Fault Refusal := .next (opKseqSt k a s)

/-- R240: write a slot back to its home as KSEQ.st does, for the device; it answers whether that is done. A home whose page is
not resident is asked for; one on a page of another device is sent there as writes of `asker`; one that fails its checks is not
written, a refused one with its violation record (R15). -/
def State.homeStore (s : State) (core : Nat) (q : Seq) (asker : Asker) : State × Bool :=
  let at_ (o : Nat) : W64 := q.home + BitVec.ofNat 64 o
  match s.check q.ctx (at_ 8) 1 with
  | .here _ _ =>
    ((s.writeVa q.ctx (some q.owner) (at_ 8) (seqLens q)).writeVa q.ctx (some q.owner) (at_ 24) (seqGen q), true)
  | .away => (s.promote q.ctx (at_ 8) (core / 44) q.owner, false)
  | .remote fa => ((s.sendWrite asker q.ctx (at_ 8) fa (seqLens q)).sendWrite asker q.ctx (at_ 24) (fa + 16) (seqGen q), true)
  | .bad c =>
    (if c = cPERM then s.logViolation (core / 44) (at_ 8) 3 c q.ctx (s.coreMap.idxOf core) 1 8 else s, true)

/-- R240: the slots of a core that `mine` picks are written back to their homes, unless `drop`, and unloaded; a slot whose home
has to be waited for stays. -/
def State.unloadSlots (s : State) (core : Nat) (mine : Seq → Bool) (drop : Bool) (asker : Asker) : State :=
  (s.core core).slots.foldl (fun s e =>
    let q := e.2
    if !q.loaded || !mine q then s
    else
      let (s, done) := if drop then (s, true) else s.homeStore core q asker
      let c := s.core core
      if done then s.setCore core { c with slots := kErase c.slots e.1 } else s) s

/-- A slot of a launch is still loaded on a core. -/
def State.slotsLeft (s : State) (core : Nat) (mine : Seq → Bool) : Bool :=
  (s.core core).slots.any fun e => e.2.loaded && mine e.2

/-- klen.commit (R251). -/
def opKlenCommit (k a : BitVec 6) (s : State) : State :=
  s.slotRun k [a] fun q =>
    let n := min (sreg s.me a).toNat (q.t.toNat - q.c.toNat)
    (s.setSeq k.toNat { q with c := q.c + BitVec.ofNat 32 n }).scalarNext
def execKlenCommit (k a : BitVec 6) (s : State) : Host.Outcome State Fault Refusal := .next (opKlenCommit k a s)

/-- klen.reject (R251). -/
def opKlenReject (k : BitVec 6) (s : State) : State :=
  s.slotRun k [] fun q =>
    (if q.t.toNat > q.c.toNat then s.setSeq k.toNat { q with t := q.c, gen := q.gen + 1 } else s).scalarNext
def execKlenReject (k : BitVec 6) (s : State) : Host.Outcome State Fault Refusal := .next (opKlenReject k s)

/-! ## The radix tree (R242, R243) -/

/-- An edge of a node. -/
structure Edge where
  start : Nat
  len : Nat
  ptr : W64
  deriving DecidableEq, Repr, Inhabited

/-- An edge's pointer obeys R242. -/
def edgeOk (e : Edge) : Bool := e.len ≠ 0 && if e.ptr.getLsbD 0 then e.ptr.toNat / 2 % 8 == 0 else e.ptr.toNat % 128 == 0

/-- The edges stand in increasing order without overlap. -/
def edgesSorted : List Edge → Bool
  | a :: b :: t => a.start + a.len ≤ b.start && edgesSorted (b :: t)
  | _ => true

/-- The edges of a node's 128 bytes; none where it breaks R242. -/
def parseNode (bs : List Byte) : Option (List Edge) :=
  let n := fieldN bs 0 1
  let es := (List.range (min n 7)).map fun j =>
    ⟨fieldN bs (16 + 16 * j) 4, fieldN bs (20 + 16 * j) 4, BitVec.ofNat 64 (fieldN bs (24 + 16 * j) 8)⟩
  if n > 7 || fieldN bs 1 15 ≠ 0 || !es.all edgeOk || !edgesSorted es then none else some es

/-- A failed check: its code, the address, and the access and length that a violation record carries (R16). -/
structure Bad where
  code : Nat
  addr : W64
  access : Nat
  len : Nat
  deriving DecidableEq, Repr, Inhabited

/-- Of the failures of one instruction, the one that R12 reports: by code, then the first. -/
def firstBad (l : List Bad) : Option Bad :=
  (([cOPERAND, cALIGN, cXLATE, cPERM].findSome? fun c => l.find? fun b => b.code == c)).orElse fun _ => l.head?

/-- What a walk comes to: a position's frame, value block and row; no resolution; a failed access; or a wait. -/
inductive Found where
  | at_ (frame value : W64) (row : Nat)
  | fails
  | bad (b : Bad)
  | stop (s : State)
  deriving DecidableEq, Repr, Inhabited

/-- The key of a record's units among the answers of an instruction: its unit's number. -/
def unitKey (a : W64) : Nat := a.toNat / 8

/-- Entry `q >> bslog` of a block list: frame and value block. -/
def listEntry (ptr : W64) (i : Nat) : W64 := (ptr &&& ~~~1) + BitVec.ofNat 64 (16 * i)

/-- The units a core's walker can hold: 256 records of 128 bytes (R244). -/
def walkUnits : Nat := 4096

/-- The walker takes the units of a record that it has read and does not hold, while it has room. -/
def cacheAdd (room : Nat) (c : List (Nat × W64)) (va : W64) (bs : List Byte) : List (Nat × W64) :=
  (List.range (bs.length / 8)).foldl (fun c i =>
    let u := unitKey va + i
    if (kGet? c u).isSome || room ≤ c.length then c else c ++ [(u, BitVec.ofNat 64 (fieldN bs (8 * i) 8))]) c

/-- A record's bytes as the walker gives them: a unit that it holds reads as held or as in memory (R244). -/
def cacheRead (draws : Nat) (c : List (Nat × W64)) (va : W64) (bs : List Byte) : List Byte :=
  (List.range (bs.length / 8)).flatMap fun i =>
    match kGet? c (unitKey va + i) with
    | some v => if Config.walkOld draws (unitKey va + i) then toBytes 8 v.toNat else (bs.drop (8 * i)).take 8
    | none => (bs.drop (8 * i)).take 8

/-- The walker's room for the units of a slot of the current core. -/
def State.walkRoom (s : State) (k : Nat) : Nat :=
  walkUnits - ((s.core s.myCore).slots.map fun e => if e.1 = k then 0 else e.2.cache.length).sum

/-- Read `n` bytes of the tree of a slot: a node or an entry of a list. The cache is the slot's, with what this read adds. -/
def State.walkLook (s : State) (lane : Bool) (room : Nat) (c : List (Nat × W64)) (va : W64) (n : Nat) :
    Look × List (Nat × W64) :=
  match s.look lane va n 0 (unitKey va) [] with
  | .bytes bs => (.bytes (cacheRead s.draws c va bs), cacheAdd room c va bs)
  | r => (r, c)

/-- An entry of a block list breaks R242. -/
def entryBad (b : List Byte) : Bool := fieldN b 8 8 % 128 != 0

/-- What reading a whole block list comes to: it keeps R242, it breaks it, or it has to be waited for. -/
inductive ListGot where
  | ok
  | broken
  | stop (s : State)

/-- The first `n` entries of a block list are read: one that breaks R242 makes every position beneath the list fail (R243). An entry
that fails translation or permission faults only where its own position is asked for. -/
def State.listGot (s : State) (lane : Bool) (room : Nat) (c : List (Nat × W64)) (ptr : W64) (n : Nat) : ListGot :=
  (List.range n).foldl (fun acc i =>
    match acc with
    | .ok =>
      (match (s.walkLook lane room c (listEntry ptr i) 16).1 with
      | .stop t => .stop t
      | .bad _ _ => .ok
      | .bytes b => if entryBad b then .broken else .ok)
    | r => r) .ok

/-- The entries of a list that serve a run of positions. -/
def entriesOf (bslog len : Nat) : Nat := (len + 2 ^ bslog - 1) / 2 ^ bslog

/-- R243: resolve a relative position beneath a node. -/
def State.resolveAt (s : State) (lane : Bool) (room bslog fuel : Nat) (c : List (Nat × W64)) (node : W64) (p : Nat) :
    Found × List (Nat × W64) :=
  match fuel with
  | 0 => (.fails, c)
  | n + 1 =>
    match s.walkLook lane room c node 128 with
    | (.stop t, c) => (.stop t, c)
    | (.bad k a, c) => (.bad ⟨k, a, 0, 128⟩, c)
    | (.bytes bs, c) =>
      match (parseNode bs).bind fun es => es.find? fun e => e.start ≤ p && p < e.start + e.len with
      | none => (.fails, c)
      | some e =>
        let q := p - e.start
        if !e.ptr.getLsbD 0 then s.resolveAt lane room bslog n c e.ptr q
        else
          match s.walkLook lane room c (listEntry e.ptr (q / 2 ^ bslog)) 16 with
          | (.stop t, d) => (.stop t, d)
          | (.bad k a, d) => (.bad ⟨k, a, 0, 16⟩, d)
          | (.bytes b, d) =>
            match s.listGot lane room c e.ptr (entriesOf bslog e.len) with
            | .stop t => (.stop t, d)
            | .broken => (.fails, d)
            | .ok => (.at_ (BitVec.ofNat 64 (fieldN b 0 8)) (BitVec.ofNat 64 (fieldN b 8 8)) (q % 2 ^ bslog), d)

/-- A run of positions that one block list holds: first position, count, list, and the entries of the whole list. -/
structure Run where
  pos : Nat
  len : Nat
  list : W64
  entries : Nat
  deriving DecidableEq, Repr, Inhabited

/-- What a list read off the tree comes to, with the walker's cache after it. -/
inductive Listed (α : Type) where
  | ok (l : List α) (c : List (Nat × W64))
  | stop (s : State)

/-- The runs beneath a node, of its relative positions below `span`; `pos` is the position of relative 0. A node that cannot
be read or is malformed has none: numbering faults nowhere (R243). -/
def State.runsAt (s : State) (lane : Bool) (room bslog fuel : Nat) (c : List (Nat × W64)) (node : W64) (pos span : Nat) :
    Listed Run :=
  match fuel with
  | 0 => .ok [] c
  | n + 1 =>
    match s.walkLook lane room c node 128 with
    | (.stop t, _) => .stop t
    | (.bad _ _, c) => .ok [] c
    | (.bytes bs, c) =>
      ((parseNode bs).getD []).foldl (fun acc e =>
        match acc with
        | .stop t => .stop t
        | .ok l c =>
          if span ≤ e.start then .ok l c
          else
            let len := min e.len (span - e.start)
            if e.ptr.getLsbD 0 then .ok (l ++ [⟨pos + e.start, len, e.ptr, entriesOf bslog e.len⟩]) c
            else match s.runsAt lane room bslog n c e.ptr (pos + e.start) len with
              | .stop t => .stop t
              | .ok m c => .ok (l ++ m) c) (.ok [] c)

/-- A key block of a sequence: its frame, its first position, and its positions, each with its row and the value block of
its entry (R243). -/
structure KBlock where
  frame : W64
  first : Nat
  rows : List (Nat × Nat × W64)
  deriving DecidableEq, Repr, Inhabited

/-- Add the positions of one list entry to the blocks found: one frame is one block. -/
def addEntry (bs : List KBlock) (frame : W64) (ps : List (Nat × Nat × W64)) : List KBlock :=
  if bs.any (·.frame == frame) then
    bs.map fun b => if b.frame == frame then { b with rows := b.rows ++ ps } else b
  else bs ++ [⟨frame, (ps.headD (0, 0, 0)).1, ps⟩]

/-- The value blocks of a key block. -/
def KBlock.values (b : KBlock) : List W64 := (b.rows.map (·.2.2)).eraseDups

/-- The runs whose whole lists keep R242 (R243). -/
def State.soundRuns (s : State) (lane : Bool) (room : Nat) (c : List (Nat × W64)) (runs : List Run) : Listed Run :=
  runs.foldl (fun acc r =>
    match acc with
    | .stop t => .stop t
    | .ok l c =>
      match s.listGot lane room c r.list r.entries with
      | .stop t => .stop t
      | .broken => .ok l c
      | .ok => .ok (l ++ [r]) c) (.ok [] c)

/-- The key blocks that hold positions below a limit, in the order of R243's numbering. -/
def State.blocksBelow (s : State) (lane : Bool) (k : Nat) (q : Seq) (limit : Nat) : Listed KBlock :=
  let room := s.walkRoom k
  let runs : Listed Run := match s.runsAt lane room q.bslog 8 q.cache q.root 0 limit with
    | .stop t => .stop t
    | .ok runs c => s.soundRuns lane room c runs
  match runs with
  | .stop t => .stop t
  | .ok runs c =>
    let size := 2 ^ q.bslog
    let entries := runs.flatMap fun (r : Run) =>
      (List.range (entriesOf q.bslog r.len)).map fun i => (listEntry r.list i, r, i)
    entries.foldl (fun acc (a, r, i) =>
      match acc with
      | .stop t => .stop t
      | .ok bs c =>
        match s.walkLook lane room c a 16 with
        | (.stop t, _) => .stop t
        | (.bad _ _, c) => .ok bs c
        | (.bytes b, c) =>
          if entryBad b then .ok bs c
          else
            let v := BitVec.ofNat 64 (fieldN b 8 8)
            let ps := (List.range (min size (r.len - i * size))).map fun k => (r.pos + i * size + k, k, v)
            .ok (addEntry bs (BitVec.ofNat 64 (fieldN b 0 8)) ps) c) (.ok [] c)

/-- The walker of a slot of the current core has read more of its tree. -/
def State.walked (s : State) (k : Nat) (c : List (Nat × W64)) : State :=
  { s.setSeq k { s.seq k with cache := c } with draws := s.draws + 1 }

/-! ## Key frames (R245 to R247) -/

/-- S, the offset of the first key row. -/
def rowStart (d : Nat) : Nat := (32 + 4 * d + 127) / 128 * 128

/-- The bytes of the rows of a block of `n` rows. -/
def rowSpan (fmt d n : Nat) : Nat :=
  if fmt = 0x12 then d / 2 * n + d / 8 * n + 2 * ((n + 63) / 64) else d * (fragBits fmt / 8) * n

/-- A row as stored: its element codes, E3M5 scale codes, and band scale. -/
structure RowCodes where
  codes : List Nat
  scales : List Nat
  band : Nat
  deriving DecidableEq, Repr, Inhabited

/-- Read a row; `get o n` gives `n` bytes at offset `o` from the first row. -/
def readRow (fmt d n row : Nat) (get : Nat → Nat → List Byte) : RowCodes :=
  let w := fragBits fmt / 8
  if fmt = 0x12 then
    let el := get (d / 2 * row) (d / 2)
    ⟨(List.range d).map fun k => fieldN el (k / 2) 1 / (if k % 2 = 0 then 1 else 16) % 16,
      (get (d / 2 * n + d / 8 * row) (d / 8)).map (·.toNat), ofBytes (get (d / 2 * n + d / 8 * n + 2 * (row / 64)) 2)⟩
  else
    let el := get (d * w * row) (d * w)
    ⟨(List.range d).map fun k => fieldN el (w * k) w, [], 0⟩

/-- The decoded elements of a row (R246). -/
def rowValues (fmt : Nat) (r : RowCodes) : List FVal :=
  if fmt = 0x12 then
    r.codes.zipIdx.map fun (c, k) =>
      (mulF (mulF (decodeF fmtE2M1 c) (decodeE3M5 (r.scales.getD (k / 8) 0))).1 (decodeF fmtBF16 r.band)).1
  else r.codes.map (decodeF (fmtOf fmt))

/-- The bytes of a row, by offset from the first row; the band scale only with row 64k (R250). -/
def rowPieces (fmt d n row : Nat) (r : RowCodes) : List (Nat × List Byte) :=
  let w := fragBits fmt / 8
  if fmt = 0x12 then
    [(d / 2 * row, (List.range (d / 2)).map fun k => BitVec.ofNat 8 (r.codes.getD (2 * k) 0 + 16 * r.codes.getD (2 * k + 1) 0)),
     (d / 2 * n + d / 8 * row, r.scales.map (BitVec.ofNat 8))] ++
      (if row % 64 = 0 then [(d / 2 * n + d / 8 * n + 2 * (row / 64), toBytes 2 r.band)] else [])
  else [(d * w * row, r.codes.flatMap (toBytes w))]

/-- A summary record (R245); the box is the list of (lo, hi) of each dimension. -/
structure Summary where
  gen : W32
  flags : Nat
  fmt : Nat
  rows : Nat
  box : List (Nat × Nat)
  deriving DecidableEq, Repr, Inhabited

def fSTALE : Nat := 1
def fEMPTY : Nat := 2
def fBUSY : Nat := 4

def parseSummary (d : Nat) (bs : List Byte) : Summary :=
  ⟨BitVec.ofNat 32 (fieldN bs 0 4), fieldN bs 4 1, fieldN bs 5 1, fieldN bs 6 2,
    (List.range d).map fun i => (fieldN bs (32 + 2 * i) 2, fieldN bs (32 + 2 * d + 2 * i) 2)⟩

/-- The record's first 8 bytes and its box. -/
def summaryHead (m : Summary) : List Byte := toBytes 4 m.gen.toNat ++ toBytes 1 m.flags ++ toBytes 1 m.fmt ++ toBytes 2 m.rows
def summaryBox (m : Summary) : List Byte := m.box.flatMap (fun e => toBytes 2 e.1) ++ m.box.flatMap (fun e => toBytes 2 e.2)

/-- A row's bounds, rounded outward to BF16 (R250); none where an element is a NaN or an infinity. -/
def rowBounds (xs : List FVal) : Option (List (Nat × Nat)) :=
  if xs.any (fun x => isNan x || isInf x) then none
  else some (xs.map fun x => ((roundF fmtBF16 x 3).1, (roundF fmtBF16 x 2).1))

/-- Widen a box. -/
def widen (a b : List (Nat × Nat)) : List (Nat × Nat) :=
  (a.zip b).map fun (x, y) => ((minmaxF fmtBF16 false x.1 y.1).1, (minmaxF fmtBF16 true x.2 y.2).1)

/-- Fold one row into a summary (R250). -/
def foldRow (m : Summary) (row : Nat) (xs : List FVal) : Summary :=
  let m := match rowBounds xs with
    | none => { m with flags := m.flags ||| fSTALE }
    | some b =>
      if m.flags &&& fEMPTY ≠ 0 then { m with flags := m.flags - fEMPTY, box := b } else { m with box := widen m.box b }
  { m with rows := max m.rows (row + 1), gen := m.gen + 1 }

/-- A store to a key frame that is not an ordinary store (R248, R250). -/
def State.frameStore (s : State) (pa : Nat) (bs : List Byte) : State :=
  (({ s with mem := writeBytes s.mem pa bs, clean := dirtied s.clean pa bs.length }).watchStore pa bs.length).noteGated (some s.me.launch) false pa bs.length

/-- What the checks of a frame and a value block give (R246): the frame's physical address. -/
inductive FrameGot where
  | ok (pa : Nat)
  | bad (b : Bad)
  | stop (s : State)

/-- The pages of a range, as one address on each. -/
def pagesOf (va : W64) (n : Nat) : List W64 :=
  let a := va.toNat
  (List.range ((a % 65536 + n + 65535) / 65536)).map fun i => BitVec.ofNat 64 (if i = 0 then a else (a / 65536 + i) * 65536)

/-- How an instruction reaches a frame: by which stream, for which access, whether it reads the rows now, and the same for
the value block. -/
structure Reach where
  lane : Bool
  access : Nat
  rows : Bool
  vaccess : Nat
  vwait : Bool

/-- The failures of a value block of `n` bytes (R246): the kind of its pages, resident or not, and their permission. -/
def State.valueBads (s : State) (va : W64) (n access : Nat) : List Bad :=
  (pagesOf va n).flatMap fun a =>
    match s.translate s.myCtx a with
    | none => [⟨cXLATE, a, access, n⟩]
    | some wk =>
      (if pteKind wk.pte ≠ 0 then [⟨cOPERAND, va, access, n⟩] else []) ++
        (if verdictBad cPERM (s.check s.myCtx a access) then [⟨cPERM, a, access, n⟩] else [])

/-- The failures of a key frame (R246): the kind of its page, resident or not, its alignment, and its permission. -/
def State.frameBads (s : State) (va : W64) (n access : Nat) : List Bad :=
  match s.translate s.myCtx va with
  | none => [⟨cXLATE, va, access, n⟩]
  | some wk =>
    (if pteKind wk.pte ≠ 2 || va.toNat % 2 ^ (pteFsz wk.pte + 8) ≠ 0 then [⟨cOPERAND, va, access, n⟩] else []) ++
      (if verdictBad cPERM (s.check s.myCtx va access) then [⟨cPERM, va, access, n⟩] else [])

/-- The format that a key frame records, where the frame is on this device and its first bytes can be read. -/
def State.frameFmt (s : State) (frame : W64) (access : Nat) : Option Nat :=
  match s.check s.myCtx frame access with
  | .here pa _ => if s.poisoned pa 8 then none else some (fieldN (readBytes s.mem pa 8) 5 1)
  | _ => none

/-- R246: a frame whose format, given or recorded, is none of a row's, or that its rows do not fit into. -/
def State.sizeBads (s : State) (q : Seq) (frame : W64) (access : Nat) (fmt : Option Nat) : List Bad :=
  match s.translate s.myCtx frame, fmt.orElse fun _ => s.frameFmt frame access with
  | some wk, some f =>
    if !kvFormat f || 2 ^ (pteFsz wk.pte + 8) < rowStart q.d + rowSpan f q.d (2 ^ q.bslog) then
      [⟨cOPERAND, frame, access, 32 + 4 * q.d⟩]
    else []
  | _, _ => []

/-- The checks of R246 on a key frame of `fmt`, or of the format it records, and on its value blocks, in the order of R12; then
residency and poison. What a frame records decides only where the frame can be read. -/
def State.frameGot (s : State) (r : Reach) (q : Seq) (frame : W64) (values : List W64) (fmt : Option Nat) : FrameGot :=
  let n := 2 ^ q.bslog
  let vn := rowSpan q.vfmt q.d n
  match firstBad (s.frameBads frame (32 + 4 * q.d) r.access ++ s.sizeBads q frame r.access fmt ++ values.flatMap fun v => s.valueBads v vn r.vaccess) with
  | some b => .bad b
  | none =>
    match s.check s.myCtx frame r.access with
    | .here pa pte =>
      let size := 2 ^ (pteFsz pte + 8)
      if s.poisoned pa (if r.rows then size else 32 + 4 * q.d) then .stop (s.parkAs r.lane .poison frame r.access)
      else
        match (values.flatMap fun v => pagesOf v vn).find? fun a => r.vwait && s.check s.myCtx a r.vaccess == .away with
        | some a => .stop (s.parkAs r.lane .residency a r.vaccess)
        | none => .ok pa
    | _ => .stop (s.parkAs r.lane .residency frame r.access)

/-! ## KAPP (R249, R250) -/

/-- The registers of a row group of `d` elements. -/
def rowRegs (fmt d : Nat) : Nat := (d * fragBits fmt + 31) / 32

/-- A lane's row, from its registers: elements from `base`, scales from `sc`. -/
def laneRow (x : Warp) (fmt d base sc band l : Nat) : RowCodes :=
  ⟨(List.range d).map fun k => fragElem fmt 0 (fun j => (vreg x (base + j) l).toNat) k,
    if fmt = 0x12 then (List.range (d / 8)).map fun t => scaleByte (fun j => (vreg x (sc + j) l).toNat) t else [], band⟩

/-- The lane registers KAPP names on a slot. -/
def kappRegs (f : LaneF) (q : Seq) : List Nat :=
  let n := (if q.kfmt = 0x12 then 1 else 0) + (if q.vfmt = 0x12 then 1 else 0)
  group f.va.toNat (rowRegs q.kfmt q.d) ++ group f.vb.toNat (rowRegs q.vfmt q.d) ++
    (if n = 0 then [] else group f.vc.toNat (n * (q.d / 32)))

/-- The targets of KAPP's lanes: lane, frame's physical address, value block, row; or the failure that R12 reports. -/
inductive Targets where
  | ok (l : List (Nat × Nat × W64 × Nat)) (c : List (Nat × W64))
  | bad (b : Bad)
  | stop (s : State)

/-- The stored band scale that a row of a native frame uses: its offset in the frame, for a row that does not write one. -/
def bandAt (q : Seq) (row : Nat) : Option Nat :=
  let n := 2 ^ q.bslog
  if q.kfmt = 0x12 && row % 64 ≠ 0 then some (rowStart q.d + q.d / 2 * n + q.d / 8 * n + 2 * (row / 64)) else none

/-- The target of one lane, with the walker's cache after its walk. A frame of another format than the slot's fails OPERAND, before
its value block's translation (R12). -/
def State.kappTarget (s : State) (room : Nat) (q : Seq) (c : List (Nat × W64)) (p : Nat) :
    (FrameGot × W64 × Nat) × List (Nat × W64) :=
  match s.resolveAt true room q.bslog 8 c q.root p with
  | (.stop t, c) => ((.stop t, 0, 0), c)
  | (.bad b, c) => ((.bad b, 0, 0), c)
  | (.fails, c) => ((.bad ⟨cOPERAND, BitVec.ofNat 64 p, 0, 0⟩, 0, 0), c)
  | (.at_ frame value row, c) =>
    match s.frameGot ⟨true, 2, false, 1, true⟩ q frame [value] (some q.kfmt) with
    | .ok pa =>
      if s.frameFmt frame 2 ≠ some q.kfmt then ((.bad ⟨cOPERAND, BitVec.ofNat 64 p, 2, 8⟩, 0, 0), c)
      else match bandAt q row with
        | some o =>
          if s.poisoned (pa + o) 2 then ((.stop (s.parkLane .poison [frame + BitVec.ofNat 64 o] 0), 0, 0), c)
          else ((.ok pa, value, row), c)
        | none => ((.ok pa, value, row), c)
    | .bad b =>
      if b.code ≠ cOPERAND && (s.frameFmt frame 2).any (· != q.kfmt) then ((.bad ⟨cOPERAND, BitVec.ofNat 64 p, 2, 8⟩, 0, 0), c)
      else ((.bad b, 0, 0), c)
    | g => ((g, 0, 0), c)

/-- The targets of the lanes from position `base` on: every lane is checked; of the failures R12 picks one. A lane that has to
wait makes the instruction wait before any failure is reported, as its own failure is not known. -/
def State.kappTargets (s : State) (k : Nat) (q : Seq) (base : Nat) (lanes : List Nat) : Targets :=
  let room := s.walkRoom k
  let (gs, c) := lanes.zipIdx.foldl (fun (acc : List (Nat × FrameGot × W64 × Nat) × List (Nat × W64)) (l, r) =>
    let (g, c) := s.kappTarget room q acc.2 (base + r)
    (acc.1 ++ [(l, g)], c)) ([], q.cache)
  match gs.findSome? fun e => match e.2.1 with | .stop t => some t | _ => none with
  | some t => .stop t
  | none =>
    match firstBad (gs.filterMap fun e => match e.2.1 with | .bad b => some b | _ => none) with
    | some b => .bad b
    | none => .ok (gs.filterMap fun (l, g, v, row) => match g with | .ok pa => some (l, pa, v, row) | _ => none) c

/-- One lane's append (R250): the summary, then the key row, then the value row. -/
def State.kappLane (s : State) (f : LaneF) (q : Seq) (pa : Nat) (value : W64) (row l : Nat) : State :=
  let x := s.me
  let n := 2 ^ q.bslog
  let kn := q.kfmt = 0x12
  let bands := (areg x (f.aux.toNat / 128 % 8)).toNat
  let old := readRow q.kfmt q.d n row fun o k => readBytes s.mem (pa + rowStart q.d + o) k
  let kr := laneRow x q.kfmt q.d f.va.toNat f.vc.toNat (if row % 64 = 0 then bands % 65536 else old.band) l
  let vr := laneRow x q.vfmt q.d f.vb.toNat (f.vc.toNat + (if kn then q.d / 32 else 0)) (bands / 65536 % 65536) l
  let m := foldRow (parseSummary q.d (readBytes s.mem pa (32 + 4 * q.d))) row (rowValues q.kfmt kr)
  let s := (s.frameStore pa (summaryHead m)).frameStore (pa + 32) (summaryBox m)
  let s := (rowPieces q.kfmt q.d n row kr).foldl (fun s e => s.frameStore (pa + rowStart q.d + e.1) e.2) s
  (rowPieces q.vfmt q.d n row vr).foldl (fun s e =>
    s.engStore (fun a => s.checkHeld s.myCtx a 1) s.me.launch (value + BitVec.ofNat 64 e.1) e.2) s

/-- KAPP after its reservation: T or C, the slot generation (R250). -/
def kappReserve (q : Seq) (tent : Bool) (base n : Nat) : Seq :=
  if tent then { q with t := BitVec.ofNat 32 (base + n) }
  else
    { q with
      c := BitVec.ofNat 32 (base + n)
      t := BitVec.ofNat 32 (max q.t.toNat (base + n))
      gen := if base < q.t.toNat then q.gen + 1 else q.gen }

/-- The frame of a target is being maintained (R254). -/
def State.targetBusy (s : State) (t : Nat × Nat × W64 × Nat) : Bool := fieldN (readBytes s.mem t.2.1 8) 4 1 &&& fBUSY ≠ 0

/-- The rows of a KAPP that has reserved its positions: they are appended once no frame of them is busy, to the frames that the
reservation fixed and by the slot as it was then (R250). -/
def State.kappRows (s : State) (f : LaneF) (k : Nat) (q : Seq) (base : Nat) (ts : List (Nat × Nat × W64 × Nat)) : State :=
  if ts.any s.targetBusy then s.setMyPath { s.myPath with reserved := some (k, base), targets := some (q, ts) }
  else (ts.foldl (fun s (l, pa, v, row) => s.kappLane f q pa v row l) s).laneLong (outst f.la.toNat [] [] [] [])

/-- kapp (R249, R250): its checks and its reservation are one step on the slot; a frame that is busy is waited for after it. -/
def opKapp (f : LaneF) (s : State) : State :=
  let k := f.aux.toNat % 64
  let tent := f.aux.getLsbD 6 = false
  let q := s.seq k
  let mine := s.seqMine k
  let regs := if mine then kappRegs f q else [f.va.toNat, f.vb.toNat]
  let lanes := lanesOf (active s.me s.cur.path f)
  match s.myPath.reserved with
  | some (_, base) =>
    (match s.myPath.targets with
    | some (q, ts) => s.kappRows f k q base ts
    | none => s)
  | none =>
    s.memRun regs (guardMask f) fun s =>
      if s.retHeld then s.markRet
      else if !mine then s.laneFault cOPERAND 0 0
      else if tent && !modeTacc s.myMode then s.laneFault cOPERAND 0 0
      else if q.kfmt ≠ 0x12 && q.vfmt ≠ 0x12 && (f.vc ≠ 0 || f.aux.toNat / 128 % 8 ≠ 0) then s.laneFault cOPERAND 0 0
      else
        let n := lanes.length
        let base := if tent then q.t.toNat else q.c.toNat
        if base + n > 0xFFFFFFFF then s.laneFault 0x0B 0 0
        else match s.kappTargets k q base lanes with
          | .stop t => t
          | .bad b => s.badAs true b.code b.addr b.access b.len
          | .ok ts c => s.charged (energyUnits (f.ctlN 11 2) 0) fun s =>
              let s := (s.setSeq k (kappReserve q tent base n)).walked k c
              let x := setSreg s.me 63 (BitVec.ofNat 64 base)
              (s.setMe (setPath x s.cur.path (loseRet s.myPath 63))).kappRows f k q base ts
def execKapp (f : LaneF) (s : State) : Host.Outcome State Fault Refusal := .next (opKapp f s)

/-! ## Maintenance (R253, R254) -/

/-- The row effect of KROT (cosine and sine of each pair), KREQ (the new format) and KSUM. -/
inductive RowEffect where
  | rot (cs : List (Nat × Nat))
  | req (fmt : Nat)
  | sum
  deriving DecidableEq, Repr, Inhabited

/-- A row after its effect, in the block's new format. -/
def applyEffect (e : RowEffect) (fmt : Nat) (r : RowCodes) : RowCodes :=
  match e with
  | .sum => r
  | .req new => { r with codes := (rowValues fmt r).map fun v => (roundF (fmtOf new) v 0).1 }
  | .rot cs =>
    let v (k : Nat) : FVal := decodeF (fmtOf fmt) (r.codes.getD k 0)
    { r with codes := cs.zipIdx.flatMap fun ((c, sn), i) =>
        let x := v (2 * i)
        let y := v (2 * i + 1)
        let c := decodeF fmtF32 c
        let sn := decodeF fmtF32 sn
        [(rotOne (fmtOf fmt) 0 x c y sn true).1, (rotOne (fmtOf fmt) 0 x sn y c false).1] }

/-- A block's old format is one the effect takes. -/
def effectOk (e : RowEffect) (fmt : Nat) : Bool :=
  match e with
  | .rot _ => fmt != 0x12
  | .req new => fmt != 0x12 && fragBits new ≤ fragBits fmt
  | .sum => true

/-- The maintenance of one block (R253): its rows below T take the effect, and its box is made again; it is EMPTY only where it has
none. -/
def State.maintain (s : State) (q : Seq) (e : RowEffect) (b : KBlock) (pa fmt : Nat) : State :=
  let n := 2 ^ q.bslog
  let base := pa + rowStart q.d
  let new := match e with | .req f => f | _ => fmt
  let rows := (b.rows.map (·.2.1)).eraseDups
  let out := rows.map fun r => (r, applyEffect e fmt (readRow fmt q.d n r fun o k => readBytes s.mem (base + o) k))
  let m := parseSummary q.d (readBytes s.mem pa (32 + 4 * q.d))
  let start : Summary := { m with flags := fEMPTY, fmt := new, rows := 0 }
  let r := out.foldl (fun m (row, c) => foldRow m row (rowValues new c)) start
  let fin : Summary := { r with gen := m.gen + 1, flags := if rows.isEmpty then r.flags else r.flags &&& fSTALE }
  let s := match e with
    | .sum => s
    | _ => out.foldl (fun s (row, c) =>
        (rowPieces new q.d n row c).foldl (fun (s : State) (p : Nat × List Byte) => s.frameStore (base + p.1) p.2) s) s
  (s.frameStore pa (summaryHead fin)).frameStore (pa + 32) (summaryBox fin)

/-- The blocks a maintenance instruction may process, with the failure of the first that cannot be and that block's first
position; or a block whose format is not legal for it. -/
inductive Todo where
  | ok (l : List (KBlock × Nat × Nat)) (bad : Option (Bad × W64))
  | illegal
  | stop (s : State)

def State.todoBlocks (s : State) (q : Seq) (e : RowEffect) (bs : List KBlock) : Todo :=
  bs.foldl (fun acc b =>
    match acc with
    | .ok l none =>
      match s.frameGot ⟨false, 2, true, 0, false⟩ q b.frame [] none with
      | .stop t => .stop t
      | .bad c => .ok l (some (c, BitVec.ofNat 64 b.first))
      | .ok pa =>
        let fmt := fieldN (readBytes s.mem pa 8) 5 1
        if effectOk e fmt then .ok (l ++ [(b, pa, fmt)]) none else .illegal
    | r => r) (.ok [] none)

/-- A block count outside 1 to 64. -/
def countBad (range : W64) : Bool := range.toNat / 2 ^ 32 == 0 || range.toNat / 2 ^ 32 > 64

/-- A frame is being maintained by another (R253). -/
def State.frameBusy (s : State) (pa : Nat) : Bool := fieldN (readBytes s.mem pa 8) 4 1 &&& fBUSY ≠ 0

/-- KROT, KREQ and KSUM after their effect is known (R253). Every block's format and residency are settled before the first is
changed, so that an illegal format changes none; the blocks before a busy one are processed, and the warp notes how many, so that
none is processed twice. -/
def State.maintainRun (s : State) (k : BitVec 6) (q : Seq) (range : W64) (e : RowEffect) : State :=
  let first := range.toNat % 2 ^ 32
  let count := range.toNat / 2 ^ 32
  let done := (s.me.kvDone.map (·.2)).getD 0
  match s.blocksBelow false k.toNat q q.t.toNat with
  | .stop t => t
  | .ok bs c =>
    let ended (s : State) (n : Nat) : State :=
      let s := s.setMe { s.me with kvDone := none }
      (if n = 0 then s else s.setSeq k.toNat { q with gen := q.gen + 1 }).walked k.toNat c
    match s.todoBlocks q e (((bs.drop first).take count).drop done) with
      | .stop t => t
      | .illegal => (if done = 0 then s else ended s done).scalarFault cOPERAND 0 0
      | .ok l bad =>
        let now := l.takeWhile fun t => !s.frameBusy t.2.1
        let n := done + now.length
        let s := now.foldl (fun s (b, pa, fmt) => s.maintain q e b pa fmt) s
        if now.length < l.length then
          if n = 0 then s else s.setMe { s.me with kvDone := some (k.toNat, n) }
        else
          match bad with
          | some (b, p) => ((ended s n).logWarp b.code b.addr b.access b.len).faultAs false b.code p b.access
          | none => (ended s n).scalarNext

/-- The cosine and sine of each dimension pair for a position delta (R253, R121). -/
def rotTable (delta : Int) (table : List Byte) (d : Nat) : List (Nat × Nat) :=
  (List.range (d / 2)).map fun i =>
    let t := (delta * (fieldN table (8 * i) 8 : Nat) % 2 ^ 48).toNat
    let (co, si) := cosSin t
    ((roundF fmtF32 co 0).1, (roundF fmtF32 si 0).1)

/-- krot (R253). -/
def opKrot (k a b : BitVec 6) (s : State) : State :=
  s.slotRun k [a, b] fun q =>
    if q.freq = 0 || countBad (sreg s.me a) then s.scalarFault cOPERAND 0 0
    else match s.recordGot q.freq (q.d / 2 * 8) 0 (unitKey q.freq) [] with
      | .stop t => t
      | .bytes tb =>
        s.maintainRun k q (sreg s.me a) (.rot (rotTable (intVal 32 true (sreg s.me b).toNat) tb q.d))
def execKrot (k a b : BitVec 6) (s : State) : Host.Outcome State Fault Refusal := .next (opKrot k a b s)

/-- kreq (R253). -/
def opKreq (k a b : BitVec 6) (s : State) : State :=
  s.slotRun k [a, b] fun q =>
    let new := (sreg s.me b).toNat
    if new < 0x0C || new > 0x0F || countBad (sreg s.me a) then s.scalarFault cOPERAND 0 0
    else s.maintainRun k q (sreg s.me a) (.req new)
def execKreq (k a b : BitVec 6) (s : State) : Host.Outcome State Fault Refusal := .next (opKreq k a b s)

/-- ksum (R253). -/
def opKsum (k a : BitVec 6) (s : State) : State := s.slotRun k [a] fun q =>
    if countBad (sreg s.me a) then s.scalarFault cOPERAND 0 0 else s.maintainRun k q (sreg s.me a) .sum
def execKsum (k a : BitVec 6) (s : State) : Host.Outcome State Fault Refusal := .next (opKsum k a s)

end Sys2Proof.Machine
end

