-- ==== Sys2Proof/Machine/Attb.lean ====
section
/-! DEFINITION. ATTB, its masks, bounds, visits and resumable cursor, and the completion of long lane instructions
(R138, R257 to R268). -/

namespace Sys2Proof.Machine

/-! ## Operands (R257 to R259) -/

def aQ (f : LaneF) : Nat := f.ctlN 6 4 + 1
def aSlot (f : LaneF) : Nat := f.ctlN 0 6
def aTent (f : LaneF) : Bool := f.ctlN 10 1 == 1
/-- Q, the registers of the query group (R258). -/
def aRegs (f : LaneF) (d : Nat) : Nat := (aQ f * d + 31) / 32
/-- The single registers of the scale and the tolerance. -/
def aSingles (f : LaneF) : List Nat :=
  (if f.ab = 1 then [] else [f.vb.toNat]) ++ (if f.lc = 1 then [] else [f.vc.toNat])
def aGroup (f : LaneF) (d : Nat) : List Nat := group f.vd.toNat (aRegs f d + 4)
def aQuery (f : LaneF) (d : Nat) : List Nat := group f.va.toNat (aRegs f d)

def aTau (x : Warp) (f : LaneF) : FVal :=
  decodeF fmtF32 (if f.lc = 1 then f.c.toNat else (vreg x f.vc.toNat 0).toNat)
def aScale (x : Warp) (f : LaneF) : FVal :=
  decodeF fmtF32 (if f.ab = 1 then (areg x f.vb.toNat).toNat % 2 ^ 32 else (vreg x f.vb.toNat 0).toNat)
/-- Element `e` of a group. -/
def groupAt (x : Warp) (base e : Nat) : Nat := (vreg x (base + e / 32) (e % 32)).toNat
def aQueries (x : Warp) (f : LaneF) (d : Nat) : List (List FVal) :=
  (List.range (aQ f)).map fun j => (List.range d).map fun k => decodeF fmtF32 (groupAt x f.va.toNat (j * d + k))

def finite (v : FVal) : Bool := !isNan v && !isInf v

/-! ## Exact sums -/

/-- The exact sum of finite values; a sum of zeros is −0 only when each is. -/
def dySum (xs : List FVal) : FVal :=
  match xs.filter fun v => !isZero v with
  | [] => .fin (!xs.isEmpty && xs.all isNeg) 0 0
  | v :: t =>
    let q := t.foldl (fun a v => min a (expOf v)) (expOf v)
    ofScaled ((v :: t).foldl (fun a v => a + scaled v q) 0) q false

/-- The greater of two values; −0 counts as less than +0 (R117). -/
def maxF (a b : FVal) : FVal := if ltF a b || (eqF a b && isNeg a && !isNeg b) then b else a
def dot (a b : List FVal) : FVal := dySum ((a.zip b).map fun (x, y) => (mulF x y).1)

/-! ## Candidates, bounds, order and tail (R260, R261) -/

/-- The non-empty key intervals of a0 to a7 (R260). -/
def intervals (x : Warp) : List (Nat × Nat) :=
  ((List.range 4).map fun i => ((areg x (2 * i)).toNat % 2 ^ 32, (areg x (2 * i + 1)).toNat % 2 ^ 32)).filter fun (a, b) => a < b
def inSome (iv : List (Nat × Nat)) (p : Nat) : Bool := iv.any fun (a, b) => a ≤ p && p < b

/-- A candidate block: its index, frame, format, unmasked rows with their value blocks, bound and STALE flag. -/
structure Cand where
  index : Nat
  frame : W64
  pa : Nat
  fmt : Nat
  rows : List (Nat × W64)
  u : Nat
  stale : Bool
  deriving DecidableEq, Repr, Inhabited

/-- U_b (R261). -/
def boundOf (c : FVal) (qs : List (List FVal)) (m : Summary) : Nat :=
  let box := m.box.map fun (a, b) => (decodeF fmtBF16 a, decodeF fmtBF16 b)
  if m.flags &&& fSTALE ≠ 0 || box.any (fun (a, b) => !finite a || !finite b) then infCode fmtF32
  else
    let us := qs.map fun q =>
      let ts := (q.zip box).map fun (x, lo, hi) =>
        let cx := (mulF c x).1
        maxF (mulF cx hi).1 (mulF cx lo).1
      decodeF fmtF32 (roundF fmtF32 (dySum ts) 2).1
    let u := us.foldl maxF (us.headD (.fin false 0 0))
    if isInf u then infCode fmtF32
    else
      let au := match u with | .fin _ m e => FVal.fin false m (e - 20) | v => v
      (roundF fmtF32 (dySum [u, au, .fin false 1 (-126)]) 2).1

/-- Insert a candidate in order of falling bound, ties to the lower index. -/
def insertCand (c : Cand) : List Cand → List Cand
  | [] => [c]
  | a :: t => if ltF (decodeF fmtF32 a.u) (decodeF fmtF32 c.u) then c :: a :: t else a :: insertCand c t

/-- The visit order. -/
def visitOrder (cs : List Cand) : List Cand := cs.foldl (fun l c => insertCand c l) []

/-- One bit of CRC-32C. -/
def crcBit (c : W32) : W32 := if c.getLsbD 0 then (c >>> 1) ^^^ 0x82F63B78#32 else c >>> 1
/-- CRC-32C of bytes (R261). -/
def crc32c (bs : List Byte) : W32 :=
  ~~~(bs.foldl (fun (c : W32) b =>
    (List.range 8).foldl (fun c _ => crcBit c) (c ^^^ b.setWidth 32)) (BitVec.allOnes 32))

/-- The order digest (R261). -/
def orderDigest (o : List Cand) : W32 :=
  crc32c (o.flatMap fun c => toBytes 4 c.index ++ toBytes 2 c.rows.length ++ toBytes 2 0 ++ toBytes 4 c.u)

/-- U_ref (R261). -/
def uRef (o : List Cand) : FVal :=
  match (o.map fun c => decodeF fmtF32 c.u).filter finite with
  | [] => .fin false 0 0
  | v :: t => t.foldl maxF v

/-- Two numbers that Σ n × 2^d × 2^p lies between, for terms n and d ≤ 0. -/
def tailEnds (p : Nat) (ts : List (Nat × FVal)) : Nat × Nat :=
  (ts.map fun e => (e.1 * (exp2Ends p e.2).1, e.1 * (exp2Ends p e.2).2)).foldl (fun a b => (a.1 + b.1, a.2 + b.2)) (0, 0)

/-- Σ n × 2^d rounded upward once: with more and more bits until both ends round to one code (log 11). The sum is irrational
unless every d is an integer, so that it never is a code itself. -/
def tailRound (fuel p : Nat) (ts : List (Nat × FVal)) : Nat :=
  let up (n : Nat) : Nat := (roundF fmtF32 (.fin false n (-(p : Int))) 2).1
  let (lo, hi) := tailEnds p ts
  match fuel with
  | 0 => up hi
  | n + 1 => if up lo = up hi then up lo else tailRound n (2 * p) ts

/-- T(v) as an FP32 code: `rest` is what the first v visits leave (R261). -/
def tailOf (ref : FVal) (rest : List Cand) : Nat :=
  if rest.any fun c => c.u == infCode fmtF32 then infCode fmtF32
  else tailRound 24 256 (rest.map fun c => (c.rows.length, (addF (decodeF fmtF32 c.u) (negF ref) 0).1))

/-! ## One query's state (R262, R263) -/

/-- One query's running state: maximum, sum and accumulators as FP32 codes, and whether it is poisoned. -/
structure QueryState where
  m : Nat
  sum : Nat
  acc : List Nat
  bad : Bool
  deriving DecidableEq, Repr, Inhabited

def negInf : Nat := signCode fmtF32 true + infCode fmtF32
def f32 (c : Nat) : FVal := decodeF fmtF32 c
def rne (v : FVal) : Nat := (roundF fmtF32 v 0).1

/-- Fold one block's rows, its keys `xs` and values `ys`, into a query (R262). -/
def foldQuery (c : FVal) (q : List FVal) (xs ys : List (List FVal)) (st : QueryState) : QueryState :=
  if st.bad then st
  else if !(xs.all (·.all finite)) || !(ys.all (·.all finite)) || !finite (f32 st.sum) || !(st.acc.all fun a => finite (f32 a)) ||
      (isInf (f32 st.m) && !isNeg (f32 st.m)) then { st with bad := true }
  else
    let ss := xs.map fun x => f32 (rne (mulF c (dot q x)).1)
    let m := ss.foldl maxF (f32 st.m)
    let alpha := if isInf (f32 st.m) then .fin false 0 0 else f32 (rne (exp2F (addF (f32 st.m) (negF m) 0).1).1)
    let ps := ss.map fun v => f32 (rne (exp2F (addF v (negF m) 0).1).1)
    if !(ss.all finite) || !finite m then { st with bad := true }
    else
      let sum := rne (dySum ((mulF (f32 st.sum) alpha).1 :: ps))
      let acc := st.acc.zipIdx.map fun (a, k) =>
        rne (dySum ((mulF (f32 a) alpha).1 :: (ps.zip ys).map fun (p, y) => (mulF p (y.getD k (.fin false 0 0))).1))
      ⟨rne m, sum, acc, !finite (f32 sum) || !(acc.all fun a => finite (f32 a))⟩

/-- ε_j as an FP32 code (R263). -/
def epsOf (ref : FVal) (tail : Nat) (st : QueryState) : Nat :=
  let t := f32 tail
  let m := f32 st.m
  if isZero t then 0
  else if isInf t || (isInf m && isNeg m) then 0x3F800000
  else
    let r := f32 (roundF fmtF32 (mulF t (exp2F (addF ref (negF m) 0).1).1).1 2).1
    if isInf r then 0x3F800000
    else if isZero r then 0
    else (roundF fmtF32 (divF r (addF (f32 st.sum) r 0).1).1 2).1

/-! ## Visits (R264) -/

/-- What stands fixed during the visits of one ATTB. -/
structure AttbSetup where
  seq : Seq
  ctx : Nat
  nq : Nat
  scale : FVal
  tau : FVal
  queries : List (List FVal)
  order : List Cand
  ref : FVal
  digest : W32
  len : W32
  gen : W32

/-- The state of the visits: the first `v` candidates are done, `left` are to come. -/
structure AttbRun where
  v : Nat
  left : List Cand
  seen : Nat
  stale : Nat
  qs : List QueryState
  deriving DecidableEq, Repr, Inhabited

/-- Why the visits ended: done, come to the number allowed, or a block that cannot be read. -/
inductive VisitEnd where
  | done
  | limit
  | blocked (kind : ParkKind) (addr : W64)
  deriving DecidableEq, Repr, Inhabited

def AttbRun.eps (r : AttbRun) (u : AttbSetup) : List (Option Nat) :=
  let t := tailOf u.ref r.left
  r.qs.map fun q => if q.bad then none else some (epsOf u.ref t q)

/-- The halting test (R263). -/
def AttbRun.halts (r : AttbRun) (u : AttbSetup) : Bool :=
  (r.eps u).all fun e => match e with | none => true | some c => !ltF u.tau (f32 c)

/-- The first sector of a range that is not resident, or is poisoned. -/
def State.rangeHeld (s : State) (ctx : Nat) (va : W64) (n : Nat) : Option (ParkKind × W64) :=
  (pieces va n).findSome? fun (_, a, k) => match s.check ctx a 0 with
    | .away => some (.residency, a)
    | .here pa _ => (s.badSectors a pa k).head?.map fun b => (.poison, b)
    | _ => none

/-- The bytes of a range, sector by sector. -/
def State.rangeBytes (s : State) (ctx : Nat) (va : W64) (n : Nat) : List Byte :=
  (pieces va n).flatMap fun (_, a, k) => match s.check ctx a 0 with
    | .here pa _ => readBytes s.mem pa k
    | _ => toBytes k 0

/-- The ranges of a row, by offset from the first row. -/
def rowRanges (fmt d n row : Nat) : List (Nat × Nat) :=
  if fmt = 0x12 then
    [(d / 2 * row, d / 2), (d / 2 * n + d / 8 * row, d / 8), (d / 2 * n + d / 8 * n + 2 * (row / 64), 2)]
  else [(d * (fragBits fmt / 8) * row, d * (fragBits fmt / 8))]

/-- Fold the first block left. -/
def State.visitBlock (s : State) (u : AttbSetup) (r : AttbRun) (c : Cand) (rest : List Cand) : AttbRun :=
  let d := u.seq.d
  let n := 2 ^ u.seq.bslog
  let keys := c.rows.map fun (row, _) =>
    rowValues c.fmt (readRow c.fmt d n row fun o k => readBytes s.mem (c.pa + rowStart d + o) k)
  let vals := c.rows.map fun (row, v) =>
    rowValues u.seq.vfmt (readRow u.seq.vfmt d n row fun o k => s.rangeBytes u.ctx (v + BitVec.ofNat 64 o) k)
  { v := r.v + 1, left := rest, seen := r.seen + 1, stale := r.stale + (if c.stale then 1 else 0)
    qs := (u.queries.zip r.qs).map fun (q, st) => foldQuery u.scale q keys vals st }

/-- A candidate's rows that cannot be read now. -/
def State.candHeld (s : State) (u : AttbSetup) (c : Cand) : Option (ParkKind × W64) :=
  let d := u.seq.d
  let n := 2 ^ u.seq.bslog
  c.rows.findSome? fun (row, v) =>
    ((rowRanges c.fmt d n row).findSome? fun (o, k) => s.rangeHeld u.ctx (c.frame + BitVec.ofNat 64 (rowStart d + o)) k).orElse
      fun _ => (rowRanges u.seq.vfmt d n row).findSome? fun (o, k) => s.rangeHeld u.ctx (v + BitVec.ofNat 64 o) k

/-- VISIT (R264), at most `fuel` visits. -/
def State.visits (s : State) (u : AttbSetup) (fuel : Nat) (r : AttbRun) : AttbRun × VisitEnd :=
  if r.halts u then (r, .done)
  else match r.left, fuel with
    | [], _ => (r, .done)
    | _, 0 => (r, .limit)
    | c :: rest, n + 1 =>
      match s.candHeld u c with
      | some (k, a) => (r, .blocked k a)
      | none => s.visits u n (s.visitBlock u r c rest)

/-! ## What an ATTB writes (R258, R266) -/

def attbEnd (f : LaneF) (u : AttbSetup) (r : AttbRun) (interrupted : Bool) : AttbEnd :=
  let d := u.seq.d
  let nr := aRegs f d
  let eps := r.eps u
  let n := u.order.length
  let status := if interrupted then 3 else if r.v = n then 0 else 1
  let cursor := [BitVec.ofNat 32 (n * 65536 + r.v), u.digest, u.len, u.gen]
  let q (j : Nat) : QueryState := r.qs.getD j default
  let val (reg l : Nat) : Nat :=
    if reg < nr then
      let e := reg * 32 + l
      if e < u.nq * d then (if (q (e / d)).bad then qnan fmtF32 else (q (e / d)).acc.getD (e % d) 0) else 0
    else if reg = nr + 3 then (cursor.getD l 0).toNat
    else if l ≥ u.nq then 0
    else if (q l).bad then qnan fmtF32
    else if reg = nr then (q l).m
    else if reg = nr + 1 then (q l).sum
    else (eps.getD l none).getD 0
  let worst := (eps.filterMap id).foldl (fun a c => if ltF (f32 a) (f32 c) then c else a) 0
  let s56 := r.seen % 65536 * 2 ^ 32 + min r.stale 65535 * 65536 + (if r.qs.any (·.bad) then 256 else 0) + status
  { writes := (List.range (nr + 4)).flatMap fun reg => (List.range 32).map fun l =>
      ⟨f.vd.toNat + reg, l, BitVec.ofNat 32 (val reg l)⟩
    results := [BitVec.ofNat 64 s56, BitVec.ofNat 64 worst] ++ cursor.map (·.setWidth 64) }

/-- The end of an ATTB.resume whose order has changed: the group is left as it is (R264). -/
def attbChanged (cursor : List W32) : AttbEnd := ⟨[], [2, 0x3F800000] ++ cursor.map (·.setWidth 64)⟩

/-! ## The instruction (R264, R265) -/

/-- The operand conditions of R265 that the word, the registers and the slot decide (R12). -/
def State.attbBad (s : State) (f : LaneF) : Bool :=
  let x := s.me
  let q := s.seq (aSlot f)
  let grp := aGroup f q.d
  let src := aQuery f q.d ++ aSingles f
  let tau := aTau x f
  s.myPath.mask != BitVec.allOnes 32 || !s.seqMine (aSlot f) || src.any grp.contains || (aTent f && !modeTacc s.myMode) ||
    isNan tau || (isNeg tau && !isZero tau) || !finite (aScale x f) || !((aQueries x f q.d).all (·.all finite))

/-- What building the candidates gives (R260, R261, R265). -/
inductive CandGot where
  | ok (l : List Cand) (c : List (Nat × W64))
  | bad (b : Bad)
  | stop (s : State)

/-- The candidate that a block with unmasked rows is. -/
def State.candOf (s : State) (q : Seq) (c : FVal) (qs : List (List FVal)) (i : Nat) (b : KBlock) (rows : List (Nat × W64))
    (pa : Nat) : Cand :=
  let m := parseSummary q.d (readBytes s.mem pa (32 + 4 * q.d))
  ⟨i, b.frame, pa, m.fmt, rows, boundOf c qs m, m.flags &&& fSTALE ≠ 0⟩

/-- The unmasked positions below L that do not resolve, lowest first, with the walker's cache after their walks; the state of
a walk that has to wait (R243, R265). -/
def State.unresolved (s : State) (room : Nat) (q : Seq) (ps : List Nat) (c : List (Nat × W64)) :
    Except State (List Bad × List (Nat × W64)) :=
  ps.foldl (fun acc p => acc.bind fun (bads, c) =>
    match s.resolveAt true room q.bslog 8 c q.root p with
    | (.stop t, _) => .error t
    | (.bad b, c) => .ok (bads ++ [b], c)
    | (.fails, c) => .ok (bads ++ [⟨cOPERAND, BitVec.ofNat 64 p, 0, 0⟩], c)
    | (.at_ _ _ _, c) => .ok (bads, c)) (.ok ([], c))

/-- R260, R265: the unmasked positions below L and the frames and value blocks of the candidates are all checked; of the
failures R12 picks one. A node, list or summary that has to be waited for makes the path wait first. -/
def State.candidates (s : State) (f : LaneF) (k : Nat) (q : Seq) (len : Nat) : CandGot :=
  let iv := intervals s.me
  match s.blocksBelow true k q len with
  | .stop t => .stop t
  | .ok bs c =>
    let known := bs.flatMap fun b => b.rows.map (·.1)
    match s.unresolved (s.walkRoom k) q ((List.range len).filter fun p => inSome iv p && !known.contains p) c with
    | .error t => .stop t
    | .ok (lost, c) =>
      let cs := bs.zipIdx.filterMap fun (b, i) =>
        let rows := (b.rows.filter fun r => inSome iv r.1).map (·.2)
        if rows.isEmpty then none else some (i, b, rows)
      let gs := cs.map fun (i, b, rows) => (i, b, rows, s.frameGot ⟨true, 0, false, 0, false⟩ q b.frame b.values none)
      match gs.findSome? fun g => match g.2.2.2 with | .stop t => some t | _ => none with
      | some t => .stop t
      | none =>
        let many := if cs.length > 4096 then [⟨cOPERAND, 0, 0, 0⟩] else []
        match firstBad (lost ++ many ++ gs.filterMap fun g => match g.2.2.2 with | .bad b => some b | _ => none) with
        | some b => .bad b
        | none => .ok (gs.filterMap fun (i, b, rows, g) => match g with
            | .ok pa => some (s.candOf q (aScale s.me f) (aQueries s.me f q.d) i b rows pa)
            | _ => none) c

/-- A query's state as a resumption reads it; one with a NaN anywhere is poisoned (R264). -/
def readQuery (x : Warp) (f : LaneF) (d j : Nat) : QueryState :=
  let nr := aRegs f d
  let g (e : Nat) : Nat := groupAt x f.vd.toNat e
  let acc := (List.range d).map fun k => g (j * d + k)
  let m := g (32 * nr + j)
  let sm := g (32 * (nr + 1) + j)
  let ep := g (32 * (nr + 2) + j)
  ⟨m, sm, acc, (m :: sm :: ep :: acc).any fun c => isNan (f32 c)⟩

/-- The cursor a resumption reads (R266). -/
def readCursor (x : Warp) (f : LaneF) (d : Nat) : List W32 :=
  (List.range 4).map fun l => vreg x (f.vd.toNat + aRegs f d + 3) l

/-- Make an ATTB outstanding: `left` of its lookahead is to come. A path whose ATTB was interrupted stands at PC with the
ATTB at PC − 12·w; the re-issue takes it past the last of the w window instructions (R268, DEDUCED, log 22). -/
def State.attbIssue (s : State) (o : Outst) (again : Bool) : State :=
  if again then
    let q := s.myPath
    let x := setPath s.me s.cur.path { q with
      outs := q.outs ++ [{ o with num := s.me.issuedL + 1 }], pc := q.pc + 12, cont := false, visits := 0, io := none, park := none, retWait := false, lost := [] }
    s.setMe { x with lastPath := s.cur.path, issuedL := x.issuedL + 1 }
  else s.laneLong o

/-- The path has an ATTB outstanding. A later one waits for it: a path keeps one continuation (R267). -/
def attbOut (q : Path) : Bool := q.outs.any fun j => j.attb.isSome

/-- The visits of an ATTB, all made at issue, with what the machine keeps of them until it completes: the further charges that
they need, what an interruption at each of those boundaries writes, and what one writes after a number of visits that nothing
fixes (R264, R266, R267, log 6). -/
def State.attbVisits (s : State) (f : LaneF) (u : AttbSetup) (start : AttbRun) (units : Nat) (lost : List Nat) : AttbWork :=
  let n := u.order.length
  let (r, e) := s.visits u n start
  let early (k : Nat) : AttbEnd := attbEnd f u (s.visits u k start).1 true
  let k := Config.freeVisits s.draws % (r.seen + 1)
  let (park, tried) : Option Park × Nat := match e with
    | .blocked kind a => (some ⟨kind, [a], 0⟩, r.seen + 1)
    | _ => (none, r.seen)
  let need := (tried - 1) / 64
  { full := attbEnd f u r park.isSome
    park := park
    units := units
    need := need
    paid := 0
    bounds := (List.range need).map fun i => early (64 * (i + 1))
    cut := if k < r.seen then some (early k, (k - 1) / 64) else none
    la := f.la.toNat
    lost := lost
    reads := [] }

/-- The words of memory that an ATTB of a mirrored warp reads (R342): the nodes that its walker holds, the summaries of the
candidates, and the key and value rows of the first `n` of them. -/
def State.attbReads (s : State) (q : Seq) (c : List (Nat × W64)) (cs : List Cand) (n : Nat) : List W32 :=
  if s.me.mirror.isNone then []
  else
    let words (bs : List Byte) : List W32 := (List.range ((bs.length + 3) / 4)).map fun i => BitVec.ofNat 32 (fieldN bs (4 * i) 4)
    let range (fmt : Nat) (va : W64) (row : Nat) : List W32 := (rowRanges fmt q.d (2 ^ q.bslog) row).flatMap fun (o, k) =>
      words (s.rangeBytes s.myCtx (va + BitVec.ofNat 64 o) k)
    (c.flatMap fun e => words (toBytes 8 e.2.toNat)) ++
      (cs.flatMap fun e => words (readBytes s.mem e.pa (32 + 4 * q.d))) ++
      (cs.take n).flatMap fun e => e.rows.flatMap fun (row, v) =>
        range e.fmt (e.frame + BitVec.ofNat 64 (rowStart q.d)) row ++ range q.vfmt v row

/-- ATTB and ATTB.resume (R264). -/
def State.attbRun (s : State) (f : LaneF) (resume again : Bool) (left : Nat) : State :=
  let k := aSlot f
  let q := s.seq k
  let mine := s.seqMine k
  let grp := if mine then aGroup f q.d else [f.vd.toNat]
  let src := (if mine then aQuery f q.d else [f.va.toNat]) ++ aSingles f
  s.memRun (grp ++ src) [] fun s =>
    if s.retHeld then s.markRet
    else if s.attbBad f then s.laneFault cOPERAND 0 0
    else if attbOut s.myPath || s.kappWaits s.myCore k then s
    else
      let x := s.me
      let cursor := readCursor x f q.d
      let now := if aTent f then q.t else q.c
      let len := if resume then cursor.getD 2 0 else now
      let gen := if resume then cursor.getD 3 0 else q.gen
      match s.candidates f k q len.toNat with
      | .stop t => t
      | .bad b => s.badAs true b.code b.addr b.access b.len
      | .ok cs c =>
        let units := energyUnits (f.ctlN 11 2) 2
        s.charged units fun s =>
          let s := s.walked k c
          let order := visitOrder cs
          let digest := orderDigest order
          let n := order.length
          let v := if resume then (cursor.getD 0 0).toNat % 65536 else 0
          let record (a : AttbWork) : Outst := { outst left (grp ++ src) [] [] [] with attb := some a }
          let lost := s.myPath.lost
          if resume && (len.toNat > now.toNat || gen != q.gen || (cursor.getD 0 0).toNat / 65536 ≠ n ||
              cursor.getD 1 0 != digest || v > n) then
            s.attbIssue (record ⟨attbChanged cursor, none, units, 0, 0, [], none, f.la.toNat, lost, s.attbReads q c cs 0⟩) again
          else
            let u : AttbSetup := ⟨q, s.myCtx, aQ f, aScale x f, aTau x f, aQueries x f q.d, order, uRef order, digest, len, gen⟩
            let qs := (List.range (aQ f)).map fun j =>
              if resume then readQuery x f q.d j else ⟨negInf, 0, List.replicate q.d 0, false⟩
            let a := s.attbVisits f u ⟨v, order.drop v, 0, 0, qs⟩ units lost
            let a := { a with reads := s.attbReads q c (order.drop v) n ++ s.attbReads q [] (order.take v) 0 }
            { s with draws := s.draws + 1 }.attbIssue (record a) again

def execAttb (f : LaneF) (s : State) : Host.Outcome State Fault Refusal := .next (s.attbRun f false false f.la.toNat)
def execAttbResume (f : LaneF) (s : State) : Host.Outcome State Fault Refusal := .next (s.attbRun f true false f.la.toNat)

/-- A block mate has frozen the warp (R204). -/
def State.frozen (s : State) (w : Nat) : Bool :=
  let x := s.warp w
  !x.freeze && s.warps.any fun e => e.1 != w && e.2.block == x.block && e.2.freeze

/-- ATTB_REISSUE (R268): a path whose K is set re-issues the instruction at its lane PC − 12·w as ATTB.resume. It is an issue
like any other: a fault that waits, a debugger's freeze and an access that is not answered hold it. -/
def opAttbReissue (w p : Nat) (s : State) : State :=
  let x := s.warp w
  let q := warpPath x p
  let held := match q.io with
    | some io => !io.reqs.isEmpty
    | none => x.pend.isSome || s.frozen w
  if p > 1 || !q.live || !q.cont || q.park.isSome || x.handler || held || x.stopped then s
  else match s.laneWords w (issuePc q) with
    | .wait t => t
    | .bad c a => s.laneFetchFault w p c a
    | .words ws =>
      let s := { s with cur := ⟨w, p, ws.getD 0 0, ws.getD 1 0, ws.getD 2 0⟩ }
      match decodeLane (ws.getD 0 0) (ws.getD 1 0) (ws.getD 2 0) with
      | some (.attb f) => s.attbRun f true true (f.la.toNat - q.visits)
      | some (.attbResume f) => s.attbRun f true true (f.la.toNat - q.visits)
      | _ => s.laneFault 0x01 0 0
def execAttbReissue (w p : Nat) (s : State) : Host.Outcome State Fault Refusal := .next (opAttbReissue w p s)

/-! ## Completion of long lane instructions (R138, R266, R267) -/

/-- The report of a lane fault of a path (R76). -/
def laneFaultOf (r : Report) (p : Nat) : Bool := r.fault.getLsbD 8 && (r.fault.toNat / 512 % 2 == p)

/-- R267: a cause that interrupts an ATTB of path `p` with visits remaining is present: a fault of the path itself is none. -/
def State.attbCause (s : State) (w p : Nat) : Bool :=
  let x := s.warp w
  x.pend.any (fun f => f.sstep || !laneFaultOf f.rep p) || (x.sstep && !x.handler) || s.frozen w || s.stopping x.block

/-- The return registers s56 to s61, but for those that a later instruction of the path has written (R31). -/
def putResults (x : Warp) (lost : List Nat) (rs : List W64) : Warp :=
  rs.zipIdx.foldl (fun x (v, i) => if lost.contains (56 + i) then x else setSreg x (BitVec.ofNat 6 (56 + i)) v) x

/-- The warp after instruction `k` of path `p`, an ATTB, has written its end `e`. -/
def attbEnds (x : Warp) (p k : Nat) (a : AttbWork) (e : AttbEnd) (q : Path) : Warp :=
  putResults (applyRegWrites (setPath x p { q with outs := q.outs.eraseIdx k }) e.writes) a.lost e.results

/-- The node, summary and row words that an ATTB has read, spread over its entries of the pair's queue (R342, log 31). -/
def attbFills (x : Warp) (j : Outst) (a : AttbWork) : Warp :=
  let n := (a.reads.length + 63) / 64
  fillQueue x true j.num ((List.range 64).map fun i => (a.reads.drop (n * i)).take n)

/-- The same, interrupted: K is set and the path keeps `w`, and stands before its next instruction (R267). -/
def attbStops (x : Warp) (p k : Nat) (j : Outst) (a : AttbWork) (e : AttbEnd) (park : Option Park) : Warp :=
  let q := warpPath x p
  attbEnds x p k a e { q with pc := q.pc - 12, cont := true, visits := a.la - j.left, park := park, lost := a.lost }

/-- What an ATTB with a cause to stop does at the boundary it stands at: none where it goes on to its next (R267). -/
def attbCut (a : AttbWork) (short : Bool) : Option AttbEnd :=
  match a.cut with
  | some (e, n) =>
    if n = a.paid then some e
    else if n < a.paid || short then a.bounds[a.paid]?
    else none
  | none => if short then a.bounds[a.paid]? else none

/-- An ATTB goes on by one charge, waiting where the budget does not cover it, or ends: in full, parked, or interrupted at a
block boundary (R234, R264, R266, R267). A mirror is charged with its leader (R234, log 31). -/
def State.attbComplete (s : State) (w p k : Nat) (j : Outst) (a : AttbWork) : State :=
  let x := s.warp w
  let die := (s.block x.block).pcore / 44
  let ctx := (s.launch x.launch).ctx
  let due := if x.mirror.isSome then 2 * a.units else a.units
  let short := decide (s.budget die ctx < due)
  match (if s.attbCause w p then attbCut a short else none) with
  | some e => s.setWarp w (attbStops (attbFills x j a) p k j a e none)
  | none =>
    if a.paid < a.need then
      if short then s
      else
        let q := warpPath x p
        (s.debit die ctx due).setWarp w (setPath x p { q with
          outs := q.outs.set k { j with attb := some { a with paid := a.paid + 1 } } })
    else match a.park with
      | some pk =>
        (match pk.kind with
          | .residency => pk.addrs.foldl (fun (s : State) va => s.promote ctx va die x.launch) s
          | _ => pk.addrs.foldl (fun (s : State) va =>
              s.reportPoison (streamKey w p) 0 die x.launch va (warpWid (s.block x.block) x.widx)) s).setWarp w
          (attbStops (attbFills x j a) p k j a a.full (some pk))
      | none => s.setWarp w (attbEnds (attbFills x j a) p k a a.full (warpPath x p))

/-- LANE_LONG_COMPLETION (R138): instruction `k` of path `p` completes and makes its writes. -/
def opLaneLongCompletion (w p k : Nat) (s : State) : State :=
  let x := s.warp w
  let q := warpPath x p
  match q.outs[k]? with
  | some j =>
    if p > 1 || !outReady j then s
    else match j.attb with
      | some a => s.attbComplete w p k j a
      | none =>
        let x := setPath x p { q with outs := q.outs.eraseIdx k }
        s.setWarp w (fillQueue (applyMaskWrites (applyRegWrites x j.writes) j.maskWrites) true j.num (laneValues j.writes))
  | none => s
def execLaneLongCompletion (w p k : Nat) (s : State) : Host.Outcome State Fault Refusal :=
  .next (opLaneLongCompletion w p k s)

end Sys2Proof.Machine
end

