-- ==== Sys2Proof/Machine/ScalarMem.lean ====
section
/-! DEFINITION. Scalar loads, stores and atomics (R62 to R65). -/

namespace Sys2Proof.Machine

/-- Where a scalar access goes: a block's scratchpad and offset, or a global address. -/
inductive Place where
  | local_ (block off : Nat)
  | global (va : W64)
  | bad (code : Nat) (addr : W64)
  deriving DecidableEq, Repr, Inhabited

/-- The space decision of R62, after alignment. `store` marks SST. -/
def State.placeOf (s : State) (ea : W64) (space : Nat) (store : Bool) : Place :=
  let x := s.me
  let l := s.myLaunch
  match space with
  | 0 => if canonVa ea then .global ea else .bad cXLATE ea
  | 1 => if ea.toNat ≥ l.record.scratch then .bad cPERM ea else .local_ x.block ea.toNat
  | 2 =>
    let k := ea.toNat / 2 ^ 21 % 64
    if ea.toNat / 2 ^ 27 ≠ 0 ∨ k ≥ count2 l ∨ ea.toNat % 2 ^ 21 ≥ l.record.scratch then .bad cPERM ea
    else .local_ ((s.gangBlock s.myBlock k).getD x.block) (ea.toNat % 2 ^ 21)
  | _ =>
    let a := l.record.args + ea
    if !canonVa a then .bad cXLATE a else if store then .bad cPERM a else .global a

/-- The effective address of R62: the offset is signed in the global and constant spaces. -/
def smEa (x : Warp) (b : BitVec 6) (z space : Nat) {n : Nat} (o : BitVec n) : W64 :=
  sreg x b + ((if space = 0 ∨ space = 3 then o.signExtend 64 else o.setWidth 64) <<< z)

/-- The address a violation record carries: a local offset is the low 32 bits (R16). -/
def vioAddr (space : Nat) (ea : W64) : W64 := if space = 1 ∨ space = 2 then BitVec.ofNat 64 (ea.toNat % 2 ^ 32) else ea

/-- SLD and SLD.acq: an acquire orders later accesses, which are later steps (log 5). -/
def State.scalarLoad (s : State) (d b : BitVec 6) (z space : Nat) (ea : W64) : State :=
  let x := s.me
  let n := 2 ^ z
  let isIo := match x.wait with | .io _ => true | _ => false
  if sregWait x [d, b] && !isIo then s
  else if ea.toNat % n ≠ 0 then s.scalarFault cALIGN ea 0
  else match s.placeOf ea space false with
    | .bad c a => (s.logWarp c (vioAddr space a) 0 n).scalarFault c a 0
    | .local_ k off => s.scalarDone d (BitVec.ofNat 64 (ofBytes (readBytes (s.block k).scratch off n)))
    | .global va =>
      match s.scalarGot va n 0 (readPacket va n) none with
      | .stop t => t
      | .here pa _ => s.scalarDone d (BitVec.ofNat 64 (ofBytes (readBytes s.mem pa n)))
      | .remote bs => s.scalarDone d (BitVec.ofNat 64 (ofBytes bs))

/-- SST and SST.rel. A store to an ARMED barrier object is refused with PERM (R174). An access of the space scratch to a WINDOW
region reads and writes the scratchpad's bytes: it neither fills a line nor marks one dirty (DESIGN CHOICE, log 42: R149 gives fills
to VLDS and VSTS, and does not say which stores set the dirty bit). -/
def State.scalarStore (s : State) (v b : BitVec 6) (z space : Nat) (ea : W64) : State :=
  let x := s.me
  let n := 2 ^ z
  let bs := toBytes n (sreg x v).toNat
  let isIo := match x.wait with | .io _ => true | _ => false
  if sregWait x [v, b] && !isIo then s
  else if ea.toNat % n ≠ 0 then s.scalarFault cALIGN ea 1
  else match s.placeOf ea space true with
    | .bad c a => (s.logWarp c (vioAddr space a) 1 n).scalarFault c a 1
    | .local_ k off =>
      if armedHit (s.block k) off n then (s.logWarp cPERM (vioAddr space ea) 1 n).scalarFault cPERM ea 1
      else (s.modBlock k fun q => { q with scratch := writeBytes q.scratch off bs }).scalarNext
    | .global va =>
      match s.scalarGot va n 1 (writePacket va bs) none with
      | .stop t => t
      | .here pa pte => ((s.warpStore pte pa bs).digest (scalarId x) va bs).scalarNext
      | .remote _ => ((s.noteFarVa s.myCtx (some x.launch) false va n).digest (scalarId x) va bs).scalarNext

def execSld (d b : BitVec 6) (z sp : BitVec 2) (o : BitVec 10) (s : State) : Host.Outcome State Fault Refusal :=
  .next (s.scalarLoad d b z.toNat sp.toNat (smEa s.me b z.toNat sp.toNat o))
def execSst (d b : BitVec 6) (z sp : BitVec 2) (o : BitVec 10) (s : State) : Host.Outcome State Fault Refusal :=
  .next (s.scalarStore d b z.toNat sp.toNat (smEa s.me b z.toNat sp.toNat o))
def execSldAcq (d b : BitVec 6) (z sp : BitVec 2) (_p : BitVec 3) (o : BitVec 7) (s : State) :
    Host.Outcome State Fault Refusal :=
  .next (s.scalarLoad d b z.toNat sp.toNat (smEa s.me b z.toNat sp.toNat o))
def execSstRel (d b : BitVec 6) (z sp : BitVec 2) (_p : BitVec 3) (o : BitVec 7) (s : State) :
    Host.Outcome State Fault Refusal :=
  .next (s.release (s.scalarStore d b z.toNat sp.toNat (smEa s.me b z.toNat sp.toNat o)))

/-- The read-modify-write of a SATOM: signed 64-bit, with S[sd] the value a cas compares (R65). Its op has no code for xor
(R51), so max, min and cas stand one lower than in `Rmw`. Only a cas has a compare value. -/
def satomRmw (x : Warp) (d b : BitVec 6) (op : Nat) : Rmw := 
  ⟨if op < 4 then op else op + 1, 2, sreg x b, if op = 6 then sreg x d else 0⟩

/-- SATOM (R65): at a gated line of its own launch it waits for GATE_PASS, which performs it (R352). -/
def opSatom (d a b : BitVec 6) (op : BitVec 3) (_p : BitVec 3) (s : State) : State :=
  let x := s.me
  let va := sreg x a
  let r := satomRmw x d b op.toNat
  match x.wait with
  | .gated old => s.scalarDone d old
  | .gate _ => s
  | w =>
    let isIo := match w with | .io _ => true | _ => false
    if sregWait x [d, a, b] && !isIo then s
    else if va.toNat % 8 ≠ 0 then s.scalarFault cALIGN va 2
    else if !canonVa va then s.scalarFault cXLATE va 2
    else
    let passed := match w with | .io q => gatePassed q 0 | _ => false
    match s.scalarGot va 8 2 (atomicPacket r) (some ⟨0, va, r, if d = 0 then none else some d.toNat⟩) with
      | .stop t => t
      | .remote bs =>
        let old := BitVec.ofNat 64 (ofBytes bs)
        let s := if passed then s else (s.noteFarVa s.myCtx (some x.launch) true va 8).noteAtomic r (d != 0)
        let s := match rmwNew r old with
          | some v => s.digest (scalarId x) va (toBytes 8 v.toNat)
          | none => s
        s.scalarDone d old
      | .here pa pte =>
        match s.gateOf s.myLaunch va with
        | some _ => s.setMe { x with wait := .gate ⟨0, va, r, if d = 0 then none else some d.toNat⟩ }
        | none =>
          let (old, t) := (s.noteAtomic r (d != 0)).rmwHere (scalarId x) va pte pa r
          t.scalarDone d old
def execSatom (d a b : BitVec 6) (o : BitVec 3) (k : BitVec 2) (p : BitVec 3) (s : State) :
    Host.Outcome State Fault Refusal :=
  .next (if k.toNat < 2 then opSatom d a b o p s else s.release (opSatom d a b o p s))

end Sys2Proof.Machine
end

