-- ==== Sys2Proof/Machine/Mirror.lean ====
section
/-! DEFINITION. Fault delivery, and mirror warps: what a leader's effects are compared by, and the comparison
(R188, R341 to R344). -/

namespace Sys2Proof.Machine

/-! ## Fault delivery (R188) -/

/-- FAULT_DELIVERY (R188): every instruction issued before has completed, the pair of a mirrored warp agrees on the fault
(R343), and for SSTEP the stepped instruction has completed (R203). -/
def opFaultDelivery (w : Nat) (s : State) : State :=
  match kGet? s.warps w with
  | none => s
  | some x =>
    let agreed := match x.mirror with
      | some m => m.passed && m.held == some 3
      | none => true
    let stepped := x.pend.all (stepDone x)
    if x.pend.isNone || !drained x || !agreed || !stepped || x.stopped then s
    else
      let x' := { x with mirror := x.mirror.map fun m => { m with held := none, passed := false } }
      (s.setWarp w x').deliverFault w
def execFaultDelivery (w : Nat) (s : State) : Host.Outcome State Fault Refusal := .next (opFaultDelivery w s)

/-- ILLEGAL_OP (R53): the words fetched are no instruction; the fault reports them. -/
def opIllegalOp (w : Nat) (lane : Bool) (w0 w1 w2 : W32) (s : State) : State :=
  if (kGet? s.warps w).isNone then s
  else
    let s := { s with cur := ⟨w, s.cur.path, w0, w1, w2⟩ }
    if lane then s.laneFault 0x01 0 0 else s.scalarFault 0x01 0 0
def execIllegalOp (w : Nat) (lane : Bool) (w0 w1 w2 : W32) (s : State) : Host.Outcome State Fault Refusal :=
  .next (opIllegalOp w lane w0 w1 w2 s)

/-- The count of the die a warp stands on. -/
def State.now (s : State) (w : Nat) : Nat := (s.die ((s.block (s.warp w).block).pcore / 44)).count

/-- STREAM_URGENT (R36): a stream has been ready for 4,000 clocks, 2,000 ns, without issuing. -/
def opStreamUrgent (w : Nat) (lane : Bool) (s : State) : State :=
  match kGet? s.warps w with
  | none => s
  | some x =>
    match (if lane then x.readyL else x.readyS) with
    | none => s
    | some t =>
      if s.now w < t + 2000 then s
      else s.setWarp w (if lane then { x with urgentL := true } else { x with urgentS := true })
def execStreamUrgent (w : Nat) (lane : Bool) (s : State) : Host.Outcome State Fault Refusal := .next (opStreamUrgent w lane s)

/-! ## What is compared (R343) -/

/-- The active lanes of an instruction with the values compared in each. -/
def laneEffect (x : Warp) (p : Nat) (f : LaneF) (vals : Nat → List W64) : List W64 :=
  let m := active x p f
  m.setWidth 64 :: (lanesOf m).flatMap vals

/-- A register of a lane as a 64-bit value. -/
def laneWord (x : Warp) (r l : Nat) : W64 := (vreg x r l).setWidth 64

/-- Store data of up to 16 bytes as two words. -/
def dataWords (bs : List Byte) : List W64 := [BitVec.ofNat 64 (ofBytes (bs.take 8)), BitVec.ofNat 64 (ofBytes (bs.drop 8))]

/-- The bytes of a register that a scalar store of size code `z` stores. -/
def storedBits (v : W64) (z : Nat) : W64 := BitVec.ofNat 64 (v.toNat % 2 ^ (8 * 2 ^ z))

/-- The operands by which the comparator compares an instruction of a pair, beside its words (R343); none for one that has
no effect outside the pair. -/
def effectOf (x : Warp) (p : Nat) (q : Seq) (i : Instr) : Option (List W64) :=
  let r (a : BitVec 6) : W64 := sreg x a
  match i with
  | .sst v b z sp o => some [smEa x b z.toNat sp.toNat o, storedBits (r v) z.toNat]
  | .sstRel v b z sp _ o => some [smEa x b z.toNat sp.toNat o, storedBits (r v) z.toNat]
  | .satom d a b o _ _ => some ([r a, r b] ++ if o = 6 then [r d] else [])
  | .copy a _ => some [r a]
  | .mloop a => some [r a]
  | .launch _ a => some [r a]
  | .grant _ a b => some [r a, r b]
  | .gate a b => some [r a, r b]
  | .pmark _ => some []
  | .ftld a => some [r a]
  | .ftsw => some []
  | .kseqLd _ a => some [r a]
  | .kseqSt _ a => some [r a]
  | .klenCommit _ a => some [r a]
  | .klenReject _ => some []
  | .krot _ a b => some [r a, r b]
  | .kreq _ a b => some [r a, r b]
  | .ksum _ a => some [r a]
  | .xmap a b => some [r a, r b]
  | .xfill a b => some [r a, r b]
  | .xfillX24 a b => some [r a, r b]
  | .xevict a b => some [r a, r b]
  | .xflush b => some [r b]
  | .errqRead _ a b => some [r a, r b]
  | .errqRepair _ a => some [r a]
  | .errqLog _ a b => some [r a, r b]
  | .wkill _ a b => some [r a, r b]
  | .corectlDrain _ a => some [r a]
  | .corectlIsolate a => some [r a]
  | .corectlRelease a => some [r a]
  | .scan a b => some [r a, r b]
  | .lcmap _ a b => some [r a, r b]
  | .barBk _ => some []
  | .barGg _ => some []
  | .bareBk _ => some []
  | .bareGg _ => some []
  | .barrive a b => some [r a, r b]
  | .binit a b => some [r a, r b]
  | .bcont a _ => some [r a]
  | .yieldC a _ => some [r a]
  | .exit => some []
  | .vst f => some (laneEffect x p f fun l => laneVa x f l :: dataWords (storeData x f (accBytes f) l))
  | .vsts f => some (laneEffect x p f fun l => BitVec.ofNat 64 (laneOff x f l) :: dataWords (storeData x f (accBytes f) l))
  | .vatom f => some (laneEffect x p f fun l => [laneVa x f l, BitVec.ofNat 64 (opReg x f l)])
  | .vcas f => some (laneEffect x p f fun l =>
      [laneVa x f l, BitVec.ofNat 64 (readV x (isPair f.ty) f.vb.toNat l), BitVec.ofNat 64 (readV x (isPair f.ty) f.vc.toNat l)])
  | .vstc f => some (areg x (f.ctlN 0 3) :: laneEffect x p f fun l => [laneVa x f l, vpair x f.vb.toNat l])
  | .treq f => some (laneEffect x p f fun l => [laneVa x f l])
  | .kapp f => some (laneEffect x p f fun l => (kappRegs f q).map fun r => laneWord x r l)
  | _ => none

/-- The values that an instruction pushes into the pair's queue (R342): one for each value obtained from outside, two for CLK, a
queue full of them for the table of FTLD and the reads of ATTB (log 31). -/
def queueValues (x : Warp) (p : Nat) (i : Instr) : Nat :=
  let lanes (f : LaneF) : Nat := (lanesOf (active x p f)).length
  match i with
  | .sld _ _ _ _ _ => 1
  | .sldAcq _ _ _ _ _ _ => 1
  | .satom _ _ _ _ _ _ => 1
  | .srr _ _ => 1
  | .clk _ => 2
  | .scanwt _ _ => 1
  | .ftld _ => 64
  | .vld f => lanes f
  | .vlds f => lanes f
  | .vlda f => lanes f
  | .vatom f => if f.ctlN 9 1 = 1 then lanes f else 0
  | .vcas f => lanes f
  | .attb _ => 64
  | .attbResume _ => 64
  | _ => 0

/-- A scalar register's value as a queue entry. -/
def scalarValue (x : Warp) (r : BitVec 6) : List W32 := [(sreg x r).setWidth 32, ((sreg x r).toNat / 2 ^ 32 : Nat)]

/-- The values that a scalar instruction has obtained, as it leaves them: in its registers, or for FTLD in the inactive bank of the
core's function table. -/
def State.obtained (s : State) (w : Nat) (i : Instr) : List (List W32) :=
  let x := s.warp w
  match i with
  | .sld d _ _ _ _ => [scalarValue x d]
  | .sldAcq d _ _ _ _ _ => [scalarValue x d]
  | .satom d _ _ _ _ _ => [scalarValue x d]
  | .srr d _ => [scalarValue x d]
  | .clk d => [scalarValue x (BitVec.ofNat 6 (2 * d.toNat)), scalarValue x (BitVec.ofNat 6 (2 * d.toNat) + 1)]
  | .scanwt d _ => [scalarValue x d]
  | .ftld _ =>
    let c := s.core (s.block x.block).pcore
    let bank := if c.activeBank = 0 then c.bank1 else c.bank0
    (List.range 64).map fun i => (List.range 4).map fun k => spGet bank (4 * i + k)
  | _ => []

/-- The instruction that a stream stands at: path 0 or 1, or the scalar stream (2), with its words. -/
def State.standsAt (s : State) (w which : Nat) : Option (List W32 × Instr) :=
  let x := s.warp w
  if which = 2 then
    match s.scalarWords w x.pc with
    | .words ws => (decodeScalar (ws.getD 0 0)).map fun i => (ws, i)
    | _ => none
  else
    match s.laneWords w (issuePc (warpPath x which)) with
    | .words ws => (decodeLane (ws.getD 0 0) (ws.getD 1 0) (ws.getD 2 0)).map fun i => (ws, i)
    | _ => none

/-- The sequence slot that a KAPP names on the warp's core. -/
def State.slotOf (s : State) (w : Nat) (i : Instr) : Seq :=
  match i with
  | .kapp f => kGet (s.core (s.block (s.warp w).block).pcore).slots (f.aux.toNat % 64)
  | _ => default

/-- The addresses that the rows of a KAPP go to (R343): the summary, the key row and the value row of each lane. -/
def State.kappPlaces (s : State) (w which : Nat) (q : Seq) (i : Instr) : List W64 :=
  match i with
  | .kapp f =>
    let s := { s with cur := { s.cur with warp := w, path := which } }
    let place (t : Nat × Nat × W64 × Nat) : List W64 :=
      let n := 2 ^ q.bslog
      let at_ (fmt : Nat) : W64 := BitVec.ofNat 64 (((rowRanges fmt q.d n t.2.2.2).headD (0, 0)).1)
      [BitVec.ofNat 64 t.2.1, BitVec.ofNat 64 (t.2.1 + rowStart q.d) + at_ q.kfmt, t.2.2.1 + at_ q.vfmt]
    let base := if f.aux.getLsbD 6 then q.c.toNat else q.t.toNat
    (match s.kappTargets (f.aux.toNat % 64) q base (lanesOf (active s.me which f)) with
      | .ok ts _ => ts.flatMap place
      | _ => [])
  | _ => []

/-- What the leader's held effect is compared by. -/
def State.heldEffect (s : State) (w which : Nat) : Option (List W32 × List W64) :=
  let x := s.warp w
  if which = 3 then
    x.pend.map fun f => ([], [f.rep.fault, if f.rep.fault.getLsbD 8 || f.sstep then x.pc else f.rep.fspc, f.rep.flpc])
  else match s.standsAt w which with
    | some (ws, i) =>
      let q := s.slotOf w i
      (effectOf x which q i).map fun vs => (ws, vs ++ s.kappPlaces w which q i)
    | none => none

/-- Kill a warp or a pair for an error its core's bank records (R344): `syndrome` MIRROR or REG_UE. -/
def State.killPair (s : State) (w code syndrome : Nat) : State :=
  let x := s.warp w
  (s.bankError (coreBank (s.block x.block).pcore) 3 syndrome x.pc).haltWarp w code x.pc

/-- MIRROR_COMPARE (R343, R344): the mirror has come to the leader's held effect with the words and operands given, an
input. Equal, the effect may go ahead; unequal, the pair is killed. -/
def opMirrorCompare (w : Nat) (lane : Bool) (words : List W32) (operands : List W64) (s : State) : State :=
  match kGet? s.warps w with
  | none => s
  | some x =>
    match x.mirror with
    | none => s
    | some m =>
      let which := if x.pend.isSome then some 3 else m.held
      match which with
      | none => s
      | some k =>
        let onLane := k < 2 || (k == 3 && (match x.pend with | some f => f.rep.fault.getLsbD 8 | none => false))
        let lag := if onLane then m.lagL else m.lagS
        if lane != onLane || !lag.isEmpty || (m.passed && m.held == some k) then s
        else match s.heldEffect w k with
          | none => s
          | some (ws, vs) =>
            if ws == words && vs == operands then
              s.setWarp w { x with mirror := some { m with held := some k, passed := true } }
            else s.killPair w 0x12 0x0003
def execMirrorCompare (w : Nat) (lane : Bool) (words : List W32) (operands : List W64) (s : State) :
    Host.Outcome State Fault Refusal := .next (opMirrorCompare w lane words operands s)

end Sys2Proof.Machine
end

