-- ==== Sys2Proof/Machine/Tier.lean ====
section
/-! DEFINITION. The tier engines: the timetable, PMARK, TREQ, page moves and integrity tags (R275 to R292). -/

namespace Sys2Proof.Machine

/-! ## Page-table entries (R277, R278) -/

/-- The entry with the fields that a move writes: addr, tier, tagd and poison-any. -/
def pteMoved (p : W64) (addr tier : Nat) (tagd poisoned : Bool) : W64 :=
  (p &&& 0xF72F) ||| BitVec.ofNat 64 (addr / 65536 * 65536 + tier % 4 * 64 + (if tagd then 16 else 0) +
    (if poisoned then 2048 else 0))
/-- The entry with its pin bit written. -/
def pteSetPin (p : W64) (pin : Bool) : W64 := if pin then p ||| 0x20 else p &&& ~~~0x20
/-- The entry with its poison-any bit written. -/
def pteSetPoison (p : W64) (b : Bool) : W64 := if b then p ||| 0x800 else p &&& ~~~0x800

/-- Write a page-table entry where it stands. -/
def State.setPte (s : State) (at_ : Nat) (p : W64) : State := { s with mem := writeBytes s.mem at_ (toBytes 8 p.toNat) }

/-- The engine writes the pin or poison-any bit of an entry at `at_`. A move of its page that has begun keeps the entry as it
now stands: only a change by system software fails its compare (R278). -/
def State.setBit (s : State) (ctx : Nat) (va : W64) (at_ : Nat) (f : W64 → W64) : State :=
  let old := BitVec.ofNat 64 (ofBytes (readBytes s.mem at_ 8))
  let s := s.setPte at_ (f old)
  let keep (m : Move) : Move :=
    if m.marked && m.ctx == ctx && m.va.toNat / 65536 == va.toNat / 65536 && m.pte == old then ({ m with pte := f old } : Move)
    else m
  { s with moves := kMap (fun _ => keep) s.moves }

/-! ## Reads of the engines on other devices (R139, R315) -/

/-- The unit of a context that an engine has read on another device: what its target has given so far. -/
def State.farGot (s : State) (ctx : Nat) (va : W64) : Option (Option (List Byte)) :=
  (s.fab.reads.find? fun r => r.ctx == ctx && r.va == va && r.got.isSome).bind (·.got)

/-- Ask a target for a unit, unless it has been asked. -/
def State.farAsk (s : State) (owner ctx : Nat) (va fa : W64) : State :=
  if s.fab.reads.any fun r => r.ctx == ctx && r.va == va then s
  else
    let (s, id) := s.sendRequest .engine ctx va fa 0 0 (readPacket va 8)
    { s with fab := { s.fab with reads := s.fab.reads ++ [⟨owner, ctx, va, id, none⟩] } }

/-- The units that an engine has read of a context are used. -/
def State.farUsed (s : State) (ctx : Nat) : State :=
  { s with fab := { s.fab with reads := s.fab.reads.filter fun r => !(r.ctx == ctx && r.got.isSome) } }

/-- The verdict on an engine's read of a unit: one that stands on another device is away until its target has answered. -/
inductive Unit8 where
  | bytes (bs : List Byte)
  | hold (kind : ParkKind)
  | bad (code : Nat)
  deriving DecidableEq, Repr, Inhabited

def State.unitGot (s : State) (ctx : Nat) (va : W64) : Unit8 :=
  match s.check ctx va 0 with
  | .bad c => .bad c
  | .away => .hold .residency
  | .here pa _ => if s.poisoned pa 8 then .hold .poison else .bytes (readBytes s.mem pa 8)
  | .remote _ => match s.farGot ctx va with
    | some (some bs) => .bytes bs
    | some none => .bad cIMPORT
    | none => .hold .residency

/-- Ask for what an engine's read of a unit waits for: its page, or its target's answer. -/
def State.fetchUnit (s : State) (ctx : Nat) (va : W64) (die launch : Nat) : State :=
  match s.check ctx va 0 with
  | .remote fa => s.farAsk launch ctx va fa
  | _ => s.promote ctx va die launch

/-! ## Timetable entries (R280) -/

def tVa (e : List Byte) : W64 := BitVec.ofNat 64 (fieldN e 0 8)
def tLen (e : List Byte) : Nat := fieldN e 8 8
def tStart (e : List Byte) : Nat := fieldN e 16 2
def tDue (e : List Byte) : Nat := fieldN e 18 2
def tAct (e : List Byte) : Nat := fieldN e 20 1
def tTier (e : List Byte) : Nat := fieldN e 21 1
def tFlags (e : List Byte) : Nat := fieldN e 22 2
def tAdv (e : List Byte) : Bool := bitN (tFlags e) 0 == 1

/-- The target tiers that an action admits. -/
def tierOk (act tier : Nat) : Bool :=
  match act with
  | 1 => tier ≤ 1
  | 2 => tier == 1 || tier == 2
  | 5 => tier == 1 || tier == 2
  | _ => tier == 0

/-- An entry that keeps R280. -/
def entryOk (e : List Byte) : Bool :=
  (tVa e).toNat % 65536 == 0 && tLen e != 0 && tLen e % 65536 == 0 && tStart e ≤ tDue e &&
    1 ≤ tAct e && tAct e ≤ 5 && tierOk (tAct e) (tTier e) && tFlags e < 16

/-- The address of an entry. -/
def entryVa (l : Launch) (i : Nat) : W64 := l.record.timetable + BitVec.ofNat 64 (32 * i)

/-- What reading an entry gives: its bytes, a failed check, or the page or sector it waits for. -/
inductive EntryGot where
  | bytes (bs : List Byte)
  | bad (code : Nat)
  | hold (kind : ParkKind) (va : W64)
  deriving DecidableEq, Repr, Inhabited

/-- The bytes of a started entry as the engine keeps them; those of another as they stand in the table. -/
def State.entryGot (s : State) (l : Launch) (i : Nat) : EntryGot :=
  let st := kGet l.entries i
  if st.started then .bytes st.bytes
  else (List.range 4).foldl (fun acc k =>
    match acc with
    | .bytes bs =>
      let a := entryVa l i + BitVec.ofNat 64 (8 * k)
      match s.unitGot l.ctx a with
      | .bad c => .bad c
      | .hold k => .hold k a
      | .bytes b => .bytes (bs ++ b)
    | r => r) (.bytes [])

/-- Ask for what reading the table waits for. -/
def State.holdTable (s : State) (lid die : Nat) (kind : ParkKind) (va : W64) : State :=
  match kind with
  | .poison => s.reportPoison (2 ^ 42 + lid) 2 die lid va (BitVec.ofNat 64 (va.toNat / 32 * 32))
  | _ => s.fetchUnit (s.launch lid).ctx va die lid

/-- R15, R16: an access of a die's tier engine (kind 4) that fails its permission leaves a record in that die's log. -/
def State.logTier (s : State) (die ctx : Nat) (va : W64) (code access n : Nat) : State :=
  if code = cPERM then s.logViolation die va 4 code ctx die access n else s

/-! ## Ends of entries (R282, R283) -/

/-- R282: the entry ends: its counts join the launch's, and its status bytes are stored, on another device by a write sent
there. While the page of the status bytes is not resident, it is asked for and the entry stays as it is to be closed. -/
def State.endEntry (s : State) (lid i state code : Nat) : State :=
  let l := s.launch lid
  let e := kGet l.entries i
  let va := entryVa l i + 24
  match s.check l.ctx va 1 with
  | .away =>
    (s.modLaunch lid fun l => { l with entries := kSet l.entries i { e with closing := some (state, code) } }).promote
      l.ctx va e.die lid
  | _ =>
    let st := [BitVec.ofNat 8 state, BitVec.ofNat 8 code, BitVec.ofNat 8 (min 255 e.retries),
      BitVec.ofNat 8 (min 255 e.skipped)] ++ toBytes 2 l.marker ++ toBytes 2 (min 65535 e.page)
    let s := s.modLaunch lid fun l => { l with
      entries := kSet l.entries i { e with ended := true, closing := none }
      tally := { l.tally with
        retries := min 0xFFFFFFFF (l.tally.retries + e.retries)
        poisoned := min 65535 (l.tally.poisoned + if state = 3 then 1 else 0)
        erroring := min 65535 (l.tally.erroring + if state = 2 then 1 else 0) } }
    match s.check l.ctx va 1 with
    | .bad c => s.logTier (if e.started then e.die else l.home.getD 0) l.ctx va c 1 8
    | .remote fa => s.sendWrite .engine l.ctx va fa st
    | _ => s.writeVa l.ctx (some lid) va st

/-- The started and unended entries of a die. -/
def State.inFlight (s : State) (die : Nat) : Nat :=
  (s.eng.launches.map fun l => (l.2.entries.filter fun e => e.2.started && !e.2.ended && e.2.die == die).length).sum

/-- A page joins those that the engine has taken on. -/
def State.addMove (s : State) (m : Move) : State :=
  { s with moves := kSet s.moves s.nextId m, nextId := s.nextId + 1 }

/-- The move of page `k` of an entry. -/
def entryMove (lid i ctx die k : Nat) (e : List Byte) : Move :=
  ⟨ctx, tVa e + BitVec.ofNat 64 (65536 * k), tTier e, tAct e, die, lid, some i, false, 0, none⟩

/-- The die of an entry as it starts (R281). -/
def State.entryDie (s : State) (lid : Nat) (e : List Byte) : Nat :=
  if bitN (tFlags e) 1 = 1 then tFlags e / 4 % 4
  else match s.blocks.find? fun b => b.2.launch == lid && b.2.index == 0 && !b.2.completed with
    | some b => b.2.pcore / 44
    | none => ((s.launch lid).home).getD 0

/-- An earlier entry of the table has its start reached and has not started. -/
def State.earlierWaits (s : State) (l : Launch) (i : Nat) : Bool :=
  (List.range i).any fun k =>
    let st := kGet l.entries k
    !st.started && !st.ended && (match s.entryGot l k with
      | .bytes e => !entryOk e || tStart e ≤ l.marker
      | _ => true)

/-- TIMETABLE_ENTRY_START (R281, R283). An entry that breaks R280, or that cannot be read, ends at once. -/
def opTimetableEntryStart (lid i : Nat) (s : State) : State :=
  match kGet? s.eng.launches lid with
  | none => s
  | some l =>
    let st := kGet l.entries i
    if l.complete || l.tally.forced || i ≥ l.record.entries || st.started || st.ended then s
    else match l.home with
    | none => s
    | some home =>
      match s.entryGot l i with
      | .hold kind va => s.holdTable lid home kind va
      | .bad code => ((s.logTier home l.ctx (entryVa l i) code 0 32).endEntry lid i 2 code).farUsed l.ctx
      | .bytes e =>
        if !entryOk e then (s.endEntry lid i 2 cOPERAND).farUsed l.ctx
        else
          let die := s.entryDie lid e
          if tStart e > l.marker || s.earlierWaits l i || s.inFlight die ≥ 16 then s
          else
            ((s.modLaunch lid fun l => { l with
              entries := kSet l.entries i { st with started := true, bytes := e, die := die } }).addMove
              (entryMove lid i l.ctx die 0 e)).farUsed l.ctx
def execTimetableEntryStart (launch entry : Nat) (s : State) : Host.Outcome State Fault Refusal :=
  .next (opTimetableEntryStart launch entry s)

/-- The entries of a launch whose start has been reached start at once, in table order, as far as the engine has room and their
bytes can be read (R283); an entry that has to wait starts at a later TIMETABLE_ENTRY_START. -/
def State.startEntries (s : State) (lid : Nat) : State :=
  (List.range (s.launch lid).record.entries).foldl (fun s i => opTimetableEntryStart lid i s) s

/-! ## PMARK (R284, R285) -/

/-- What reading the table for the due check gives: the entries due, and those whose read is refused, or the page or sector that it
waits for. -/
inductive DueGot where
  | due (es : List (Nat × W64)) (bad : List (Nat × Nat))
  | hold (kind : ParkKind) (va : W64)
  deriving DecidableEq, Repr, Inhabited

/-- The entries due at a marker that have not ended, with their addresses. -/
def State.dueEntries (s : State) (l : Launch) (n : Nat) : DueGot :=
  (List.range l.record.entries).foldl (fun acc i =>
    match acc with
    | .due es bad =>
      if (kGet l.entries i).ended then acc
      else match s.entryGot l i with
        | .hold k va => .hold k va
        | .bad c => .due es (bad ++ [(i, c)])
        | .bytes e => if tDue e ≤ n && !tAdv e then .due (es ++ [(i, tVa e)]) bad else acc
    | r => r) (.due [] [])

/-- A refused read of an entry leaves its violation record (R15). -/
def State.logEntries (s : State) (lid : Nat) (bad : List (Nat × Nat)) : State :=
  let l := s.launch lid
  bad.foldl (fun s (i, c) => s.logTier (l.home.getD 0) l.ctx (entryVa l i) c 0 32) s

/-- The table that a PMARK checks has to be waited for: a poisoned sector of it is reported as a park of the warp (R358). -/
def State.holdMark (s : State) (lid : Nat) (kind : ParkKind) (va : W64) : State :=
  match kind with
  | .poison => s.reportPoison (streamKey s.cur.warp 2) 0 s.myDie lid va (warpWid s.myBlock s.me.widx)
  | _ => s.holdTable lid s.myDie kind va

/-- PMARK (R284). -/
def opPmark (n : BitVec 16) (s : State) : State :=
  let lid := s.me.launch
  let s := (s.modLaunch lid fun l => { l with marker := max l.marker n.toNat }).startEntries lid
  match s.dueEntries s.myLaunch n.toNat with
  | .hold kind va => s.holdMark lid kind va
  | .due [] bad => (s.logEntries lid bad).scalarNext
  | .due ((i, va) :: rest) bad =>
    let d := i :: rest.map (·.1)
    let s := (s.logEntries lid bad).modLaunch lid fun l =>
      let fresh := d.filter fun k => !(kGet l.entries k).missed
      { l with
        entries := fresh.foldl (fun m k => kSet m k { (kGet m k) with missed := true }) l.entries
        tally := { l.tally with misses := min 65535 (l.tally.misses + fresh.length) } }
    if modeSm s.myMode then s.scalarFault 0x0E va 0
    else s.setMe { s.me with wait := .parked ⟨.schedule, d.map (BitVec.ofNat 64), 0⟩ }
def execPmark (n : BitVec 16) (s : State) : Host.Outcome State Fault Refusal := .next (opPmark n s)

/-! ## TREQ (R288) -/

/-- TREQ (R288): the pages of tier 1 or 2 are asked for, and the path parks on them until they have tier 0 (log 15). -/
def opTreq (f : LaneF) (s : State) : State :=
  let k := f.ctlN 0 4
  s.laneRun (regsOf true f.va) (guardMask f ++ (if k = 0 then [] else [k])) fun s =>
    let x := s.me
    let lanes := lanesOf (active x s.cur.path f &&& mreg x s.cur.path k)
    let accs := lanes.map fun l => (l, laneVa x f l)
    match s.laneChecks accs 1 0 with
    | some t => t
    | none =>
      let remote (e : Nat × W64) : Bool := match s.check s.myCtx e.2 0 with | .remote _ => true | _ => false
      match accs.find? remote with
      | some (_, a) => s.laneFault cOPERAND a 0
      | none =>
        let away := accs.filterMap fun (_, a) => if s.check s.myCtx a 0 == .away then some a else none
        if away.isEmpty then s.laneLong (outst f.la.toNat [] [] [] [])
        else s.parkLane .residency (firstPer 65536 away) 0
def execTreq (f : LaneF) (s : State) : Host.Outcome State Fault Refusal := .next (opTreq f s)

/-! ## Frames, tags and backings (R279, R281, R289) -/

/-- Take a frame of a die's pool for a tier; a STAMPED page takes four that follow one another (R301). -/
def takeFrame (pool : List W64) (n : Nat) : Option (W64 × List W64) :=
  let group (f : W64) : List W64 := (List.range n).map fun i => f + BitVec.ofNat 64 (65536 * i)
  (pool.find? fun f => (group f).all pool.contains).map fun f =>
    (f, (group f).foldl (fun p g => p.erase g) pool)

def diePool (d : Die) (tier : Nat) : List W64 := if tier = 0 then d.pool0 else d.pool1
def setDiePool (d : Die) (tier : Nat) (p : List W64) : Die :=
  if tier = 0 then { d with pool0 := p } else { d with pool1 := p }

/-- The die that was given a frame; the moving engine's for one that none was given. -/
def State.frameDie (s : State) (f : W64) (die : Nat) : Nat :=
  ((s.dies.find? fun d => d.2.frames.contains f).map (·.1)).getD die

/-- The poison marks of a range of frames are dropped. -/
def State.dropPoison (s : State) (pa n : Nat) : State :=
  { s with poison := s.poison.filter fun q => !(pa ≤ q * 32 && q * 32 < pa + n) }

/-- Return `n` frames from an address to the pool of a tier. -/
def State.freeFrames (s : State) (addr tier n die : Nat) : State :=
  let s := { s.dropPoison addr (65536 * n) with clean := s.clean.filter (· != addr) }
  (List.range n).foldl (fun s i =>
    let f := BitVec.ofNat 64 (addr + 65536 * i)
    let k := s.frameDie f die
    s.setDie k (setDiePool (s.die k) tier (diePool (s.die k) tier ++ [f]))) s

def State.backingOf (s : State) (ctx : Nat) (va : W64) : Option Backing :=
  s.backing.find? fun b => b.ctx == ctx && b.va == va
def State.setBacking (s : State) (b : Backing) : State :=
  { s with backing := (s.backing.filter fun c => !(c.ctx == b.ctx && c.va == b.va)) ++ [b] }

/-- The tag record of a backing address, on whichever die holds it. -/
def State.tagsOf (s : State) (addr : W64) : Option (List W32) :=
  s.dies.findSome? fun d => (d.2.tags.find? fun t => t.1 == addr).map (·.2)

/-- Write a tag record: in place, or in the store of a die that has room for one more (R279). -/
def State.putTags (s : State) (die : Nat) (addr : W64) (ts : List W32) : Option State :=
  match s.dies.find? fun d => d.2.tags.any fun t => t.1 == addr with
  | some (k, d) => some (s.setDie k { d with tags := d.tags.map fun t => if t.1 = addr then (addr, ts) else t })
  | none =>
    let d := s.die die
    if 64 * (d.tags.length + 1) ≤ d.tagLen then some (s.setDie die { d with tags := d.tags ++ [(addr, ts)] }) else none

/-! ## One page move (R278, R281, R286, R290, R292) -/

/-- The key of packet `k` of 256 bytes of a page's first or second read among a move's requests. -/
def packetKey (pass k : Nat) : Nat := pass * 65536 + k

/-- A range of packets of a backing: host memory, or what the peer has answered a move. -/
def State.backingBytes (s : State) (io : Option IoWait) (addr pass k n : Nat) : List Byte :=
  match io with
  | none => readBytes s.host (addr + 256 * k) (256 * n)
  | some w => (List.range n).flatMap fun i => (kGet? w.answers (packetKey pass (k + i))).getD []

/-- A read of a 4 KiB sector of a backing; a damaged read gives free values. -/
def State.readBacking (s : State) (io : Option IoWait) (addr k pass : Nat) (damaged : List Nat) : List Byte :=
  if damaged.contains k then (List.range 4096).map fun i => Config.freeByte (s.draws + (pass * 16 + k) * 4096 + i)
  else s.backingBytes io addr pass (16 * k) 16

/-- R290: one sector as it lands: its bytes, whether it was read twice, and whether it is poisoned. -/
def State.landSector (s : State) (io : Option IoWait) (addr : Nat) (tags : Option (Option (List W32))) (d1 d2 : List Nat)
    (k : Nat) : List Byte × Bool × Bool :=
  let r := s.readBacking io addr k 0 d1
  match tags with
  | none => (r, false, false)
  | some none => (r, false, true)
  | some (some ts) =>
    if crc32c r = ts.getD k 0 then (r, false, false)
    else
      let q := s.readBacking io addr k 1 d2
      (q, true, crc32c q != ts.getD k 0)

/-- An access or job that waits on the page ends as if its translation had failed (R287). -/
def State.failParks (s : State) (ctx : Nat) (va : W64) : State :=
  let on (p : Park) : Option W64 :=
    if p.kind == .residency then p.addrs.find? fun a => a.toNat / 65536 == va.toNat / 65536 else none
  let mine (s : State) (w : Nat) : Bool := (s.launch (s.warp w).launch).ctx == ctx && (kGet? s.warps w).isSome
  let lane (w p : Nat) (s : State) : State :=
    if !mine s w then s else
    let x := s.warp w
    let q := warpPath x p
    match q.park with
    | some k => match on k with
      | some a =>
        let ws := s.reportWords w (laneCode (s.launch x.launch).record (issuePc q)) 3
        ({ s with cur := ⟨w, p, ws.getD 0 0, ws.getD 1 0, ws.getD 2 0⟩ }).laneFault cXLATE a k.access
      | none => s
    | none => s
  let scalar (w : Nat) (s : State) : State :=
    if !mine s w then s else
    let x := s.warp w
    match x.wait with
    | .parked k => match on k with
      | some a =>
        let ws := s.reportWords w x.pc 1
        ({ s with cur := ⟨w, 0, ws.getD 0 0, 0, 0⟩ }).scalarFault cXLATE a k.access
      | none => s
    | _ => s
  let s := (s.warps.map (·.1)).foldl (fun s w => lane w 1 (lane w 0 (scalar w s))) s
  let parked (p : Option Park) : Bool := match p with | some k => (on k).isSome | none => false
  let s := (s.jobs.filter fun e => !e.2.mloop && (s.launch e.2.launch).ctx == ctx && parked e.2.park).foldl (fun s e =>
    s.jobParkFail e.1 (e.2.park.getD default)) s
  (s.blocks.filter fun e => (s.launch e.2.launch).ctx == ctx).foldl (fun s e =>
    (e.2.chans.filter fun c => parked c.2.park).foldl (fun s c => s.cardFail e.1 c.1 cXLATE c.2.head) s) s

/-- A move whose page is done stays, without its mark, until its entry can write its status (R282, R292). -/
def State.keepMove (s : State) (id : Nat) (m : Move) : State :=
  { s with moves := kSet s.moves id { m with marked := false, io := none } }

/-- The page of a move is done: its entry goes on to the next page or ends; `skip` marks a pinned page passed over. -/
def State.pageDone (s : State) (id : Nat) (m : Move) (skip : Bool) : State :=
  let s := { s with moves := kErase s.moves id }
  match m.entry with
  | none => s
  | some i =>
    let s := s.modLaunch m.launch fun l =>
      let e := kGet l.entries i
      { l with entries := kSet l.entries i { e with page := e.page + 1, skipped := e.skipped + if skip then 1 else 0 } }
    let l := s.launch m.launch
    let e := kGet l.entries i
    if e.page * 65536 < tLen e.bytes then s.addMove (entryMove m.launch i m.ctx m.die e.page e.bytes)
    else
      let t := s.endEntry m.launch i (if e.poisoned then 3 else 1) 0
      if (kGet (t.launch m.launch).entries i).ended then t else t.keepMove id m

/-- R278, R281, R287: the move ends without its page: its entry ends with ERROR and a code, and the accesses parked on
a promotion fail, unless the page now has tier 0 or another promotion of it has been taken on. -/
def State.moveFailsWith (s : State) (id : Nat) (m : Move) (code : Nat) : State :=
  let s := { s with moves := kErase s.moves id }
  let here := match s.translate m.ctx m.va with
    | some wk => pteTier wk.pte == 0 && pteKind wk.pte != 3 && !wk.big
    | none => false
  let other := s.moves.any fun e => e.2.ctx == m.ctx && e.2.va == m.va && promotes e.2
  let s := if promotes m && !here && !other then s.failParks m.ctx m.va else s
  match m.entry with
  | none => s
  | some i =>
    let t := s.endEntry m.launch i 2 code
    if (kGet (t.launch m.launch).entries i).ended then t else t.keepMove id m

/-- The same with XLATE (R281, R287). -/
def State.moveFails (s : State) (id : Nat) (m : Move) : State := s.moveFailsWith id m cXLATE

/-- The first part of a move: what its action finds, and the mark that stops new accesses (R281, R292). An engine has at most
32 page moves in flight (R293). -/
def State.moveStart (s : State) (id : Nat) (m : Move) : State :=
  match s.translate m.ctx m.va with
  | none => s.moveFails id m
  | some wk =>
    let tier := pteTier wk.pte
    let mark := if (s.moves.filter fun e => e.2.marked && e.2.die == m.die).length ≥ 32 then s
      else { s with moves := kSet s.moves id { m with marked := true, pte := wk.pte } }
    if wk.big || pteKind wk.pte = 3 then s.moveFails id m
    else match m.act with
      | 1 => if tier ≤ m.tier then s.pageDone id m false else mark
      | 3 => (s.setBit m.ctx m.va wk.at_ fun p => pteSetPin p (!(s.launch m.launch).complete)).pageDone id m false
      | 4 => (s.setBit m.ctx m.va wk.at_ fun p => pteSetPin p false).pageDone id m false
      | _ =>
        if ptePin wk.pte then s.pageDone id m true
        else if tier ≥ m.tier then s.pageDone id m false
        else mark

/-- A KAPP that has reserved its positions is to append a row to the page: to a frame that stands on it, or to a value block. -/
def kappOn (q : Path) (on : W64 → Bool) (frame : Nat) : Bool :=
  match q.targets with
  | some (_, ts) => ts.any fun t => t.2.1 / 65536 * 65536 == frame || on t.2.2.1
  | none => false

/-- R292: an access to the page is between translation and completion: a pin of a copy job (R217), an atomic at an order gate, a
stamped store that is queued or waits for the queue, an as-of load that waits, a load that reads a repaired sector again (R18), or a
KAPP that has reserved its rows (R250). -/
def State.pageBusy (s : State) (m : Move) : Bool :=
  let on (a : W64) : Bool := a.toNat / 65536 == m.va.toNat / 65536
  (s.jobs.any fun e => (s.launch e.2.launch).ctx == m.ctx && (pinsHeld e.2).any fun p => on p.va) ||
  (s.dies.any fun d => d.2.queue.any fun q => q.ctx == m.ctx && on q.va) ||
  (s.warps.any fun e => (s.launch e.2.launch).ctx == m.ctx &&
    ((match e.2.wait with | .gate g => on g.va | _ => false) ||
    kappOn e.2.path0 on (pteAddr m.pte) || kappOn e.2.path1 on (pteAddr m.pte) ||
    (e.2.path0.outs ++ e.2.path1.outs).any fun j => j.gates.any (fun g => on g.va) || j.stamps.any (fun q => on q.va) ||
      j.rereads.any (fun r => on r.va) || match j.asOf with
      | some a => a.lanes.any fun l => on l.2
      | none => false))

/-- A launch's or entry's counts of integrity retries and poison (R282, R285), and the reports of R358. -/
def State.noteLanding (s : State) (m : Move) (retries : Nat) (bad : List Nat) : State :=
  let s := match m.entry with
    | some i => s.modLaunch m.launch fun l =>
        let e := kGet l.entries i
        let e' : EntryState := { e with retries := e.retries + retries, poisoned := e.poisoned || !bad.isEmpty }
        { l with entries := kSet l.entries i e' }
    | none => if (kGet? s.eng.launches m.launch).isNone then s else
        s.modLaunch m.launch fun l => { l with tally := { l.tally with retries := min 0xFFFFFFFF (l.tally.retries + retries) } }
  let requester := match m.entry with
    | some i => entryVa (s.launch m.launch) i
    | none => 0
  let new := bad.map fun (k : Nat) => (⟨2, m.die, m.launch, m.va + BitVec.ofNat 64 (4096 * k), requester, none, false, false⟩ : PoisonRep)
  { s with mgmt := { s.mgmt with reports := s.mgmt.reports ++ new } }

/-- The page of a move stands in tier 1 with its bytes dropped: its backing holds them (R281). -/
def State.droppedPage (s : State) (m : Move) : Bool :=
  pteTier m.pte == 1 && match s.backingOf m.ctx m.va with | some b => b.dropped | none => false

/-- The backing address of a page; a free value for one that never had any. -/
def State.backingAddr (s : State) (m : Move) : W64 :=
  match s.backingOf m.ctx m.va with
  | some b => b.addr
  | none => BitVec.ofNat 64 ((Config.freeWord s.draws).toNat / 65536 * 65536)

/-- Where the backing of a page lies: as its moves have found it, a free value for one that none has used (R275, log 25). -/
def State.backingPlace (s : State) (m : Move) : Nat :=
  let at_ := if pteTier m.pte = 2 then pteAddr m.pte else (s.backingAddr m).toNat
  match s.backingOf m.ctx m.va with
  | some b => if b.addr.toNat = at_ then b.place else Config.backingPlace at_
  | none => Config.backingPlace at_

/-- A page comes into a frame of tier 0 or 1 (R281, R290). The poison marks of its old place come with it. -/
def State.moveIn (s : State) (id : Nat) (m : Move) (at_ : Nat) (d1 d2 : List Nat) : State :=
  let p := m.pte
  let n := if pteKind p = 1 then 4 else 1
  let fromHost := pteTier p = 2 || s.droppedPage m
  let place := s.backingPlace m
  let old := pteAddr p
  match takeFrame (diePool (s.die m.die) m.tier) n with
  | none => s
  | some (f, pool) =>
    let frame := f.toNat
    let s := s.setDie m.die (setDiePool (s.die m.die) m.tier pool)
    let s := s.dropPoison frame (65536 * n)
    let tags := if pteTagd p && pteTier p = 2 then some (s.tagsOf (BitVec.ofNat 64 old)) else none
    let landed := (List.range 16).map fun k => s.landSector m.io old tags d1 d2 k
    let bytes := if fromHost then landed.flatMap (·.1) ++ s.backingBytes m.io old 0 256 (256 * (n - 1))
      else readBytes s.mem old (65536 * n)
    let retries := if fromHost then (landed.filter (·.2.1)).length else 0
    let bad := if fromHost then (List.range 16).filter fun k => (landed.getD k ([], false, false)).2.2 else []
    let moved := (if fromHost && m.io.isSome then [] else if fromHost then s.farPoison else s.poison).filterMap fun q =>
      if old ≤ q * 32 && q * 32 < old + 65536 * n then some (q + frame / 32 - old / 32) else none
    let poison := moved ++ bad.flatMap fun (k : Nat) => (List.range 128).map fun i => frame / 32 + 128 * k + i
    let wasClean := s.clean.contains old
    let s := { s with
      mem := writeBytes s.mem frame bytes
      poison := s.poison ++ poison.eraseDups
      draws := s.draws + 2 * 65536
      clean := if fromHost || wasClean then s.clean ++ [frame] else s.clean }
    let s := if fromHost then s.setBacking ⟨m.ctx, m.va, BitVec.ofNat 64 old, false, place⟩
      else s.freeFrames old (pteTier p) n m.die
    let s := s.setPte at_ (pteMoved p frame m.tier (pteTagd p) (!poison.isEmpty))
    (s.noteLanding m retries bad).pageDone id m false

/-- An eviction to tier 2 copies the page out: it has a frame, and has been written since it was fetched or has no backing
(R281). -/
def State.writesOut (s : State) (m : Move) : Bool :=
  !s.droppedPage m && !(s.clean.contains (pteAddr m.pte) && (s.backingOf m.ctx m.va).isSome)

/-- The move reads or writes the backing of its page, so that it needs the path there (R287, R319). -/
def State.needsBacking (s : State) (m : Move) : Bool :=
  match m.act with
  | 1 => pteTier m.pte == 2 || s.droppedPage m
  | 2 => m.tier == 2 && s.writesOut m
  | _ => false

/-- The link over which a backing is reached, by the place where it lies: 0 the host link, l + 1 the peer link l. Another place is
none: the backing fails translation (R275, R287, log 25). -/
def State.backingLink (s : State) (place : Nat) : Option Nat :=
  if place = 0 then some 6
  else if place = 7 || (kGet? s.fab.links (place - 1)).isNone then none
  else some (place - 1)

/-- The path to a backing cannot be used. -/
def State.backingGone (s : State) (place : Nat) : Bool :=
  match s.backingLink place with
  | some l => (kGet s.fab.links l).dead
  | none => true

/-- A page leaves its frame for tier 2, copied out unless it is unwritten since it was fetched (R281, R289). -/
def State.moveOut (s : State) (id : Nat) (m : Move) (at_ : Nat) : State :=
  let p := m.pte
  let n := if pteKind p = 1 then 4 else 1
  let old := pteAddr p
  let b := s.backingAddr m
  let written := s.writesOut m
  let dropped := s.droppedPage m
  let place := s.backingPlace m
  let s := { s with draws := s.draws + 1 }
  let s' := s.setBacking ⟨m.ctx, m.va, b, false, place⟩
  if dropped then (s'.setPte at_ (pteMoved p b.toNat 2 (pteTagd p) false)).pageDone id m false
  else if !written then
    ((s'.freeFrames old (pteTier p) n m.die).setPte at_ (pteMoved p b.toNat 2 (pteTagd p) false)).pageDone id m false
  else
    let bytes := readBytes s.mem old (65536 * n)
    let tag (k : Nat) : W32 := crc32c ((bytes.drop (4096 * k)).take 4096)
    let inside (base q : Nat) : Bool := base ≤ q * 32 && q * 32 < base + 65536 * n
    let s' := if place ≠ 0 then s' else { s' with
      host := writeBytes s'.host b.toNat bytes
      farPoison := s'.farPoison.filter (fun q => !inside b.toNat q) ++
        (s'.poison.filter (inside old)).map fun q => q + b.toNat / 32 - old / 32 }
    let (s', tagd) := match s'.putTags m.die b ((List.range 16).map tag) with
      | some t => (t, true)
      | none => (s'.modLaunch m.launch fun l =>
          { l with tally := { l.tally with untagged := min 65535 (l.tally.untagged + 1) } }, false)
    ((s'.freeFrames old (pteTier p) n m.die).setPte at_ (pteMoved p b.toNat 2 tagd false)).pageDone id m false

/-- DROP: the page's address becomes its backing's and its frame is free, with nothing written back (R281). -/
def State.moveDrop (s : State) (id : Nat) (m : Move) (at_ : Nat) : State :=
  let p := m.pte
  let n := if pteKind p = 1 then 4 else 1
  let b := s.backingAddr m
  let dropped := s.droppedPage m
  let place := s.backingPlace m
  let s := { s with draws := s.draws + 1 }
  let s := s.setBacking ⟨m.ctx, m.va, b, m.tier == 1, place⟩
  let s := if dropped then s else s.freeFrames (pteAddr p) (pteTier p) n m.die
  (s.setPte at_ (pteMoved p b.toNat m.tier (pteTagd p) false)).pageDone id m false

/-- A move asks the peer that holds its backing for packets of 256 bytes of a pass, or sends them (R275, R316): the backing's address
is a fabric address, the key that of the page's context. -/
def State.peerSend (s : State) (id : Nat) (m : Move) (addr : W64) (pass : Nat) (ks : List Nat) (data : Option (List Byte)) :
    State :=
  let (t, reqs) := ks.foldl (fun (acc : State × List (Nat × Nat × W64)) k =>
    let a := addr + BitVec.ofNat 64 (256 * k)
    let p := match data with
      | some bs => writePacket a ((bs.drop (256 * k)).take 256)
      | none => readPacket a 256
    let (t, id) := acc.1.sendRequest (.move id) m.ctx a a (packetKey pass k) 0 p
    (t, acc.2 ++ [(id, packetKey pass k, a)])) (s, [])
  { t with moves := kSet t.moves id { m with io := some { m.io.getD noIo with reqs := reqs } } }

/-- The sectors of a page in peer memory that have to be read a second time and have not been (R290). -/
def State.secondReads (s : State) (m : Move) (io : IoWait) (d1 : List Nat) : List Nat :=
  let old := pteAddr m.pte
  match (if pteTagd m.pte && pteTier m.pte = 2 then s.tagsOf (BitVec.ofNat 64 old) else none) with
  | none => []
  | some ts => (List.range 16).filter fun k =>
      (kGet? io.answers (packetKey 1 (16 * k))).isNone && crc32c (s.readBacking (some io) old k 0 d1) != ts.getD k 0

/-- What a move with a backing in peer memory does before it can move its page: its packets are sent, answered and, where a sector
does not match its tag, sent again (R275, R290); a refusal ends it with the code (R15, R316). None where it can go on. -/
def State.peerWaits (s : State) (id : Nat) (m : Move) (d1 : List Nat) : Option State :=
  let n := if pteKind m.pte = 1 then 4 else 1
  match m.io with
  | none =>
    if m.act = 2 then
      let b : Backing := ⟨m.ctx, m.va, s.backingAddr m, false, s.backingPlace m⟩
      some ({ s.setBacking b with draws := s.draws + 1 }.peerSend id m b.addr 0 (List.range (256 * n))
        (some (readBytes s.mem (pteAddr m.pte) (65536 * n))))
    else some (s.peerSend id m (BitVec.ofNat 64 (pteAddr m.pte)) 0 (List.range (256 * n)) none)
  | some io =>
    if !io.reqs.isEmpty then some s
    else if !io.refused.isEmpty then some (s.moveFailsWith id m cIMPORT)
    else if m.act = 2 then none
    else match s.secondReads m io d1 with
      | [] => none
      | ks => some (s.peerSend id m (BitVec.ofNat 64 (pteAddr m.pte)) 1 (ks.flatMap fun k => (List.range 16).map fun i => 16 * k + i) none)

/-- The second part of a move, once nothing is under way on the page (R278, R292). A compare that fails, or a backing that the
move needs and cannot reach (R287, R319), ends it. -/
def State.moveFinish (s : State) (id : Nat) (m : Move) (d1 d2 : List Nat) : State :=
  if s.pageBusy m then s
  else match s.translate m.ctx m.va with
  | none => s.moveFails id m
  | some wk =>
    if wk.pte ≠ m.pte || (s.needsBacking m && s.backingGone (s.backingPlace m)) then s.moveFails id m
    else match (if s.needsBacking m && s.backingPlace m != 0 then s.peerWaits id m d1 else none) with
    | some t => t
    | none => match m.act with
      | 1 => s.moveIn id m wk.at_ d1 d2
      | 2 => if m.tier = 1 then s.moveIn id m wk.at_ [] [] else s.moveOut id m wk.at_
      | _ => s.moveDrop id m wk.at_

/-- PAGE_MOVE (R292): moves of one page go in the order they were taken on. `damage1` and `damage2` are the sectors whose first and second reads of the backing come back damaged. -/
def opPageMove (id : Nat) (damage1 damage2 : List Nat) (s : State) : State :=
  match kGet? s.moves id with
  | none => s
  | some m =>
    let closing := match m.entry with
      | some i => (kGet (s.launch m.launch).entries i).closing
      | none => none
    match closing, m.entry with
    | some (st, code), some i =>
      let t := s.endEntry m.launch i st code
      if (kGet (t.launch m.launch).entries i).ended then { t with moves := kErase t.moves id } else t
    | _, _ =>
      if s.moves.any fun e => e.1 < id && e.2.ctx == m.ctx && e.2.va == m.va && !s.closes e.2 then s
      else if m.marked then s.moveFinish id m damage1 damage2 else s.moveStart id m
def execPageMove (move : Nat) (damage1 damage2 : List Nat) (s : State) : Host.Outcome State Fault Refusal :=
  .next (opPageMove move damage1 damage2 s)

/-! ## Launch completion and forced reset (R283) -/

/-- Every pin that the entries of a launch set is cleared. -/
def State.clearPins (s : State) (lid : Nat) : State :=
  let l := s.launch lid
  (l.entries.filter fun e => e.2.started && tAct e.2.bytes == 3).foldl (fun s e =>
    (List.range e.2.page).foldl (fun s k =>
      match s.translate l.ctx (tVa e.2.bytes + BitVec.ofNat 64 (65536 * k)) with
      | some wk =>
        if wk.big || pteKind wk.pte = 3 then s
        else s.setBit l.ctx (tVa e.2.bytes + BitVec.ofNat 64 (65536 * k)) wk.at_ fun p => pteSetPin p false
      | none => s) s) s

/-- A forced reset ends every started entry of a context with ERROR and FORCED_RESET, and its promotions. An entry whose status
bytes have to wait for their page keeps a move that writes them. -/
def State.resetMoves (s : State) (ctx : Nat) : State :=
  let s := { s with moves := s.moves.filter fun e => e.2.ctx != ctx }
  (s.eng.launches.filter fun l => l.2.ctx == ctx).foldl (fun s l =>
    (l.2.entries.filter fun e => e.2.started && !e.2.ended).foldl (fun s e =>
      let t := s.endEntry l.1 e.1 2 0x1A
      if (kGet (t.launch l.1).entries e.1).ended then t
      else t.addMove (entryMove l.1 e.1 ctx e.2.die e.2.page e.2.bytes)) s) s

end Sys2Proof.Machine
end

