-- ==== Sys2Proof/Machine/Stamp.lean ====
section
/-! DEFINITION. The stamp units: clock intervals, synchronisation messages, stamped stores and as-of loads
(R296 to R306). -/

namespace Sys2Proof.Machine

/-! ## CLK and CWAIT (R304) -/

/-- A stamp further ahead of L than 1 ms (R304, R305), on the exact sum. -/
def stampAhead (d : Die) (t : W64) : Bool := t.toNat > dieL d + 1000000

/-- CLK (R304): `d` is the pair's number, so that S[2d] takes E and S[2d+1] takes L. It waits for no lane
block of its own accord; a pair of s56 to s63 waits as R31 has it (DEDUCED, log 26). -/
def opClk (d : BitVec 5) (s : State) : State :=
  let x := s.me
  let sd : BitVec 6 := BitVec.ofNat 6 (2 * d.toNat)
  let u := s.die s.myDie
  if sregWait x [sd, sd + 1] then s else
  let x := setSreg (setSreg x sd (BitVec.ofNat 64 (dieE u))) (sd + 1) (BitVec.ofNat 64 (dieL u))
  let x := if dieWideNow s.myLaunch.ilim u then { x with fpflags := x.fpflags ||| 0x100 } else x
  (s.setMe (nextPc x)).setNondet x.launch
def execClk (d : BitVec 5) (s : State) : Host.Outcome State Fault Refusal := .next (opClk d s)

/-- CWAIT (R304): the instruction has issued, and the stream waits at the next one until E passes the stamp. It waits for no lane
block of its own accord; an operand of s56 to s63 waits as R31 has it for every scalar instruction (DEDUCED, log 26). -/
def opCwait (a : BitVec 6) (s : State) : State :=
  let x := s.me
  let t := sreg x a
  let u := s.die s.myDie
  if sregWait x [a] then s
  else if stampAhead u t then s.scalarFault 0x0D 0 0
  else if dieE u > t.toNat then s.scalarNext
  else s.setMe { nextPc x with wait := .cwait t }
def execCwait (a : BitVec 6) (s : State) : Host.Outcome State Fault Refusal := .next (opCwait a s)

/-- CWAIT_RETURN (R304). -/
def opCwaitReturn (w : Nat) (s : State) : State :=
  let x := s.warp w
  match x.wait with
  | .cwait t => if dieE (s.die ((s.block x.block).pcore / 44)) > t.toNat then s.setWarp w { x with wait := .none } else s
  | _ => s
def execCwaitReturn (w : Nat) (s : State) : Host.Outcome State Fault Refusal := .next (opCwaitReturn w s)

/-! ## Stamped lines (R301, R302) -/

/-- The two versions of a line: the current value and stamp, the previous ones. -/
structure Line where
  value : W64
  stamp : W64
  prevStamp : W64
  prevValue : W64
  deriving DecidableEq, Repr, Inhabited

/-- Where the stamps and the previous value of the line at a physical address stand. -/
def lineSide (pa : Nat) : Nat := pa / 65536 * 65536 + 65536 + 24 * (pa % 65536 / 8)

def State.lineAt (s : State) (pa : Nat) : Line :=
  let q := lineSide pa
  let n (a : Nat) : W64 := BitVec.ofNat 64 (s.phys64 a)
  ⟨n pa, n q, n (q + 8), n (q + 16)⟩

/-- An all-ones previous stamp marks the previous version absent. -/
def hasPrev (l : Line) : Bool := l.prevStamp != BitVec.allOnes 64

/-- R302: the line after a stamped store of `x` at `t`. -/
def commitLine (l : Line) (x t : W64) : Line :=
  if l.stamp.toNat ≤ t.toNat then ⟨x, t, l.stamp, l.value⟩
  else if !hasPrev l || l.prevStamp.toNat ≤ t.toNat then { l with prevStamp := t, prevValue := x }
  else l

/-- R305: what an as-of load at `t` reads: the value, and whether no version is old enough. -/
def asOfLine (l : Line) (t : W64) : W64 × Bool :=
  if l.stamp.toNat ≤ t.toNat then (l.value, false)
  else if hasPrev l && l.prevStamp.toNat ≤ t.toNat then (l.prevValue, false)
  else (0, true)

/-- A PTE of kind STAMPED, as a store to one sees it. -/
def stampedPte : W64 := 0x100

/-- Write a line back: the side data, and the current value where it changed. -/
def State.putLine (s : State) (pa : Nat) (old new : Line) : State :=
  let side := toBytes 8 new.stamp.toNat ++ toBytes 8 new.prevStamp.toNat ++ toBytes 8 new.prevValue.toNat
  let s := { s with mem := writeBytes s.mem (lineSide pa) side, clean := dirtied s.clean pa 8 }
  if new.stamp = old.stamp && new.value = old.value then s else s.storeAt stampedPte pa (toBytes 8 new.value.toNat)

/-! ## VSTC and VLDA (R305) -/

/-- The checks that VSTC and VLDA share, up to STAMP_AHEAD; the state the fault leaves, if one fails. -/
def State.stampChecks (s : State) (accs : List (Nat × W64)) (access : Nat) (t : W64) : Option State :=
  match s.laneChecks accs 8 access with
  | some t => some t
  | none =>
    let u := s.die s.myDie
    if dieWideNow s.myLaunch.ilim u then some (s.laneFault 0x0C 0 0)
    else if stampAhead u t then some (s.laneFault 0x0D 0 0)
    else none

/-- The width limit of a die: the lowest $ILIM among those of the launches whose stores it has queued, which were admitted under
it; with none queued the present setting (R14, R300, log 26). -/
def State.wideLimit (s : State) (d : Die) : Nat :=
  d.queue.foldl (fun n q => min n (s.launch q.launch).ilim)
    (match d.queue with | q :: _ => (s.launch q.launch).ilim | [] => s.mgmt.settings.ilim)

/-- The error bank of a die's stamp unit (R354). -/
def stampBank (die : Nat) : Nat := die * 256 + if die < 4 then 53 else 19

/-- R300: the unit notes whether the die is wide; one that becomes wide while it holds queued stores records WIDE_PENDING. It is
noted whenever the interval, the time or the queue of the die changes. -/
def State.noteWide (s : State) (die : Nat) : State :=
  match kGet? s.dies die with
  | none => s
  | some d =>
    let now := dieWideNow (s.wideLimit d) d
    if now = d.wide then s
    else
      let s := s.setDie die { d with wide := now }
      if now && !d.queue.isEmpty then s.bankError (stampBank die) 4 0x0012 0 else s

/-- Stamped stores of an instruction of a die wait for room in its queue. -/
def State.stampsWait (s : State) (die : Nat) : Bool :=
  s.warps.any fun e => (s.block e.2.block).pcore / 44 == die &&
    (e.2.path0.outs ++ e.2.path1.outs).any fun j => !j.stamps.isEmpty

/-- The stores of the first outstanding instruction of a path that waits for room, and the path without them. -/
def takeStamps : List Outst → Option (List Stamped × List Outst)
  | [] => none
  | j :: t =>
    if j.stamps.isEmpty then (takeStamps t).map fun (q, t) => (q, j :: t)
    else some (j.stamps, { j with stamps := [] } :: t)

/-- The stores of path `p` of a warp that wait for room join the queue of their die if they all fit. -/
def State.joinQueue (s : State) (die w p : Nat) : State :=
  let x := s.warp w
  let q := warpPath x p
  match takeStamps q.outs with
  | none => s
  | some (qs, outs) =>
    let d := s.die die
    if (s.block x.block).pcore / 44 ≠ die || d.queue.length + qs.length > 4096 then s
    else (s.setDie die { d with queue := d.queue ++ qs }).setWarp w (setPath x p { q with outs := outs })

/-- VSTC (R305): its checks passed, it is outstanding until every active lane's store has joined the commit queue, which waits
while the queue has no room for them or earlier ones wait. -/
def opVstc (f : LaneF) (s : State) : State :=
  s.memRun (regsOf true f.va ++ regsOf true f.vb) (guardMask f) fun s =>
    let x := s.me
    let t := areg x (f.ctlN 0 3)
    let accs := laneAccs x s.cur.path f
    match s.stampChecks accs 4 t with
    | some t => t
    | none =>
      match s.laneGot accs 8 4 false (fun _ _ => blankPacket) (fun _ _ => none) with
      | .stop t => t
      | .go here _ _ =>
        let u := s.die s.myDie
        let new := here.map fun (l, a, pa, _) =>
          (⟨x.launch, x.block, x.widx, s.myCtx, a, pa, vpair x f.vb.toNat l, t, laneId x l, x.issuedL + 1⟩ : Stamped)
        if u.queue.length + new.length > 4096 || s.stampsWait s.myDie then
          s.laneLong { outst f.la.toNat [] [] [] [] with stamps := new }
        else ((s.setDie s.myDie { u with queue := u.queue ++ new }).noteWide s.myDie).laneLong (outst f.la.toNat [] [] [] [])
def execVstc (f : LaneF) (s : State) : Host.Outcome State Fault Refusal := .next (opVstc f s)

/-- VLDA (R305): it is outstanding, and AS_OF_WAIT_END reads its lanes once the wait is over. -/
def opVlda (f : LaneF) (s : State) : State :=
  let m := f.ctlN 3 4
  s.memRun (regsOf true f.vd ++ regsOf true f.va) (guardMask f ++ maskD m) fun s =>
    let x := s.me
    let t := areg x (f.ctlN 0 3)
    let accs := laneAccs x s.cur.path f
    match s.stampChecks accs 5 t with
    | some t => t
    | none =>
      match s.laneGot accs 8 5 false (fun _ _ => blankPacket) (fun _ _ => none) with
      | .stop t => t
      | .go here _ _ =>
        s.laneLong { outst f.la.toNat (regsOf true f.vd) (maskD m) [] [] with
          asOf := some ⟨t, here.map fun (l, a, _, _) => (l, a), f.vd.toNat, m⟩ }
def execVlda (f : LaneF) (s : State) : Host.Outcome State Fault Refusal := .next (opVlda f s)

/-- A sector of a line's value, of its stamps or of its previous value is poisoned (R143, R301). -/
def State.linePoisoned (s : State) (pa : Nat) : Bool := s.poisoned pa 8 || s.poisoned (lineSide pa) 24

/-- AS_OF_WAIT_END (R305): the wait is over; the lanes whose lines are not poisoned are read, the others are reported and
read again after repair (R143). Its pages stay where they are: a move of one waits for it (R292). -/
def opAsOfWaitEnd (w p k : Nat) (s : State) : State :=
  let x := s.warp w
  let q := warpPath x p
  let b := s.block x.block
  let l := s.launch x.launch
  match q.outs[k]? with
  | none => s
  | some j =>
    match j.asOf with
    | none => s
    | some a =>
      if p > 1 || dieE (s.die (b.pcore / 44)) ≤ a.t.toNat + l.ilim then s
      else
        let place (va : W64) : Option Nat := match s.checkHeld l.ctx va 5 with
          | .here pa _ => if s.linePoisoned pa then none else some pa
          | _ => none
        let j' := a.lanes.foldl (fun (j : Outst) (ln, va) =>
          match place va with
          | some pa =>
            let (v, miss) := asOfLine (s.lineAt pa) a.t
            { j with
              writes := j.writes ++ resultW true a.vd ln v.toNat
              maskWrites := j.maskWrites ++ [⟨a.mask, 1#32 <<< ln, if miss then 1#32 <<< ln else 0⟩] }
          | none => j) j
        let left := a.lanes.filter fun e => (place e.2).isNone
        let j' := { j' with asOf := if left.isEmpty then none else some { a with lanes := left } }
        let s := s.setWarp w (setPath x p { q with outs := setAt q.outs k j' })
        left.foldl (fun s e =>
          match s.checkHeld l.ctx e.2 5 with
          | .here _ _ => s.reportPoison (streamKey w p) 0 (b.pcore / 44) x.launch e.2 (warpWid b x.widx)
          | _ => s) s
def execAsOfWaitEnd (w p k : Nat) (s : State) : Host.Outcome State Fault Refusal := .next (opAsOfWaitEnd w p k s)

/-! ## The commit queue (R303) -/

/-- The store that commits next: the lowest stamp, the earliest of equals. -/
def nextCommit (q : List Stamped) : Option Stamped :=
  q.foldl (fun best e => match best with
    | none => some e
    | some b => if e.stamp.toNat < b.stamp.toNat then some e else some b) none

/-- STAMPED_COMMIT (R302, R303): the store commits once the die's E, but for the queue, exceeds its stamp; its digest
term counts at that moment (R345), in the block's saved state where it has been saved meanwhile. Stores that wait for room join the
queue. -/
def opStampedCommit (die : Nat) (s : State) : State :=
  match kGet? s.dies die with
  | none => s
  | some d =>
    match nextCommit d.queue with
    | none => s
    | some q =>
      if rawE d ≤ q.stamp.toNat then s
      else
        let s := s.setDie die { d with queue := d.queue.erase q }
        let old := s.lineAt q.pa
        let s := (s.putLine q.pa old (commitLine old q.data q.stamp)).noteGated (some q.launch) false q.pa 8
        let term (b : Block) : Block := blockTerms b q.widx q.id q.va (toBytes 8 q.data.toNat)
        let s := if (kGet? s.blocks q.block).isSome then s.modBlock q.block term
          else if (kGet? s.eng.launches q.launch).isNone then s
          else s.modLaunch q.launch fun l => { l with
            saved := l.saved.map fun c => if c.key == q.block then { c with block := term c.block } else c }
        ((s.warps.map (·.1)).foldl (fun s w => (s.joinQueue die w 0).joinQueue die w 1) s).noteWide die
def execStampedCommit (die : Nat) (s : State) : Host.Outcome State Fault Refusal := .next (opStampedCommit die s)

/-! ## Intervals (R296 to R300) -/

/-- The reset interval, anchored at the present count (R296); no narrowing stands before it. -/
def resetInterval (d : Die) : Die := { d with e0 := 0, l0 := maxTime, c0 := d.count, narrows := [] }

/-- A narrowing is noted: the last two are compared (R297). -/
def noteNarrow (d : Die) : Die := { d with narrows := (d.c0, d.e0, d.l0) :: d.narrows.take 1 }

/-- The rates that two successive narrowings imply reach beyond 20 ppm: true time has gone on by at least the distance of the
nearer ends of their intervals and at most by that of the farther ones (R297). -/
def ratesBeyond (d : Die) : Bool :=
  match d.narrows with
  | [(c2, e2, l2), (c1, e1, l1)] =>
    let n : Int := (c2 - c1 : Nat)
    (n * 50001 < ((l2 : Int) - e1) * 50000) || (((e2 : Int) - l1) * 50000 < n * 49999)
  | _ => false

/-- DIE_WIDE (R300). -/
def opDieWide (die : Nat) (s : State) : State := s.noteWide die
def execDieWide (die : Nat) (s : State) : Host.Outcome State Fault Refusal := .next (opDieWide die s)

/-- A die's synchronisation partners: `256 + d` is die `d` of the package, a smaller number an Urxis link of an I/O die, link 6
of IO0 being the host's (R1, R298). -/
def partnerOk (die link : Nat) : Bool :=
  if link ≥ 256 then link < 262 && link != 256 + die
  else if die = 4 then link < 7
  else die == 5 && 16 ≤ link && link < 22

/-- The minimum latency λ of a partner's link (R391, log 2). -/
def State.latencyOf (s : State) (die link : Nat) : Nat :=
  let key := if link ≥ 256 then 256 + 8 * min die (link - 256) + max die (link - 256) else link
  (kGet? s.mgmt.settings.latency key).getD 1

/-- The ends of a partner of a die. -/
def syncEnd (d : Die) (link : Nat) : SyncEnd := (kGet? d.sync link).getD ⟨0, 0, [], none⟩

/-- The 32 bytes of a synchronisation message (R298). -/
def syncBytes (m : SyncMsg) : List Byte :=
  toBytes 8 m.e.toNat ++ toBytes 8 m.l.toNat ++ toBytes 2 m.seq.toNat ++ toBytes 2 m.echo.toNat ++
    toBytes 4 m.hold.toNat ++ toBytes 4 (m.device.toNat + m.die.toNat * 4096) ++ toBytes 4 0

/-- SYNC_SEND (R298): a message to a die of the package, or over an Urxis link that is up. -/
def opSyncSend (die link : Nat) (s : State) : State :=
  match kGet? s.dies die with
  | none => s
  | some d =>
    let e := syncEnd d link
    let up := link ≥ 256 || (let l := kGet s.fab.links link; !l.dead && !l.retraining)
    if !partnerOk die link || !up || d.count < e.due then s
    else
      let m : SyncMsg := ⟨BitVec.ofNat 64 (dieE d), BitVec.ofNat 64 (dieL d), e.next,
        match e.last with | some (q, _) => BitVec.ofNat 16 q | none => 0xFFFF,
        match e.last with | some (_, c) => BitVec.ofNat 32 (d.count - c) | none => 0,
        BitVec.ofNat 12 s.mgmt.settings.deviceId, BitVec.ofNat 3 die⟩
      let e := { e with
        next := e.next + 1
        due := d.count + 10000
        sent := (e.sent.filter fun q => q.1 != e.next.toNat) ++ [(e.next.toNat, d.count)] }
      let s := s.setDie die { d with sync := kSet d.sync link e }
      if link ≥ 256 then
        let peer := link - 256
        s.setDie peer { s.die peer with inbox := (s.die peer).inbox ++ [(256 + die, m)] }
      else
        let l := kGet s.fab.links link
        let l := { l with sendq := l.sendq ++ [⟨3, 0, syncBytes m ++ List.replicate 32 0, 0⟩] }
        { s with fab := { s.fab with links := kSet s.fab.links link l } }
def execSyncSend (die link : Nat) (s : State) : Host.Outcome State Fault Refusal := .next (opSyncSend die link s)

/-- R299: narrow a die's interval by a message over a link of minimum latency `lat`; none where it conflicts. Each quantity is
exact and then held to the range of R296. -/
def narrowBy (d : Die) (e : SyncEnd) (lat : Nat) (m : SyncMsg) : Option Die :=
  let e' : Nat := min maxTime (max (rawE d) (m.e.toNat + lat))
  let hi : Nat := match e.sent.find? fun q => q.1 == m.echo.toNat && q.1 != 0xFFFF with
    | some (_, a) =>
      let rtt : Nat := d.count - a
      let hold : Nat := m.hold.toNat
      let up : Nat := min maxTime (rtt + (rtt + 49999) / 50000 - (hold - (hold + 49999) / 50000) - lat)
      min (dieL d) (m.l.toNat + up)
    | none => dieL d
  if Nat.blt hi e' then none
  else some { d with e0 := e', l0 := hi, c0 := d.count }

/-- SYNC_RECEIVE (R297, R299): the next message of the die's links; the host's reference messages reach IO0 over the host
link, as link 6. `drift` says that the unit finds its oscillator beyond 20 ppm by the narrowing that the message brings and the one
before, where the rates that they imply reach beyond: the spec gives no formula that picks one of these (log 26). The record of RATE
bears the time before the interval is discarded. -/
def opSyncReceive (die : Nat) (drift : Bool) (s : State) : State :=
  match kGet? s.dies die with
  | none => s
  | some d =>
    match d.inbox with
    | [] => s
    | (link, m) :: t =>
      let e := syncEnd d link
      let d := { d with inbox := t, sync := kSet d.sync link { e with last := some (m.seq.toNat, d.count) } }
      match narrowBy d e (s.latencyOf die link) m with
      | none => (s.setDie die d).bankError (stampBank die) 4 0x0011 0
      | some d =>
        let d := noteNarrow d
        if drift && ratesBeyond d then
          (((s.setDie die d).bankError (stampBank die) 4 0x0010 0).setDie die (resetInterval d)).noteWide die
        else (s.setDie die d).noteWide die
def execSyncReceive (die : Nat) (drift : Bool) (s : State) : Host.Outcome State Fault Refusal :=
  .next (opSyncReceive die drift s)

end Sys2Proof.Machine
end

