-- ==== Sys2Proof/Machine/Fabric.lean ====
section
/-! DEFINITION. The fabric: flits and links, versioned routing, end-to-end streams, import checks and GRANT
(R308 to R318). -/

namespace Sys2Proof.Machine

/-! ## Packets and flits (R308, R309) -/

/-- The 64 bytes of a header flit's payload. -/
def packetHeader (p : Packet) : List Byte :=
  toBytes 2 (p.dst + p.ver * 4096) ++ toBytes 2 p.src ++ toBytes 1 p.op ++ toBytes 1 (dataFlits p) ++ toBytes 2 p.len ++
    toBytes 8 p.addr.toNat ++ toBytes 4 p.sseq ++ toBytes 4 p.rseq ++ toBytes 8 p.key.toNat ++ toBytes 8 p.operand.toNat ++
    toBytes 8 p.compare.toNat ++ toBytes 1 p.aop ++ toBytes 1 p.code ++ toBytes 1 p.size ++ toBytes 13 0

/-- Bytes filled up with zeros to the 64 of a flit's payload. -/
def pad64 (bs : List Byte) : List Byte := bs ++ List.replicate (64 - bs.length) 0

/-- The bytes of a packet as they travel: those it came with, for one that came over a link, else its header and its payload. -/
def packetBytes (p : Packet) : List Byte :=
  if p.raw.isEmpty then packetHeader p ++ p.data ++ List.replicate (64 * dataFlits p - p.data.length) 0 else p.raw

/-- The flits of a packet, their sequence numbers still to be given. -/
def packetFlits (p : Packet) : List Flit :=
  let bs := packetBytes p
  ⟨1, 0, pad64 (bs.take 64), p.req⟩ ::
    (List.range ((bs.length + 63) / 64 - 1)).map fun i => ⟨2, 0, pad64 ((bs.drop (64 * (i + 1))).take 64), p.req⟩

/-- A combination of op, flags and size that aop defines (R309). -/
def aopOk (aop size : Nat) : Bool :=
  let op := aop % 8
  let uns := bitN aop 3 == 1
  let flt := bitN aop 4 == 1
  aop < 32 && (size == 2 || size == 3) && (!uns || op == 4 || op == 5) && (!flt || op == 1 || op == 4 || op == 5) &&
    !(uns && flt)

/-- The header keeps the layout of R309. -/
def headerOk (h : List Byte) : Bool :=
  let op := fieldN h 4 1
  let len := fieldN h 6 2
  let carries := op == 0 || op == 2 || op == 4
  let answers := op == 2 || op == 4 || op == 5 || op == 6
  let cas := op == 3 && fieldN h 48 1 % 8 == 6
  op ≤ 6 && fieldN h 2 2 < 4096 && len ≤ 256 &&
    (if carries then fieldN h 5 1 == (len + 63) / 64 else fieldN h 5 1 == 0) && (carries || op == 1 || len == 0) &&
    (!answers || fieldN h 8 8 == 0) && (answers || fieldN h 20 4 == 0) && (op == 3 || fieldN h 32 8 == 0) &&
    (cas || fieldN h 40 8 == 0) && (if op = 3 then aopOk (fieldN h 48 1) (fieldN h 50 1) else fieldN h 48 1 == 0) &&
    (op == 6 || fieldN h 49 1 == 0) && fieldN h 50 1 ≤ 3 && fieldN h 51 13 == 0

/-- The packet that a header and the payload after it carry. -/
def parsePacket (bs : List Byte) (via : Nat) : Packet :=
  let n (lo k : Nat) : W64 := BitVec.ofNat 64 (fieldN bs lo k)
  let len := fieldN bs 6 2
  ⟨fieldN bs 0 2 % 4096, fieldN bs 0 2 / 4096, fieldN bs 2 2 % 4096, fieldN bs 4 1, len, n 8 8, fieldN bs 16 4,
    fieldN bs 20 4, n 24 8, n 32 8, n 40 8, fieldN bs 48 1, fieldN bs 49 1, fieldN bs 50 1, (bs.drop 64).take len,
    !headerOk (bs.take 64), via, 0, bs, 0⟩

/-! ## Records of the fabric -/

def State.link (s : State) (l : Nat) : Link := kGet s.fab.links l
def State.setLink (s : State) (l : Nat) (x : Link) : State := { s with fab := { s.fab with links := kSet s.fab.links l x } }
def State.router (s : State) (r : Nat) : Router := kGet s.fab.routers r
def State.setRouter (s : State) (r : Nat) (x : Router) : State :=
  { s with fab := { s.fab with routers := kSet s.fab.routers r x } }
/-- The present count of an I/O die, by its links' numbers: IO0 holds 0 to 6, IO1 holds 16 to 21. -/
def State.linkNow (s : State) (l : Nat) : Nat := (s.die (4 + l / 16)).count
/-- A peer link of a router. -/
def routerLinks (r : Nat) : List Nat := (List.range 6).map (16 * r + ·)
/-- The identity of a link of this device (R312). -/
def State.linkId (s : State) (l : Nat) : LinkId := ⟨s.mgmt.settings.deviceId, l / 16, l % 16⟩

/-- The distinct jobs whose requests are listed. -/
def State.jobsOf (s : State) (reqs : List Nat) : List Nat :=
  (reqs.filterMap fun r => match kGet? s.fab.requests r with
    | some q => (match q.asker with | .job j => some j | _ => none)
    | none => none).dedup

/-- Change the jobs listed, where they still stand. -/
def State.eachJob (s : State) (js : List Nat) (f : Job → Job) : State :=
  js.foldl (fun s j => match kGet? s.jobs j with
    | some x => s.setJob j (f x)
    | none => s) s

/-- The flits that a job's packets are replayed in are counted to it (R215). -/
def State.countReplays (s : State) (reqs : List Nat) : State :=
  reqs.foldl (fun s r => s.eachJob (s.jobsOf [r]) fun j => { j with replays := min 0xFFFFFFFF (j.replays + 1) }) s

/-! ## Routing versions and link death (R311 to R313) -/

/-- The bytes of an advance flit: the version, then the dead link's device, I/O die and number. -/
def advanceFlit (ver : Nat) (id : LinkId) : Flit :=
  ⟨5, 0, pad64 (toBytes 2 ver ++ toBytes 2 id.device ++ toBytes 1 id.io ++ toBytes 1 id.link), 0⟩

/-- An advance goes out on every live link of a router, and to the other router of the package. -/
def State.flood (s : State) (r ver : Nat) (id : LinkId) : State :=
  let s := (routerLinks r).foldl (fun s l =>
    let x := s.link l
    if x.dead then s else s.setLink l { x with sendq := x.sendq ++ [advanceFlit ver id] }) s
  let o := s.router (1 - r)
  s.setRouter (1 - r) { o with advq := o.advq ++ [(ver, id)] }

/-- The streams that an I/O die owns (R314). -/
def State.ownStreams (s : State) (r : Nat) : List (Nat × OutStream) := s.fab.outs.filter fun e => ioOf e.1 == r

/-- The jobs listed see a routing version adopted, each version once, whichever of the two I/O dies adopts it first (R215). A
version that has fallen far behind is forgotten by every job, since the four bits wrap. -/
def State.countAdvance (s : State) (js : List Nat) (ver : Nat) : State :=
  let near (v : Nat) : Bool := (ver + 16 - v) % 16 ≤ 7 || (ver + 16 - v) % 16 ≥ 13
  let s := { s with jobs := kMap (fun _ (j : Job) => { j with advSeen := j.advSeen.filter near }) s.jobs }
  s.eachJob js fun j =>
    if j.advSeen.contains ver then j
    else { j with advances := min 255 (j.advances + 1), advSeen := j.advSeen ++ [ver] }

/-- A router takes a version and a dead link: the table of the version before is no longer its table, a new one is computed, and
the jobs with packets unacknowledged on its die see the advance (R215, R312, R313). -/
def State.adopt (s : State) (r ver : Nat) (id : LinkId) : State :=
  let x := s.router r
  let s := s.setRouter r { x with
    version := ver, dead := if x.dead.contains id then x.dead else x.dead ++ [id], table := [], recomputing := true }
  let reqs := (s.ownStreams r).flatMap fun e => e.2.unacked.map fun u => u.pkt.req
  (s.countAdvance (s.jobsOf reqs) ver).flood r ver id

/-- A link is dead (R311). The death of a peer link advances its router; that of the host link does not (R319). -/
def State.linkDies (s : State) (l : Nat) : State :=
  let s := s.setLink l { s.link l with
    dead := true, retraining := false, resend := [], resendAt := none, sendq := [], retry := [] }
  if l = 6 then s else s.adopt (l / 16) (((s.router (l / 16)).version + 1) % 16) (s.linkId l)

/-- ADVANCE_RECEIVE (R313). -/
def opAdvanceReceive (r : Nat) (s : State) : State :=
  match kGet? s.fab.routers r with
  | none => s
  | some x =>
    match x.advq with
    | [] => s
    | (ver, id) :: t =>
      let s := s.setRouter r { x with advq := t }
      let d := (ver + 16 - x.version) % 16
      if 1 ≤ d && d ≤ 7 then s.adopt r ver id
      else if !x.dead.contains id then s.adopt r ((x.version + 1) % 16) id
      else s
def execAdvanceReceive (r : Nat) (s : State) : Host.Outcome State Fault Refusal := .next (opAdvanceReceive r s)

/-- The requests of the flits that a replay of a stream sends again; a packet that no link has had is none of them (R215). -/
def replayedFlits (o : OutStream) : List Nat :=
  (o.unacked.filter fun u => !u.fresh).flatMap fun u => List.replicate (1 + dataFlits u.pkt) u.pkt.req

/-- Send the unacknowledged packets of a stream again, with the router's version (R314). -/
def State.replayStream (s : State) (dst : Nat) : State :=
  let o := kGet s.fab.outs dst
  let r := ioOf dst
  let x := s.router r
  let now := (s.die (4 + r)).count
  let again := o.unacked.map fun u => ({ pkt := { u.pkt with ver := x.version }, sentAt := now, fresh := false } : Unacked)
  let s := (s.setRouter r { x with inq := x.inq ++ again.map (·.pkt) })
  { s with fab := { s.fab with outs := kSet s.fab.outs dst { o with unacked := again } } }

/-- The link of this device by which a route leaves it: none where a link of the route is dead, or the route does not begin
here. -/
def routeLink (own : Nat) (dead : List LinkId) (route : List (Nat × Nat × Nat)) : Option Nat :=
  match route with
  | (dv, io, l) :: _ =>
    if dv = own && io < 2 && l < 6 && route.all (fun (d, i, k) => !dead.contains ⟨d, i, k⟩) then some (16 * io + l) else none
  | [] => none

/-- ROUTE_RECOMPUTE (R313): the fabric manager's table, from the topology it knows, less the dead set: `routes` gives for each
destination the links of the route it knows, and one that uses a dead link is left out. A stream leaves the device on the I/O die
that owns it, so that die takes only a route that begins on a link of its own (R314). Then the die's unacknowledged packets are
replayed under the new version. -/
def opRouteRecompute (r : Nat) (routes : List (List (Nat × Nat × Nat))) (s : State) : State :=
  match kGet? s.fab.routers r with
  | none => s
  | some x =>
    if !x.recomputing then s
    else
      let t : KMap Nat := (List.range (min routes.length 4096)).filterMap fun d =>
        ((routeLink s.mgmt.settings.deviceId x.dead (routes.getD d [])).filter fun l => ioOf d != r || l / 16 == r).map fun l =>
          (d, l)
      let s := s.setRouter r { x with table := t, recomputing := false }
      (s.ownStreams r).foldl (fun s e =>
        (s.countReplays (replayedFlits e.2)).replayStream e.1) s
def execRouteRecompute (r : Nat) (routes : List (List (Nat × Nat × Nat))) (s : State) : Host.Outcome State Fault Refusal :=
  .next (opRouteRecompute r routes s)

/-- PACKET_FORWARD (R312): a packet of another version is discarded; one for this device goes to the I/O die of its
stream; another leaves by the link of the table, unchanged, and waits while the table is being computed (R313). -/
def opPacketForward (r : Nat) (s : State) : State :=
  match kGet? s.fab.routers r with
  | none => s
  | some x =>
    match x.inq with
    | [] => s
    | p :: t =>
      let s := s.setRouter r { x with inq := t }
      if p.ver ≠ x.version then s
      else if p.dst = s.mgmt.settings.deviceId then
        let io := ioOf p.src
        let y := s.router io
        s.setRouter io { y with rxq := y.rxq ++ [p] }
      else if x.recomputing then s.setRouter r x
      else match kGet? x.table p.dst with
        | none => s
        | some l =>
          let y := s.link l
          if y.dead then s else s.setLink l { y with sendq := y.sendq ++ packetFlits p }
def execPacketForward (r : Nat) (s : State) : Host.Outcome State Fault Refusal := .next (opPacketForward r s)

/-! ## The link layer (R310, R311) -/

/-- The 72 bytes of a flit as a link sends it with a sequence number (R308): it carries the NAK that is due, naming the expected
number, else the acknowledgement that is due, of the number before; an idle flit carries that whenever no NAK is due. -/
def flitWire (x : Link) (ty seq : Nat) (payload : List Byte) : List Byte :=
  let ackDue := x.ackDue || ty == 0
  let av := x.nakDue || ackDue
  let ack := if x.nakDue then x.expected % 4096 else if ackDue then (x.expected + 4095) % 4096 else 0
  let low := seq % 4096 + ty % 16 * 2 ^ 12 + ack * 2 ^ 16 + (if av then 2 ^ 28 else 0) + (if x.nakDue then 2 ^ 29 else 0)
  let bs := pad64 payload ++ toBytes 4 low
  bs ++ toBytes 4 (crc32c bs).toNat

/-- The idle flit a link sends: it repeats the last sequence number sent. -/
def idleWire (x : Link) : List Byte := flitWire x 0 ((x.next + 4095) % 4096) []

/-- LINK_FLIT_SEND (R310): a flit to be replayed, else the next new one while the retry buffer has room, else an idle flit; each
carries the acknowledgement or NAK that is due. -/
def opLinkFlitSend (l : Nat) (s : State) : State :=
  match kGet? s.fab.links l with
  | none => s
  | some x =>
    let sent (ty seq : Nat) (payload : List Byte) : Link :=
      { x with ackDue := false, nakDue := false, wire := flitWire x ty seq payload }
    let x' : Link := { x with ackDue := false, nakDue := false, wire := idleWire x }
    if x.dead || x.retraining then s
    else if x.resendAt.isSome then s.setLink l x'
    else match x.resend with
      | f :: t => (s.setLink l { sent f.ty f.seq f.payload with resend := t }).countReplays [f.req]
      | [] =>
        match x.sendq with
        | f :: t =>
          if x.retry.length ≥ 2048 then s.setLink l x'
          else s.setLink l { sent f.ty x.next f.payload with
            sendq := t
            next := (x.next + 1) % 4096
            retry := x.retry ++ [{ f with seq := x.next }]
            lastAccept := if x.retry.isEmpty then s.linkNow l else x.lastAccept }
        | [] => s.setLink l x'
def execLinkFlitSend (l : Nat) (s : State) : Host.Outcome State Fault Refusal := .next (opLinkFlitSend l s)

/-- The trailer of a flit (R308). -/
def flitTrailer (bs : List Byte) : Nat := fieldN bs 64 8

/-- A flit that is not in error (R308). -/
def flitOk (bs : List Byte) : Bool :=
  let t := flitTrailer bs
  bs.length == 72 && t / 2 ^ 32 == (crc32c (bs.take 68)).toNat && t / 2 ^ 30 % 4 == 0 && t / 2 ^ 12 % 16 ≤ 5

/-- Retry entries up to and with a sequence number are acknowledged. -/
def ackTo (retry : List Flit) (seq : Nat) : List Flit :=
  match retry with
  | [] => []
  | f :: t => if t.any (fun g => g.seq == seq) then ackTo t seq else if f.seq = seq then t else f :: t

/-- Retry entries before a sequence number are acknowledged. -/
def ackBefore (retry : List Flit) (seq : Nat) : List Flit :=
  if retry.any (fun g => g.seq == seq) then retry.dropWhile (fun g => g.seq != seq) else ackTo retry ((seq + 4095) % 4096)

/-- What the ack field of a received flit does to the sender's side (R310). -/
def linkAck (x : Link) (trailer now : Nat) : Link :=
  let ack := trailer / 2 ^ 16 % 4096
  if bitN trailer 28 = 0 then x
  else if bitN trailer 29 = 0 then
    let r := ackTo x.retry ack
    if r.length < x.retry.length then
      { x with retry := r, backoff := 64, lastAccept := now, resend := x.resend.filter fun f => r.any fun g => g.seq == f.seq }
    else x
  else
    let r := ackBefore x.retry ack
    let freed := r.length < x.retry.length
    let b := if freed then 64 else x.backoff
    { x with
      retry := r
      backoff := min 1000 (2 * b)
      lastAccept := if freed then now else x.lastAccept
      resendAt := some (now + b)
      resend := r }

/-- An accepted flit's payload (R308, R309): a header or payload flit joins its packet, which enters the router when whole;
a sync flit goes to the I/O die's stamp unit; an advance flit to the router. Packets over the host link are the host's
accesses, which have steps of their own. -/
def State.flitIn (s : State) (l ty : Nat) (pay : List Byte) : State :=
  let x := s.link l
  let io := l / 16
  let whole (s : State) (bs : List Byte) : State :=
    if l = 6 then s else
    let y := s.router io
    s.setRouter io { y with inq := y.inq ++ [parsePacket bs (l % 16)] }
  match ty with
  | 1 =>
    let k := if headerOk pay then fieldN pay 5 1 else min 4 (fieldN pay 5 1)
    if k = 0 then whole (s.setLink l { x with rx := [], rxLeft := 0 }) pay else s.setLink l { x with rx := pay, rxLeft := k }
  | 2 =>
    if x.rxLeft = 0 then s
    else if x.rxLeft = 1 then whole (s.setLink l { x with rx := [], rxLeft := 0 }) (x.rx ++ pay)
    else s.setLink l { x with rx := x.rx ++ pay, rxLeft := x.rxLeft - 1 }
  | 3 =>
    let n (lo k : Nat) : Nat := fieldN pay lo k
    let m : SyncMsg := ⟨BitVec.ofNat 64 (n 0 8), BitVec.ofNat 64 (n 8 8), BitVec.ofNat 16 (n 16 2), BitVec.ofNat 16 (n 18 2),
      BitVec.ofNat 32 (n 20 4), BitVec.ofNat 12 (n 24 2), BitVec.ofNat 3 (n 25 1 / 16)⟩
    let d := s.die (4 + io)
    s.setDie (4 + io) { d with inbox := d.inbox ++ [(l, m)] }
  | 5 =>
    if l = 6 then s else
    let y := s.router io
    s.setRouter io { y with advq := y.advq ++
      [(fieldN pay 0 1 % 16, ⟨fieldN pay 2 2 % 4096, fieldN pay 4 1, fieldN pay 5 1⟩)] }
  | _ => s

/-- LINK_FLIT_RECEIVE (R310). -/
def opLinkFlitReceive (l : Nat) (bytes : List Byte) (bufferFull : Bool) (s : State) : State :=
  match kGet? s.fab.links l with
  | none => s
  | some x =>
    if x.dead || x.retraining then s
    else if !flitOk bytes then s.setLink l { x with nakDue := true, discarding := true }
    else
      let t := flitTrailer bytes
      let x := linkAck x t (s.linkNow l)
      let ty := t / 2 ^ 12 % 16
      if ty = 0 || ty = 4 then s.setLink l x
      else if t % 4096 ≠ x.expected then s.setLink l x
      else if bufferFull then s.setLink l { x with nakDue := true, discarding := true }
      else (s.setLink l { x with expected := (x.expected + 1) % 4096, discarding := false, ackDue := true }).flitIn l ty
        (bytes.take 64)
def execLinkFlitReceive (l : Nat) (bytes : List Byte) (bufferFull : Bool) (s : State) : Host.Outcome State Fault Refusal :=
  .next (opLinkFlitReceive l bytes bufferFull s)

/-- LINK_REPLAY (R310): the backoff has passed. -/
def opLinkReplay (l : Nat) (s : State) : State :=
  match kGet? s.fab.links l with
  | none => s
  | some x => match x.resendAt with
    | some t => if t ≤ s.linkNow l then s.setLink l { x with resendAt := none } else s
    | none => s
def execLinkReplay (l : Nat) (s : State) : Host.Outcome State Fault Refusal := .next (opLinkReplay l s)

/-- LINK_RETRAIN (R311). -/
def opLinkRetrain (l : Nat) (s : State) : State :=
  match kGet? s.fab.links l with
  | none => s
  | some x =>
    if x.dead || x.retraining then s
    else
      let s := s.setLink l { x with retraining := true, retrains := x.retrains + 1 }
      s.eachJob (s.jobsOf (x.retry.map (·.req))) fun j => { j with retrains := min 255 (j.retrains + 1) }
def execLinkRetrain (l : Nat) (s : State) : Host.Outcome State Fault Refusal := .next (opLinkRetrain l s)

/-- The widest aligned group of working lanes, the lower-numbered of equals: its width and its lowest lane; width 0 where no
lane works. -/
def widest (working : Nat) : Nat × Nat :=
  (([16, 8, 4, 2, 1] : List Nat).findSome? fun w =>
    ((List.range (16 / w)).find? fun g => (List.range w).all fun i => bitN working (g * w + i) == 1).map fun g =>
      (w, g * w)).getD (0, 0)

/-- The link minimum width in force (R14): running launches keep the value that they were admitted under, and a link carries the
packets of all of them, so it is the least of theirs; with no launch running it is the present setting (DESIGN CHOICE, log 46). -/
def State.minWidth (s : State) : Nat :=
  match (s.eng.launches.filter fun l => l.2.minWidth != 0 && !l.2.complete).map (·.2.minWidth) with
  | [] => s.mgmt.settings.minWidth
  | w :: t => t.foldl min w

/-- The links narrower than the link minimum width in force count as dead (R14, R311). -/
def State.sweepLinks (s : State) : State :=
  (s.fab.links.filter fun e => !e.2.dead && !e.2.retraining).foldl (fun s e =>
    if (s.link e.1).width < s.minWidth then s.linkDies e.1 else s) s

/-- RETRAIN_COMPLETE (R311): `working` is the mask of the lanes that work. The 50 µs without an acceptance run on; each side tells
the other what it has accepted. -/
def opRetrainComplete (l working : Nat) (ok : Bool) (s : State) : State :=
  match kGet? s.fab.links l with
  | none => s
  | some x =>
    if !x.retraining || x.dead then s
    else if !ok then
      if x.failures + 1 ≥ 3 then s.linkDies l else s.setLink l { x with failures := x.failures + 1 }
    else
      let (w, lane) := widest working
      if w < s.minWidth then s.linkDies l
      else s.setLink l { x with
        width := w, lane := lane, retraining := false, failures := 0, resend := x.retry, resendAt := none, ackDue := true }
def execRetrainComplete (l working : Nat) (ok : Bool) (s : State) : Host.Outcome State Fault Refusal :=
  .next (opRetrainComplete l working ok s)

/-- LINK_DEAD_TIMEOUT (R311): flits are pending and none has been accepted for 50 µs. -/
def opLinkDeadTimeout (l : Nat) (s : State) : State :=
  match kGet? s.fab.links l with
  | none => s
  | some x => if x.dead || x.retry.isEmpty || s.linkNow l < x.lastAccept + 50000 then s else s.linkDies l
def execLinkDeadTimeout (l : Nat) (s : State) : Host.Outcome State Fault Refusal := .next (opLinkDeadTimeout l s)

/-! ## End-to-end streams (R314, R315) -/

/-- An end-to-end acknowledgement: a packet of the reverse stream, kept and replayed as any other (R315, log 27). -/
def State.sendAck (s : State) (dst last : Nat) : State := s.inject { blankPacket with dst := dst, op := 5, rseq := last }

/-- The stream from a source; one from which nothing has come stands at 0. -/
def State.inStream (s : State) (src : Nat) : InStream := (kGet? s.fab.ins src).getD ⟨0, [], none, 0⟩
def State.setInStream (s : State) (src : Nat) (q : InStream) : State :=
  { s with fab := { s.fab with ins := kSet s.fab.ins src q } }

/-- Sequence numbers are compared modulo 2^32: how far `a` stands after `b`. -/
def seqAfter (a b : Nat) : Nat := (a + 2 ^ 32 - b) % 2 ^ 32

/-- PACKET_RECEIVE (R315): the next packet for an I/O die is held, or dropped as a duplicate or as beyond the window. -/
def opPacketReceive (io : Nat) (s : State) : State :=
  match kGet? s.fab.routers io with
  | none => s
  | some x =>
    match x.rxq with
    | [] => s
    | p :: t =>
      let s := s.setRouter io { x with rxq := t }
      let q := s.inStream p.src
      let d := seqAfter p.sseq q.base
      let prev := (q.base + 2 ^ 32 - 1) % 2 ^ 32
      if p.ver ≠ x.version then s
      else if d ≥ 2 ^ 31 || q.held.any (fun h => h.sseq == p.sseq) then s.sendAck p.src prev
      else if d ≥ 256 then s
      else
        let s := s.setInStream p.src { q with held := q.held ++ [p] }
        if d = 0 then s else s.sendAck p.src prev
def execPacketReceive (io : Nat) (s : State) : Host.Outcome State Fault Refusal := .next (opPacketReceive io s)

/-- The answer of a request, or its refusal, reaches what waits for it. -/
def ioAnswer (io : IoWait) (id : Nat) (bytes : Option (List Byte)) : IoWait :=
  match io.reqs.find? fun r => r.1 == id with
  | none => io
  | some (_, key, va) =>
    let io := { io with reqs := io.reqs.filter fun r => r.1 != id }
    match bytes with
    | some bs => { io with answers := io.answers ++ [(key, bs)] }
    | none => { io with refused := io.refused ++ [(key, va)] }

/-- The table of requests with one replaced; one that has been answered and acknowledged leaves it. -/
def State.setRequest (s : State) (id : Nat) (q : Request) : State :=
  { s with fab := { s.fab with requests :=
      if q.answered && q.acked then kErase s.fab.requests id else kSet s.fab.requests id q } }

/-- Every request of an asker has been answered. -/
def State.allAnswered (s : State) (a : Asker) : Bool := !s.requestsOf fun q => q.asker == a && !q.answered

/-- The first ring record of a host queue that is on its way has been written. -/
def ringWritten : List RingRec → List RingRec
  | [] => []
  | r :: t => if r.written = 1 then { r with written := 2 } :: t else r :: ringWritten t

/-- The completion record of a host queue has been written at its target (R327, R172). -/
def State.ringAnswered (s : State) (q : Nat) : State :=
  match kGet? s.eng.queues q with
  | some h => { s with eng := { s.eng with queues := kSet s.eng.queues q { h with pending := ringWritten h.pending } } }
  | none => s

/-- The answer of a request, or its refusal, is taken by the one that asked; one that has been answered keeps its answer. A
completion record or a signature that has reached its target lets its release follow (R172, R368, R396). -/
def State.answer (s : State) (id : Nat) (bytes : Option (List Byte)) : State :=
  match kGet? s.fab.requests id with
  | none => s
  | some q =>
    if q.answered then s else
    let s := s.setRequest id { q with answered := true }
    match q.asker with
    | .scalar w => match kGet? s.warps w with
      | some x => (match x.wait with
        | .io io => s.setWarp w { x with wait := .io (ioAnswer io id bytes) }
        | _ => s)
      | none => s
    | .lane w p => match kGet? s.warps w with
      | some x =>
        let y := warpPath x p
        (match y.io with
        | some io => s.setWarp w (setPath x p { y with io := some (ioAnswer io id bytes) })
        | none => s)
      | none => s
    | .job j => match kGet? s.jobs j with
      | some x => (s.setJob j { x with io := x.io.map fun io => ioAnswer io id bytes }).jobSent j id bytes.isNone
      | none => s
    | .chan b ch => if (kGet? s.blocks b).isNone then s else
        s.modChan b ch fun c => { c with io := c.io.map fun io => ioAnswer io id bytes }
    | .engine => { s with fab := { s.fab with reads := s.fab.reads.map fun r => if r.req == id then { r with got := some bytes } else r } }
    | .move k => match kGet? s.moves k with
      | some m => { s with moves := kSet s.moves k { m with io := m.io.map fun io => ioAnswer io id bytes } }
      | none => s
    | .record l => if s.allAnswered q.asker && (kGet? s.eng.launches l).isSome then s.modLaunch l fun x => { x with written := 2 } else s
    | .ring h => if s.allAnswered q.asker then s.ringAnswered h else s
    | .scan c => s.setCore c { s.core c with state := .isolated, signalled := false }
    | .flush _ | .replay _ _ | .none => s

/-- A request has been acknowledged; a write is thereby done (R314, log 27). -/
def State.acked (s : State) (u : Unacked) : State :=
  let id := u.pkt.req
  let s := if u.pkt.op = 0 then s.answer id (some []) else s
  match kGet? s.fab.requests id with
  | some q => s.setRequest id { q with acked := true }
  | none => s

/-- Packets that the full source retry buffer of an I/O die stalled are sent in their order while it has room (R314). -/
def State.drainWaiting (s : State) (r : Nat) : State :=
  (s.router r).waiting.foldl (fun s p =>
    match (s.router r).waiting with
    | h :: t => if h == p && s.retryRoom r p then (s.setRouter r { s.router r with waiting := t }).launchPacket p else s
    | [] => s) s

/-- The base of a stream has been performed: the window moves on and the source is told (R315). -/
def State.streamNext (s : State) (src : Nat) : State :=
  let q := s.inStream src
  (s.setInStream src ⟨(q.base + 1) % 2 ^ 32, q.held.filter fun h => h.sseq != q.base, none, 0⟩).sendAck src q.base

/-- The packet at the base of a stream, once it is held. -/
def baseOf (q : InStream) : Option Packet := q.held.find? fun h => h.sseq == q.base

/-- An acknowledgement. -/
def isAck (p : Packet) : Bool := p.op == 5 && !p.bad

/-- An acknowledgement from a device is performed: the packets up to the one that it names leave the retry buffer, and the jobs
among their askers note the version that it carries (R215, R314). -/
def State.ackTaken (s : State) (src : Nat) (p : Packet) : State :=
  match kGet? s.fab.outs src with
  | none => s
  | some o =>
    let (done, left) := o.unacked.partition fun u => seqAfter p.rseq u.pkt.sseq < 2 ^ 31
    let s := { s with fab := { s.fab with outs := kSet s.fab.outs src { o with unacked := left } } }
    let s := s.eachJob (s.jobsOf (done.map fun u => u.pkt.req)) fun j => { j with version := p.ver }
    (done.foldl State.acked s).drainWaiting (ioOf src)

/-- E2E_ACK_RECEIVE (R314, R315): the first stream of an I/O die whose base is an acknowledgement performs it. -/
def opE2eAckReceive (io : Nat) (s : State) : State :=
  match s.fab.ins.find? fun e => ioOf e.1 == io && (match baseOf e.2 with | some p => isAck p | none => false) with
  | none => s
  | some (src, q) => match baseOf q with
    | some p => (s.ackTaken src p).streamNext src
    | none => s
def execE2eAckReceive (io : Nat) (s : State) : Host.Outcome State Fault Refusal := .next (opE2eAckReceive io s)

/-- E2E_REPLAY_TIMEOUT (R314): the packet has had no acknowledgement for 100 µs. -/
def opE2eReplayTimeout (dst sseq : Nat) (s : State) : State :=
  match kGet? s.fab.outs dst with
  | none => s
  | some o =>
    let now := (s.die (4 + ioOf dst)).count
    if (s.router (ioOf dst)).recomputing || !(o.unacked.any fun u => u.pkt.sseq == sseq && now ≥ u.sentAt + 100000) then s
    else (s.countReplays (replayedFlits o)).replayStream dst
def execE2eReplayTimeout (dst sseq : Nat) (s : State) : Host.Outcome State Fault Refusal :=
  .next (opE2eReplayTimeout dst sseq s)

/-! ## Import checks and requests (R316, R317) -/

/-- The read-modify-write that an atomic packet asks for (R309). -/
def packetRmw (p : Packet) : Rmw :=
  let op := match p.aop % 8 with | 4 => 5 | 5 => 6 | 6 => 7 | 7 => 4 | k => k
  let uns := bitN p.aop 3
  let ty := if bitN p.aop 4 = 1 then (if p.size = 3 then 9 else 8) else (if p.size = 3 then 2 + uns else uns)
  ⟨op, ty, p.operand, p.compare⟩

/-- What the checks of a request give: a place, a refusal with the code its record carries, or a wait. -/
inductive ReqGot where
  | here (pa : Nat) (pte : W64)
  | refuse (code : Nat)
  | wait (s : State)
  deriving DecidableEq, Repr, Inhabited

/-- The checks of a request against an entry and then of R139 and R140 (R316), for `n` bytes at an offset. -/
def State.importGot (s : State) (e : Option Import) (key : W64) (anyKey : Bool) (off n access align : Nat) : ReqGot :=
  match e with
  | none => .refuse cIMPORT
  | some e =>
    let perm := match access with | 0 => e.r | 1 => e.w | _ => e.r && e.w && e.a
    if !e.valid || (!anyKey && (key ≠ e.key || key = 0)) || off + n > e.len || !perm then .refuse cIMPORT
    else
      let va := e.base + BitVec.ofNat 64 off
      match s.check e.ctx va access with
      | .bad c => if va.toNat % align ≠ 0 then .refuse cALIGN else .refuse c
      | .remote _ => .refuse cXLATE
      | .away => if va.toNat % align ≠ 0 then .refuse cALIGN else .wait (s.promote e.ctx va 0 0)
      | .here pa pte =>
        if va.toNat % align ≠ 0 then .refuse cALIGN
        else if access ≠ 1 && s.poisoned pa n then .wait s
        else .here pa pte

/-- A refused request is answered with an error response. -/
def State.refuse (s : State) (p : Packet) (code : Nat) : State :=
  s.inject { blankPacket with dst := p.src, op := 6, rseq := p.sseq, code := code }

/-- One packet at the base of a stream, other than an acknowledgement (R315, R316): a request is checked and performed, and
answered on the reverse stream; a response reaches what waits for it. A request that has to wait keeps the import entry that
it was checked under, and when that was (R318). -/
def State.performBase (s : State) (src : Nat) : State :=
  match kGet? s.fab.ins src with
  | none => s
  | some q =>
    match baseOf q with
    | none => s
    | some p =>
      if isAck p then s
      else if p.bad then (s.refuse p cOPERAND).streamNext src
      else if p.op = 2 || p.op = 4 || p.op = 6 then
        let mine := (s.fab.requests.find? fun r => r.2.dst == src && r.2.sseq == p.rseq).map (·.1)
        let s := match mine with
          | some id => s.answer id (if p.op = 6 then none else some p.data)
          | none => s
        s.streamNext src
      else
        let off := p.addr.toNat % 2 ^ 42
        let n := if p.op = 3 then 8 else p.len
        let access := match p.op with | 0 => 1 | 1 => 0 | _ => 2
        let k := p.addr.toNat / 2 ^ 42 % 1024
        let e := match q.checked with | some (_, e) => some e | none => kGet? s.fab.imports k
        match s.importGot e p.key false off n access (2 ^ p.size) with
        | .wait t => t.setInStream src { q with
            checked := e.map fun e => (k, e), since := if q.checked.isSome then q.since else s.nextId }
        | .refuse code =>
          let s := s.logFrom src (4 + ioOf src) p.addr 5 code ((Config.freeWord s.draws).toNat % 2 ^ 32) p.via access n
          (({ s with draws := s.draws + 1 }).refuse p cIMPORT).streamNext src
        | .here pa pte =>
          let back (bs : List Byte) (op : Nat) (s : State) : State :=
            s.inject { blankPacket with dst := src, op := op, rseq := p.sseq, len := bs.length, data := bs }
          match p.op with
          | 0 => ((s.storeAt pte pa p.data).noteGated none false pa p.data.length).streamNext src
          | 1 => (back (readBytes s.mem pa n) 2 s).streamNext src
          | _ =>
            let r := packetRmw p
            let k := rmwBytes r.ty
            let old := readBytes s.mem pa k
            let s := match rmwNew r (BitVec.ofNat 64 (ofBytes old)) with
              | some v => s.storeAt pte pa (toBytes k v.toNat)
              | none => s
            (back old 4 (s.noteGated none true pa k)).streamNext src

/-- The base of a stream is an atomic on the same address as the one before it. -/
def sameAtomic (q : InStream) (p : Packet) : Bool :=
  match baseOf q with
  | some n => n.op == 3 && !n.bad && n.addr == p.addr
  | none => false

/-- The lanes of its instruction that follow a packet on the same location are held too (R144). -/
def runHeld (q : InStream) (p : Packet) : Bool :=
  (List.range p.more).all fun i => q.held.any fun h => h.sseq == (q.base + 1 + i) % 2 ^ 32

/-- Perform the base of a stream and, after an atomic, the atomics on its address that are held behind it: lanes of one
instruction on one location stay together (R144). An atomic with lanes still to come waits for them, where the packet says so; no
bit of the header can (log 27). -/
def State.performRun (s : State) (src : Nat) : Nat → State
  | 0 => s
  | n + 1 => match (s.inStream src |> baseOf) with
    | some p =>
      if !runHeld (s.inStream src) p then s else
      let t := s.performBase src
      if p.op = 3 && !p.bad && (t.inStream src).base ≠ (s.inStream src).base && sameAtomic (t.inStream src) p then
        t.performRun src n
      else t
    | none => s

/-- REQUEST_PERFORM (R315, R316): the packet at the base of a stream, once held; the window holds at most 256. -/
def opRequestPerform (src : Nat) (s : State) : State := s.performRun src 256
def execRequestPerform (stream : Nat) (s : State) : Host.Outcome State Fault Refusal := .next (opRequestPerform stream s)

/-! ## GRANT (R318) -/

/-- An entry image that keeps R317, for an image with valid set. -/
def importOk (img : List Byte) : Bool :=
  fieldN img 0 8 % 256 == 0 && fieldN img 0 8 < 2 ^ 56 && 1 ≤ fieldN img 8 8 && fieldN img 8 8 ≤ 2 ^ 42

/-- The lowest entry that is not valid. -/
def State.freeImport (s : State) : Option Nat :=
  (List.range 1024).find? fun i => match kGet? s.fab.imports i with
    | some e => !e.valid
    | none => true

/-- A request waits that was checked under import entry `k` before its write at request number `t` (R318). -/
def State.oldChecked (s : State) (k t : Nat) : Bool :=
  s.fab.ins.any fun e => match e.2.checked with
    | some (i, _) => i == k && e.2.since ≤ t
    | none => false

/-- GRANT has written entry `k` at request number `t`: it waits for the requests checked under the old one, and then returns the
index. -/
def State.granted (s : State) (d : BitVec 6) (k t : Nat) : State :=
  if s.oldChecked k t then s.setMe { s.me with wait := .grant k t }
  else s.scalarDone d (BitVec.ofNat 64 k)

/-- GRANT (R318). -/
def opGrant (d a b : BitVec 6) (s : State) : State :=
  let x := s.me
  let va := sreg x a
  let i := sreg x b
  let ones : W64 := BitVec.allOnes 64
  match x.wait with
  | .grant k t => s.granted d k t
  | _ =>
  s.needPriv
    (if sregWait x [d, a, b] then s
     else if i.toNat > 1023 && i != ones then s.scalarFault cOPERAND 0 0
     else if va.toNat % 32 ≠ 0 then s.scalarFault cALIGN va 0
     else match s.recordGot va 32 0 0 [] with
      | .stop t => t
      | .bytes img =>
        let valid := bitN (fieldN img 28 1) 0 == 1
        if fieldN img 24 4 ≠ 0 || fieldN img 28 1 ≥ 16 || fieldN img 29 3 ≠ 0 || (valid && !importOk img) then
          s.scalarFault cOPERAND 0 0
        else s.release
          (match (if i = ones then s.freeImport else some i.toNat) with
          | none => s.scalarDone d ones
          | some k =>
            let bit (j : Nat) : Bool := bitN (fieldN img 28 1) j == 1
            let e : Import := ⟨BitVec.ofNat 64 (fieldN img 0 8), fieldN img 8 8, BitVec.ofNat 64 (fieldN img 16 8),
              s.myCtx, valid, bit 1, bit 2, bit 3⟩
            ({ s with
              nextId := s.nextId + 1
              fab := { s.fab with imports := kSet s.fab.imports k e } }).granted d k s.nextId))
def execGrant (d a b : BitVec 6) (s : State) : Host.Outcome State Fault Refusal := .next (opGrant d a b s)

end Sys2Proof.Machine
end

