-- ==== Sys2Proof/Machine/Gate.lean ====
section
/-! DEFINITION. The order gate: GATE and the passes of gated atomics (R350 to R353). -/

namespace Sys2Proof.Machine

/-- The aligned unit of 8 bytes that a word stands in. -/
def unitOf8 (va : W64) : W64 := BitVec.ofNat 64 (va.toNat / 8 * 8)

/-- What reading memory on behalf of an engine gives, unit by aligned unit of 8 bytes: the bytes, a failed check (XLATE before PERM
before a target's refusal), or the unit it waits for. -/
def State.readGot (s : State) (ctx : Nat) (va : W64) (n : Nat) : EntryGot :=
  let vs := (List.range ((va.toNat % 8 + n + 7) / 8)).map fun i =>
    let a := unitOf8 va + BitVec.ofNat 64 (8 * i)
    (a, s.unitGot ctx a)
  match [cXLATE, cPERM, cIMPORT].find? fun c => vs.any fun e => e.2 == .bad c with
  | some c => .bad c
  | none => match vs.findSome? fun e => match e.2 with | .hold k => some (k, e.1) | _ => none with
    | some (k, a) => .hold k a
    | none => .bytes (((vs.flatMap fun e => match e.2 with | .bytes b => b | _ => []).drop (va.toNat % 8)).take n)

/-- Ask for a unit that an engine waits for; poison is left to its repair. -/
def State.want (s : State) (ctx : Nat) (kind : ParkKind) (va : W64) (launch : Nat) : State :=
  match kind with
  | .poison => s
  | _ => s.fetchUnit ctx va 0 launch

/-- The first word of a range of a log whose page is not resident: a word to be written there waits for it. -/
def State.logAway (s : State) (ctx : Nat) (va : W64) (n : Nat) : Option W64 :=
  ((List.range ((n + 3) / 4)).map fun i => va + BitVec.ofNat 64 (4 * i)).find? fun a => s.check ctx a 1 == .away

/-- A word of a log as a replay reads it. -/
def State.logWord (s : State) (ctx : Nat) (va : W64) : Unit8 :=
  match s.unitGot ctx (unitOf8 va) with
  | .bytes bs => .bytes ((bs.drop (va.toNat % 8)).take 4)
  | v => v

/-- Ask for what a gate's log waits for. -/
def State.fetchLog (s : State) (ctx : Nat) (kind : ParkKind) (va : W64) (die launch : Nat) : State :=
  match kind with
  | .poison => s
  | _ => s.fetchUnit ctx (unitOf8 va) die launch

/-- A word of a log that a launch may not write, or in a replay read: a refused permission leaves a record of the launch engine's
(R15, R398, log 42). -/
def State.logRefused (s : State) (lid : Nat) (va : W64) (code access : Nat) : State :=
  let l := s.launch lid
  let die := l.home.getD 0
  if code = cPERM then s.logViolation die va 7 code l.ctx die access 4 else s

/-- Write words to a log as stores of the launch, each where it translates; its completion waits for those that go to another
device, as for any store of its blocks (R352, R167). -/
def State.logWords (s : State) (lid : Nat) (va : W64) (ws : List Nat) : State :=
  let ctx := (s.launch lid).ctx
  let bk := ((s.blocks.find? fun b => b.2.launch == lid).map (·.1)).getD 0
  ws.zipIdx.foldl (fun s (w, i) =>
    let a := va + BitVec.ofNat 64 (4 * i)
    match s.check ctx a 1 with
    | .here pa pte => (s.storeAt pte pa (toBytes 4 w)).noteGated (some lid) false pa 4
    | .remote fa => s.sendWrite (.flush bk) ctx a fa (toBytes 4 w)
    | .bad c => s.logRefused lid a c 1
    | _ => s) s

def State.setGate (s : State) (lid k : Nat) (g : Gate) : State :=
  s.modLaunch lid fun l => { l with gates := kSet l.gates k g }

/-- The end of the words written so far. -/
def logAt (g : Gate) : W64 := g.log + BitVec.ofNat 64 g.used

/-- R352: words are written while one word of capacity remains after them; else the overflow marker ends the recording. -/
def State.record (s : State) (lid k : Nat) (g : Gate) (ws : List Nat) : State × Gate :=
  if !g.live then (s, g)
  else if g.used + 4 * ws.length + 4 ≤ g.cap then
    (s.logWords lid (logAt g) ws, { g with used := g.used + 4 * ws.length })
  else
    let g' := { g with used := g.used + 4, live := false, open_ := false }
    (((s.logWords lid (logAt g) [0xFFFFFF01]).setGate lid k g').setNondet lid, g')

/-- The words of a checkpoint. -/
def checkpoint (g : Gate) : List Nat := [0xFFFFFF00, g.hash.toNat % 2 ^ 32, g.hash.toNat / 2 ^ 32]

/-- Close the open chunk of a recording; after every K chunks a checkpoint follows. -/
def State.closeChunk (s : State) (lid k : Nat) (g : Gate) : State × Gate :=
  if !g.open_ then (s, g)
  else
    let (s, g) := s.record lid k g [g.wid * 256 + g.run]
    let g := { g with open_ := false, chunks := g.chunks + 1 }
    if g.interval ≠ 0 && g.chunks = g.interval then
      let (s, g) := s.record lid k g (checkpoint g)
      (s, { g with chunks := 0 })
    else (s, g)

/-- The task ordinal of a block (R337). -/
def taskOrdinal (l : Launch) (index : W64) : Nat := index.toNat / 2 ^ (5 + l.record.widths.getD 0 0)

/-- The gate's number of a warp (R352). -/
def gateWid (l : Launch) (index : W64) (widx : Nat) : Nat := (taskOrdinal l index * count1 l + widx) % 2 ^ 24

/-- The head names a warp of the launch that has exited or been killed (R353). -/
def State.widGone (s : State) (lid wid : Nat) : Bool :=
  let l := s.launch lid
  let gone (index : W64) (f : Nat → Bool) : Bool :=
    (List.range (count1 l)).any fun w => gateWid l index w == wid && f w
  (s.blocks.any fun b => b.2.launch == lid && gone b.2.index (goneWarp b.2)) ||
    l.saved.any fun b => gone b.block.index (goneWarp b.block)

/-- The slot diverges: it is ungated, and the launch notes it (R348, R353). -/
def State.diverge (s : State) (lid k : Nat) (g : Gate) : State × Gate :=
  let g := { g with live := false }
  (((s.setGate lid k g).modLaunch lid fun l => { l with tally := { l.tally with diverged := true } }).setNondet lid, g)

/-- What the next chunk of a replay waits for: its word, or the hash of the checkpoint that stands there. -/
def State.headNeeds (s : State) (ctx : Nat) (g : Gate) : Option (ParkKind × W64) :=
  let need (i : Nat) : Option (ParkKind × W64) :=
    let va := logAt g + BitVec.ofNat 64 (4 * i)
    match s.logWord ctx va with
    | .hold k => some (k, va)
    | _ => none
  match s.logWord ctx (logAt g) with
  | .hold k => some (k, logAt g)
  | .bad _ => none
  | .bytes bs => if ofBytes bs = 0xFFFFFF00 then (need 1).or (need 2) else none

/-- A word of a replay log that may not be read is none that recording writes: the slot diverges (R15, R353). -/
def State.headRefused (s : State) (lid k : Nat) (g : Gate) (va : W64) (code : Nat) : State × Gate :=
  (s.logRefused lid va code 0).diverge lid k g

/-- R353: the head of a replay: the next chunk, past the checkpoints before it; a log consumed ungates the slot. The head stays
where it is while its word has still to be fetched. -/
def State.settleHead (s : State) (lid k : Nat) (g : Gate) (fuel : Nat) : State × Gate :=
  match fuel with
  | 0 => (s, g)
  | fuel + 1 =>
    if !g.live then (s, g)
    else if g.run > 0 then if s.widGone lid g.wid then s.diverge lid k g else (s, g)
    else if g.used ≥ g.cap then
      let g := { g with live := false }
      (s.setGate lid k g, g)
    else
      let ctx := (s.launch lid).ctx
      match s.logWord ctx (logAt g) with
      | .hold _ => (s, g)
      | .bad c => s.headRefused lid k g (logAt g) c
      | .bytes bs =>
        let w := ofBytes bs
        if w = 0xFFFFFF00 then
          match s.logWord ctx (logAt g + 4), s.logWord ctx (logAt g + 8) with
          | .bad c, _ => s.headRefused lid k g (logAt g + 4) c
          | _, .bad c => s.headRefused lid k g (logAt g + 8) c
          | .bytes lo, .bytes hi =>
            if ofBytes lo + 2 ^ 32 * ofBytes hi = g.hash.toNat then s.settleHead lid k { g with used := g.used + 12 } fuel
            else s.diverge lid k g
          | _, _ => (s, g)
        else if w % 256 = 0 || w / 256 = 0xFFFFFF then s.diverge lid k g
        else s.settleHead lid k { g with used := g.used + 4, wid := w / 256, run := w % 256 } fuel

/-- Settle the head of slot `k` of a replay. -/
def State.lookAhead (s : State) (lid k : Nat) : State :=
  let l := s.launch lid
  if modeDet l.record.mode = 3 then
    match kGet? l.gates k with
    | some g =>
      let (t, g) := s.settleHead lid k g (g.cap / 4 + 2)
      t.setGate lid k g
    | none => s
  else s

/-- What a slot waits for at its log before a pass: in a recording the page of a word that it may write, in a replay what its head
stands in. A slot that no longer gates its line waits for nothing. -/
def State.logNeeds (s : State) (l : Launch) (g : Gate) : Option (ParkKind × W64) :=
  if !g.live then none
  else if modeDet l.record.mode = 3 then (if g.run > 0 || g.used ≥ g.cap then none else s.headNeeds l.ctx g)
  else (s.logAway l.ctx (logAt g) (min 16 (g.cap - g.used))).map fun va => (.residency, va)

/-- What clearing a slot waits for: besides, in a recording, the page of the descriptor's word `used` (R365). -/
def State.clearNeeds (s : State) (l : Launch) (g : Gate) : Option (ParkKind × W64) :=
  (s.logNeeds l g).or
    (if modeDet l.record.mode = 3 then none else (s.logAway l.ctx (g.desc + 20) 4).map fun va => (.residency, va))

/-- The hash after a pass (R352). -/
def gateHash (g old new : W64) (wid : Nat) : W64 :=
  mix (g ^^^ old ^^^ new.rotateLeft 17 ^^^ (BitVec.ofNat 64 wid <<< 40))

/-- One access asks to pass gate `k` as warp `wid` with its effect: `run` performs it and gives the old and new values.
None where it has to wait (R352, R353). A recorded chunk closes when another warp passes or its run reaches 255 (R365). -/
def State.gateTry (s : State) (lid k wid : Nat) (run : State → Option (W64 × W64 × State)) : Option (W64 × State) :=
  let l := s.launch lid
  let g := kGet l.gates k
  if modeDet l.record.mode = 2 then
    let (s, g) := if g.open_ && g.wid ≠ wid then s.closeChunk lid k g else (s, g)
    match run s with
    | none => none
    | some (old, new, s) =>
      if !g.live then some (old, s)
      else
        let g := { g with
          wid := wid
          run := if g.open_ then g.run + 1 else 1
          open_ := true
          hash := gateHash g.hash old new wid }
        let (s, g) := if g.run ≥ 255 then s.closeChunk lid k g else (s, g)
        some (old, s.setGate lid k g)
  else
    let (s, g) := s.settleHead lid k g (g.cap / 4 + 2)
    if g.live && (g.run = 0 || g.wid ≠ wid) then none
    else match run s with
      | none => none
      | some (old, new, s) =>
        if !g.live then some (old, s)
        else
          let g := { g with run := g.run - 1, hash := gateHash g.hash old new wid }
          let (s, g) := s.settleHead lid k g (g.cap / 4 + 2)
          some (old, s.setGate lid k g)

/-- A gated access of a warp's stream: what a pass gives, or the state in which it goes on waiting. -/
def State.gatedAccess (s : State) (w id : Nat) (a : GateLane) (delivers : Bool) : Option (W64 × State) × State :=
  let x := s.warp w
  let l := s.launch x.launch
  let b := s.block x.block
  let s := { s with cur := { s.cur with warp := w } }
  match s.checkHeld l.ctx a.va 2 with
  | .here pa pte =>
    if s.poisoned pa (rmwBytes a.rmw.ty) then (none, s)
    else
      let run (s : State) : Option (W64 × W64 × State) :=
        let (old, t) := s.rmwHere id a.va pte pa a.rmw
        some (old, rmwAfter a.rmw old, t)
      match s.gateOf l a.va with
      | none => ((run (s.noteAtomic a.rmw delivers)).map fun r => (r.1, r.2.2), s)
      | some k =>
        let s := s.lookAhead x.launch k
        match s.logNeeds l (kGet (s.launch x.launch).gates k) with
        | some (kind, va) => (none, s.fetchLog l.ctx kind va (b.pcore / 44) x.launch)
        | none =>
          -- a slot that this access finds ungated judges it by R348
          let free (s : State) : Option (W64 × W64 × State) :=
            let live := (kGet (s.launch x.launch).gates k).live
            run (if live then s else s.noteAtomic a.rmw delivers)
          (s.gateTry x.launch k (gateWid l b.index x.widx) free, s)
  | .away => (none, s.promote l.ctx a.va (b.pcore / 44) x.launch)
  | _ => (none, s)

/-- What the passes of one step leave: the state, the register writes, the lanes still to pass, and whether one had to wait. -/
structure Passes where
  s : State
  writes : List RegW
  left : List GateLane
  held : Bool

/-- Two addresses of a context name one location, by whatever addresses it is mapped at. -/
def State.samePlace (s : State) (ctx : Nat) (a b : W64) : Bool :=
  let at_ (va : W64) : Option (Bool × Nat) := (s.translate ctx va).map fun wk => (pteKind wk.pte == 3, walkPa wk va)
  a == b || ((at_ a).isSome && at_ a == at_ b)

/-- The lanes of an instruction pass the gate, the first and then, in lane order, the others at its location: they are
consecutive in the coherence order of that location (R144), until one has to wait. -/
def State.passLanes (s : State) (w : Nat) (gates : List GateLane) : Passes :=
  let x := s.warp w
  let va := (gates.headD default).va
  let ctx := (s.launch x.launch).ctx
  gates.foldl (fun (r : Passes) a =>
    if r.held || !s.samePlace ctx a.va va then { r with left := r.left ++ [a] }
    else match r.s.gatedAccess w (laneId x a.lane) a a.ret.isSome with
      | (some (old, t), _) =>
        let ws := match a.ret with
          | some vd => oldWrites (rmwBytes a.rmw.ty == 8) vd a.lane old
          | none => []
        { r with s := t, writes := r.writes ++ ws }
      | (none, t) => { r with s := t, left := r.left ++ [a], held := true }) ⟨s, [], [], false⟩

/-! ## Atomics on gated lines of other devices (R309, R352) -/

/-- The accesses of a stream that left the device: those of the scalar stream for `which` 2. -/
def ioOfStream (x : Warp) (which : Nat) : Option IoWait :=
  if which = 2 then (match x.wait with | .io w => some w | _ => none)
  else if which ≤ 1 then (warpPath x which).io else none

def State.setIoOf (s : State) (w which : Nat) (io : IoWait) : State :=
  let x := s.warp w
  s.setWarp w (if which = 2 then { x with wait := .io io } else setPath x which { warpPath x which with io := some io })

/-- Another stream of the launch has an atomic of a gate's line on its way. -/
def State.linePassing (s : State) (w which lid k : Nat) : Bool :=
  s.warps.any fun e => e.2.launch == lid && [0, 1, 2].any fun i => (e.1 != w || i != which) &&
    match (ioOfStream e.2 i).bind (·.passing) with
    | some g => s.gateOf (s.launch lid) g.va == some k
    | none => false

/-- The gate lets the first of a stream's waiting atomics pass: those at its location are sent, in a replay at most as many as the
head's run admits. -/
def State.farSend (s : State) (w which : Nat) (io : IoWait) (g : GateLane) (most : Nat) : State :=
  let x := s.warp w
  let ctx := (s.launch x.launch).ctx
  let asker : Asker := if which = 2 then .scalar w else .lane w which
  let lanes := (io.gated.filter fun a => s.samePlace ctx a.va g.va).take most
  let (s, reqs, lost) := lanes.zipIdx.foldl (fun (acc : State × List (Nat × Nat × W64) × List (Nat × W64)) (a, i) =>
    match acc.1.check ctx a.va 2 with
    | .remote fa =>
      let p := { atomicPacket a.rmw with more := lanes.length - 1 - i }
      let (t, id) := acc.1.sendRequest asker ctx a.va fa a.lane 0 p
      (t, acc.2.1 ++ [(id, a.lane, a.va)], acc.2.2)
    | _ => (acc.1, acc.2.1, acc.2.2 ++ [(a.lane, a.va)])) (s, [], [])
  s.setIoOf w which { io with reqs := reqs, refused := io.refused ++ lost, passing := some g }

/-- The answered atomics at a location are accounted to its gate, in lane order (R352). -/
def State.farAccount (s : State) (w : Nat) (lanes : List (GateLane × W64)) : State :=
  let x := s.warp w
  let b := s.block x.block
  lanes.foldl (fun s (a, old) =>
    let s := { s with cur := { s.cur with warp := w } }
    match s.gateOf (s.launch x.launch) a.va with
    | none => s.noteAtomic a.rmw a.ret.isSome
    | some k =>
      let run (s : State) : Option (W64 × W64 × State) :=
        let live := (kGet (s.launch x.launch).gates k).live
        some (old, rmwAfter a.rmw old, if live then s else s.noteAtomic a.rmw a.ret.isSome)
      match s.gateTry x.launch k (gateWid (s.launch x.launch) b.index x.widx) run with
      | some (_, t) => t
      | none => s) s

/-- GATE_PASS for a stream whose atomics on a gated line go to another device: the gate sends those of one location once it lets
them pass, and accounts for them when they have been performed. A refusal ends them: the instruction faults. -/
def State.farPass (s : State) (w which : Nat) (io : IoWait) : State :=
  let x := s.warp w
  let l := s.launch x.launch
  let b := s.block x.block
  match io.passing, io.gated with
  | some g, _ =>
    if !io.reqs.isEmpty then s
    else if !io.refused.isEmpty then s.setIoOf w which { io with gated := [], passing := none }
    else
      let done := io.gated.filterMap fun a =>
        if s.samePlace l.ctx a.va g.va then (kGet? io.answers a.lane).map fun bs => (a, (BitVec.ofNat 64 (ofBytes bs) : W64)) else none
      let isDone (lane : Nat) : Bool := done.any fun e => e.1.lane == lane
      (s.farAccount w done).setIoOf w which { io with
        answers := io.answers.map fun e => if isDone e.1 then (passedKey e.1, e.2) else e
        gated := io.gated.filter fun a => !isDone a.lane
        passing := none }
  | none, g :: _ =>
    (match s.gateOf l g.va with
    | none => s.farSend w which io g 32
    | some k =>
      let s := s.lookAhead x.launch k
      let q := kGet (s.launch x.launch).gates k
      match s.logNeeds l q with
      | some (kind, va) => s.fetchLog l.ctx kind va (b.pcore / 44) x.launch
      | none =>
        let replay := modeDet l.record.mode == 3 && q.live
        if s.linePassing w which x.launch k then s
        else if !replay then s.farSend w which io g 32
        else if q.wid ≠ gateWid l b.index x.widx then s
        else s.farSend w which io g q.run)
  | none, [] => s

/-- GATE_PASS (R352, R353): accesses of warp `w` at one location pass: its scalar atomic (`which` 2), or the lowest lane left of
the first atomic of path 0 or 1 that still has one with the lanes at its location; or those that go to another device. -/
def opGatePass (w which : Nat) (s : State) : State :=
  let x := s.warp w
  if which = 2 then
    match x.wait with
    | .gate a =>
      match s.gatedAccess w (scalarId x) a (a.ret.isSome) with
      | (some (old, t), _) => t.setWarp w { t.warp w with wait := .gated old }
      | (none, t) => t
    | .io io => s.farPass w which io
    | _ => s
  else if which ≤ 1 then
    let q := warpPath x which
    match q.outs.findIdx? fun j => !j.gates.isEmpty with
    | none => match q.io with
      | some io => s.farPass w which io
      | none => s
    | some k =>
      match q.outs[k]? with
      | none => s
      | some j =>
        let r := s.passLanes w j.gates
        let j := { j with gates := r.left, writes := j.writes ++ r.writes }
        let y := r.s.warp w
        let p := warpPath y which
        r.s.setWarp w (setPath y which { p with outs := setAt p.outs k j })
  else s
def execGatePass (w which : Nat) (s : State) : Host.Outcome State Fault Refusal := .next (opGatePass w which s)

/-! ## Clearing and GATE (R350, R351) -/

/-- Clear a slot: a recording writes its open chunk, its final checkpoint and `used`, one checkpoint where that chunk completes
a group of K (R365); a replay looks at its head once more. -/
def State.clearGate (s : State) (lid k : Nat) : State :=
  let l := s.launch lid
  let g := kGet l.gates k
  let erase (s : State) : State := s.modLaunch lid fun l => { l with gates := kErase l.gates k }
  if modeDet l.record.mode = 2 then
    let due : Bool := g.open_ && g.interval ≠ 0 && g.chunks + 1 = g.interval
    let (s, g) := s.closeChunk lid k g
    let (s, g) := if due then (s, g) else s.record lid k g (checkpoint g)
    erase (s.logWords lid (g.desc + 20) [g.used])
  else (erase (s.settleHead lid k g (g.cap / 4 + 2)).1).farUsed l.ctx

/-- A gate descriptor that keeps R351; `replay` limits its used bytes. -/
def gateOk (d : List Byte) (replay : Bool) : Bool :=
  fieldN d 0 8 % 64 == 0 && fieldN d 8 8 % 4 == 0 && fieldN d 16 4 != 0 && fieldN d 16 4 % 4 == 0 &&
    (!replay || fieldN d 20 4 ≤ fieldN d 16 4) && fieldN d 25 7 == 0

/-- The atomics of a warp that have still to pass, or were held for a gate that has been cleared since. -/
def gateLanes (x : Warp) : List GateLane :=
  (match x.wait with | .gate a => [a] | .io io => io.gated | _ => []) ++
    [x.path0, x.path1].flatMap fun q => (q.outs.flatMap (·.gates)) ++ (match q.io with | some io => io.gated | none => [])

/-- An atomic on a line is in flight (R350): a request of the context for a unit of it has not been performed, or a warp of the
launch holds one that has still to pass. -/
def State.lineInFlight (s : State) (lid : Nat) (line : W64) : Bool :=
  let ctx := (s.launch lid).ctx
  (s.fab.requests.any fun r => !r.2.answered && (s.launch r.2.launch).ctx == ctx && s.sameLine ctx r.2.va line) ||
    s.warps.any fun e => e.2.launch == lid && (gateLanes e.2).any fun a => s.sameLine ctx a.va line

/-- GATE (R350). -/
def opGate (a b : BitVec 6) (s : State) : State :=
  let x := s.me
  let va := sreg x a
  let k := (sreg x b).toNat
  let l := s.myLaunch
  let det := modeDet l.record.mode
  s.needPriv
    (if sregWait x [a, b] then s
     else if det < 2 || k ≥ 64 then s.scalarFault cOPERAND 0 0
     else if va = 0 then
      match kGet? l.gates k with
      | none => s.scalarNext
      | some _ =>
        let s := s.lookAhead x.launch k
        match s.clearNeeds l (kGet s.myLaunch.gates k) with
        | some (kind, p) => s.fetchLog l.ctx kind p s.myDie x.launch
        | none => (s.clearGate x.launch k).scalarNext
     else if va.toNat % 32 ≠ 0 then s.scalarFault cALIGN va 0
     else match s.recordGot va 32 0 0 [] with
      | .stop t => t
      | .bytes d =>
        let line := BitVec.ofNat 64 (fieldN d 0 8)
        if !gateOk d (det == 3) || (kGet? l.gates k).isSome ||
            l.gates.any (fun g => g.2.live && s.sameLine l.ctx g.2.line line) then
          s.scalarFault cOPERAND 0 0
        else if s.lineInFlight x.launch line then s
        else
          let cap := if det = 3 then fieldN d 20 4 else fieldN d 16 4
          let g : Gate := ⟨line, va, BitVec.ofNat 64 (fieldN d 8 8), cap, 0, fieldN d 24 1, 0, 0, 0, 0, false, cap != 0⟩
          (s.setGate x.launch k g).scalarNext)
def execGate (a b : BitVec 6) (s : State) : Host.Outcome State Fault Refusal := .next (opGate a b s)

end Sys2Proof.Machine
end

