-- ==== Sys2Proof/Machine/Region.lean ====
section
/-! DEFINITION. Scratchpad regions: XMAP, XLOOK, XFILL, XFILL.x24, XEVICT, XFLUSH (R148 to R156). -/

namespace Sys2Proof.Machine

/-- A region descriptor's own rules (R148); none where one is broken. A mode of 0 names no range (DEDUCED, log 14). -/
def regionDesc (bs : List Byte) : Option Region :=
  let base := fieldN bs 0 4
  let len := fieldN bs 4 4
  let mode := fieldN bs 8 1
  let line := fieldN bs 9 1
  let ways := fieldN bs 10 1
  let gbase := fieldN bs 16 8
  let mapped := mode == 2 || mode == 3
  let size := 2 ^ line
  let ok := mode ≤ 3 && fieldN bs 11 5 == 0 && fieldN bs 24 8 == 0 &&
    (if mapped then 8 ≤ line && line ≤ 16 else line == 0) &&
    (if mode == 2 then ways ≤ 3 else ways == 0) &&
    (if mode == 3 then gbase % size == 0 else gbase == 0) &&
    (mode == 0 || (base % 256 == 0 && base % size == 0 && base < 2 ^ 21 && len % size == 0 && 256 ≤ len))
  if ok then some ⟨base, len, mode, line, ways, BitVec.ofNat 64 gbase⟩ else none

/-- The slots of a CACHE region. -/
def slotsOf (g : Region) : Nat := if g.mode = 2 then g.len / 2 ^ g.line else 0

/-- The CACHE slots of the blocks on a physical core, region `r` of block `bk` left out. -/
def State.coreSlots (s : State) (core bk r : Nat) : Nat :=
  s.blocks.foldl (fun n e =>
    if e.2.pcore = core && !e.2.completed then
      e.2.regions.foldl (fun n q => if e.1 = bk && q.1 = r then n else n + slotsOf q.2) n
    else n) 0

/-- A region may stand beside the others of a block: inside its scratchpad, overlapping no other mapped one. -/
def regionFits (scratch : Nat) (others : List Region) (g : Region) : Bool :=
  g.mode == 0 || (g.base + g.len ≤ scratch &&
    others.all fun q => q.mode == 0 || q.base + q.len ≤ g.base || g.base + g.len ≤ q.base)

/-- Region `r` of the current block. -/
def State.myRegion (s : State) (r : Nat) : Region := kGet s.myBlock.regions r

/-- The fields of a ref (R150). -/
def refRegion (v : W64) : Nat := v.toNat % 16
def refWidth (v : W64) : Nat := v.toNat / 16 % 4
def refSlot (v : W64) : Nat := v.toNat / 65536 % 65536
def refClean (v : W64) : Bool := v.toNat < 2 ^ 32 && v.toNat / 64 % 1024 == 0

/-- The dirty lines of a WINDOW region. -/
def dirtyLines (b : Block) (r : Nat) (g : Region) : List Nat :=
  (List.range (g.len / 2 ^ g.line)).filter fun k =>
    let st := kGet b.lines (lineKey r k)
    st.valid && st.dirty

/-- The key of unit `i` of line `k` among the requests of a write-back, above those of the record that the instruction reads. -/
def flushKey (k i : Nat) : Nat := 64 + k * 8192 + i

/-- The bytes of line `k` of a region. -/
def dirtyBytes (b : Block) (g : Region) (k : Nat) : List Byte := readBytes b.scratch (g.base + k * 2 ^ g.line) (2 ^ g.line)

/-- The verdicts of the units of line `k` of a WINDOW region, which a write-back stores to. -/
def State.lineUnits (s : State) (g : Region) (k : Nat) : List (Nat × W64 × Verdict) :=
  s.unitsOf false (g.gbase + BitVec.ofNat 64 (k * 2 ^ g.line)) (2 ^ g.line) 1

/-- Write back dirty lines whose checks have passed: units on this device at once, units on FABRIC pages as requests, which are
returned. Each line is clean from then on, so that a later store to it makes it dirty again. -/
def State.sendLines (s : State) (r : Nat) (g : Region) (ks : List Nat) : State × List (Nat × Nat × W64) :=
  ks.foldl (fun (acc : State × List (Nat × Nat × W64)) k =>
    let bs := dirtyBytes acc.1.myBlock g k
    let t := acc.1.writeVa s.myCtx (some s.me.launch) (g.gbase + BitVec.ofNat 64 (k * 2 ^ g.line)) bs
    let (t, reqs) := t.askUnits false 1 (flushKey k 0) bs (farUnits (s.lineUnits g k))
    (t.cleanLine s.me.block r k, acc.2 ++ reqs)) (s, [])

/-- R156: write back the dirty lines of a WINDOW region as stores of the executing warp, once the checks of all of them have
passed: the state, and whether the region is written back. It waits for what other devices have to acknowledge; a line that a
target refuses is dirty again, and the instruction faults at the lowest refused unit. -/
def State.flushRegion (s : State) (r : Nat) (g : Region) : State × Bool :=
  let size := 2 ^ g.line
  let io := s.ioAs false
  let bad := io.refused.filter fun e => flushKey 0 0 ≤ e.1
  if !io.reqs.isEmpty then (s, false)
  else match bad.find? fun e => bad.all fun f => e.1 ≤ f.1 with
    | some (_, a) =>
      let hit (key : Nat) : Bool := bad.any fun e => lineKey r ((e.1 - flushKey 0 0) / 8192) == key
      let mark (key : Nat) (st : LineState) : LineState := { st with dirty := st.dirty || (st.valid && hit key) }
      let s := s.modBlock s.me.block fun b => { b with lines := kMap mark b.lines }
      (s.badAs false cIMPORT a 1 size, false)
    | none =>
      let ks := dirtyLines s.myBlock r g
      match ks.findSome? fun k => s.unitsStop false 1 (s.lineUnits g k) with
      | some (.bad c a) => (s.badAs false c a 1 size, false)
      | some (.stop t) => (t, false)
      | _ =>
        let (t, reqs) := s.sendLines r g ks
        if reqs.isEmpty then (t, true)
        else (t.setIoAs false { io with reqs := reqs, answers := io.answers.filter fun e => e.1 < flushKey 0 0 }, false)

/-- xmap (R151). One that unmaps a region or writes a WINDOW back is a release (R156, R303). -/
def opXmap (a b : BitVec 6) (s : State) : State :=
  let x := s.me
  let va := sreg x a
  let ref := sreg x b
  let r := refRegion ref
  if laneWait x then s
  else if ref.toNat ≥ 16 then s.scalarFault cOPERAND 0 0
  else if va.toNat % 32 ≠ 0 then s.scalarFault cALIGN va 0
  else match s.recordGot va 32 0 0 [] with
    | .stop t => t
    | .bytes bs =>
      let k := s.myBlock
      match regionDesc bs with
      | none => s.scalarFault cOPERAND va 0
      | some g =>
        let others := (kErase k.regions r).map (·.2)
        if !regionFits s.myLaunch.record.scratch others g ||
            s.coreSlots k.pcore x.block r + slotsOf g > 8192 then s.scalarFault cOPERAND va 0
        else
          let old := s.myRegion r
          if (old.mode == 3 || g.mode == 0) && s.stampsPending x then s
          else match (if old.mode = 3 then s.flushRegion r old else (s, true)) with
          | (t, false) => t
          | (s, true) =>
            (s.modBlock x.block fun q => { q with
              regions := if g.mode = 0 then kErase q.regions r else kSet q.regions r g
              lines := q.lines.filter fun e => e.1 / 65536 != r }).scalarNext
def execXmap (a b : BitVec 6) (s : State) : Host.Outcome State Fault Refusal := .next (opXmap a b s)

/-- The set of a line's address, and of a slot (R149). A region with fewer slots than ways has slots / 2^ways = 0 sets, of
which R149's modulus says nothing; the number of the line then stands for the set (DESIGN CHOICE, log 42). -/
def setOfAddr (g : Region) (va : W64) : Nat := va.toNat / 2 ^ g.line % (slotsOf g / 2 ^ g.ways)
def setOfSlot (g : Region) (k : Nat) : Nat := k / 2 ^ g.ways

/-- The valid slot of a set that holds a tag. -/
def tagSlot (b : Block) (r : Nat) (g : Region) (va : W64) : Option Nat :=
  ((List.range (2 ^ g.ways)).map fun i => setOfAddr g va * 2 ^ g.ways + i).find? fun k =>
    let st := kGet b.lines (lineKey r k)
    st.valid && st.tag == va

/-- xlook (R152). -/
def opXlook (d a b : BitVec 6) (s : State) : State :=
  let x := s.me
  let ref := sreg x b
  let r := refRegion ref
  let g := s.myRegion r
  if laneWait x then s
  else if ref.toNat ≥ 16 || g.mode != 2 then s.scalarFault cOPERAND 0 0
  else
    let va := BitVec.ofNat 64 ((sreg x a).toNat / 2 ^ g.line * 2 ^ g.line)
    s.scalarDone d (match tagSlot s.myBlock r g va with
      | some k => BitVec.ofNat 64 k
      | none => 0xFFFF)
def execXlook (d a b : BitVec 6) (s : State) : Host.Outcome State Fault Refusal := .next (opXlook d a b s)

/-- R154: a 2:4 compressed line, `w` bytes an element, expanded; none where a group's indices do not rise. -/
def expand24 (w line : Nat) (bs : List Byte) : Option (List Byte) :=
  let groups := line / (4 * w)
  let zero := List.replicate w (0 : Byte)
  (List.range groups).foldl (fun acc j =>
    match acc with
    | none => none
    | some out =>
      let nib := (bs.getD (line / 2 + j / 2) 0).toNat / (if j % 2 = 0 then 1 else 16) % 16
      let i1 := nib % 4
      let i2 := nib / 4
      if i1 < i2 then
        let e1 := (bs.drop (2 * j * w)).take w
        let e2 := (bs.drop ((2 * j + 1) * w)).take w
        some (out ++ (List.range 4).flatMap fun i => if i = i1 then e1 else if i = i2 then e2 else zero)
      else none) (some [])

/-- XFILL and XFILL.x24 (R153, R154): `w` bytes an element of the compressed form, 0 for the plain one. -/
def State.fillSlot (s : State) (a b : BitVec 6) (ok : Bool) (w : Nat) : State :=
  let x := s.me
  let ref := sreg x b
  let r := refRegion ref
  let k := refSlot ref
  let g := s.myRegion r
  let blk := s.myBlock
  let va := sreg x a
  let size := 2 ^ g.line
  let off := g.base + k * size
  let need := if w = 0 then size else size / 2 + size / (8 * w)
  if laneWait x then s
  else if !refClean ref || !ok || g.mode != 2 || k ≥ slotsOf g || (kGet blk.lines (lineKey r k)).valid then
    s.scalarFault cOPERAND 0 0
  else if setOfAddr g va ≠ setOfSlot g k || (tagSlot blk r g va).isSome then s.scalarFault cOPERAND 0 0
  else if va.toNat % size ≠ 0 then s.scalarFault cALIGN va 0
  else if !canonVa va then s.scalarFault cXLATE va 0
  else match s.recordGot va need 0 0 [] with
    | .stop t => t
    | .bytes bs =>
      match (if w = 0 then some bs else expand24 w size bs) with
      | none => s.scalarFault cOPERAND va 0
      | some data =>
        if armedHit blk off size then
          (s.logWarp cPERM (BitVec.ofNat 64 off) 1 size).scalarFault cPERM (BitVec.ofNat 64 off) 1
        else
          (s.modBlock x.block fun q => { q with
            scratch := writeBytes q.scratch off data
            lines := kSet q.lines (lineKey r k) ⟨true, false, va⟩ }).scalarNext

/-- xfill (R153). -/
def execXfill (a b : BitVec 6) (s : State) : Host.Outcome State Fault Refusal :=
  .next (s.fillSlot a b (refWidth (sreg s.me b) == 0) 0)
/-- xfillX24 (R154): ref<5:4> is the element width. -/
def execXfillX24 (a b : BitVec 6) (s : State) : Host.Outcome State Fault Refusal :=
  .next (s.fillSlot a b (refWidth (sreg s.me b) ≤ 1) (refWidth (sreg s.me b) + 1))

/-- xevict (R155). With wb = 1 it is a release (R156, R303). A ref whose element width is not 0, and flags with a bit above wb set,
fault OPERAND (DESIGN CHOICE: R150 gives the width to XFILL.x24 alone and calls the other flags zero, and names no fault for either,
log 42). -/
def opXevict (a b : BitVec 6) (s : State) : State :=
  let x := s.me
  let flags := sreg x a
  let ref := sreg x b
  let r := refRegion ref
  let k := refSlot ref
  let g := s.myRegion r
  let blk := s.myBlock
  let st := kGet blk.lines (lineKey r k)
  let size := 2 ^ g.line
  let data := readBytes blk.scratch (g.base + k * size) size
  let drop (s : State) : State :=
    (s.modBlock x.block fun q => { q with lines := kErase q.lines (lineKey r k) }).scalarNext
  if laneWait x then s
  else if !refClean ref || refWidth ref != 0 || flags.toNat ≥ 2 || g.mode != 2 then s.scalarFault cOPERAND 0 0
  else if !st.valid then s.scalarNext
  else if flags = 0 then drop s
  else if s.stampsPending x then s
  else match s.recordGot st.tag size 1 0 data with
    | .stop t => t
    | .bytes _ => drop (s.writeVa s.myCtx (some x.launch) st.tag data)
def execXevict (a b : BitVec 6) (s : State) : Host.Outcome State Fault Refusal := .next (opXevict a b s)

/-- xflush (R156), a release (R303). -/
def opXflush (b : BitVec 6) (s : State) : State :=
  let x := s.me
  let ref := sreg x b
  let r := refRegion ref
  let g := s.myRegion r
  if laneWait x then s
  else if ref.toNat ≥ 16 || g.mode != 3 then s.scalarFault cOPERAND 0 0
  else if s.stampsPending x then s
  else match s.flushRegion r g with
    | (t, false) => t
    | (t, true) => t.scalarNext
def execXflush (b : BitVec 6) (s : State) : Host.Outcome State Fault Refusal := .next (opXflush b s)

end Sys2Proof.Machine
end

