-- ==== Sys2Proof/Machine/Sync.lean ====
section
/-! DEFINITION. Barriers, barrier objects, waiting and continuations (R173 to R186). -/

namespace Sys2Proof.Machine

/-- The branch target of BCONT and YIELD.C, and whether it leaves the scalar code section (R177). -/
def outOfCode (l : LaunchRec) (t : W64) : Bool := (t - l.sbase).toNat ≥ l.sbytes

/-- R174 in the order of R12: region layout, alignment, the label, bounds, the object's own bytes. -/
def State.objCheck (s : State) (o : W64) (label : Option W64) (body : Obj → State) : State :=
  let b := s.myBlock
  let l := s.myLaunch.record
  let far := match label with | some t => outOfCode l t | none => false
  match objFault b l.scratch o with
  | some c =>
    if c = cPERM then
      if far then s.scalarFault cXLATE (label.getD 0) 0
      else (s.logWarp cPERM (BitVec.ofNat 64 (o.toNat % 2 ^ 32)) 2 32).scalarFault cPERM o 2
    else s.scalarFault c o (if c = cOPERAND then 0 else 2)
  | none =>
    if far then s.scalarFault cXLATE (label.getD 0) 0
    else
      let q := readObj b o.toNat
      if objOk q then body q else s.scalarFault cOPERAND o 0

/-- BINIT (R175). -/
def opBinit (a b : BitVec 6) (s : State) : State :=
  let x := s.me
  let o := sreg x a
  let n := sreg x b
  if sregWait x [a, b] then s
  else s.objCheck o none fun q =>
    if q.state = 1 ∧ (q.waiters ≠ 0 ∨ q.conts ≠ 0) then s.scalarFault cOPERAND o 0
    else
      let q' := if n = 0 then { q with count := 0, gen := q.gen + 1, state := 2 }
        else { q with count := n, waiters := 0, conts := 0, state := 1 }
      (s.modBlock x.block fun k => writeObj k o.toNat q').scalarNext
def execBinit (a b : BitVec 6) (s : State) : Host.Outcome State Fault Refusal := .next (opBinit a b s)

/-- BARRIVE (R178): its release covers accesses already performed (log 5). -/
def opBarrive (a b : BitVec 6) (s : State) : State :=
  let x := s.me
  let o := sreg x a
  if sregWait x [a, b] then s
  else s.objCheck o none fun q =>
    if q.state = 0 then s.scalarFault cOPERAND o 0
    else s.release ((s.objArrive x.block o.toNat (sreg x b)).scalarNext)
def execBarrive (a b : BitVec 6) (s : State) : Host.Outcome State Fault Refusal := .next (opBarrive a b s)

/-- Record the warp as a waiter on an ARMED object. -/
def State.recordWaiter (s : State) (o : Nat) (q : Obj) : State :=
  let x := s.me
  s.modBlock x.block fun k => writeObj k o { q with waiters := q.waiters ||| (1#32 <<< x.widx) }

/-- BWAIT (R179). -/
def opBwait (a : BitVec 6) (s : State) : State :=
  let x := s.me
  let o := sreg x a
  s.notInHandler
    (if sregWait x [a] then s
     else s.objCheck o none fun q =>
      if q.state = 0 then s.scalarFault cOPERAND o 0
      else if q.state = 2 then s.scalarNext
      else (s.recordWaiter o.toNat q).setMe { nextPc x with wait := .bwait o.toNat, woken := false })
def execBwait (a : BitVec 6) (s : State) : Host.Outcome State Fault Refusal := .next (opBwait a s)

/-- YIELD.C (R179). -/
def opYieldC (a : BitVec 6) (i : BitVec 14) (s : State) : State :=
  let x := s.me
  let o := sreg x a
  let t := target x i
  s.notInHandler
    (if sregWait x [a] then s
     else s.objCheck o (some t) fun q =>
      if q.state = 0 then s.scalarFault cOPERAND o 0
      else if q.state = 2 then s.setMe (jumpPc x t)
      else (s.recordWaiter o.toNat q).setMe { nextPc x with wait := .yield o.toNat t, woken := false })
def execYieldC (a : BitVec 6) (i : BitVec 14) (s : State) : Host.Outcome State Fault Refusal := .next (opYieldC a i s)

/-- The pending continuations of a physical core. -/
def State.coreConts (s : State) (core : Nat) : Nat :=
  s.blocks.foldl (fun n e => if e.2.pcore = core then n + e.2.conts.length else n) 0

/-- BCONT (R180). -/
def opBcont (a : BitVec 6) (i : BitVec 14) (s : State) : State :=
  let x := s.me
  let o := sreg x a
  let t := target x i
  s.notInHandler
    (if sregWait x [a] then s
     else s.objCheck o (some t) fun q =>
      if laneBusy x || !x.held.isEmpty || s.stampsPending x then s
      else if q.state = 0 then s.scalarFault cOPERAND o 0
      else if s.coreConts s.myBlock.pcore ≥ 1024 then s.scalarFault 0x16 0 0
      else
        let args := (List.range 8).map fun k => spGet x.s (40 + k)
        let k : Cont := ⟨args, t, o.toNat, x.widx, q.state == 2⟩
        let s := s.modBlock x.block fun b =>
          let b := { b with conts := b.conts ++ [k] }
          if q.state = 1 then writeObj b o.toNat { q with conts := q.conts ||| (1#32 <<< x.widx) } else b
        { s with warps := kErase s.warps s.cur.warp })
def execBcont (a : BitVec 6) (i : BitVec 14) (s : State) : Host.Outcome State Fault Refusal := .next (opBcont a i s)

/-- BAR and BARE (R182): the arrival; the status is written when the episode completes. -/
def State.arrive (s : State) (d : BitVec 6) (gang bare : Bool) : State :=
  let x := s.me
  let b := s.myBlock
  s.notInHandler
    (if laneBusy x then s
     else s.release <|
      let s := s.setMe { nextPc x with wait := .barrier gang d.toNat }
      let e : Arrival := ⟨b.gblock, x.widx, bare⟩
      if gang then
        (s.modLaunch x.launch fun l =>
          { l with gangs := kSet l.gangs b.gang.toNat (gangEpisode l b.gang ++ [e]) }).settleGg x.launch b.gang
      else (s.modBlock x.block fun b => { b with episode := b.episode ++ [e] }).settleBk x.block)

def execBarBk (d : BitVec 6) (s : State) : Host.Outcome State Fault Refusal := .next (s.arrive d false false)
def execBarGg (d : BitVec 6) (s : State) : Host.Outcome State Fault Refusal := .next (s.arrive d true false)
def execBareBk (d : BitVec 6) (s : State) : Host.Outcome State Fault Refusal := .next (s.arrive d false true)
def execBareGg (d : BitVec 6) (s : State) : Host.Outcome State Fault Refusal := .next (s.arrive d true true)

/-- WARP_WAKE (R176, R179): a warp that the barrier unit has woken goes on. -/
def opWarpWake (w : Nat) (s : State) : State :=
  let x := s.warp w
  if !x.woken || x.stopped then s
  else match x.wait with
    | .bwait _ => s.setWarp w { x with wait := .none, woken := false }
    | .yield _ t => s.setWarp w { x with wait := .none, woken := false, pc := t }
    | _ => s
def execWarpWake (w : Nat) (s : State) : Host.Outcome State Fault Refusal := .next (opWarpWake w s)

/-- The state of a warp at spawn (R29). -/
def freshWarp (launch block widx slot : Nat) (pc : W64) (l : LaunchRec) (mirror : Option Mirror) : Warp where
  launch := launch
  block := block
  widx := widx
  slot := slot
  s := []
  v := []
  m := []
  absent := []
  missed := []
  saveArea := 0
  savedLive := 0
  pc := pc
  lastPc := pc
  wait := .none
  savedWait := .none
  woken := false
  path0 := freePath
  path1 := freePath
  lastPath := 0
  stack := []
  queue := []
  running := none
  fpflags := 0
  fptraps := BitVec.ofNat 64 l.fptraps
  dflags := 0
  dtraps := BitVec.ofNat 64 l.dtraps
  rep := ⟨0, 0, 0, 0, 0, 0, 0⟩
  handler := false
  pend := none
  sstep := false
  freeze := false
  held := []
  mirror := mirror
  readyS := none
  readyL := none
  urgentS := false
  urgentL := false
  stopped := false
  issuedS := 0
  issuedL := 0
  link := none
  kvDone := none
  startL := 0
  loopWord := 0

/-- A mirror at spawn: caught up with its leader (R37). -/
def freshMirror (l : LaunchRec) : Option Mirror :=
  if modeMirror l.mode then some ⟨[], [], none, false, [], none, none, 0⟩ else none

/-- The slots of a physical core that warps and their mirrors hold: a mirror takes a slot of its leader's partition,
counted by twice the warp's own (R25, R37). -/
def State.slotUsed (s : State) (core slot : Nat) : Bool :=
  s.warps.any fun e => e.2.slot == slot && (s.block e.2.block).pcore == core

/-- The warp slots of a core that are taken, a mirrored warp counting twice (R25). -/
def State.slotCount (s : State) (core : Nat) : Nat :=
  s.warps.foldl (fun n e =>
    if (s.block e.2.block).pcore = core then n + (if e.2.mirror.isSome then 2 else 1) else n) 0

/-- The slots of a partition of a core that warps and their mirrors hold (R25, R28). -/
def State.partUse (s : State) (core p : Nat) : Nat :=
  s.warps.foldl (fun n e =>
    if (s.block e.2.block).pcore = core ∧ e.2.slot % 6 = p then n + (if e.2.mirror.isSome then 2 else 1) else n) 0
/-- The slots of a partition (R28). -/
def partSlots (p : Nat) : Nat := if p < 2 then 86 else 85

/-- The bytes of a core's vector register file that its warps and their mirrors hold (R25). -/
def State.vregUse (s : State) (core : Nat) : Nat :=
  s.warps.foldl (fun n e =>
    if (s.block e.2.block).pcore = core then
      n + (s.launch e.2.launch).record.vregs * 128 * (if e.2.mirror.isSome then 2 else 1)
    else n) 0

/-- CONTINUATION_SPAWN (R180): continuation `k` of block `b`, its object complete, takes slot `slot` of its core. It waits for a
slot and for the bytes of the register file that its warp needs (R25; the manual says of neither that BCONT keeps it, DESIGN
CHOICE, log 43). The warp goes on with the digest of its warp index, which R75 sets to 0 at spawn and R346 sums over all of
its warps (DESIGN CHOICE, log 43). -/
def opContinuationSpawn (b k slot : Nat) (s : State) : State :=
  let q := s.block b
  let l := s.launch q.launch
  match q.conts[k]? with
  | none => s
  | some c =>
    let need := if modeMirror l.record.mode then 2 else 1
    if !c.ready || s.stopping b || slot ≥ 512 || s.slotUsed q.pcore slot ||
        s.partUse q.pcore (slot % 6) + need > partSlots (slot % 6) ||
        s.vregUse q.pcore + l.record.vregs * 128 * need > 3072 * 1024 then s
    else
      let x := freshWarp q.launch b c.widx slot c.label l.record (freshMirror l.record)
      let x := { x with s := (List.range 8).foldl (fun m i => spSet m (40 + i) (c.args.getD i 0)) [] }
      let s := s.setBlock b { q with conts := q.conts.eraseIdx k }
      { s with warps := kSet s.warps s.nextId x, nextId := s.nextId + 1 }
def execContinuationSpawn (b k slot : Nat) (s : State) : Host.Outcome State Fault Refusal :=
  .next (opContinuationSpawn b k slot s)

end Sys2Proof.Machine
end

