-- ==== Sys2Proof/Machine/LaunchEng.lean ====
section
/-! DEFINITION. The launch engine: records, queues, classes, graphs, placement, admission and completion
(R25 to R27, R73, R323 to R337, R398). -/

namespace Sys2Proof.Machine

/-! ## The launch record (R23, R323) -/

/-- The counts of levels 1 to 5 that the last identifier gives, low fields first (R23). -/
def lastCounts (bits : Nat) : List Nat → List Nat
  | [] => []
  | w :: t => (bits % 2 ^ w + 1) :: lastCounts (bits / 2 ^ w) t

def decodeRec (b : List Byte) : LaunchRec :=
  let n (lo k : Nat) : Nat := fieldN b lo k
  let q (lo : Nat) : W64 := BitVec.ofNat 64 (n lo 8)
  let widths := (List.range 5).map fun i => n (40 + i) 1
  { entry := q 0, sbase := q 8, lbase := q 16, sbytes := n 24 4, lbytes := n 28 4
    counts := lastCounts (n 32 8 / 32) widths, widths := widths
    vregs := if n 45 1 = 0 then 256 else n 45 1
    cls := n 46 1 % 8, priv := bitN (n 47 1) 0 == 1, graph := bitN (n 47 1) 1 == 1, digc := bitN (n 47 1) 2 == 1
    scratch := n 48 4, mode := BitVec.ofNat 32 (n 52 4), seed := q 56, refDigest := q 64, args := q 72, pennants := q 80
    regions := q 88, timetable := q 96, entries := if n 96 8 = 0 then 0 else n 104 2
    fptraps := n 106 1 % 32, dtraps := n 107 1 % 32, handler := n 108 4, save := q 112, completion := q 120 }

/-- The warps that a block takes of a core, with its mirrors (R25). -/
def blockWarps (r : LaunchRec) : Nat := r.counts.getD 0 1 * if modeMirror r.mode then 2 else 1
/-- The bytes of vector register file that a block takes (R25). -/
def blockVregs (r : LaunchRec) : Nat := blockWarps r * r.vregs * 128

/-- The first part of the OPERAND row of R324: the conditions on the record's own bytes. -/
def recordOperand (b : List Byte) (r : LaunchRec) : Bool :=
  let n (lo k : Nat) : Nat := fieldN b lo k
  let ws := r.widths
  let high (v : W64) : Bool := v.toNat ≥ 2 ^ 56
  if r.graph then
    -- R333: a graph record uses class, flags, the pennant block, the graph table and the completion address
    n 46 1 ≥ 8 || n 47 1 ≥ 8 || high r.args || high r.pennants || high r.completion ||
      !((List.range 128).all fun i => i == 46 || i == 47 || (72 ≤ i && i < 88) || 120 ≤ i || n i 1 == 0)
  else
    n 46 1 ≥ 8 || n 47 1 ≥ 8 || n 106 1 ≥ 32 || n 107 1 ≥ 32 ||
      n 32 8 % 32 != 31 || ws.sum + 5 > 64 || n 32 8 ≥ 2 ^ (ws.sum + 5) ||
      ws.getD 0 0 > 5 || ws.getD 1 0 > 6 || (ws.drop 2).any (fun w => w > 59) ||
      n 52 4 ≥ 256 || (modeLclass r.mode && !modeSpan r.mode) ||
      r.vregs % 8 != 0 || r.vregs < 8 || blockWarps r > 512 || blockVregs r > 3072 * 1024 ||
      r.scratch > 2 ^ 21 || r.scratch % 256 != 0 || r.regions.toNat % 32 > 16 ||
      r.sbytes % 4 != 0 || r.lbytes % 12 != 0 || (r.entry - r.sbase).toNat ≥ r.sbytes ||
      (r.handler != 0 && r.handler ≥ r.sbytes) ||
      high r.entry || high r.sbase || high r.lbase || high r.args || high r.pennants || high r.regions ||
      high r.timetable || high r.save || high r.completion

/-- The ALIGN row of R324. -/
def recordAlign (r : LaunchRec) : Bool :=
  r.entry.toNat % 4 != 0 || r.sbase.toNat % 4 != 0 || r.lbase.toNat % 4 != 0 || r.pennants.toNat % 128 != 0 ||
    r.timetable.toNat % 32 != 0 || r.handler % 4 != 0 || r.completion.toNat % 64 != 0

/-! ## Pennants (R325, R326) -/

/-- Entry `i` of a pennant block: its address field and value. -/
def pennant (b : List Byte) (i : Nat) : W64 × W64 :=
  (BitVec.ofNat 64 (fieldN b (16 * i) 8), BitVec.ofNat 64 (fieldN b (16 * i + 8) 8))

/-- A pennant block keeps R325. -/
def pennantsOk (b : List Byte) : Bool :=
  (List.range 8).all fun i =>
    let a := (pennant b i).1.toNat
    if i < 4 then a % 8 == 0 else a % 8 ≤ 1 && a != 1

/-- The used waits, and the used raises with whether each adds. -/
def waitsOf (b : List Byte) : List (W64 × W64) := ((List.range 4).map (pennant b)).filter fun e => e.1 != 0
def raisesOf (b : List Byte) : List (W64 × Bool × W64) :=
  (((List.range' 4 4).map (pennant b)).filter fun e => e.1 != 0).map fun e =>
    (BitVec.ofNat 64 (e.1.toNat / 8 * 8), e.1.getLsbD 0, e.2)

/-! ## Graph tables (R333) -/

def gNodes (h : List Byte) : Nat := fieldN h 0 2
/-- The instances: 1 for a SERIAL graph. -/
def gSlots (h : List Byte) : Nat := if bitN (fieldN h 4 1) 0 = 1 then 1 else fieldN h 2 2
def gArea (h : List Byte) : W64 := BitVec.ofNat 64 (fieldN h 8 8)

def graphHeadOk (h : List Byte) : Bool :=
  1 ≤ gNodes h && gNodes h ≤ 4096 && 1 ≤ fieldN h 2 2 && fieldN h 2 2 ≤ 16 && fieldN h 4 1 ≤ 1 && fieldN h 5 3 == 0 &&
    fieldN h 8 8 % 256 == 0 && fieldN h 16 48 == 0

/-- The predecessors of a node. -/
def nodePreds (b : List Byte) : List Nat := ((List.range 4).map fun k => fieldN b (128 + 2 * k) 2).filter (· != 0xFFFF)

def nodeOk (b : List Byte) (i : Nat) : Bool :=
  bitN (fieldN b 47 1) 1 == 0 && (nodePreds b).all (· < i) && fieldN b 136 120 == 0

/-! ## Acceptance (R324, R329) -/

/-- What acceptance reads: the pennant block, the region descriptors, the graph table; or what it waits for; or the code
of the refusal, which for PERM names the bytes that were refused. -/
inductive AcceptGot where
  | ok (pennants regions graph : List Byte)
  | code (c : Nat)
  | perm (va : W64) (n : Nat)
  | hold (kind : ParkKind) (va : W64)
  deriving DecidableEq, Repr, Inhabited

/-- R398: a write of the launch engine that fails its checks is dropped and logged on IO0. -/
def State.dropWrite (s : State) (ctx code : Nat) (va : W64) (access n : Nat) : State :=
  s.logViolation 4 va 7 code ctx 4 access n

/-- A read of the launch engine refused for permission writes a violation record to the log of IO0 (R15, R16). -/
def State.logRead (s : State) (ctx c : Nat) (va : W64) (access n : Nat) : State :=
  if c = cPERM then s.logViolation 4 va 7 c ctx 4 access n else s

/-- The checks of R324, in the table's order. -/
def State.recordGot324 (s : State) (ctx : Nat) (priv : Bool) (b : List Byte) (r : LaunchRec) : AcceptGot :=
  if r.priv && !priv then .code cPRIV
  else if recordOperand b r then .code cOPERAND
  else if recordAlign r then .code cALIGN
  else
    let count := r.regions.toNat % 32
    let raddr := BitVec.ofNat 64 (r.regions.toNat / 32 * 32)
    let get (use : Bool) (va : W64) (n : Nat) : EntryGot := if use then s.readGot ctx va n else .bytes []
    let head := get r.graph r.args 64
    let nodes : EntryGot := match head with
      | .bytes h => if r.graph && graphHeadOk h then s.readGot ctx (r.args + 64) (256 * gNodes h) else .bytes []
      | e => e
    let gots := [get (r.pennants != 0) r.pennants 128, get (count != 0) raddr (32 * count), head, nodes]
    let bad (c : Nat) : Bool := gots.any fun g => g == .bad c
    if bad cXLATE then .code cXLATE
    else if bad cPERM then
      let spans : List (W64 × Nat) :=
        [(r.pennants, 128), (raddr, 32 * count), (r.args, 64),
          (r.args + 64, match head with | .bytes h => 256 * gNodes h | _ => 0)]
      match (spans.zip gots).find? fun e => e.2 == .bad cPERM with
      | some (e, _) => .perm e.1 e.2
      | none => .code cPERM
    else match gots with
      | [.bytes p, .bytes q, .bytes h, .bytes ns] =>
        let descs := (List.range count).map fun i => regionDesc ((q.drop (32 * i)).take 32)
        let regions := descs.filterMap id
        let fits := (List.range count).all fun i => match descs.getD i none with
          | some g => regionFits r.scratch ((descs.take i).filterMap id) g
          | none => false
        let slots := (regions.map slotsOf).sum
        if (r.pennants != 0 && !pennantsOk p) || !fits || slots > 8192 ||
            (r.graph && !(graphHeadOk h && (List.range (gNodes h)).all fun i => nodeOk ((ns.drop (256 * i)).take 256) i)) then
          .code cOPERAND
        else .ok p q (h ++ ns)
      | _ => match gots.find? fun g => match g with | .hold _ _ => true | _ => false with
        | some (.hold k va) => .hold k va
        | _ => .code cXLATE

/-- The next launch number (R329). -/
def State.numTaken (s : State) (n : Nat) : Bool :=
  (match kGet? s.eng.launches n with | some l => !l.complete | none => false) ||
    (s.eng.accepted ++ s.eng.device).any fun q => q.num == n
def State.freeNum (s : State) (n fuel : Nat) : Nat :=
  let n := if n % 2 ^ 32 = 0 then 1 else n % 2 ^ 32
  match fuel with
  | 0 => n
  | fuel + 1 => if s.numTaken n then s.freeNum (n + 1) fuel else n
def State.nextNum (s : State) : Nat :=
  s.freeNum (s.eng.lastNum + 1) (s.eng.launches.length + s.eng.accepted.length + s.eng.device.length + 1)

/-- IO0's local count, on which the launch engine measures its times. -/
def State.io0 (s : State) : Nat := (s.die 4).count

/-! ### Effective classes (R331) -/

/-- An accepted launch that has not completed. -/
def liveLaunch (l : Launch) : Bool := !l.complete

/-- The launch's class as inheritance gives it, from the classes of the others. -/
def State.inherit (s : State) (l : Launch) : Nat :=
  s.eng.launches.foldl (fun c e =>
    let h := e.2
    if liveLaunch h && h.refused.isNone && h.ctx == l.ctx && (h.waits.any fun w => !w.2.2 && l.raises.any fun r => r.1 == w.1) then
      min c (max h.effective 1)
    else c) l.cls

/-- One round of R331 for every launch. -/
def State.classRound (s : State) : State :=
  { s with eng := { s.eng with launches := kMap (fun _ (l : Launch) =>
      if liveLaunch l then { l with effective := s.inherit l } else l) s.eng.launches } }

/-- Recompute every effective class: from the requested classes, round by round along the chains of pennants. -/
def State.reclass (s : State) : State :=
  let s := { s with eng := { s.eng with launches := kMap (fun _ (l : Launch) => { l with effective := l.cls }) s.eng.launches } }
  (List.range s.eng.launches.length).foldl (fun s _ => s.classRound) s

/-- R338: the signal is sent to every die's check engine, where it arrives within 0.5 µs (R369). A core that is SCANNING when it is
sent is marked. -/
def State.signalScans (s : State) : State :=
  { s with
    cores := kMap (fun _ (c : Core) => if c.state = .scanning then { c with signalled := true } else c) s.cores
    dies := kMap (fun d (x : Die) => if d < 4 then { x with signals := x.signals ++ [x.count] } else x) s.dies }

/-! ### Accepting -/

/-- A tally of nothing. -/
def noTally : Tally := ⟨0, 0, 0, none, 0, 0, 0, 0, 0, 0, 0, 0, 0, 0, 0, false, false, false, 0⟩

/-- The used waits of a pennant block, each with whether it passes now (R326). -/
def State.waitsNow (s : State) (ctx : Nat) (p : List Byte) : List (W64 × W64 × Bool) :=
  (waitsOf p).map fun (a, v) => (a, v, s.waitPasses ctx a v)

/-- The launch that a record gives, with what acceptance read. -/
def State.newLaunch (s : State) (r : LaunchRec) (ctx cls : Nat) (source : Source) (p q : List Byte)
    (refused : Option Nat) : Launch :=
  let t := s.mgmt.settings
  let count := r.regions.toNat % 32
  { record := r, ctx := ctx, source := source, cls := cls, effective := cls
    waits := s.waitsNow ctx p
    raises := raisesOf p
    regions := ((List.range count).filterMap fun i => regionDesc ((q.drop (32 * i)).take 32))
    admissibleAt := none, movedAt := 0, order := s.nextId, admitted := 0, placed := 0, done := 0, marker := 0
    entries := [], home := none, gates := [], gangs := [], saved := [], saveNext := 0, map := [], tally := noTally
    digests := [], refused := refused, capW := t.capW, ilim := t.ilim, d1 := t.d1, d2 := t.d2, preCls := t.preCls
    ages := t.ages, minWidth := 0, complete := false, written := 0 }

/-- A launch whose waits have all passed is admissible from now on (R326). -/
def State.testAdmissible (s : State) (num : Nat) : State :=
  let l := s.launch num
  if l.admissibleAt.isNone && l.refused.isNone && l.waits.all (·.2.2) then
    s.setLaunch num { l with admissibleAt := some s.io0 }
  else s

/-- What the read of a record and of what it names gives (R324): the record as taken and the state after the read, or the state
that asks for what is not resident. -/
inductive TakeGot where
  | taken (t : Taken) (s : State)
  | hold (s : State)

/-- Acceptance reads a record's pennant block, region descriptors and graph table, and checks them (R324). The launch arrives then:
its waits are tested from now on (R326). -/
def State.takeRec (s : State) (num ctx : Nat) (priv : Bool) (b : List Byte) : TakeGot :=
  match s.recordGot324 ctx priv b (decodeRec b) with
  | .hold kind va => .hold (s.want ctx kind va num)
  | .code c => .taken ⟨b, [], [], [], some c, num, [], false⟩ (s.farUsed ctx)
  | .perm va n => .taken ⟨b, [], [], [], some cPERM, num, [], false⟩ ((s.logRead ctx cPERM va 0 n).farUsed ctx)
  | .ok p q h => .taken ⟨b, p, q, h, none, num, s.waitsNow ctx p, false⟩ (s.farUsed ctx)

/-- A record that has been read and checked joins the launches as launch `num`, refused or not, with the waits that have passed
since it was read; one whose context a forced reset has taken since ends with it (R199). -/
def State.joinLaunches (s : State) (num ctx qcls : Nat) (priv : Bool) (source : Source) (t : Taken) : State :=
  let r := decodeRec t.bytes
  let h := t.graph
  let l := s.newLaunch r ctx (max r.cls qcls) source t.pennants t.regions t.refused
  let l := { l with waits := t.waits, tally := { l.tally with forced := t.forced } }
  let s := { s with nextId := s.nextId + 1, eng := { s.eng with
    launches := kSet s.eng.launches num l
    graphs := if r.graph && t.refused.isNone then
        kSet s.eng.graphs num ⟨num, r.args, h, gArea h, gNodes h, gSlots h, none, [], priv⟩
      else s.eng.graphs } }
  let s := (s.testAdmissible num).reclass
  if (s.launch num).admissibleAt.isSome && (s.launch num).effective ≤ 1 then s.signalScans else s

/-- Accept a record as launch `num`. None while what it reads is not resident, with the state that asks for it. -/
def State.accept (s : State) (num ctx qcls : Nat) (priv : Bool) (source : Source) (b : List Byte) : Option State × State :=
  match s.takeRec num ctx priv b with
  | .hold t => (none, t)
  | .taken t u => (some (u.joinLaunches num ctx qcls priv source t), u)

/-- A graph of the queue waits for an instance slot (R334). -/
def State.graphWaits (s : State) (source : Source) : Bool :=
  s.eng.graphs.any fun g => g.2.slot.isNone && (s.launch g.2.launch).source == source && liveLaunch (s.launch g.2.launch)

def State.queue (s : State) (q : Nat) : HostQueue := kGet s.eng.queues q
def State.setQueue (s : State) (q : Nat) (x : HostQueue) : State :=
  { s with eng := { s.eng with queues := kSet s.eng.queues q x } }

/-- The launch engine's error bank on IO0 (R354). -/
def launchBank : Nat := 4 * 256 + 21

/-- R328: a producer more than n ahead stops the queue. -/
def State.queueOver (s : State) (q : Nat) : State :=
  let x := s.queue q
  if x.enable && (x.producer - x.consumer).toNat > 2 ^ x.size then
    (s.setQueue q { x with enable := false }).bankError launchBank 4 0x0020 0
  else s

/-- HOST_QUEUE_ACCEPT (R328). A slot that cannot be read gives a launch refused with the code. -/
def opHostQueueAccept (q : Nat) (s : State) : State :=
  match kGet? s.eng.queues q with
  | none => s
  | some x =>
    if !x.enable || x.producer = x.consumer then s
    else if (x.producer - x.consumer).toNat > 2 ^ x.size then s.queueOver q
    else if s.graphWaits (.host q) then s
    else
      let num := s.nextNum
      let next (s : State) : State :=
        (s.setQueue q { s.queue q with consumer := x.consumer + 1 }) |> fun s => { s with eng := { s.eng with lastNum := num } }
      let at_ := x.base + BitVec.ofNat 64 (128 * (x.consumer.toNat % 2 ^ x.size))
      match s.readGot x.ctx at_ 128 with
      | .hold kind va => s.want x.ctx kind va num
      | .bad c =>
        let s := s.logRead x.ctx c at_ 0 128
        let l := s.newLaunch (decodeRec (List.replicate 128 0)) x.ctx x.cls (.host q) [] [] (some c)
        next (({ s with nextId := s.nextId + 1, eng := { s.eng with launches := kSet s.eng.launches num l } }).farUsed x.ctx).reclass
      | .bytes b =>
        match s.accept num x.ctx x.cls x.priv (.host q) b with
        | (some t, _) => next t
        | (none, t) => t
def execHostQueueAccept (q : Nat) (s : State) : Host.Outcome State Fault Refusal := .next (opHostQueueAccept q s)

/-- LAUNCH waits for its release and for room in the device launch queue (R73, R329). -/
def State.launchWaits (s : State) : Bool := s.stampsPending s.me || s.eng.device.length ≥ 256

/-- A record that LAUNCH has read joins the device launch queue, its class raised to the launching warp's (R73). -/
def State.enqueue (s : State) (d : BitVec 6) (e : QueuedRec) : State :=
  let b := e.taken.bytes
  let flags := fieldN b 46 1
  let prio := s.myLaunch.effective
  let b := if !s.privileged && flags % 8 < prio then setAt b 46 (BitVec.ofNat 8 (flags / 8 * 8 + prio)) else b
  let e := { e with taken := { e.taken with bytes := b } }
  ({ s with eng := { s.eng with device := s.eng.device ++ [e] } }).scalarDone d (BitVec.ofNat 64 e.num)

/-- LAUNCH has read its record, which is its acceptance (R324): the launch has its number (R329), and the record keeps what it was
then while LAUNCH waits. -/
def State.launchTaken (s : State) (d : BitVec 6) (t : Taken) : State :=
  let e : QueuedRec := ⟨t, t.num, s.myCtx, s.privileged⟩
  let s := { s with eng := { s.eng with lastNum := t.num } }
  if s.launchWaits then
    ({ s with eng := { s.eng with accepted := s.eng.accepted ++ [e] } }).setMe { s.me with wait := .launch t }
  else s.enqueue d e

/-- A LAUNCH that has read its record tries again to place it. -/
def State.launchAgain (s : State) (d : BitVec 6) (t : Taken) : State :=
  if s.launchWaits then s
  else match s.eng.accepted.find? fun q => q.num == t.num with
    | some e => ({ s with eng := { s.eng with accepted := s.eng.accepted.filter fun q => q.num != t.num } }).enqueue d e
    | none => s

/-- LAUNCH (R73, R324): the record is read with all that acceptance reads of it. -/
def opLaunch (d a : BitVec 6) (s : State) : State :=
  let x := s.me
  let va := sreg x a
  let isIo := match x.wait with | .io _ => true | _ => false
  match x.wait with
  | .launch t => s.launchAgain d t
  | _ =>
    if sregWait x [d, a] && !isIo then s
    else if va.toNat % 128 ≠ 0 then s.scalarFault cALIGN va 0
    else match s.recordGot va 128 0 0 [] with
      | .stop t => t
      | .bytes b => match s.takeRec s.nextNum s.myCtx s.privileged b with
        | .hold t => t
        | .taken t u => u.launchTaken d t
def execLaunch (d a : BitVec 6) (s : State) : Host.Outcome State Fault Refusal := .next (opLaunch d a s)

/-- DEVICE_QUEUE_ACCEPT (R329): the record as LAUNCH took it (R324). -/
def opDeviceQueueAccept (s : State) : State :=
  match s.eng.device with
  | [] => s
  | r :: t =>
    if s.graphWaits .device then s
    else
      let u := s.joinLaunches r.num r.ctx 0 r.priv .device r.taken
      { u with eng := { u.eng with device := t } }
def execDeviceQueueAccept (s : State) : Host.Outcome State Fault Refusal := .next (opDeviceQueueAccept s)

/-- A wait whose word stands on another device passes by the answer that a read of it has brought. -/
def State.farPasses (s : State) (ctx : Nat) (a v : W64) : Bool :=
  match s.check ctx a 0, s.farGot ctx a with
  | .remote _, some (some bs) => v.toNat ≤ ofBytes bs
  | _, _ => false

/-- The waits of a context that pass as memory stands, or by what a read of another device has brought, are marked. -/
def State.retested (s : State) (ctx : Nat) (ws : List (W64 × W64 × Bool)) : List (W64 × W64 × Bool) :=
  ws.map fun (a, v, hit) => (a, v, hit || s.waitPasses ctx a v || s.farPasses ctx a v)

/-- Ask for the words of the waits that have not passed and stand on another device, or on a page that is not resident. -/
def State.askWaits (s : State) (num ctx : Nat) (ws : List (W64 × W64 × Bool)) : State :=
  let asks (w : W64 × W64 × Bool) : Bool := !w.2.2 && match s.check ctx w.1 0 with
    | .away => true
    | .remote _ => true
    | _ => false
  (ws.filter asks).foldl (fun s w => s.fetchUnit ctx w.1 0 num) (s.farUsed ctx)

/-- PENNANT_RETEST (R326): the waits that a store has marked, or that pass as memory stands, are satisfied for good. A word on
another device is read there. A record that LAUNCH has read is watched from its acceptance, before it joins the launches. -/
def opPennantRetest (num : Nat) (s : State) : State :=
  match (s.eng.accepted ++ s.eng.device).find? fun q => q.num == num with
  | some q =>
    let ws := s.retested q.ctx q.taken.waits
    let mark (r : QueuedRec) : QueuedRec := if r.num = num then { r with taken := { r.taken with waits := ws } } else r
    let s := s.askWaits num q.ctx ws
    { s with eng := { s.eng with accepted := s.eng.accepted.map mark, device := s.eng.device.map mark } }
  | none => match kGet? s.eng.launches num with
    | none => s
    | some l =>
      if l.complete || l.refused.isSome then s
      else
        let ws := s.retested l.ctx l.waits
        let s := s.askWaits num l.ctx ws
        ((s.modLaunch num fun l => { l with waits := ws }).testAdmissible num).reclass
def execPennantRetest (launch : Nat) (s : State) : Host.Outcome State Fault Refusal := .next (opPennantRetest launch s)

/-! ## Graphs (R334) -/

/-- The bytes of an instance: its header and nodes. -/
def instBytes (nodes : Nat) : Nat := 64 + 256 * nodes
def instAt (g : Graph) (j : Nat) : W64 := g.area + BitVec.ofNat 64 (j * instBytes g.nodes)

/-- One piece of a write of the launch engine, all on one page: the checks of the whole write have passed. -/
def State.writePiece (s : State) (asker : Asker) (ctx : Nat) (va : W64) (bs : List Byte) : State :=
  match s.check ctx va 1 with
  | .here pa pte => (s.storeAt pte pa bs).noteGated none false pa bs.length
  | .remote fa => s.sendWrite asker ctx va fa bs
  | _ => s

/-- A write of `bs` by the launch engine, which `asker` waits for where it goes to another device. It is made page by page, and is
dropped whole where one of them fails its checks (R398). -/
def State.engineWrite (s : State) (asker : Asker) (ctx : Nat) (va : W64) (bs : List Byte) : State :=
  let ps := pieces va bs.length
  match [cXLATE, cPERM].findSome? fun c => (ps.find? fun p => s.check ctx p.2.1 1 == .bad c).map fun p => (c, p) with
  | some (c, _, a, n) => s.dropWrite ctx c a 1 n
  | none => ps.foldl (fun s (_, a, n) => s.writePiece asker ctx a ((bs.drop (a - va).toNat).take n)) s

/-- GRAPH_ACCEPT (R334): the lowest free instance slot, into which the table is copied. -/
def opGraphAccept (k : Nat) (s : State) : State :=
  match kGet? s.eng.graphs k with
  | none => s
  | some g =>
    let l := s.launch g.launch
    let taken (j : Nat) : Bool := s.eng.graphs.any fun e =>
      e.1 != k && e.2.slot == some j && e.2.area == g.area && (s.launch e.2.launch).ctx == l.ctx
    if g.slot.isSome || l.tally.forced || l.complete then s
    else match (List.range g.slots).find? fun j => !taken j with
    | none => s
    | some j =>
      let units := (List.range (instBytes g.nodes / 8)).map fun i => (instAt g j + BitVec.ofNat 64 (8 * i), (g.image.drop (8 * i)).take 8)
      match units.findSome? fun (a, _) => match s.check l.ctx a 1 with | .bad c => some (a, c) | _ => none with
      | some (a, c) => (s.logRead l.ctx c a 1 8).modLaunch g.launch fun l => { l with refused := some c }
      | none => match units.find? fun (a, _) => s.check l.ctx a 1 == .away with
        | some (a, _) => s.promote l.ctx a 0 g.launch
        | none =>
          let s := units.foldl (fun s (a, bs) => s.engineWrite .engine l.ctx a bs) s
          { s with eng := { s.eng with graphs := kSet s.eng.graphs k { g with slot := some j } } }
def execGraphAccept (graph : Nat) (s : State) : Host.Outcome State Fault Refusal := .next (opGraphAccept graph s)

def nodeState (g : Graph) (i : Nat) : GNode := kGet g.states i
def State.nodeBytes (s : State) (g : Graph) (j i : Nat) : EntryGot :=
  s.readGot (s.launch g.launch).ctx (instAt g j + BitVec.ofNat 64 (64 + 256 * i)) 256

/-- A node that cancels its descendants: it ended REFUSED or with FORCED_RESET, or has been cancelled itself (R334). -/
def deadNode (g : Graph) (i : Nat) : Bool :=
  let n := nodeState g i
  n.state == 3 || (n.state == 2 && (n.status == 2 || n.code == 0x1A))

/-- The state of a node of a graph is written. -/
def State.setNode (s : State) (k : Nat) (g : Graph) (i : Nat) (n : GNode) : State :=
  { s with eng := { s.eng with graphs := kSet s.eng.graphs k { g with states := kSet g.states i n } } }

/-- GRAPH_NODE_ACCEPT (R334): every predecessor has completed; the node's record, as copied, is accepted. A node with a
predecessor that cancels it is cancelled; one whose record cannot be read ends REFUSED with that code (log 28). -/
def opGraphNodeAccept (k i : Nat) (s : State) : State :=
  match kGet? s.eng.graphs k with
  | none => s
  | some g =>
    let l := s.launch g.launch
    match g.slot with
    | none => s
    | some j =>
      if i ≥ g.nodes || (nodeState g i).state ≠ 0 || l.admissibleAt.isNone || l.tally.forced || l.complete then s
      else match s.nodeBytes g j i with
      | .hold kind va => s.want l.ctx kind va g.launch
      | .bad c => ((s.logRead l.ctx c (instAt g j + BitVec.ofNat 64 (64 + 256 * i)) 0 256).farUsed l.ctx).setNode k g i ⟨2, 0, 2, c⟩
      | .bytes b =>
        if (nodePreds b).any (deadNode g) then (s.farUsed l.ctx).setNode k g i ⟨3, 0, 0, 0⟩
        else if !((nodePreds b).all fun p => (nodeState g p).state == 2) then s.farUsed l.ctx
        else
          let num := s.nextNum
          match s.accept num l.ctx l.cls g.priv (.node k i) (b.take 128) with
          | (none, t) => t
          | (some t, _) =>
            let u := t.setNode k g i ⟨1, num, 0, 0⟩
            { u with eng := { u.eng with lastNum := num } }
def execGraphNodeAccept (graph node : Nat) (s : State) : Host.Outcome State Fault Refusal :=
  .next (opGraphNodeAccept graph node s)

/-- A node that ends REFUSED, or with FORCED_RESET, cancels its descendants: `pred i` lists the predecessors of node `i`,
each below it. -/
def cancelFrom (g : Graph) (pred : Nat → List Nat) : Graph :=
  (List.range g.nodes).foldl (fun g i =>
    if (nodeState g i).state = 0 && (pred i).any (deadNode g) then { g with states := kSet g.states i ⟨3, 0, 0, 0⟩ } else g) g

/-! ## Placement (R25 to R27, R335 to R337) -/

/-- The tasks of a launch, and the logical index of its `k`-th (R23, R24). -/
def tasksOf (l : Launch) : Nat := ((l.record.counts.drop 1).foldl (· * ·) 1)
def taskIndex (l : Launch) (k : Nat) : W64 :=
  let cs := l.record.counts.drop 1
  let ws := l.record.widths.drop 1
  let f : Nat × Nat × Nat := (cs.zip ws).foldl (fun (acc : Nat × Nat × Nat) (e : Nat × Nat) =>
    (acc.1 / e.1, acc.2.1 + acc.1 % e.1 * 2 ^ acc.2.2, acc.2.2 + e.2)) (k, 0, 5 + l.record.widths.getD 0 0)
  BitVec.ofNat 64 f.2.1

/-- The gang number that a logical index carries: the fields above the block's. -/
def gangOf (l : Launch) (index : W64) : W64 :=
  BitVec.ofNat 64 (index.toNat / 2 ^ (5 + l.record.widths.getD 0 0 + l.record.widths.getD 1 0))

/-- The ordinals of the next gang. -/
def nextOrdinals (l : Launch) : List Nat :=
  (List.range (count2 l)).map fun b => taskOrdinal l (taskIndex l (l.placed + b))

/-- The gang of a launch that is next offered room: the ordinals of all its tasks, and the places in it that need a core,
those of its saved blocks or, with none saved, of the whole next gang (R335, R200). -/
def waitingTasks (l : Launch) : Option (List Nat × List Nat) :=
  match l.saved with
  | b :: _ =>
    let first := taskOrdinal l b.block.index - b.block.gblock
    some ((List.range (count2 l)).map (first + ·),
      (l.saved.filter fun c => c.block.gang == b.block.gang).map (·.block.gblock))
  | [] => if l.placed < tasksOf l then some (nextOrdinals l, List.range (count2 l)) else none

/-- The launch takes part in placement. -/
def placeable (l : Launch) : Bool :=
  liveLaunch l && l.refused.isNone && !l.record.graph && l.admissibleAt.isSome && !l.tally.forced

/-- A gang of a launch still has a block on a core (R196). -/
def State.gangResident (s : State) (num : Nat) (gang : W64) : Bool :=
  s.blocks.any fun b => b.2.launch == num && b.2.gang == gang && !b.2.completed

/-- A pre-emption holds its core from its victim: a block of the victim still stands there, or another block of the gang of one that
has been saved from there, or the launch it was begun for still waits (R195, R196). -/
def State.takes (s : State) (e : Preempt) : Bool :=
  (s.blocks.any fun b => b.2.launch == e.victim && b.2.pcore == e.core && !b.2.completed) ||
    ((s.launch e.victim).saved.any fun c => c.block.pcore == e.core && s.gangResident e.victim c.block.gang) ||
    (placeable (s.launch e.by_) && (waitingTasks (s.launch e.by_)).isSome)

/-- The pre-emptions that are over are forgotten. -/
def State.dropStale (s : State) : State :=
  { s with eng := { s.eng with preempts := s.eng.preempts.filter fun e => s.takes e.2 } }

/-- The scratchpad bytes that a core's blocks hold. -/
def State.scratchUse (s : State) (core : Nat) : Nat :=
  s.blocks.foldl (fun n e =>
    if e.2.pcore = core && !e.2.completed then n + (s.launch e.2.launch).record.scratch else n) 0

/-- The reservation of a core by a launch keeps another launch off it: its class is lower, or as low (R337). Of two launches of
one class that both hold the core, which a change of class can bring about, the one accepted first goes on. -/
def State.reservedBefore (s : State) (holder num core : Nat) : Bool :=
  let a := s.launch holder
  let b := s.launch num
  let both := match kGet? s.eng.reserved num with | some r => r.cores.contains core | none => false
  a.effective < b.effective || (a.effective == b.effective && (!both || a.order < b.order))

/-- A core has room for a block of a launch: it is active and mapped, holds no continuation that is ready (R39), is reserved
for no launch before it (R337), is not being taken from it (R195), and its resources leave room (R25). A block that would bring the
core's CACHE slots above 8,192 waits for another core, or for room there, as for any other resource: R148 refuses its descriptors
with OPERAND, but only what the launch's own regions ask for is known at acceptance (DESIGN CHOICE, log 47). -/
def State.roomOn (s : State) (num : Nat) (core : Nat) : Bool :=
  let l := s.launch num
  let r := l.record
  !s.mgmt.shutdown && (s.core core).state == .active && s.coreMap.contains core &&
    !(s.blocks.any fun b => b.2.pcore == core && b.2.conts.any (·.ready)) &&
    !(s.eng.reserved.any fun e => e.1 != num && e.2.cores.contains core && s.reservedBefore e.1 num core) &&
    !(s.eng.preempts.any fun e => e.2.victim == num && e.2.core == core && s.takes e.2) &&
    s.slotCount core + blockWarps r ≤ 512 && s.vregUse core + blockVregs r ≤ 3072 * 1024 &&
    s.scratchUse core + r.scratch ≤ 2048 * 1024 && s.coreSlots core 0 16 + (l.regions.map slotsOf).sum ≤ 8192

/-- The gang stays on one die (R26). -/
def confined (r : LaunchRec) : Bool := !(modeSpan r.mode && modeLclass r.mode)

/-- Insert a core by occupied slots; of equals the one already there first. -/
def insertCore (occ : Nat → Nat) (c : Nat) : List Nat → List Nat
  | [] => [c]
  | d :: t => if occ c < occ d then c :: d :: t else d :: insertCore occ c t

/-- A core has free warp slots for a block of a launch, no partition overfull with the mirrors counted (R25, R28). -/
def State.partsFit (s : State) (r : LaunchRec) (core : Nat) : Bool :=
  let per := if modeMirror r.mode then 2 else 1
  r.counts.getD 0 1 ≤ ((List.range 6).map fun p => (partSlots p - s.partUse core p) / per).sum

/-- A core has room for a block of a launch in every resource, the warp slots of its partitions among them. -/
def State.fitsOn (s : State) (num core : Nat) : Bool := s.roomOn num core && s.partsFit (s.launch num).record core

/-- The cores with room, fewest occupied warp slots first, then the lowest logical number (R336). -/
def State.coresByRoom (s : State) (num : Nat) : List Nat :=
  (s.coreMap.filter (s.fitsOn num)).foldl (fun l c => insertCore s.slotCount c l) []

/-- R336: the cores of a gang of `m` under DET FREE, if it can be placed. -/
def State.freePick (s : State) (num m : Nat) : Option (List Nat) :=
  let cs := s.coresByRoom num
  if m ≤ 1 || !confined (s.launch num).record then
    if cs.length ≥ m then some (cs.take m) else none
  else
    (cs.find? fun c => (cs.filter fun d => d / 44 == c / 44).length ≥ m).map fun c =>
      (cs.filter fun d => d / 44 == c / 44).take m

/-- The `k`-th draw for task ordinal `t` (R337): a logical core number of the launch's admission. -/
def drawCore (l : Launch) (t k : Nat) : Nat :=
  let h := mix (l.record.seed ^^^ (BitVec.ofNat 64 (t + k * 2 ^ 48) * 0x9E3779B97F4A7C15))
  h.toNat / 2 ^ 32 * l.map.length / 2 ^ 32

/-- The physical core of an admission's logical number; one that has left the map stands as 1000 more. -/
def mapAt (l : Launch) (c : Nat) : Nat := l.map.getD c 1000

/-- A core is in service: mapped, and ACTIVE (R337, R360). -/
def State.inService (s : State) (c : Nat) : Bool := c < 1000 && (s.core c).state == .active

/-- The places of a gang, by ordinal, with the core that a saved block has already drawn and that is still in service. -/
def keptFirst (cs : List Nat) : List (Option Nat) → List Nat
  | [] => []
  | some c :: t => c :: keptFirst cs t
  | none :: t => cs.headD 1000 :: keptFirst (cs.drop 1) t

/-- The draws of a gang whose ordinals are listed (R337): a draw fails where `ok` does not hold of a core, where two are the same, or
where they break the die rule. A place that keeps its core does not draw; the lowest cores of the fallback go to the others. -/
def State.drawGang (s : State) (l : Launch) (ts : List (Nat × Option Nat)) (ok : Nat → Bool) (k fuel : Nat) : Option (List Nat) :=
  match fuel with
  | 0 =>
    let kept := ts.filterMap (·.2)
    let first := (kept.head?).getD (mapAt l (drawCore l ((ts.map (·.1)).headD 0) 0))
    let cs := s.coreMap.filter fun c => c / 44 == first % 1000 / 44 && ok c && !kept.contains c
    if cs.length + kept.length ≥ ts.length then some (keptFirst cs (ts.map (·.2))) else none
  | fuel + 1 =>
    let cs := ts.map fun (t, c) => c.getD (mapAt l (drawCore l t k))
    if cs.all ok && decide cs.Nodup && (!confined l.record || cs.all fun c => c % 1000 / 44 == cs.headD 0 % 1000 / 44) then some cs
    else s.drawGang l ts ok (k + 1) fuel

/-- The launch with the logical map that its draws name: that of its admission, or the present one before it (R337). -/
def State.mapped (s : State) (l : Launch) : Launch := if l.map.isEmpty then { l with map := s.coreMap } else l

/-- The core that a task's saved block stood on, while it is in service: saved blocks resume on their drawn cores (R337). -/
def State.keptCore (s : State) (l : Launch) (t : Nat) : Option Nat :=
  (l.saved.find? fun e => taskOrdinal l e.block.index == t && s.inService e.block.pcore).map (·.block.pcore)

/-- The cores drawn for the tasks of a gang: those reserved for it while all are active, else those its saved blocks keep and draws
for the rest (R337). -/
def State.drawn (s : State) (num : Nat) (ts : List Nat) : Option (List Nat) :=
  let l := s.mapped (s.launch num)
  let draw := s.drawGang l (ts.map fun t => (t, s.keptCore l t)) s.inService 0 256
  match kGet? s.eng.reserved num with
  | some r =>
    if r.ordinals == ts && r.cores.all (fun c => (s.core c).state == CoreState.active) then some r.cores else draw
  | none => draw

/-- The core of each task of a gang that its draws give with every core of the admission's map in service (R337, R74). -/
def State.drawnFirst (s : State) (l : Launch) (ts : List Nat) : List Nat :=
  (s.drawGang (s.mapped l) (ts.map fun t => (t, none)) (fun _ => true) 0 256).getD []

/-- The cores that a waiting gang's places go to: by room, or drawn and reserved. -/
def State.pickCores (s : State) (num : Nat) (g : List Nat × List Nat) : Option (List Nat) :=
  if modeDet (s.launch num).record.mode = 0 then s.freePick num g.2.length
  else (s.drawn num g.1).map fun (cs : List Nat) => g.2.map fun b => cs.getD b 1000

/-- Where the launch's next gang is a saved one, its blocks can resume on the cores given: all of them are saved, and the
continuations of each fit its core (R180, R200). -/
def State.resumable (s : State) (num : Nat) (cs : List Nat) : Bool :=
  let l := s.launch num
  match l.saved with
  | [] => true
  | b :: _ =>
    !s.gangResident num b.block.gang &&
      ((l.saved.filter fun c => c.block.gang == b.block.gang).zip cs).all fun (e, c) =>
        s.coreConts c + e.block.conts.length ≤ 1024

/-- The launch can use room now for a waiting gang. -/
def State.canPlace (s : State) (num : Nat) (g : List Nat × List Nat) : Bool :=
  match s.pickCores num g with
  | some cs => cs.all (s.fitsOn num) && s.resumable num cs
  | none => false

/-- The queue a launch counts to in the round robin: 0 to 15 the host's, 16 the device's. -/
def State.queueOf (s : State) (l : Launch) : Nat :=
  match l.source with
  | .host q => q
  | .device => 16
  | .node g _ => match (s.launch g).source with | .host q => q | _ => 16

/-- The order of R335: class, then within it queues round robin, then acceptance. -/
def State.before (s : State) (a b : Launch) : Bool :=
  let k (l : Launch) : Nat × Nat × Nat := (l.effective, (s.queueOf l + 17 - kGet s.eng.rrNext l.effective) % 17, l.order)
  let (x, y) := (k a, k b)
  x.1 < y.1 || (x.1 == y.1 && (x.2.1 < y.2.1 || (x.2.1 == y.2.1 && x.2.2 < y.2.2)))

/-- No launch before this one in the order of R335 can use room. -/
def State.firstInOrder (s : State) (num : Nat) : Bool :=
  let l := s.launch num
  s.eng.launches.all fun e =>
    e.1 == num || !placeable e.2 || !s.before e.2 l || (match waitingTasks e.2 with
      | some g => !s.canPlace e.1 g
      | none => true)

/-- The most logical cores of any one die. -/
def State.largestDie (s : State) : Nat :=
  (List.range 4).foldl (fun n d => max n (s.coreMap.filter fun c => c / 44 == d).length) 0

/-- Warp slots chosen for a block on a core: distinct, free, as many as it has warps, and no partition overfull with the
mirrors counted (R25, R28). -/
def State.slotsOk (s : State) (r : LaunchRec) (n core : Nat) (slots : List Nat) : Bool :=
  let per := if modeMirror r.mode then 2 else 1
  slots.length == n && decide slots.Nodup && (slots.all fun k => k < 512 && !s.slotUsed core k) &&
    (List.range 6).all fun p =>
      s.partUse core p + per * (slots.filter fun k => k % 6 == p).length ≤ partSlots p

/-- A block joins a core with its warps as spawn leaves them (R29); `redrawn` says that it stands on a core drawn again because the
first one had left service (R74, R337). -/
def State.admitBlock (s : State) (num core : Nat) (index : W64) (gblock : Nat) (slots : List Nat) (redrawn : Bool) : State :=
  let l := s.launch num
  let key := s.nextId
  let b : Block :=
    { launch := num, index := index, gblock := gblock, gang := gangOf l index, lcore := s.coreMap.idxOf core, pcore := core
      scratch := [], regions := (l.regions.zipIdx.filter fun g => g.1.mode != 0).map fun g => (g.2, g.1)
      lines := [], chans := [], armed := [], episode := [], abandoned := false, completed := false, conts := []
      exited := [], killed := [], digest := [], terms := [], redrawn := redrawn, unsavable := false, damaged := [] }
  let s := { s with blocks := kSet s.blocks key b, nextId := key + 1 }
  slots.zipIdx.foldl (fun s (slot, w) =>
    let x := freshWarp num key w slot l.record.entry l.record (freshMirror l.record)
    let x := { x with s := spSet [] 40 l.record.args }
    { s with warps := kSet s.warps s.nextId x, nextId := s.nextId + 1 }) s

/-- Reserve the drawn cores of a launch under DET ≠ FREE (R337): all of them at once, and none while another launch of its class
or a lower one holds one of them, so that no two gangs wait for each other. -/
def State.reserveFor (s : State) (num : Nat) (ts : List Nat) : State :=
  if modeDet (s.launch num).record.mode = 0 then s
  else match s.drawn num ts with
    | some cs =>
      if s.eng.reserved.any fun e => e.1 != num && (s.launch e.1).effective ≤ (s.launch num).effective && e.2.cores.any cs.contains then s
      else { s with eng := { s.eng with reserved := kSet s.eng.reserved num ⟨ts, cs⟩ } }
    | none => s

/-- A launch keeps the device-wide settings it was admitted under (R14). -/
def State.underSettings (s : State) (num : Nat) : State :=
  let t := s.mgmt.settings
  s.modLaunch num fun l => { l with
    capW := t.capW, ilim := t.ilim, d1 := t.d1, d2 := t.d2, preCls := t.preCls, ages := t.ages, minWidth := t.minWidth }

/-- BLOCK_ADMISSION (R25 to R27, R335 to R337): the next gang of a launch takes its cores, and the warp slots given. With the first
the launch is admitted, and its timetable entries of start 0 start (R283); a link narrower than the width then in force counts as
dead (R14, log 46). -/
def opBlockAdmission (num : Nat) (slots : List (List Nat)) (s : State) : State :=
  match kGet? s.eng.launches num with
  | none => s
  | some l =>
    let m := count2 l
    if !placeable l || !l.saved.isEmpty || l.placed ≥ tasksOf l then s
    else if l.placed = 0 && confined l.record && m > s.largestDie then
      s.setLaunch num { l with refused := some 0x17 }
    else
      match s.pickCores num (nextOrdinals l, List.range m) with
      | none => s
      | some cs =>
        let s := s.reserveFor num (nextOrdinals l)
        let fits := (List.range m).all fun b => s.slotsOk l.record (count1 l) (cs.getD b 0) (slots.getD b [])
        if !cs.all (s.roomOn num) || !s.firstInOrder num || !fits then s
        else
          let first := if modeDet l.record.mode = 0 then cs else s.drawnFirst l (nextOrdinals l)
          let s := (List.range m).foldl (fun s b =>
            s.admitBlock num (cs.getD b 0) (taskIndex l (l.placed + b)) b (slots.getD b [])
              (cs.getD b 0 != first.getD b 0)) s.dropStale
          let s := if l.placed = 0 then s.underSettings num else s
          let s := s.modLaunch num fun l => { l with
            placed := l.placed + m
            map := if l.map.isEmpty then s.coreMap else l.map
            admitted := if l.placed = 0 then s.nextId else l.admitted
            home := match l.home with | some h => some h | none => some (cs.headD 0 / 44) }
          let s := { s with eng := { s.eng with
            reserved := kErase s.eng.reserved num
            rrNext := kSet s.eng.rrNext l.effective ((s.queueOf l + 1) % 17) } }
          if l.placed = 0 then (s.startEntries num).sweepLinks else s
def execBlockAdmission (launch : Nat) (slots : List (List Nat)) (s : State) : Host.Outcome State Fault Refusal :=
  .next (opBlockAdmission launch slots s)

/-- AGE_PROMOTION (R332). -/
def opAgePromotion (num : Nat) (s : State) : State :=
  match kGet? s.eng.launches num with
  | none => s
  | some l =>
    match l.admissibleAt with
    | none => s
    | some t =>
      let ages := if l.placed = 0 then s.mgmt.settings.ages else l.ages
      let limit := ages.getD (l.cls - 3) 0 * 1000
      if !placeable l || l.cls < 3 || l.placed ≥ tasksOf l || s.io0 < max t l.movedAt + limit then s
      else (s.setLaunch num { l with cls := l.cls - 1, movedAt := s.io0 }).reclass
def execAgePromotion (launch : Nat) (s : State) : Host.Outcome State Fault Refusal := .next (opAgePromotion launch s)

/-! ## Completion (R327, R330, R334, R398) -/

/-- The status, code and flags of a completion. -/
def endCode (l : Launch) : Nat :=
  let t := l.tally
  match l.refused with
  | some c => c
  | none =>
    if t.forced then 0x1A
    else if t.diverged then 0x14
    else if l.record.digc && t.digest != l.record.refDigest then 0x13
    else t.killedCode
def endStatus (l : Launch) (code : Nat) : Nat :=
  if l.refused.isSome then 2 else if code ≠ 0 || l.tally.killedCode ≠ 0 || l.tally.copyCard.isSome then 3 else 1
/-- No raise is performed for a launch that ends so (R327). -/
def raiseHeld (status code : Nat) : Bool := status == 2 || code == 0x1A || code == 0x13 || code == 0x14

/-- The 64 bytes of a completion record (R330), with a graph's status and code in place of its own. -/
def completionBytes (num : Nat) (l : Launch) (status code : Nat) : List Byte :=
  let t := l.tally
  let raised := !raiseHeld status code && !l.raises.isEmpty
  let bit (b : Bool) (v : Nat) : Nat := if b then v else 0
  let flags := bit t.nondet 1 + bit (t.killedCode != 0) 2 + bit t.copyCard.isSome 4 + bit raised 8
  let n16 (v : Nat) : List Byte := toBytes 2 (min 65535 v)
  toBytes 1 status ++ toBytes 1 code ++ toBytes 1 flags ++ toBytes 1 t.killedCode ++ toBytes 4 num ++
    toBytes 8 t.killedWid.toNat ++ toBytes 8 t.killedPc.toNat ++ toBytes 8 t.digest.toNat ++
    toBytes 8 (t.copyCard.getD 0).toNat ++ toBytes 1 t.copyCode ++ toBytes 1 t.copyCause ++ n16 t.copyMore ++
    toBytes 4 (min 0xFFFFFFFF t.unplanned) ++ n16 t.misses ++ n16 t.retries ++ n16 t.poisoned ++ n16 t.erroring ++
    n16 t.untagged ++ n16 t.killedWarps ++ n16 t.preempts ++ toBytes 2 0

/-- One raise (R327). -/
def State.raisePennant (s : State) (ctx : Nat) (e : W64 × Bool × W64) : State :=
  let (va, add, v) := e
  match s.check ctx va 2 with
  | .here pa pte =>
    let new := if add then BitVec.ofNat 64 (s.phys64 pa) + v else v
    (s.storeAt pte pa (toBytes 8 new.toNat)).noteGated none true pa 8
  | .remote fa => (s.sendRequest .none ctx va fa 0 0 (atomicPacket ⟨if add then 1 else 0, 2, v, 0⟩)).1
  | .bad c => s.dropWrite ctx c va 2 8
  | .away => s

/-- The raises of a launch, in turn. -/
def State.raiseAll (s : State) (ctx : Nat) (rs : List (W64 × Bool × W64)) : State :=
  rs.foldl (fun s r => s.raisePennant ctx r) s

/-- An access of the launch engine must wait: its page is not resident, or what it reads is poisoned. -/
def State.mustWait (s : State) (ctx : Nat) (va : W64) (access : Nat) : Bool :=
  match s.check ctx va access with
  | .away => true
  | .here pa _ => access == 2 && s.poisoned pa 8
  | _ => false

/-- The accesses that raises make, each with its kind. -/
def raiseNeed (rs : List (W64 × Bool × W64)) : List (W64 × Nat) := rs.map fun r => (r.1, if r.2.1 then 2 else 1)

/-- R330: everything of the launch is over, and every access of its warps, jobs and blocks on another device has been acknowledged
(R167, R172); a channel that walks still has jobs to issue (DEDUCED, log 40). -/
def State.launchOver (s : State) (num : Nat) (l : Launch) : Bool :=
  l.refused.isSome ||
  (if l.record.graph then
     match kGet? s.eng.graphs num with
     | some g =>
       if l.tally.forced then (List.range g.nodes).all fun i => (nodeState g i).state ≠ 1
       else g.slot.isSome && (List.range g.nodes).all fun i => 2 ≤ (nodeState g i).state
     | none => true
   else
     (l.tally.forced || (l.done ≥ tasksOf l && l.saved.isEmpty)) &&
       !(s.jobs.any fun j => j.2.launch == num) && !(s.blocks.any fun b => b.2.launch == num && b.2.chans.any (·.2.walking)) && !(s.dies.any fun d => d.2.queue.any fun q => q.launch == num) &&
       !(s.warps.any fun w => w.2.launch == num) && !(s.requestsOf fun q => q.launch == num))

/-- The first non-OK node of a graph. -/
def graphResult (g : Graph) : Nat × Nat :=
  match (List.range g.nodes).find? fun i => (nodeState g i).state == 2 && (nodeState g i).status != 1 with
  | some i => ((nodeState g i).status, (nodeState g i).code)
  | none => (1, 0)

/-- The node of a graph has completed: its status is kept, and a refused or force-reset one cancels its descendants, at once
where their records can be read, else when they are come to. -/
def State.nodeDone (s : State) (k i status code : Nat) : State :=
  match kGet? s.eng.graphs k with
  | none => s
  | some g =>
    let g := { g with states := kSet g.states i ⟨2, (nodeState g i).launch, status, code⟩ }
    let pred (n : Nat) : List Nat := match s.nodeBytes g (g.slot.getD 0) n with
      | .bytes b => nodePreds b
      | _ => []
    { s with eng := { s.eng with graphs := kSet s.eng.graphs k (cancelFrom g pred) } }

/-- R347: the task digests of the 16 launches completed last with DIGC, up to 2^20 tasks each. -/
def retain (rs : List Retained) (num : Nat) (l : Launch) : List Retained :=
  if !l.record.digc || l.record.graph || l.refused.isSome then rs
  else
    let rs := rs.filter (·.launch != num) ++ [⟨num, l.digests.filter (·.1 < 2 ^ 20), l.digests.length⟩]
    rs.drop (rs.length - 16)

/-- The launch's record also goes into a completion ring. -/
def State.hasRing (s : State) (l : Launch) : Bool :=
  match l.source with
  | .host q => (s.queue q).ring != 0
  | _ => false

/-- A block of a launch on a core, for which the launch's slots there are written back. -/
def State.blockThere (s : State) (num core : Nat) : Nat :=
  ((s.blocks.find? fun b => b.2.launch == num && b.2.pcore == core).map (·.1)).getD 0

/-- The blocks of a launch whose warps have gone and whose write-backs had to wait try again (R156). -/
def State.retire (s : State) (num : Nat) : State :=
  (s.blocks.filter fun b => b.2.launch == num).foldl (fun s b => s.settleBlock b.1) s

/-- The launch's sequence slots are written back, or dropped after a forced reset (R240). -/
def State.returnSlots (s : State) (num : Nat) (drop : Bool) : State :=
  (s.cores.map (·.1)).foldl (fun s c => s.unloadSlots c (fun q => q.owner == num) drop (.flush (s.blockThere num c))) s

/-- A slot of the launch still waits for its home, or a write-back for its acknowledgement. -/
def State.returning (s : State) (num : Nat) : Bool :=
  s.cores.any (fun c => s.slotsLeft c.1 fun q => q.owner == num) || s.requestsOf fun q => q.launch == num

/-- What a slot of an ending launch waits for, its head settled first where it replays (R353). -/
def State.gatesNeed (s : State) (num : Nat) (gates : List Nat) : State × Option (ParkKind × W64) :=
  let s := gates.foldl (fun s k => s.lookAhead num k) s
  let l := s.launch num
  (s, gates.findSome? fun k => s.clearNeeds l (kGet l.gates k))

/-- The status and the code that a completion reports: a graph's are those of its nodes (R334). -/
def State.endOf (s : State) (num : Nat) (l : Launch) : Nat × Nat :=
  match kGet? s.eng.graphs num with
  | some g => if l.refused.isSome || l.tally.forced then (endStatus l (endCode l), endCode l) else graphResult g
  | none => (endStatus l (endCode l), endCode l)

/-- The completion record is written and, on another device, acknowledged: it goes into the queue's ring, or the pennants are raised,
and what the launch held is given back; links that only it needed may now count as dead (R14, R327, R330). -/
def State.finishLaunch (s : State) (num : Nat) : State :=
  let l := s.launch num
  let (status, code) := s.endOf num l
  let s := match l.source with
    | .host q =>
      let x := s.queue q
      let e : RingRec := ⟨l.ctx, completionBytes num l status code, if raiseHeld status code then [] else l.raises, 0⟩
      if x.ring = 0 then s else s.setQueue q { x with pending := x.pending ++ [e] }
    | _ => s
  let s := if s.hasRing l || raiseHeld status code then s else s.raiseAll l.ctx l.raises
  let s := { s with
    blocks := s.blocks.filter fun b => b.2.launch != num
    eng := { s.eng with
      graphs := kErase s.eng.graphs num
      preempts := s.eng.preempts.filter fun p => p.2.victim != num
      reserved := kErase s.eng.reserved num
      retained := retain s.eng.retained num l } }
  let s := s.modLaunch num fun l => { l with complete := true }
  let s := match l.source with
    | .node k i => s.nodeDone k i status code
    | _ => s
  s.reclass.sweepLinks

/-- LAUNCH_COMPLETION (R327, R330): blocks whose write-backs waited are settled; then, once everything is over, the digest is
checked, the gates' last words and the record are written, the pennants raised, and what the launch held is given back. It waits
while a page it writes to is not resident, and for the acknowledgement of what goes to another device (R172, R396). Where the record
also goes into a completion ring, the raises follow it there. -/
def opLaunchCompletion (num : Nat) (s : State) : State :=
  match kGet? s.eng.launches num with
  | none => s
  | some l0 =>
    if l0.complete then s else
    let s := s.retire num
    let l := s.launch num
    if !s.launchOver num l then s
    else
      let s := s.returnSlots num l.tally.forced
      if s.returning num then s else
      let need := (if l.record.completion ≠ 0 && l.written = 0 then (pieces l.record.completion 64).map fun p => (p.2.1, 1) else []) ++
        (if s.hasRing l then [] else raiseNeed l.raises)
      match need.find? fun e => s.mustWait l.ctx e.1 e.2 with
      | some (va, _) => if s.check l.ctx va 1 == .away then s.promote l.ctx va 0 num else s
      | none =>
        match s.gatesNeed num (l.gates.map (·.1)) with
        | (s, some (kind, va)) => s.fetchLog l.ctx kind va 0 num
        | (s, none) =>
          if l.written = 2 then s.finishLaunch num
          else
            let s := (l.gates.foldl (fun s g => s.clearGate num g.1) s).clearPins num
            if s.requestsOf (fun q => q.launch == num) then s
            else
              let l := s.launch num
              let (status, code) := s.endOf num l
              let t := if l.record.completion = 0 then s
                else s.engineWrite (.record num) l.ctx l.record.completion (completionBytes num l status code)
              if t.requestsOf (fun q => q.launch == num) then t.modLaunch num fun l => { l with written := 1 }
              else t.finishLaunch num
def execLaunchCompletion (launch : Nat) (s : State) : Host.Outcome State Fault Refusal := .next (opLaunchCompletion launch s)

/-- COMPLETION_RING_WRITE (R327, R330): the queue's next record goes into its slot once byte 0 there is 0, and its raises
follow, on another device once it has been acknowledged there (R172, R396). -/
def opCompletionRingWrite (q : Nat) (s : State) : State :=
  match kGet? s.eng.queues q with
  | none => s
  | some x =>
    match x.pending with
    | [] => s
    | r :: t =>
      let va := x.ring + BitVec.ofNat 64 (64 * (x.completed % 2 ^ x.size))
      let done (u : State) : State :=
        match (raiseNeed r.raises).find? fun e => s.mustWait r.ctx e.1 e.2 with
        | some (a, _) => if s.check r.ctx a 1 == .away then s.promote r.ctx a 0 0 else s
        | none => (u.setQueue q { u.queue q with pending := t, completed := x.completed + 1 }).raiseAll r.ctx r.raises
      let send (u : State) : State :=
        let u := (u.engineWrite (.ring q) r.ctx va r.bytes).farUsed r.ctx
        u.setQueue q { u.queue q with pending := { r with written := 1 } :: t }
      if r.written = 1 then s else if r.written = 2 then done s else
      match s.check r.ctx va 1 with
      | .away => s.promote r.ctx va 0 0
      | .bad c => done (s.dropWrite r.ctx c va 1 64)
      | .remote fa => match s.farGot r.ctx va with
        | none => s.farAsk 0 r.ctx va fa
        | some (some bs) => if ofBytes (bs.take 1) ≠ 0 then s.farUsed r.ctx else send s
        | some none => send s
      | .here pa _ => if spGet s.mem pa ≠ 0 then s else done (s.engineWrite (.ring q) r.ctx va r.bytes)
def execCompletionRingWrite (q : Nat) (s : State) : Host.Outcome State Fault Refusal := .next (opCompletionRingWrite q s)

/-- HOST_PRODUCER_WRITE (R328): the host's write of a producer index. -/
def opHostProducerWrite (q : Nat) (v : W64) (s : State) : State :=
  match kGet? s.eng.queues q with
  | none => s
  | some x => if (kGet s.fab.links 6).dead || s.mgmt.recovery then s else (s.setQueue q { x with producer := v.setWidth 32 }).queueOver q
def execHostProducerWrite (q : Nat) (v : W64) (s : State) : Host.Outcome State Fault Refusal :=
  .next (opHostProducerWrite q v s)

end Sys2Proof.Machine
end

