-- ==== Sys2Proof/Machine/Preempt.lean ====
section
/-! DEFINITION. Pre-emption: victims, safe points, saving and resuming blocks, forced reset, register misses
(R193 to R201, R338, R381, R382). -/

namespace Sys2Proof.Machine

/-! ## Forced reset (R199) -/

/-- R199: every launch of a context is force-reset, those whose record LAUNCH has read and that have still to join among them. Its
warps stop, its saved blocks are discarded, its channels read no further record and its entered records that have not begun, or that wait for poison to be repaired (R212), are dropped; a record or step under way runs to its boundary. -/
def State.forceReset (s : State) (ctx : Nat) : State :=
  let hit (n : Nat) : Bool := (s.launch n).ctx == ctx && liveLaunch (s.launch n)
  let s := s.resetMoves ctx
  let (taken, others) := s.eng.accepted.partition fun q => q.ctx == ctx
  let ended (q : QueuedRec) : QueuedRec := if q.ctx = ctx then { q with taken := { q.taken with forced := true } } else q
  let stopChan (c : Chan) : Chan := { c with walking := false, io := none, park := none, again := false }
  let s := { s with
    warps := s.warps.filter fun w => !hit w.2.launch
    blocks := kMap (fun _ (b : Block) =>
      if hit b.launch then { b with completed := true, conts := [], chans := kMap (fun _ => stopChan) b.chans } else b) s.blocks
    jobs := s.jobs.filter fun j => !(hit j.2.launch) || ((j.2.started || j.2.mloop) && !poisonPark j.2.park)
    eng := { s.eng with
      accepted := others
      device := (s.eng.device ++ taken).map ended
      reserved := s.eng.reserved.filter fun e => !hit e.1
      preempts := s.eng.preempts.filter fun e => !hit e.2.victim
      launches := kMap (fun n (l : Launch) =>
        if hit n then { l with saved := [], gangs := [], tally := { l.tally with forced := true } } else l) s.eng.launches } }
  (s.cores.map (·.1)).foldl (fun s c => s.unloadSlots c (fun q => hit q.owner) true .none) s

/-! ## Choosing victims (R338) -/

/-- A core as it would stand without the blocks that some launches have on it. -/
def State.without (s : State) (vs : List Nat) (core : Nat) : State :=
  let gone (b : Block) : Bool := b.pcore == core && vs.contains b.launch
  { s with
    warps := s.warps.filter fun w => !gone (s.block w.2.block)
    blocks := s.blocks.filter fun b => !gone b.2 }

/-- A launch has a block on a core that has not completed. -/
def State.blockOn (s : State) (launch core : Nat) : Bool :=
  s.blocks.any fun b => b.2.launch == launch && b.2.pcore == core && !b.2.completed

/-- Insert a victim: the higher class number first, then the more recently admitted. -/
def insertVictim (n : Nat × Launch) : List (Nat × Launch) → List (Nat × Launch)
  | [] => [n]
  | h :: t =>
    if n.2.effective > h.2.effective || (n.2.effective == h.2.effective && n.2.admitted > h.2.admitted) then n :: h :: t
    else h :: insertVictim n t

/-- The running launches of a class above a launch's, in the order in which they are taken. -/
def State.victims (s : State) (l : Launch) : List Nat :=
  ((s.eng.launches.filter fun e =>
    liveLaunch e.2 && e.2.effective > l.effective && s.blocks.any fun b => b.2.launch == e.1 && !b.2.completed).foldl
      (fun acc e => insertVictim e acc) []).map (·.1)

/-- The cores a gang would take with some launches gone, if they suffice: those with room already come first. -/
def State.coresWithout (s : State) (num : Nat) (g : List Nat × List Nat) (vs : List Nat) : Option (List Nat) :=
  let l := s.launch num
  let fits (c : Nat) : Bool := (s.without vs c).fitsOn num c
  if modeDet l.record.mode ≠ 0 then
    match s.pickCores num g with
    | some cs => if cs.all fits then some cs else none
    | none => none
  else
    let m := g.2.length
    let cs := s.coreMap.filter fits
    let cs := cs.filter (s.fitsOn num) ++ cs.filter fun c => !s.fitsOn num c
    if m ≤ 1 || !confined l.record then (if cs.length ≥ m then some (cs.take m) else none)
    else ((List.range 4).find? fun d => (cs.filter fun c => c / 44 == d).length ≥ m).map fun d =>
      (cs.filter fun c => c / 44 == d).take m

/-- PREEMPT_START (R338, R195): victims are added until the gang fits without them, and rung 1 begins on the cores that lack
room now. A launch of class 0 or 1 signals the scans, one that only inherits its class does not; one whose own gang is still being
saved takes no core yet. -/
def opPreemptStart (num : Nat) (s : State) : State :=
  match kGet? s.eng.launches num with
  | none => s
  | some l =>
    match waitingTasks l with
    | none => s
    | some g =>
      let busy := s.eng.preempts.any fun e => e.2.by_ == num && s.blockOn e.2.victim e.2.core
      let limit := if l.placed = 0 then s.mgmt.settings.preCls else l.preCls
      let saving := l.saved.any fun e => s.gangResident num e.block.gang
      if !placeable l || l.effective > limit || busy || saving || s.canPlace num g then s
      else
        let vs := s.victims l
        let tries := (List.range vs.length).map fun k => vs.take (k + 1)
        match tries.findSome? fun us => (s.coresWithout num g us).map fun cs => (us, cs) with
        | none => s
        | some (us, cs) =>
          let pairs := (cs.filter fun c => !s.fitsOn num c).flatMap fun c =>
            (us.filter fun v => s.blockOn v c).map fun v => (v, c)
          let s := pairs.foldl (fun s (v, c) =>
            let e : Preempt := ⟨v, c, 1, (s.die (c / 44)).count, num, []⟩
            { s with nextId := s.nextId + 1, eng := { s.eng with preempts := kSet s.eng.preempts s.nextId e } }) s
          if l.cls ≤ 1 then s.signalScans else s
def execPreemptStart (launch : Nat) (s : State) : Host.Outcome State Fault Refusal := .next (opPreemptStart launch s)

/-! ## Safe points (R193, R381, R382) -/

/-- The address of a launch's safe-point table (R381). -/
def safeAt (r : LaunchRec) : W64 := BitVec.ofNat 64 ((r.sbase.toNat + r.sbytes + 63) / 64 * 64)

/-- The entry at an index of a table's entries, and whether it keeps R382. -/
def safeEntry (r : LaunchRec) (lane : Bool) (e : List Byte) : Bool :=
  let pc := fieldN e 0 4
  fieldN e 4 1 == (if lane then 1 else 0) && fieldN e 5 3 == 0 &&
    (if lane then pc % 12 == 0 && pc < r.lbytes else pc % 4 == 0 && pc < r.sbytes)

/-- The safe points of a table's bytes; none of them where the table breaks R382. -/
def parseSafe (r : LaunchRec) (b : List Byte) : List SafePoint :=
  let ns := fieldN b 0 2
  let nl := fieldN b 2 2
  let es := (List.range (ns + nl)).map fun i => (decide (ns ≤ i), (b.drop (16 + 40 * i)).take 40)
  let ps : List SafePoint := es.map fun (lane, e) => ⟨lane, fieldN e 0 4, fieldN e 8 32⟩
  let rising := (ps.zip (ps.drop 1)).all fun (p, q) => p.lane != q.lane || p.pc < q.pc
  if fieldN b 4 12 == 0 && rising && es.all (fun (lane, e) => safeEntry r lane e) then ps else []

/-- The table as the launch engine reads it (R382): its points and the state after the reads, or the state in which it
waits for a page. -/
inductive SafeGot where
  | points (ps : List SafePoint) (s : State)
  | wait (s : State)
  deriving DecidableEq, Repr, Inhabited

def State.safeGot (s : State) (num : Nat) : SafeGot :=
  let l := s.launch num
  let va := safeAt l.record
  match s.readGot l.ctx va 16 with
  | .bad c => .points [] (s.logRead l.ctx c va 0 16)
  | .hold k a => .wait (s.want l.ctx k a num)
  | .bytes h =>
    let n := 40 * (fieldN h 0 2 + fieldN h 2 2)
    match s.readGot l.ctx (va + 16) n with
    | .bad c => .points [] (s.logRead l.ctx c (va + 16) 0 (min n 65535))
    | .hold k a => .wait (s.want l.ctx k a num)
    | .bytes b => .points (parseSafe l.record (h ++ b)) s

/-- The cores of a block's gang: where its blocks stand, and where those already saved stood. -/
def State.gangCores (s : State) (bk : Nat) : List Nat :=
  let b := s.block bk
  ((s.gangKeys b.launch b.gang).map fun k => (s.block k).pcore) ++
    ((s.launch b.launch).saved.filter fun c => c.block.gang == b.gang).map (·.block.pcore)

/-- A pre-emption in rung 2 that stops a block: one on its core, or on a core of its gang (R195). -/
def State.stops (s : State) (bk : Nat) (e : Preempt) : Bool :=
  e.victim == (s.block bk).launch && e.rung == 2 && (s.gangCores bk).contains e.core

/-- The safe points in force for a block: those read when rung 2 began on its core or, with none there, on a core of its gang
(R382). -/
def State.safeOf (s : State) (bk : Nat) : List SafePoint :=
  let es := (s.eng.preempts.filter fun e => s.stops bk e.2).map (·.2)
  match (es.find? fun e => e.core == (s.block bk).pcore).or es.head? with
  | some e => e.safe
  | none => []

/-- The live mask of a listed point. -/
def pointLive (ps : List SafePoint) (lane : Bool) (pc : Nat) : Option Nat :=
  (ps.find? fun p => p.lane == lane && p.pc == pc).map (·.live)

/-- The scalar PC as an offset of the code section. -/
def scalarOff (r : LaunchRec) (pc : W64) : Nat := (pc - r.sbase).toNat

/-- The scalar column of R193. A step that waits in BWAIT or YIELD.C has its SSTEP to come, which the saved warp keeps; a maintenance
that has changed some of its blocks is under way. -/
def scalarSafe (r : LaunchRec) (ps : List SafePoint) (x : Warp) : Bool :=
  match x.wait with
  | .none => x.pend.isNone && x.kvDone.isNone && (pointLive ps false (scalarOff r x.pc)).isSome
  | .bwait _ => !x.woken && (x.pend.map (·.sstep)).getD true
  | .yield _ _ => !x.woken && (x.pend.map (·.sstep)).getD true
  | .parked _ => x.pend.isNone
  | _ => false

/-- A path stands at ATTB or ATTB.resume. -/
def State.atAttb (s : State) (w : Nat) (q : Path) : Bool :=
  q.cont || match s.laneWords w q.pc with
    | .words ws => (match decodeLane (ws.getD 0 0) (ws.getD 1 0) (ws.getD 2 0) with
      | some (.attb _) => true
      | some (.attbResume _) => true
      | _ => false)
    | _ => false

/-- The lane column of R193. A path whose only outstanding instruction is an ATTB counts as at it (R267). -/
def State.laneSafe (s : State) (w : Nat) (ps : List SafePoint) (x : Warp) : Bool :=
  if x.handler then true
  else if x.running.isNone then x.queue.isEmpty
  else [x.path0, x.path1].all fun q =>
    !q.live || (q.io.isNone && q.reserved.isNone && match q.outs with
      | [] => q.park.isSome || (pointLive ps true q.pc).isSome || s.atAttb w q
      | [o] => o.attb.isSome
      | _ => false)

/-- R193: the warp is at a safe point. -/
def State.atSafe (s : State) (w : Nat) : Bool :=
  let x := s.warp w
  let ps := s.safeOf x.block
  scalarSafe (s.launch x.launch).record ps x && s.laneSafe w ps x

/-- R195: a warp of a block that is being stopped stops issuing when it is at a safe point. -/
def State.stopAtSafe (s : State) (w : Nat) : State :=
  if (kGet? s.warps w).isSome && s.stopping (s.warp w).block && s.atSafe w then
    s.setWarp w { s.warp w with stopped := true }
  else s

/-- RUNG_2_STOP (R195, R382): when D1 ends with blocks of the victim still on a core, rung 2 begins there; the warps at safe
points stop. -/
def opRung2Stop (victim : Nat) (s : State) : State :=
  let l := s.launch victim
  let due (e : Preempt) : Bool :=
    e.victim == victim && e.rung == 1 && s.blockOn victim e.core && (s.die (e.core / 44)).count ≥ e.since + l.d1
  let mark (s : State) : State :=
    ((s.warps.filter fun w => w.2.launch == victim).map (·.1)).foldl State.stopAtSafe s
  if s.eng.preempts.any fun e => due e.2 then
    match s.safeGot victim with
    | .wait t => t
    | .points ps s =>
      mark { s with eng := { s.eng with preempts := kMap (fun _ (e : Preempt) =>
        if due e then { e with rung := 2, since := (s.die (e.core / 44)).count, safe := ps } else e) s.eng.preempts } }
  else mark s
def execRung2Stop (launch : Nat) (s : State) : Host.Outcome State Fault Refusal := .next (opRung2Stop launch s)

/-! ## The block record (R197, R198) -/

/-- A reconvergence PC in 4 bytes: END is all ones (log 10). -/
def rpcBytes : Option Nat → List Byte
  | some r => toBytes 4 r
  | none => toBytes 4 0xFFFFFFFF
def rpcOf (n : Nat) : Option Nat := if n = 0xFFFFFFFF then none else some n

/-- The lane registers to save (R194): the union of the masks of the scalar point and of the live paths; a stream at no
listed point has every register live (DEDUCED, log 10). -/
def liveMask (r : LaunchRec) (ps : List SafePoint) (x : Warp) : Nat :=
  let all := 2 ^ r.vregs - 1
  let pc := match x.wait with | .yield _ t => t | _ => x.pc
  let sc := (pointLive ps false (scalarOff r pc)).getD all
  let lane (q : Path) : Nat := if q.live then (pointLive ps true q.pc).getD all else 0
  (sc ||| lane x.path0 ||| lane x.path1) % 2 ^ r.vregs

/-- A path record: R198, with K and w in its fourth word (R267). -/
def pathBytes (q : Path) : List Byte :=
  toBytes 4 q.mask.toNat ++ toBytes 4 q.pc ++ rpcBytes q.rpc ++
    toBytes 4 ((if q.live then 1 else 0) + if q.cont then 2 + 4 * (q.visits % 16) else 0)
def stackBytes (e : StackEntry) : List Byte :=
  toBytes 4 e.mask.toNat ++ toBytes 4 e.pc ++ rpcBytes e.rpc ++ toBytes 4 e.arrived.toNat
def laneBlockBytes (b : LaneBlock) : List Byte :=
  toBytes 4 b.pc ++ toBytes 4 0 ++ (List.range 8).flatMap fun i => toBytes 8 (b.args.getD i 0).toNat

/-- Zeros up to a length. -/
def padTo (n : Nat) (b : List Byte) : List Byte := b ++ List.replicate (n - b.length) 0

/-- The state word of R198. -/
def warpStateWord (x : Warp) : Nat :=
  let wait := match x.wait with | .bwait _ => 1 | .yield _ _ => 2 | .parked _ => 3 | _ => 0
  let joins := x.stack.zipIdx.foldl (fun n (e, k) => if e.isJoin then n + 2 ^ k else n) 0
  (if x.handler then 1 else 0) + 2 * wait + 8 * x.stack.length + 2 ^ 8 * joins + 2 ^ 24 * x.queue.length +
    (if x.running.isSome then 2 ^ 28 else 0)

/-- The header and the lane registers of a warp record; `reg` gives the 128 bytes of a register, `loop` the stopped card. -/
def warpRecord (r : LaunchRec) (x : Warp) (loop : W64) (live : Nat) (reg : Nat → List Byte) : List Byte :=
  let obj := match x.wait with | .bwait o => o | .yield o _ => o | _ => 0
  let label : W64 := match x.wait with | .yield _ t => t | _ => 0
  let blocks := (match x.running with | some b => [b] | none => []) ++ x.queue
  let head :=
    (List.range 64).flatMap (fun i => toBytes 8 (spGet x.s i).toNat) ++
    (List.range 16).flatMap (fun i => toBytes 4 (spGet x.m i).toNat) ++
    toBytes 8 x.pc.toNat ++ toBytes 8 (warpStateWord x) ++ toBytes 4 obj ++ toBytes 4 x.widx ++ toBytes 8 label.toNat ++
    padTo 32 (toBytes 8 loop.toNat) ++ pathBytes x.path0 ++ pathBytes x.path1 ++
    padTo 256 (x.stack.flatMap stackBytes) ++ padTo 648 (blocks.flatMap laneBlockBytes) ++
    toBytes 8 x.fpflags.toNat ++ toBytes 8 x.fptraps.toNat ++ toBytes 8 x.dflags.toNat ++ toBytes 8 x.dtraps.toNat ++
    toBytes 8 x.rep.fault.toNat ++ toBytes 8 x.rep.faddr.toNat ++ toBytes 8 x.rep.fspc.toNat ++ toBytes 8 x.rep.flpc.toNat ++
    toBytes 8 x.rep.fw0.toNat ++ toBytes 8 x.rep.fw1.toNat ++ toBytes 8 x.rep.fw2.toNat ++
    toBytes 32 live
  padTo 2048 head ++ (List.range r.vregs).flatMap (fun n => if bitN live n = 1 then reg n else List.replicate 128 0) ++
    (if modeCtxf r.mode then List.replicate 4096 0 else [])

/-- A region descriptor (R148). -/
def regionBytes (g : Region) : List Byte :=
  padTo 16 (toBytes 4 g.base ++ toBytes 4 g.len ++ toBytes 1 g.mode ++ toBytes 1 g.line ++ toBytes 1 g.ways) ++
    padTo 16 (toBytes 8 g.gbase.toNat)

/-- The lines of the mapped regions, region by region. -/
def regionLines (rs : KMap Region) : List Nat :=
  (rs.filter fun e => e.2.mode ≥ 2).flatMap fun e => (List.range (e.2.len / 2 ^ e.2.line)).map fun k => lineKey e.1 k

/-- Tag, valid and dirty of a line in 8 bytes: a tag is a multiple of 256 (log 10). -/
def lineBytes (l : LineState) : List Byte := toBytes 8 (l.tag.toNat / 4 * 4 + (if l.valid then 1 else 0) + if l.dirty then 2 else 0)

def contBytes (c : Cont) : List Byte :=
  ((List.range 8).flatMap fun i => toBytes 8 (c.args.getD i 0).toNat) ++ toBytes 8 c.label.toNat ++ toBytes 4 c.object ++
    toBytes 4 c.widx

/-- Bit `w` for each warp of a block that has arrived. -/
def arrivedBits (es : List Arrival) (gblock : Nat) : Nat :=
  (List.range 32).foldl (fun n w => if es.any (fun a => a.widx == w && a.gblock == gblock) then n + 2 ^ w else n) 0

/-- The block record before its warp records and continuations. -/
def blockHead (l : Launch) (b : Block) (len : Nat) : List Byte :=
  let heads := (List.range 8).flatMap fun c =>
    let ch := kGet b.chans c
    toBytes 8 (if ch.walking then ch.head.toNat else 0)
  toBytes 8 b.index.toNat ++ toBytes 4 len ++ toBytes 2 b.lcore ++ toBytes 1 (count1 l) ++
    toBytes 1 ((if b.abandoned then 1 else 0) + if modeCtxf l.record.mode then 2 else 0) ++ toBytes 4 b.conts.length ++
    toBytes 4 (arrivedBits b.episode b.gblock) ++ toBytes 8 (arrivedBits (gangEpisode l b.gang) b.gblock) ++ heads ++
    List.replicate 32 0 ++ (List.range 16).flatMap (fun r => regionBytes (kGet b.regions r)) ++
    (regionLines b.regions).flatMap (fun k => lineBytes (kGet b.lines k)) ++ readBytes b.scratch 0 l.record.scratch

/-- The bytes of a warp record. -/
def warpLen (r : LaunchRec) : Nat := 2048 + 128 * r.vregs + if modeCtxf r.mode then 4096 else 0

/-- Where the region image and the scratchpad image stand, and the record's length with `n` warps (R197). -/
def scratchOff (b : Block) : Nat := 128 + 512 + 8 * (regionLines b.regions).length
def blockLen (r : LaunchRec) (b : Block) (n : Nat) : Nat :=
  scratchOff b + r.scratch + n * warpLen r + 80 * b.conts.length

/-- The warps of a block, in warp-index order. -/
def State.warpsOf (s : State) (bk : Nat) : List (Nat × Warp) :=
  (List.range 32).flatMap fun w => s.warps.filter fun e => e.2.block == bk && e.2.widx == w

/-- 128 bytes of a register as they would be saved: those of an absent one stand in the save area where its live bit is set,
and are zero where it is not (R201). -/
def State.regGot (s : State) (ctx : Nat) (x : Warp) (n : Nat) : EntryGot :=
  if !x.absent.contains n then .bytes ((List.range 32).flatMap fun l => toBytes 4 (vreg x n l).toNat)
  else if bitN x.savedLive n = 1 then s.readGot ctx (x.saveArea + BitVec.ofNat 64 (0x800 + 128 * n)) 128
  else .bytes (List.replicate 128 0)

/-- The bytes of a register that can be read. -/
def State.regBytes (s : State) (ctx : Nat) (x : Warp) (n : Nat) : List Byte :=
  match s.regGot ctx x n with
  | .bytes b => b
  | _ => List.replicate 128 0

/-- What saving a block waits for or fails at: a register to save that is absent, and whose bytes cannot be read (R194). -/
def State.saveLacks (s : State) (bk : Nat) : Option (W64 × EntryGot) :=
  let l := s.launch (s.block bk).launch
  let ps := s.safeOf bk
  (s.warpsOf bk).findSome? fun e =>
    let live := liveMask l.record ps e.2
    e.2.absent.findSome? fun n => if bitN live n = 0 then none else match s.regGot l.ctx e.2 n with
      | .bytes _ => none
      | r => some (e.2.saveArea + BitVec.ofNat 64 (0x800 + 128 * n), r)

/-- The whole record of a block. -/
def State.blockRecord (s : State) (bk : Nat) : List Byte :=
  let b := s.block bk
  let l := s.launch b.launch
  let ws := s.warpsOf bk
  let ps := s.safeOf bk
  blockHead l b (blockLen l.record b ws.length) ++
    ws.flatMap (fun e =>
      let loop : W64 := match s.jobs.find? fun j => j.2.mloop && j.2.warp == e.1 with
        | some j => j.2.addr
        | none => 0
      warpRecord l.record e.2 loop (liveMask l.record ps e.2) (s.regBytes l.ctx e.2)) ++
    b.conts.flatMap contBytes

/-- The save area: its address and its length in bytes (R323). -/
def saveBase (r : LaunchRec) : W64 := BitVec.ofNat 64 (r.save.toNat / 65536 * 65536)
def saveSize (r : LaunchRec) : Nat := r.save.toNat % 65536 * 65536

/-- Where the next record of a launch goes: after the others, or first where nothing in the area is still wanted. -/
def State.saveAt (s : State) (num : Nat) : Nat :=
  let l := s.launch num
  if l.saved.isEmpty && s.warps.all fun w => w.2.launch != num || w.2.absent.isEmpty then 0
  else (l.saveNext + 255) / 256 * 256

/-- The block's record fits what is left of the save area (R196). -/
def State.saveFits (s : State) (bk : Nat) : Bool :=
  let b := s.block bk
  let r := (s.launch b.launch).record
  s.saveAt b.launch + blockLen r b (s.warpsOf bk).length ≤ saveSize r

/-- Every warp of the block's gang has stopped. -/
def State.gangStopped (s : State) (bk : Nat) : Bool :=
  let b := s.block bk
  (s.gangKeys b.launch b.gang).all fun k => s.warps.all fun e => e.2.block != k || e.2.stopped

/-- A loop that has stopped at a step boundary, its card written back (R196, R231). -/
def loopStopped (j : Job) : Bool := j.mloop && j.stage == 3

/-- The block's records, loops, interrupted ATTBs and, in NATIVE format, stamped stores are at their boundaries (R196, R170). -/
def State.saveReady (s : State) (bk : Nat) : Bool :=
  let b := s.block bk
  let l := s.launch b.launch
  (s.jobs.all fun j => j.2.block != bk || loopStopped j.2) &&
    (s.warps.all fun e => e.2.block != bk || (e.2.path0.outs.isEmpty && e.2.path1.outs.isEmpty)) &&
    (modeCtxf l.record.mode || s.dies.all fun d => d.2.queue.all fun q => q.block != bk)

/-- Write a record to the save area: its units on this device at once, the others as stores of the launch engine. -/
def State.saveBytes (s : State) (ctx launch : Nat) (va : W64) (bs : List Byte) : State :=
  (List.range ((bs.length + 7) / 8)).foldl (fun s i =>
    let a := va + BitVec.ofNat 64 (8 * i)
    let u := (bs.drop (8 * i)).take 8
    match s.check ctx a 1 with
    | .here pa pte => (s.storeAt pte pa u).noteGated (some launch) false pa 8
    | .remote fa => s.sendWrite .engine ctx a fa u
    | _ => s) s

/-- A KAPP that has reserved positions on a slot, or a maintenance of it, is under way (R241). -/
def State.slotBusy (s : State) (core k : Nat) : Bool :=
  s.warps.any fun e => (s.block e.2.block).pcore == core &&
    (([e.2.path0, e.2.path1].any fun q => (q.reserved.map (·.1)) == some k) || (e.2.kvDone.map (·.1)) == some k)

/-- What the launch's slots on a core wait for before they are written back: an operation under way, as KSEQ.st does, or a home whose
page is asked for. None where they can go. -/
def State.slotsWait (s : State) (core : Nat) (mine : Seq → Bool) : Option State :=
  let slots := (s.core core).slots.filter fun e => e.2.loaded && mine e.2
  if slots.any fun e => s.slotBusy core e.1 then some s
  else match slots.filter fun e => s.check e.2.ctx (e.2.home + 8) 1 == .away with
    | [] => none
    | es => some (es.foldl (fun s e => s.promote e.2.ctx (e.2.home + 8) (core / 44) e.2.owner) s)

/-- BLOCK_SAVE (R196): once every warp of its gang has stopped, its save area can take its record and the launch's slots on its core
can be written back (R240), they are, the block's record is written and the block leaves its core. A save area that fails its checks
holds no block: the forced reset follows at D2 (R195, log 30). -/
def opBlockSave (bk : Nat) (s : State) : State :=
  match kGet? s.blocks bk with
  | none => s
  | some b =>
    let l := s.launch b.launch
    if b.completed || b.unsavable || !s.stopping bk || !s.gangStopped bk || !s.saveReady bk || !s.saveFits bk then s
    else
      let mine (q : Seq) : Bool := q.owner == b.launch
      match s.saveLacks bk with
      | some (a, .bad c) => (s.logRead l.ctx c a 0 128).forceReset l.ctx
      | some (_, .hold k a) => s.want l.ctx k a b.launch
      | some (_, .bytes _) => s
      | none =>
        let bs := s.blockRecord bk
        let va := saveBase l.record + BitVec.ofNat 64 (s.saveAt b.launch)
        let units := (List.range ((bs.length + 7) / 8)).map fun i => va + BitVec.ofNat 64 (8 * i)
        let vs := units.map fun a => (a, s.check l.ctx a 1)
        match vs.findSome? fun v => match v.2 with | .bad c => some (v.1, c) | _ => none with
        | some (a, c) => (s.logRead l.ctx c a 1 (min bs.length 65535)).setBlock bk { b with unsavable := true }
        | none =>
          match vs.find? fun v => v.2 == .away with
          | some v => s.promote l.ctx v.1 0 b.launch
          | none =>
          match s.slotsWait b.pcore mine with
          | some t => t
          | none =>
            let s := s.unloadSlots b.pcore mine false (.flush bk)
            let entry : Saved := ⟨bk, va, bs.length, b, s.warpsOf bk, []⟩
            let next := s.saveAt b.launch + bs.length
            let s := s.saveBytes l.ctx b.launch va bs
            let s := { s with
              warps := s.warps.filter fun w => w.2.block != bk
              jobs := s.jobs.filter fun j => j.2.block != bk
              blocks := kErase s.blocks bk }
            (s.farUsed l.ctx).modLaunch b.launch fun l => { l with
              saved := l.saved ++ [entry]
              saveNext := next
              tally := { l.tally with preempts := min 65535 (l.tally.preempts + 1) } }
def execBlockSave (b : Nat) (s : State) : Host.Outcome State Fault Refusal := .next (opBlockSave b s)

/-- FORCED_RESET (R199): D2 ends on a core with a warp of a block that is being stopped for it not stopped, or a block that its save
area does not hold. -/
def opForcedReset (victim : Nat) (s : State) : State :=
  match kGet? s.eng.launches victim with
  | none => s
  | some l =>
    let late (bk : Nat) : Bool := s.eng.preempts.any fun e =>
      s.stops bk e.2 && (s.die (e.2.core / 44)).count ≥ e.2.since + l.d2
    let open_ := s.blocks.any fun b =>
      b.2.launch == victim && !b.2.completed && late b.1 && (!s.gangStopped b.1 || !s.saveFits b.1 || b.2.unsavable)
    if open_ then s.forceReset l.ctx else s
def execForcedReset (launch : Nat) (s : State) : Host.Outcome State Fault Refusal := .next (opForcedReset launch s)

/-! ## Resumption (R200, R201) -/

def pathFrom (old : Path) (b : List Byte) : Path :=
  { old with
    mask := BitVec.ofNat 32 (fieldN b 0 4), pc := fieldN b 4 4, rpc := rpcOf (fieldN b 8 4), live := bitN (fieldN b 12 4) 0 == 1
    cont := bitN (fieldN b 12 4) 1 == 1, visits := if bitN (fieldN b 12 4) 1 = 1 then fieldN b 12 4 / 4 % 16 else 0
    outs := [], park := none, io := none, retWait := false, reserved := none }
def stackFrom (isJoin : Bool) (from_ : Nat) (b : List Byte) : StackEntry :=
  ⟨isJoin, BitVec.ofNat 32 (fieldN b 0 4), fieldN b 4 4, rpcOf (fieldN b 8 4), BitVec.ofNat 32 (fieldN b 12 4), from_⟩
def laneBlockFrom (b : List Byte) : LaneBlock :=
  ⟨fieldN b 0 4, (List.range 8).map fun i => BitVec.ofNat 64 (fieldN b (8 + 8 * i) 8)⟩

/-- A warp as its record gives it, with what the record has no field for taken from the warp that was saved (log 17). Its
lane registers are absent (R200). -/
def warpFrom (r : LaunchRec) (area : W64) (slot : Nat) (old : Warp) (b : List Byte) : Warp :=
  let q (lo : Nat) : W64 := BitVec.ofNat 64 (fieldN b lo 8)
  let st := fieldN b 0x248 8
  let obj := fieldN b 0x250 4
  let depth := min (st / 8 % 32) 16
  let blocks := (List.range 9).map fun i => laneBlockFrom ((b.drop (0x3A0 + 72 * i)).take 72)
  let run := bitN st 28 == 1
  { old with
    slot := slot
    s := (List.range 64).foldl (fun m i => if i = 0 then m else spSet m i (q (8 * i))) []
    m := (List.range 16).foldl (fun m i => if i = 0 then m else spSet m i (BitVec.ofNat 32 (fieldN b (0x200 + 4 * i) 4))) []
    v := []
    absent := List.range r.vregs
    missed := []
    saveArea := area
    savedLive := fieldN b 0x680 32
    pc := q 0x240
    lastPc := q 0x240
    wait := match st / 2 % 4 with
      | 1 => .bwait obj
      | 2 => .yield obj (q 0x258)
      | _ => .none
    handler := bitN st 0 == 1
    path0 := pathFrom old.path0 ((b.drop 0x280).take 16)
    path1 := pathFrom old.path1 ((b.drop 0x290).take 16)
    stack := (List.range depth).map fun k => stackFrom (bitN st (8 + k) == 1) ((old.stack[k]?.map (·.from_)).getD 0)
      ((b.drop (0x2A0 + 16 * k)).take 16)
    running := if run then blocks.head? else none
    queue := ((if run then blocks.drop 1 else blocks).take (min (st / 2 ^ 24 % 16) 8))
    fpflags := q 0x628, fptraps := q 0x630, dflags := q 0x638, dtraps := q 0x640
    rep := ⟨q 0x648, q 0x650, q 0x658, q 0x660, BitVec.ofNat 32 (fieldN b 0x668 4), BitVec.ofNat 32 (fieldN b 0x670 4),
      BitVec.ofNat 32 (fieldN b 0x678 4)⟩
    held := []
    mirror := freshMirror r
    stopped := false }

/-- A waiter whose object no longer records it has been woken (R176). -/
def rewake (b : Block) (x : Warp) : Warp :=
  let lost (o : Nat) : Bool :=
    let q := readObj b o
    q.state != 1 || !hasLane q.waiters x.widx
  let waits (w : ScalarWait) : Option Nat := match w with
    | .bwait o => some o
    | .yield o _ => some o
    | _ => none
  match (waits x.wait).orElse fun _ => waits x.savedWait with
  | some o => { x with woken := lost o }
  | none => x

/-- The line state of 8 bytes. -/
def lineFrom (n : Nat) : LineState := ⟨bitN n 0 == 1, bitN n 1 == 1, BitVec.ofNat 64 (n / 4 * 4)⟩

/-- The armed barrier objects of a block stand in its scratchpad image as they did (R173). -/
def contFrom (b : Block) (c : List Byte) : Cont :=
  let o := fieldN c 72 4
  let w := fieldN c 76 4
  let q := readObj b o
  ⟨(List.range 8).map fun i => BitVec.ofNat 64 (fieldN c (8 * i) 8), BitVec.ofNat 64 (fieldN c 64 8), o, w,
    q.state != 1 || !hasLane q.conts w⟩

/-- The regions of a block's record, and where its scratchpad image stands (R197). -/
def savedRegions (b : List Byte) : KMap Region :=
  (List.range 16).filterMap fun i =>
    match regionDesc ((b.drop (128 + 32 * i)).take 32) with
    | some g => if g.mode = 0 then none else some (i, g)
    | none => none
def savedImage (b : List Byte) : Nat := 640 + 8 * (regionLines (savedRegions b)).length

/-- A block as its record gives it, on a core, with what the record has no field for taken from the block that was saved: an idle
channel, for which the record holds 0 (R197), gets its head back (DESIGN CHOICE, log 17). It is redrawn where its drawn core has left
service since it was admitted (R74, R337). -/
def blockFrom (l : Launch) (old : Block) (map : List Nat) (core warps : Nat) (b : List Byte) : Block :=
  let r := l.record
  let descs := savedRegions b
  let keys := regionLines descs
  let lines := keys.zipIdx.foldl (fun m (k, i) =>
    let n := fieldN b (640 + 8 * i) 8
    if n = 0 then m else kSet m k (lineFrom n)) ([] : KMap LineState)
  let at_ := savedImage b
  let tail := b.drop (at_ + r.scratch + warps * warpLen r)
  let bits := fieldN b 20 4
  let chan (c : Nat) : Chan :=
    let h := BitVec.ofNat 64 (fieldN b (32 + 8 * c) 8)
    let q : Chan := { kGet old.chans c with walking := h != 0, io := none, park := none, again := false }
    if h = 0 then q else { q with head := h }
  let new : Block := { old with
    pcore := core
    lcore := map.idxOf core
    abandoned := old.abandoned || bitN (fieldN b 15 1) 0 == 1
    regions := descs
    lines := lines
    scratch := writeBytes [] 0 ((b.drop at_).take r.scratch)
    chans := (List.range 8).map fun c => (c, chan c)
    episode := old.episode.filter fun a => bitN bits a.widx == 1
    redrawn := old.redrawn || (modeDet r.mode != 0 && core != old.pcore)
    unsavable := false }
  let conts := (List.range (min (fieldN b 16 4) 32)).map fun i => contFrom new ((tail.drop (80 * i)).take 80)
  { new with conts := conts }

/-- Re-issue a saved MLOOP card (R200): its 64 bytes `k`, read again, enter as its warp's job, for which a scalar stream that was
suspended at it when its warp took a fault goes on waiting. -/
def State.reissueLoop (s : State) (w : Nat) (card : W64) (k : List Byte) : State :=
  let (s, id) := s.enterLoop w card k (s.warp w).loopWord
  let x := s.warp w
  match x.savedWait with
  | .mloop _ => s.setWarp w { x with savedWait := .mloop id }
  | _ => s

/-- The warp records of a saved block: key, warp as saved, place in the record, bytes. -/
def savedWarps (r : LaunchRec) (e : Saved) (b : List Byte) : List (Nat × Warp × Nat × List Byte) :=
  e.warps.zipIdx.map fun (w, i) =>
    let at_ := savedImage b + r.scratch + i * warpLen r
    (w.1, w.2, at_, (b.drop at_).take (warpLen r))

/-- The MLOOP cards of a saved block's warps. -/
def savedCards (r : LaunchRec) (e : Saved) (b : List Byte) : List (Nat × W64) :=
  (savedWarps r e b).filterMap fun (w, _, _, bs) =>
    let c := BitVec.ofNat 64 (fieldN bs 0x260 8)
    if c = 0 then none else some (w, c)

/-- The stores that a FORERUNNER record holds, byte by byte in their order, with the warp index they belong to (R171, R198). -/
def savedStores (r : LaunchRec) (e : Saved) (b : List Byte) : List (Nat × W64 × Byte) :=
  if !modeCtxf r.mode then []
  else (savedWarps r e b).flatMap fun (_, old, _, bs) =>
    let buf := bs.drop (2048 + 128 * r.vregs)
    (List.range (min (fieldN buf 0 8) 63)).flatMap fun i =>
      let q := buf.drop (16 + 64 * i)
      (List.range 32).filterMap fun k =>
        if bitN (fieldN q 8 4) k = 0 then none
        else some (old.widx, BitVec.ofNat 64 (fieldN q 0 8 + k), q.getD (32 + k) 0)

/-- R171: a saved store is performed before the first instruction of its warp; a release of the warp that covers one on another
device waits for its acknowledgement (R172). -/
def State.replayStore (s : State) (ctx launch bk widx : Nat) (a : W64) (v : Byte) : State :=
  match s.check ctx a 1 with
  | .here pa pte => (s.storeAt pte pa [v]).noteGated (some launch) false pa 1
  | .remote fa => s.sendWrite (.replay bk widx) ctx a fa [v]
  | .bad c => s.logRead ctx c a 1 1
  | .away => s

/-- A pending continuation of a block is discarded by a kill: its bit leaves its object, and its warp is abandoned. -/
def State.killCont (s : State) (bk : Nat) (c : Cont) (code : Nat) : State :=
  let b := clearObjBits (s.block bk) c.object c.widx
  let s := s.setBlock bk { b with
    abandoned := true
    killed := b.killed ++ [(c.widx, code, c.label)]
    conts := b.conts.filter (·.widx != c.widx) }
  let s := s.modLaunch b.launch fun l => { l with tally := tallyKill l.tally code (warpWid b c.widx) c.label }
  (s.settleEpisodes bk).settleBlock bk

/-- R181: WKILL of a warp whose continuation is saved with its block discards it at once; the record keeps it, so `kills` drops
it again from what is restored. -/
def State.killSavedCont (s : State) (launch : Nat) (e : Saved) (c : Cont) : State :=
  let b := clearObjBits e.block c.object c.widx
  let b := { b with
    abandoned := true
    killed := b.killed ++ [(c.widx, 0x11, c.label)]
    conts := b.conts.filter (·.widx != c.widx) }
  s.modLaunch launch fun l => { l with
    saved := l.saved.map fun q => if q.key = e.key then { q with block := b, kills := q.kills ++ [c.widx] } else q
    tally := tallyKill l.tally 0x11 (warpWid e.block c.widx) c.label }

/-- A continuation discarded while its block was saved leaves the restored block and its object. -/
def State.dropCont (s : State) (bk : Nat) (c : Cont) : State :=
  let b := clearObjBits (s.block bk) c.object c.widx
  (s.setBlock bk { b with conts := b.conts.filter (·.widx != c.widx) }).settleEpisodes bk

/-- Put one saved block back on a core, its loops re-issued with the cards read, its saved stores performed, and kill the warps
that WKILL named while it was saved (R359). -/
def State.restoreBlock (s : State) (num core : Nat) (slots : List Nat) (e : Saved) (b : List Byte)
    (cards : List (Nat × W64 × List Byte)) : State :=
  let l := s.launch num
  let r := l.record
  let blk := blockFrom l e.block s.coreMap core e.warps.length b
  let s := { s with blocks := kSet s.blocks e.key blk }
  let recs := savedWarps r e b
  let s := recs.zipIdx.foldl (fun s ((w, old, at_, bs), i) =>
    let x := rewake blk (warpFrom r (e.addr + BitVec.ofNat 64 at_) (slots.getD i 0) old bs)
    { s with warps := kSet s.warps w x }) s
  let s := (cards.filter fun c => recs.any fun q => q.1 == c.1).foldl (fun s (w, c, k) => s.reissueLoop w c k) s
  let s := (savedStores r e b).foldl (fun s (i, a, v) => s.replayStore l.ctx num e.key i a v) s
  let s := recs.foldl (fun s (w, old, _, _) => if e.kills.contains old.widx then s.haltWarp w 0x11 (s.warp w).pc else s) s
  (blk.conts.filter fun c => e.kills.contains c.widx).foldl (fun s c => s.dropCont e.key c) s

/-- What a resumption reads before it restores anything: the records of its blocks, and the cards of their loops; or the state in
which it waits, or in which a read that failed has reset the context (log 30). -/
inductive ResumeGot where
  | go (recs : List (List Byte)) (cards : List (Nat × W64 × List Byte))
  | stop (s : State)
  deriving DecidableEq, Repr, Inhabited

/-- The first of some reads that has not given its bytes: the state it leads to. -/
def State.readStop (s : State) (num : Nat) (gots : List (W64 × Nat × EntryGot)) : Option State :=
  let ctx := (s.launch num).ctx
  gots.findSome? fun (a, n, g) => match g with
    | .bytes _ => none
    | .hold k va => some (s.want ctx k va num)
    | .bad c => some (((s.logRead ctx c a 0 (min n 65535)).farUsed ctx).forceReset ctx)

/-- The bytes of a read. -/
def gotBytes : EntryGot → List Byte
  | .bytes b => b
  | _ => []

def State.resumeGot (s : State) (num : Nat) (mine : List Saved) : ResumeGot :=
  let l := s.launch num
  let gots := mine.map fun e => (e.addr, e.len, s.readGot l.ctx e.addr e.len)
  match s.readStop num gots with
  | some t => .stop t
  | none =>
    let recs := gots.map fun g => gotBytes g.2.2
    let cards := (mine.zip recs).flatMap fun (e, b) => savedCards l.record e b
    let reads := cards.map fun (_, c) => (c, 64, s.readGot l.ctx c 64)
    match s.readStop num reads with
    | some t => .stop t
    | none =>
      match ((mine.zip recs).flatMap fun (e, b) => savedStores l.record e b).find? fun q => s.check l.ctx q.2.1 1 == .away with
      | some q => .stop (s.promote l.ctx q.2.1 0 num)
      | none => .go recs ((cards.zip reads).map fun (c, g) => (c.1, c.2, gotBytes g.2.2))

/-- BLOCK_RESUME (R200, R335, R337): the saved blocks of a gang take cores with room, and the warp slots given. -/
def opBlockResume (num : Nat) (slots : List (List Nat)) (s : State) : State :=
  match kGet? s.eng.launches num with
  | none => s
  | some l =>
    match l.saved.head?, waitingTasks l with
    | some first, some g =>
      let mine := l.saved.filter fun c => c.block.gang == first.block.gang
      if !placeable l || s.gangResident num first.block.gang then s
      else match s.pickCores num g with
        | none => s
        | some cs =>
          let s := s.reserveFor num g.1
          let places := mine.zip (cs.zip slots)
          let fits := places.length == mine.length && places.all fun (e, c, k) =>
            s.slotsOk l.record e.warps.length c k && s.coreConts c + e.block.conts.length ≤ 1024
          if !cs.all (s.roomOn num) || !s.firstInOrder num || !fits then s
          else match s.resumeGot num mine with
            | .stop t => t
            | .go recs cards =>
              let s := s.dropStale.modLaunch num fun l => { l with saved := l.saved.filter fun c => c.block.gang != first.block.gang }
              let s := (places.zip recs).foldl (fun s (p, b) => s.restoreBlock num p.2.1 p.2.2 p.1 b cards) s
              let s := mine.foldl (fun s e => s.settleBlock e.key) s
              let s := s.farUsed l.ctx
              { s with eng := { s.eng with
                reserved := kErase s.eng.reserved num
                rrNext := kSet s.eng.rrNext l.effective ((s.queueOf l + 1) % 17) } }
    | _, _ => s
def execBlockResume (launch : Nat) (slots : List (List Nat)) (s : State) : Host.Outcome State Fault Refusal :=
  .next (opBlockResume launch slots s)

/-- REGISTER_MISS (R201): an absent register that an instruction has named is fetched from the save area, and the instruction will
issue again. A register whose live bit was 0 reads 0. A fetch that fails its checks force-resets the context; one that meets poison
waits for the runtime, which repairs it or gives the warp up (log 48). -/
def opRegisterMiss (w reg : Nat) (s : State) : State :=
  match kGet? s.warps w with
  | none => s
  | some x =>
    let ctx := (s.launch x.launch).ctx
    let put (bs : List Byte) : State :=
      let y := (List.range 32).foldl (fun x l => setVreg x reg l (BitVec.ofNat 32 (fieldN bs (4 * l) 4))) x
      (s.setWarp w { y with absent := x.absent.filter (· != reg), missed := x.missed.filter (· != reg) }).farUsed ctx
    if !(x.missed.contains reg && x.absent.contains reg) then s
    else match s.regGot ctx x reg with
      | .bytes bs => put bs
      | .bad c => (s.logRead ctx c (x.saveArea + BitVec.ofNat 64 (0x800 + 128 * reg)) 0 128).forceReset ctx
      | .hold .poison a => s.reportPoison (streamKey w 3) 0 ((s.block x.block).pcore / 44) x.launch a (warpWid (s.block x.block) x.widx)
      | .hold k a => s.want ctx k a x.launch
def execRegisterMiss (w reg : Nat) (s : State) : Host.Outcome State Fault Refusal := .next (opRegisterMiss w reg s)

end Sys2Proof.Machine
end

