-- ==== Sys2Proof/Machine/Check.lean ====
section
/-! DEFINITION. The check engine: digests, error banks, repair, kills, core states, scans, the core map and poison reports
(R347, R354 to R363, R368, R369). -/

namespace Sys2Proof.Machine

/-- DIGR (R347). -/
def opDigr (d a b : BitVec 6) (s : State) : State :=
  let x := s.me
  let l := (sreg x a).toNat
  let t := (sreg x b).toNat
  s.needPriv
    (if sregWait x [d, a, b] then s
     else match s.eng.retained.find? fun r => r.launch == l with
      | none => s.scalarFault cOPERAND 0 0
      | some r => match r.tasks.find? fun e => e.1 == t with
        | none => s.scalarFault cOPERAND 0 0
        | some e => s.scalarDone d e.2)
def execDigr (d a b : BitVec 6) (s : State) : Host.Outcome State Fault Refusal := .next (opDigr d a b s)

/-! ## ERRQ (R354 to R357) -/

/-- A bank id that names a bank (R354). -/
def bankOk (n : Nat) : Bool :=
  let die := n / 256
  let u := n % 256
  if die < 4 then u ≤ 43 || (48 ≤ u && u ≤ 54)
  else (die == 4 || die == 5) && (u ≤ 5 || (u == 6 && die == 4) || (16 ≤ u && u ≤ 21))

/-- The 32 bytes of an error bank record (R355). -/
def bankBytes (b : Bank) : List Byte :=
  toBytes 1 b.severity ++ toBytes 1 (if b.ovf then 1 else 0) ++ toBytes 2 b.syndrome ++ toBytes 4 b.ce ++ toBytes 4 b.ue ++
    toBytes 4 0 ++ toBytes 8 b.addr.toNat ++ toBytes 8 b.time.toNat

/-- The 32 bytes of a violation record (R16). -/
def vioBytes (v : VioRec) : List Byte :=
  toBytes 8 v.addr.toNat ++ toBytes 2 v.device ++ toBytes 1 v.kind ++ toBytes 1 v.code ++ toBytes 4 v.ctx.toNat ++
    toBytes 4 v.origin.toNat ++ toBytes 1 v.access ++ toBytes 1 0 ++ toBytes 2 v.len ++ toBytes 8 v.time.toNat

/-- The header and records of a die's violation log (R357). -/
def logImage (d : Die) : List Byte :=
  toBytes 4 d.log.length ++ toBytes 4 d.logOver ++ List.replicate 24 0 ++ d.log.flatMap vioBytes

/-- The checks of a store of `n` bytes at an aligned address, with nothing written (R63); none where they pass. -/
def State.storeCheck (s : State) (va : W64) (n : Nat) : Option State :=
  let vs := (List.range ((n + 7) / 8)).map fun i =>
    let a := va + BitVec.ofNat 64 (8 * i)
    (a, s.check s.myCtx a 1)
  match vs.find? fun e => verdictBad cXLATE e.2 with
  | some (a, _) => some (s.badAs false cXLATE a 1 n)
  | none => match vs.find? fun e => verdictBad cPERM e.2 with
    | some (a, _) => some (s.badAs false cPERM a 1 n)
    | none => match vs.find? fun e => e.2 == .away with
      | some (a, _) => some (s.parkScalar .residency a 1)
      | none => none

/-- The record that 32 bytes hold (R355). -/
def bankFrom (b : List Byte) : Bank :=
  ⟨fieldN b 0 1, bitN (fieldN b 1 1) 0 == 1, fieldN b 2 2, fieldN b 4 4, fieldN b 8 4, BitVec.ofNat 64 (fieldN b 16 8),
    BitVec.ofNat 64 (fieldN b 24 8)⟩

/-- A record and the errors that have arrived since it was taken out, as one (R356). -/
def bankMerge (r b : Bank) : Bank :=
  let light (n : Nat) : Bool := n == 1 || n == 4
  let ce := min 0xFFFFFFFF (r.ce + b.ce)
  if r.severity = 0 then b
  else if b.severity = 0 then r
  else if light r.severity then (if light b.severity then { r with ce := ce } else { b with ce := ce })
  else { r with ce := ce, ue := min 0xFFFFFFFF (r.ue + b.ue), ovf := r.ovf || b.ue != 0 }

/-- What the scalar stream has sent to another device with the access that it waits for. -/
def keptOf (x : Warp) : Option (List Byte) := match x.wait with | .io w => some w.kept | _ => none

/-- An access that has just left for another device keeps what it sent. -/
def State.keepSent (s : State) (bs : List Byte) : State :=
  match s.me.wait with
  | .io w => s.setMe { s.me with wait := .io { w with kept := bs } }
  | _ => s

/-- ERRQ.read (R357): the bank is cleared in the step that takes its record out. A record that goes to a buffer on another device is
kept until it is acknowledged there, and returns to its bank, before the errors since, where it is refused. -/
def opErrqRead (d a b : BitVec 6) (s : State) : State :=
  let x := s.me
  let k := (sreg x a).toNat
  let va := sreg x b
  s.needPriv
    (if sregWait x [d, a, b] then s
     else if !bankOk k then s.scalarFault cOPERAND 0 0
     else if va.toNat % 32 ≠ 0 then s.scalarFault cALIGN va 1
     else
      let r := match keptOf x with | some bs => bankFrom bs | none => kGet s.banks k
      match s.recordGot va 32 1 0 (bankBytes r) with
      | .stop t => match keptOf x, keptOf t.me with
        | none, some _ => ({ t with banks := kErase t.banks k }).keepSent (bankBytes r)
        | some _, none => { t with banks := if r.severity = 0 then t.banks else kSet t.banks k (bankMerge r (kGet t.banks k)) }
        | _, _ => t
      | .bytes _ =>
        let s := if (keptOf x).isNone then { s with banks := kErase s.banks k } else s
        (s.writeVa s.myCtx (some x.launch) va (bankBytes r)).scalarDone d (BitVec.ofNat 64 r.severity))
def execErrqRead (d a b : BitVec 6) (s : State) : Host.Outcome State Fault Refusal := .next (opErrqRead d a b s)

/-- The entries of a table that are not zero: their indices and what they hold. -/
def State.tableAt (s : State) (base n : Nat) : List (Nat × Nat) :=
  (((s.mem.filter fun c => decide (base ≤ c.1 ∧ c.1 < base + 8 * n)).map fun c => (c.1 - base) / 8).eraseDups).map fun i =>
    (i, s.phys64 (base + 8 * i))

/-- Every page that a page table maps, with where its entry stands (R276). -/
def State.pages (s : State) (root : Nat) : List (W64 × Walk) :=
  let next (va bit n : Nat) (e : Nat) : List (Nat × Nat) :=
    if ptrOk e then (s.tableAt (ptrAddr e) n).map fun (i, e) => (va + i * 2 ^ bit, e) else []
  ((s.tableAt root 1024).map fun (i, e) => (i * 2 ^ 46, e)).flatMap fun (va, e) =>
    (next va 37 512 e).flatMap fun (va, e) => (next va 29 256 e).flatMap fun (va, e) =>
      if !ptrOk e then []
      else (s.tableAt (ptrAddr e) 256).flatMap fun (i, e4) =>
        let va := va + i * 2 ^ 21
        let p := BitVec.ofNat 64 e4
        if pteBig p then (if pteOk p then [(BitVec.ofNat 64 va, ⟨p, ptrAddr e + 8 * i, true⟩)] else [])
        else if !ptrOk e4 then []
        else (s.tableAt (ptrAddr e4) 32).filterMap fun (k, e5) =>
          let q := BitVec.ofNat 64 e5
          if pteOk q && !pteBig q then some (BitVec.ofNat 64 (va + k * 65536), ⟨q, ptrAddr e4 + 8 * k, false⟩) else none

/-- The flag poison-any is set to `v` in every entry that maps the frame of a physical address, and whose frame `f` picks (R277). -/
def State.flagFrames (s : State) (pa : Nat) (v : Bool) (f : Nat → Nat → Bool) : State :=
  s.mgmt.contexts.foldl (fun s c =>
    (s.pages c.2.root.toNat).foldl (fun s (va, wk) =>
      let base := walkPa wk va
      let size := if wk.big then 2 ^ 21 else 65536
      if pteTier wk.pte ≤ 1 && pteKind wk.pte != 3 && base ≤ pa && pa < base + size && f base size then
        s.setBit c.1 va wk.at_ fun p => pteSetPoison p v
      else s) s) s

/-- A sector of physical memory is poisoned: every entry that maps its frame says so (R143, R277). -/
def State.poisonSector (s : State) (pa : Nat) : State :=
  ({ s with poison := if s.poison.contains (pa / 32) then s.poison else s.poison ++ [pa / 32] }).flagFrames pa true fun _ _ => true

/-- A sector of physical memory loses its poison: the flag falls with the last one of the frame in every entry that maps it (R277,
R291), and a park on it that comes after a new error is reported anew (R358). -/
def State.clearPoison (s : State) (pa : Nat) : State :=
  let s := { s with poison := s.poison.filter (· != pa / 32) }
  let there (e : Nat × Nat × W64) : Bool := match s.translate e.2.1 e.2.2 with
    | some wk => walkPa wk e.2.2 / 32 == pa / 32
    | none => true
  ({ s with mgmt := { s.mgmt with reported := s.mgmt.reported.filter fun e => !there e } }).flagFrames pa false fun base size =>
    !s.poisoned base size

/-- ERRQ.repair (R357): it acts first as FENCE.rel.sys, then repairs the sector if it is poisoned. -/
def opErrqRepair (d a : BitVec 6) (s : State) : State :=
  let x := s.me
  let va := sreg x a
  s.needPriv
    (if sregWait x [d, a] || laneWait x || !x.held.isEmpty then s
     else if va.toNat % 32 ≠ 0 then s.scalarFault cALIGN va 0
     else match s.check s.myCtx va 0 with
      | .bad c => s.badAs false c va 0 32
      | .away => s.parkScalar .residency va 0
      | .remote _ => s.release (s.scalarDone d 1)
      | .here pa _ =>
        s.release (if s.poisoned pa 32 then (s.clearPoison pa).scalarDone d 0 else s.scalarDone d 1))
def execErrqRepair (d a : BitVec 6) (s : State) : Host.Outcome State Fault Refusal := .next (opErrqRepair d a s)

/-- A violation log loses the records and the overflow count that have been written out of it (R357). -/
def logTaken (d : Die) (n over_ : Nat) : Die := { d with log := d.log.drop n, logOver := d.logOver - over_ }

/-- ERRQ.log (R357). What went to a buffer on another device leaves the log when it is acknowledged there; what has come since
stays. -/
def opErrqLog (d a b : BitVec 6) (s : State) : State :=
  let x := s.me
  let die := (sreg x a).toNat
  let va := sreg x b
  s.needPriv
    (if sregWait x [d, a, b] then s
     else if die > 5 then s.scalarFault cOPERAND 0 0
     else if va.toNat % 32 ≠ 0 then s.scalarFault cALIGN va 1
     else
      let u := s.die die
      match keptOf x with
      | some bs =>
        let n := fieldN bs 0 4
        (match s.recordGot va (32 + 32 * n) 1 0 (padTo (32 + 32 * n) bs) with
        | .stop t => t
        | .bytes _ => (s.setDie die (logTaken u n (fieldN bs 4 4))).scalarDone d (BitVec.ofNat 64 n))
      | none => match s.storeCheck va 8224 with
        | some t => t
        | none =>
          let bs := logImage u
          match s.recordGot va bs.length 1 0 bs with
          | .stop t => t.keepSent (bs.take 8)
          | .bytes _ =>
            ((s.setDie die (logTaken u u.log.length u.logOver)).writeVa s.myCtx (some x.launch) va bs).scalarDone d
              (BitVec.ofNat 64 u.log.length))
def execErrqLog (d a b : BitVec 6) (s : State) : Host.Outcome State Fault Refusal := .next (opErrqLog d a b s)

/-- The address that an error's record holds: for a register of a warp or a mirror mismatch the scalar PC of the pair (R344). -/
def State.errorAddr (s : State) (sev syndrome addr victim : Nat) : W64 :=
  match kGet? s.warps victim with
  | some x => if sev = 3 && (syndrome == 2 || syndrome == 3) then x.pc else BitVec.ofNat 64 addr
  | none => BitVec.ofNat 64 addr

/-- An error that a warp consumes is recorded by the bank of its core (R344, R356). -/
def State.bankOfVictim (s : State) (sev bank victim : Nat) : Bool :=
  sev != 3 || match kGet? s.warps victim with
    | some x => bank == coreBank (s.block x.block).pcore
    | none => true

/-- ERROR_BANK_UPDATE (R356): an error arrives, an input. An uncorrectable error consumed by a warp kills it (R344); one
contained in an HBM stack poisons its sector (R143, DEDUCED), and one contained in a core damages 32 bytes of the scratchpad of the
block named, which a reader then consumes (R143, log 45). -/
def opErrorBankUpdate (bank sev syndrome addr victim : Nat) (s : State) : State :=
  if !bankOk bank || sev = 0 || sev > 4 || syndrome ≥ 2 ^ 16 || ((sev == 4) != decide (syndrome ≥ 0x10)) ||
      !s.bankOfVictim sev bank victim then s
  else
    let s := s.bankError bank sev syndrome (s.errorAddr sev syndrome addr victim)
    if sev = 3 then
      match kGet? s.warps victim with
      | some x => s.haltWarp victim (if syndrome = 3 then 0x12 else 0x11) x.pc
      | none => s
    else if sev = 2 && bank / 256 < 4 && 49 ≤ bank % 256 && bank % 256 ≤ 51 then s.poisonSector addr
    else if sev = 2 && bank / 256 < 4 && bank % 256 < 44 then
      match kGet? s.blocks victim with
      | some b =>
        if b.pcore = bank / 256 * 44 + bank % 256 then s.setBlock victim { b with damaged := b.damaged ++ [addr / 32] } else s
      | none => s
    else s
def execErrorBankUpdate (bank sev syndrome addr victim : Nat) (s : State) : Host.Outcome State Fault Refusal :=
  .next (opErrorBankUpdate bank sev syndrome addr victim s)

/-! ## Poison reports (R358) -/

/-- The 31 bytes [1:31] of a report. -/
def reportBytes (r : PoisonRep) (time : Nat) : List Byte :=
  toBytes 1 0x10 ++ toBytes 1 r.kind ++ toBytes 1 r.die ++ toBytes 4 r.launch ++ toBytes 8 r.sector.toNat ++
    toBytes 8 r.requester.toNat ++ toBytes 8 time

def State.setReport (s : State) (k : Nat) (r : PoisonRep) : State :=
  { s with mgmt := { s.mgmt with reports := setAt s.mgmt.reports k r } }

/-- While a report waits, the bank of the sector's HBM stack holds a record of it, once (R358); the stack is a free value
(log 16). -/
def State.bankReport (s : State) (k : Nat) (r : PoisonRep) : State :=
  if r.banked then s
  else match s.translate (s.launch r.launch).ctx r.sector with
    | some wk =>
      let pa := walkPa wk r.sector
      let stack := Config.freeStack (pa / 32) % 12
      (s.bankError (stack / 3 * 256 + 49 + stack % 3) 2 0x0001 (BitVec.ofNat 64 pa)).setReport k { r with banked := true }
    | none => s

def State.dropReport (s : State) (k : Nat) : State :=
  { s with mgmt := { s.mgmt with reports := s.mgmt.reports.eraseIdx k } }

/-- A report whose ring refuses it waits; a refused permission leaves one violation record (R15, log 42). -/
def State.ringBad (s : State) (k : Nat) (r : PoisonRep) (v : Verdict) (va : W64) (n : Nat) : State :=
  match v with
  | .bad c =>
    let s := s.bankReport k r
    if c = cPERM && !r.refused then
      (s.logViolation r.die va 7 c s.mgmt.ringCtx r.die 2 n).setReport k { r with banked := true, refused := true }
    else s
  | _ => s.bankReport k r

/-- POISON_REPORT (R358): report `k` takes a slot of the ring; then, once byte 0 of the slot is 0, it is written there. With
the ring disabled, the record of the bank is all that it leaves (DEDUCED, log 21). -/
def opPoisonReport (k : Nat) (s : State) : State :=
  match s.mgmt.reports[k]? with
  | none => s
  | some r =>
    let ctx := s.mgmt.ringCtx
    let base := s.mgmt.ringBase
    if base = 0 then (s.bankReport k r).dropReport k
    else match r.slot with
      | none =>
        match s.check ctx base 2 with
        | .here pa pte =>
          let p := ofBytes (readBytes s.mem pa 4)
          let n := (spGet s.mem (pa + 4)).toNat
          let s := (s.storeAt pte pa (toBytes 4 (p + 1))).noteGated none true pa 4
          s.setReport k { r with slot := some (p % 2 ^ n) }
        | .away => (s.promote ctx base r.die 0).bankReport k r
        | v => s.ringBad k r v base 4
      | some j =>
        let va := base + BitVec.ofNat 64 (32 + 32 * j)
        match s.check ctx va 2 with
        | .here pa pte =>
          if spGet s.mem pa ≠ 0 then s.bankReport k r
          else
            let bs := toBytes 1 1 ++ reportBytes r (dieE (s.die r.die))
            ((s.storeAt pte pa bs).noteGated none false pa 32).dropReport k
        | .away => (s.promote ctx va r.die 0).bankReport k r
        | v => s.ringBad k r v va 32
def execPoisonReport (k : Nat) (s : State) : Host.Outcome State Fault Refusal := .next (opPoisonReport k s)

/-! ## WKILL (R359, R181) -/

/-- The saved block that holds a warp or continuation with a work identifier, not killed before. -/
def savedHolds (e : Saved) (wid : W64) : Option Nat :=
  let ws := e.warps.map (·.2.widx) ++ e.block.conts.map (·.widx)
  ws.find? fun w => warpWid e.block w == wid && !e.kills.contains w

/-- A warp waits for a register whose bytes in the save area are poisoned (R201). -/
def State.missPoisoned (s : State) (x : Warp) : Bool :=
  x.missed.any fun n => x.absent.contains n && match s.regGot (s.launch x.launch).ctx x n with
    | .hold .poison _ => true
    | _ => false

/-- Kill the warp of a launch with a work identifier, if there is one. The runtime gives up a warp that waits for a poisoned register
by killing it: that poison is not repaired, so the context is force-reset (R201, DEDUCED, log 48). -/
def State.killWid (s : State) (launch : Nat) (wid : W64) : Option State :=
  match s.warps.find? fun w => w.2.launch == launch && warpWid (s.block w.2.block) w.2.widx == wid with
  | some w => some (if s.missPoisoned w.2 then s.forceReset (s.launch launch).ctx else s.haltWarp w.1 0x11 w.2.pc)
  | none =>
    match s.blocks.find? fun b => b.2.launch == launch && b.2.conts.any fun c => warpWid b.2 c.widx == wid with
    | some b => (b.2.conts.find? fun c => warpWid b.2 c.widx == wid).map fun c => s.killCont b.1 c 0x11
    | none =>
      let l := s.launch launch
      match l.saved.find? fun e => (savedHolds e wid).isSome with
      | some e =>
        match e.block.conts.find? fun c => warpWid e.block c.widx == wid with
        | some c => some (s.killSavedCont launch e c)
        | none =>
          let mark (c : Saved) : Saved := if c.key = e.key then { c with kills := c.kills ++ (savedHolds c wid).toList } else c
          some (s.modLaunch launch fun l => { l with saved := l.saved.map mark })
      | none => none

/-- WKILL (R359). -/
def opWkill (d a b : BitVec 6) (s : State) : State :=
  let x := s.me
  let l := (sreg x a).toNat
  let wid := sreg x b
  s.needPriv
    (if sregWait x [d, a, b] then s
     else if l = x.launch && wid == warpWid s.myBlock x.widx then s.scalarFault cOPERAND 0 0
     else match s.killWid l wid with
      | some t => if (kGet? t.warps t.cur.warp).isNone then t else t.scalarDone d 0
      | none => s.scalarDone d 1)
def execWkill (d a b : BitVec 6) (s : State) : Host.Outcome State Fault Refusal := .next (opWkill d a b s)

/-! ## Core states, scan and the map (R360 to R363, R368, R369) -/

/-- The physical core that a register names by its logical number; none where it breaks R361. -/
def State.coreArg (s : State) (v : W64) : Option Nat :=
  match s.coreMap[v.toNat]? with
  | some c => if c = s.myBlock.pcore then none else some c
  | none => none

/-- The blocks on a core, those with only continuations left among them. -/
def State.coreBlocks (s : State) (core : Nat) : Nat :=
  (s.blocks.filter fun b => b.2.pcore == core && !b.2.completed).length

/-- An instruction on a core in one of the states given. -/
def State.onCore (s : State) (rs : List (BitVec 6)) (a : BitVec 6) (ok : Core → Bool) (body : Nat → State) : State :=
  s.needPriv
    (if sregWait s.me rs then s
     else match s.coreArg (sreg s.me a) with
      | none => s.scalarFault cOPERAND 0 0
      | some c => if ok (s.core c) then body c else s.scalarFault cOPERAND 0 0)

/-- CORECTL.drain (R360, R361). -/
def opCorectlDrain (d a : BitVec 6) (s : State) : State :=
  s.onCore [d, a] a (fun c => c.state == .active) fun c =>
    (s.setCore c { s.core c with state := .draining }).scalarDone d (BitVec.ofNat 64 (s.coreBlocks c))
def execCorectlDrain (d a : BitVec 6) (s : State) : Host.Outcome State Fault Refusal := .next (opCorectlDrain d a s)

/-- CORECTL.isolate (R360): it waits until the core is empty. -/
def opCorectlIsolate (a : BitVec 6) (s : State) : State :=
  s.onCore [a] a (fun c => c.state == .draining) fun c =>
    if s.coreBlocks c ≠ 0 then s else (s.setCore c { s.core c with state := .isolated }).scalarNext
def execCorectlIsolate (a : BitVec 6) (s : State) : Host.Outcome State Fault Refusal := .next (opCorectlIsolate a s)

/-- CORECTL.release (R360). -/
def opCorectlRelease (a : BitVec 6) (s : State) : State :=
  s.onCore [a] a (fun c => c.state == .draining || c.state == .isolated) fun c =>
    (s.setCore c { s.core c with state := .active }).scalarNext
def execCorectlRelease (a : BitVec 6) (s : State) : Host.Outcome State Fault Refusal := .next (opCorectlRelease a s)

/-- SCAN (R360, R361): the pattern runs 200 µs from now. -/
def opScan (a b : BitVec 6) (s : State) : State :=
  let va := sreg s.me b
  s.onCore [a, b] a (fun c => c.state == .isolated) fun c =>
    if va.toNat % 16 ≠ 0 then s.scalarFault cALIGN va 1
    else match s.storeCheck va 16 with
      | some t => t
      | none =>
        (s.setCore c { s.core c with
          state := .scanning, scanned := true, aborted := false, signalled := false
          scanEnd := (s.die (c / 44)).count + 200000, scanBuf := va, scanCtx := s.myCtx }).scalarNext
def execScan (a b : BitVec 6) (s : State) : Host.Outcome State Fault Refusal := .next (opScan a b s)

/-- SCANWT (R362). -/
def opScanwt (d a : BitVec 6) (s : State) : State :=
  s.onCore [d, a] a (fun c => c.scanned) fun c =>
    if (s.core c).state = .scanning then s
    else s.scalarDone d (if (s.core c).aborted then 1 else 0)
def execScanwt (d a : BitVec 6) (s : State) : Host.Outcome State Fault Refusal := .next (opScanwt d a s)

/-- A class signal that was sent while a scan ran has reached its sequencer before the pattern ends: the scan is aborted and does not
complete (R338, R369). -/
def State.mustAbort (s : State) (core : Nat) : Bool :=
  let c := s.core core
  (s.die (core / 44)).signals.any fun t => c.scanEnd ≤ t + 200000 && t + 500 < c.scanEnd

/-- SCAN_COMPLETE (R360, R362, R368): 200 µs have passed; the signature, an input of 128 bits, is written as a store, and the
core is ISOLATED, once a target on another device has acknowledged it (R172, R396). -/
def opScanComplete (core : Nat) (lo hi : W64) (s : State) : State :=
  let c := s.core core
  if c.state ≠ .scanning || (s.die (core / 44)).count < c.scanEnd || s.mustAbort core ||
      s.requestsOf (fun q => q.asker == .scan core) then s
  else
    let bs := toBytes 8 lo.toNat ++ toBytes 8 hi.toNat
    let done (s : State) : State := s.setCore core { s.core core with state := .isolated, signalled := false }
    match s.check c.scanCtx c.scanBuf 1 with
    | .away => s.promote c.scanCtx c.scanBuf (core / 44) 0
    | .here pa pte => done ((s.storeAt pte pa bs).noteGated none false pa 16)
    | .remote fa => s.sendWrite (.scan core) c.scanCtx c.scanBuf fa bs
    | .bad e => done (if e = cPERM then s.logViolation (core / 44) c.scanBuf 7 e c.scanCtx (core / 44) 1 16 else s)
def execScanComplete (core : Nat) (lo hi : W64) (s : State) : Host.Outcome State Fault Refusal :=
  .next (opScanComplete core lo hi s)

/-- The count at which the oldest class signal on its way reaches a die's sequencer: now, or where it is later than that the end of
the 0.5 µs it may take (R338). -/
def arrivalOf (d : Die) : Nat := match d.signals with
  | t :: _ => min d.count (t + 500)
  | [] => d.count

/-- The signal aborts every core that is SCANNING when it arrives, and whose pattern has not ended by then (R369). -/
def aborted (d : Die) (c : Core) : Bool :=
  let t := arrivalOf d
  c.state == .scanning && (c.signalled || !d.signals.isEmpty) && decide (c.scanEnd ≤ t + 200000 ∧ t < c.scanEnd)

/-- SCAN_ABORT (R360, R369): a signal reaches a die's sequencer. -/
def opScanAbort (die : Nat) (s : State) : State :=
  let d := s.die die
  let s := if d.signals.isEmpty then s else s.setDie die { d with signals := d.signals.drop 1 }
  (s.cores.filter fun e => e.1 / 44 == die && aborted d e.2).foldl (fun s e =>
    let ran := arrivalOf d + 200000 - e.2.scanEnd
    (s.setCore e.1 { s.core e.1 with state := .active, aborted := true, signalled := false }).bankError (coreBank e.1) 4 0x0030
      (BitVec.ofNat 64 ran)) s
def execScanAbort (die : Nat) (s : State) : Host.Outcome State Fault Refusal := .next (opScanAbort die s)

/-- The spare physical cores of a die: unmapped and not failed, lowest first (R363). -/
def State.spares (s : State) (die : Nat) : List Nat :=
  (List.range' (44 * die) 44).filter fun c => !s.coreMap.contains c && !s.failed.contains c

/-- Every resident block's logical core number follows the map. -/
def State.renumber (s : State) : State :=
  { s with blocks := kMap (fun _ (b : Block) =>
      if s.coreMap.contains b.pcore then { b with lcore := s.coreMap.idxOf b.pcore } else b) s.blocks }

/-- A launch's own map follows a replaced core, and so do the drawn cores of its saved blocks; a removed one leaves it (R337). -/
def State.mapLaunches (s : State) (f : Nat → Nat) : State :=
  let saved (e : Saved) : Saved := { e with block := { e.block with pcore := f e.block.pcore } }
  { s with eng := { s.eng with launches := kMap (fun _ (l : Launch) =>
      { l with map := l.map.map f, saved := l.saved.map saved }) s.eng.launches } }

/-- LCMAP (R363): the core's state goes on under its logical number. -/
def opLcmap (d a b : BitVec 6) (s : State) : State :=
  let want := sreg s.me b
  s.onCore [d, a, b] a (fun c => c.state == .isolated) fun c =>
    let spares := s.spares (c / 44)
    let pick := if want = BitVec.allOnes 64 then spares.head? else spares.find? (· == want.toNat)
    match pick with
    | some n =>
      let old := s.core c
      let s := { s with
        coreMap := s.coreMap.map fun p => if p = c then n else p
        failed := s.failed ++ [c]
        mgmt := { s.mgmt with map := s.mgmt.map.map fun p => if p = c then n else p } }
      let s := (s.setCore n { s.core n with state := old.state, scanned := old.scanned, aborted := old.aborted }).mapLaunches
        fun p => if p = c then n else p
      s.scalarDone d (BitVec.ofNat 64 n)
    | none =>
      if want ≠ BitVec.allOnes 64 then s.scalarFault cOPERAND 0 0
      else
        let s := { s with
          coreMap := s.coreMap.filter (· != c)
          failed := s.failed ++ [c]
          mgmt := { s.mgmt with map := s.mgmt.map.filter (· != c) } }
        ((s.mapLaunches fun p => if p = c then p + 1000 else p).renumber).scalarDone d (BitVec.allOnes 64)
def execLcmap (d a b : BitVec 6) (s : State) : Host.Outcome State Fault Refusal := .next (opLcmap d a b s)

end Sys2Proof.Machine
end

