-- ==== Sys2Proof/Machine/Dec.lean ====
section
/-! DEFINITION. Decimal64 in the binary integer encoding: values, rounding and arithmetic (R104, R105, R126 to R129). -/

namespace Sys2Proof.Machine

/-- A decimal64 value (R104): a NaN, an infinity, or (−1)^neg × coef × 10^q. -/
inductive DVal where
  | nan (signalling : Bool)
  | inf (neg : Bool)
  | fin (neg : Bool) (coef : Nat) (q : Int)
  deriving DecidableEq, Repr, Inhabited

/-- The largest coefficient. -/
def dMax : Nat := 9999999999999999

/-- The value of an encoding; a non-canonical one is a zero with the exponent its field gives, clamped (R105). -/
def decodeD (b : W64) : DVal :=
  let n := b.toNat
  let neg := n / 2 ^ 63 == 1
  if n / 2 ^ 59 % 16 = 15 then
    if n / 2 ^ 58 % 2 = 0 then .inf neg else .nan (n / 2 ^ 57 % 2 == 1)
  else
    let (e, c) : Nat × Nat :=
      if n / 2 ^ 61 % 4 = 3 then (n / 2 ^ 51 % 1024, 2 ^ 53 + n % 2 ^ 51) else (n / 2 ^ 53 % 1024, n % 2 ^ 53)
    if c > dMax ∨ e > 767 then .fin neg 0 (min e 767 - 398) else .fin neg c (e - 398)

/-- A canonical finite encoding. -/
def encodeD (neg : Bool) (c : Nat) (q : Int) : W64 :=
  let s := if neg then 2 ^ 63 else 0
  let e := (q + 398).toNat
  if c < 2 ^ 53 then BitVec.ofNat 64 (s + e * 2 ^ 53 + c)
  else BitVec.ofNat 64 (s + 3 * 2 ^ 61 + e * 2 ^ 51 + (c - 2 ^ 53))

def qnanD : W64 := 0x7C00000000000000
def infD (neg : Bool) : W64 := if neg then 0xF800000000000000 else 0x7800000000000000

/-- The number of decimal digits, counted with fuel. -/
def digitsFrom (fuel n : Nat) : Nat :=
  match fuel with
  | 0 => 0
  | k + 1 => if n = 0 then 0 else 1 + digitsFrom k (n / 10)
def digits (n : Nat) : Nat := digitsFrom (bitLen n) n

/-- Remove trailing zeros of a coefficient. -/
def stripZeros (fuel n : Nat) (e : Int) : Nat × Int :=
  match fuel with
  | 0 => (n, e)
  | k + 1 => if n % 10 = 0 ∧ n ≠ 0 then stripZeros k (n / 10) (e + 1) else (n, e)

/-- A magnitude `n × 10^-t` rounded to an integer, and whether that is inexact. -/
def roundShift10 (rm : Nat) (neg : Bool) (n t : Nat) : Nat × Bool :=
  let q := n / 10 ^ t
  let r := n % 10 ^ t
  if r = 0 then (q, false) else
  let half := if 2 * r < 10 ^ t then 0 else if 2 * r = 10 ^ t then 1 else 2
  (if roundUp rm neg (q % 2 == 1) half then q + 1 else q, true)

/-- RoundD64 (R55, R105): an exact value ±n × 10^e with the preferred exponent given; the code and the flags. -/
def roundD (neg : Bool) (n : Nat) (e : Int) (rm : Nat) (pref : Int) : W64 × Nat :=
  if n = 0 then (encodeD neg 0 (max (-398) (min pref 369)), 0) else
  let (m, g) := stripZeros (bitLen n) n e
  let d := digits m
  let ovf : W64 × Nat :=
    (if rm = 0 || rm = 4 || (rm = 2 && !neg) || (rm = 3 && neg) then infD neg else encodeD neg dMax 369, fOF ||| fNX)
  if d ≤ 16 ∧ g ≥ -398 then
    -- exact: the exponents that represent it reach from lo to g
    let lo := max (g - (16 - d)) (-398)
    if lo > 369 then ovf
    else
      let q := max lo (min pref (min g 369))
      (encodeD neg (m * 10 ^ (g - q).toNat) q, 0)
  else
    let q := max (g + d - 16) (-398)
    let (c, inexact) := roundShift10 rm neg m (q - g).toNat
    let (c, q) := if c = 10 ^ 16 then (10 ^ 15, q + 1) else (c, q)
    if q > 369 then ovf
    else
      -- tiny: rounded to 16 digits with the exponent unbounded, below 10^-383
      let (u, _) := if d > 16 then roundShift10 rm neg m (d - 16) else (m, false)
      let tiny := (digits u : Int) + (if d > 16 then g + (d - 16) else g) ≤ -383
      (encodeD neg c q, if inexact then (if tiny then fNX ||| fUF else fNX) else 0)

def isNanD : DVal → Bool
  | .nan _ => true
  | _ => false
def isSnanD : DVal → Bool
  | .nan s => s
  | _ => false
def nvD (xs : List DVal) : Nat := if xs.any isSnanD then fNV else 0

/-- The signed coefficient at an exponent not above the value's own. -/
def scaledD (neg : Bool) (c : Nat) (q g : Int) : Int :=
  if neg then -((c * 10 ^ (q - g).toNat : Nat) : Int) else ((c * 10 ^ (q - g).toNat : Nat) : Int)

/-- a + b, rounded (R126); `pref` is the preferred exponent. -/
def addD (a b : DVal) (rm : Nat) (pref : Int) : W64 × Nat :=
  match a, b with
  | .nan _, _ => (qnanD, nvD [a, b])
  | _, .nan _ => (qnanD, nvD [a, b])
  | .inf n, .inf k => if n = k then (infD n, 0) else (qnanD, fNV)
  | .inf n, _ => (infD n, 0)
  | _, .inf k => (infD k, 0)
  | .fin n c q, .fin k d r =>
    let g := min q r
    let v := scaledD n c q g + scaledD k d r g
    if v = 0 then roundD (if c = 0 ∧ d = 0 ∧ n = k then n else rm == 3) 0 0 rm pref
    else roundD (v < 0) v.natAbs g rm pref

def expD : DVal → Int
  | .fin _ _ q => q
  | _ => 0
def negD : DVal → DVal
  | .nan s => .nan s
  | .inf n => .inf (!n)
  | .fin n c q => .fin (!n) c q

/-- a × b exactly (R126). -/
def mulD (a b : DVal) : DVal × Nat :=
  match a, b with
  | .nan _, _ => (.nan false, nvD [a, b])
  | _, .nan _ => (.nan false, nvD [a, b])
  | .fin n c q, .fin k d r => (.fin (n != k) (c * d) (q + r), 0)
  | .inf n, .inf k => (.inf (n != k), 0)
  | .inf n, .fin k d _ => if d = 0 then (.nan false, fNV) else (.inf (n != k), 0)
  | .fin n c _, .inf k => if c = 0 then (.nan false, fNV) else (.inf (n != k), 0)

/-- The code of a value rounded to its own exponent as preferred. -/
def codeD (a : DVal) (rm : Nat) (pref : Int) : W64 × Nat :=
  match a with
  | .nan _ => (qnanD, 0)
  | .inf n => (infD n, 0)
  | .fin n c q => roundD n c q rm pref

/-- DFMA (R126): a × b + c, rounded once. -/
def fmaD (a b c : DVal) (rm : Nat) : W64 × Nat :=
  if isNanD a || isNanD b || isNanD c then (qnanD, nvD [a, b, c])
  else
    let (p, f) := mulD a b
    if isNanD p then (qnanD, f) else addD p c rm (min (expD a + expD b) (expD c))

/-- DQTZ (R127). -/
def quantD (a b : DVal) (rm : Nat) : W64 × Nat :=
  match a, b with
  | .nan _, _ => (qnanD, nvD [a, b])
  | _, .nan _ => (qnanD, nvD [a, b])
  | .inf n, .inf _ => (infD n, 0)
  | .inf _, _ => (qnanD, fNV)
  | _, .inf _ => (qnanD, fNV)
  | .fin n c q, .fin _ _ r =>
    let (m, inexact) := if q ≥ r then (c * 10 ^ (q - r).toNat, false) else roundShift10 rm n c (r - q).toNat
    if m > dMax then (qnanD, fNV) else (encodeD n m r, if inexact then fNX else 0)

/-- The conditions of R118 on decimal values (R128). -/
def condD (cc : Nat) (a b : DVal) : Bool :=
  let un := isNanD a || isNanD b
  let cmp : Int := match a, b with
    | .inf n, .inf k => (if n then -1 else 1) - (if k then -1 else 1)
    | .inf n, _ => if n then -1 else 1
    | _, .inf k => if k then 1 else -1
    | .fin n c q, .fin k d r => let g := min q r; scaledD n c q g - scaledD k d r g
    | _, _ => 0
  match cc with
  | 0 => !un && cmp == 0
  | 1 => un || cmp != 0
  | 2 => !un && cmp < 0
  | 3 => !un && cmp ≥ 0
  | 4 => !un && cmp ≤ 0
  | 5 => !un && cmp > 0
  | 6 => !un
  | _ => un

/-- DCVT into d64 of a binary value (R129): a binary fraction is an exact decimal one. -/
def toD (x : FVal) (rm : Nat) : W64 × Nat :=
  match x with
  | .nan s => (qnanD, if s then fNV else 0)
  | .inf n => (infD n, 0)
  | .fin n m e =>
    if e ≥ 0 then roundD n (m * 2 ^ e.toNat) 0 rm 0 else roundD n (m * 5 ^ (-e).toNat) e rm 0

/-- A decimal value as a binary one, exact or with more bits than FP64 needs and a sticky bit. -/
def ofD (a : DVal) : FVal :=
  match a with
  | .nan s => .nan s
  | .inf n => .inf n
  | .fin n c q =>
    if c = 0 then .fin n 0 0 else if q ≥ 0 then .fin n (c * 10 ^ q.toNat) 0 else ratio n c 0 (10 ^ (-q).toNat) 0

/-- DCVT to f64 (R129). -/
def dToF64 (a : DVal) (rm : Nat) : Nat × Nat :=
  let (c, f) := roundF fmtF64 (ofD a) rm
  (c, f ||| nvD [a])

/-- DCVT to i64 or n64 (R129, R120). -/
def dToInt (signed : Bool) (a : DVal) (rm : Nat) : Nat × Nat :=
  match a with
  | .nan _ => (0, fNV)
  | .inf n => (intCode 64 (if n then intLeast 64 signed else intGreatest 64 signed), fNV)
  | .fin n c q =>
    let (m, inexact) := if q ≥ 0 then (c * 10 ^ q.toNat, false) else roundShift10 rm n c (-q).toNat
    let z : Int := if n then -(m : Int) else m
    if z < intLeast 64 signed then (intCode 64 (intLeast 64 signed), fNV)
    else if z > intGreatest 64 signed then (intCode 64 (intGreatest 64 signed), fNV)
    else (intCode 64 z, if inexact then fNX else 0)

end Sys2Proof.Machine
end

