-- ==== Sys2Proof/Machine/LaneConv.lean ====
section
/-! DEFINITION. Lane decimal arithmetic and block quantisation (R107 to R110, R126 to R131). -/

namespace Sys2Proof.Machine

/-! ## Decimal (R126 to R129) -/

/-- A pair's decimal value. -/
def dA (x : Warp) (f : LaneF) (l : Nat) : DVal := decodeD (vpair x f.va.toNat l)
def dB (x : Warp) (f : LaneF) (l : Nat) : DVal := decodeD (vpair x f.vb.toNat l)
def dC (x : Warp) (f : LaneF) (l : Nat) : DVal := decodeD (vpair x f.vc.toNat l)

/-- Run a long decimal instruction that writes a pair: flags to $DFLAGS, traps, then the writes (R56, R126); `can` are the
flags it can raise (R132). -/
def State.decLong (s : State) (can : Nat) (f : LaneF) (regs : List Nat) (val : Warp → Nat → W64 × Nat) : State :=
  s.laneRun regs (guardMask f) fun s =>
    let (ys, fl) := laneResults (active s.me s.cur.path f) fun l => ((val s.me l).1.toNat, (val s.me l).2)
    s.decEnd fl fun s =>
      s.longRegs (lookOf s.me.dtraps can f.la.toNat) (regsOf true f.vd) (ys.flatMap fun e => resultW true f.vd.toNat e.1 e.2)

/-- The flags that decimal arithmetic can raise (R132). -/
def dCan : Nat := fNV ||| fOF ||| fUF ||| fNX

def valDadd (rm : Nat) (a b : DVal) : W64 × Nat := addD a b rm (min (expD a) (expD b))
def valDsub (rm : Nat) (a b : DVal) : W64 × Nat := addD a (negD b) rm (min (expD a) (expD b))
def valDmul (rm : Nat) (a b : DVal) : W64 × Nat :=
  let (p, fl) := mulD a b
  let (c, g) := codeD p rm (expD a + expD b)
  (c, fl ||| g)

def execDadd (f : LaneF) (s : State) : Host.Outcome State Fault Refusal :=
  .next (s.decLong dCan f (useDAB f) fun x l => valDadd (f.ctlN 13 3) (dA x f l) (dB x f l))
def execDsub (f : LaneF) (s : State) : Host.Outcome State Fault Refusal :=
  .next (s.decLong dCan f (useDAB f) fun x l => valDsub (f.ctlN 13 3) (dA x f l) (dB x f l))
def execDmul (f : LaneF) (s : State) : Host.Outcome State Fault Refusal :=
  .next (s.decLong dCan f (useDAB f) fun x l => valDmul (f.ctlN 13 3) (dA x f l) (dB x f l))
def execDfma (f : LaneF) (s : State) : Host.Outcome State Fault Refusal :=
  .next (s.decLong dCan f (useDABC f) fun x l => fmaD (dA x f l) (dB x f l) (dC x f l) (f.ctlN 13 3))
/-- dqtz (R127). -/
def execDqtz (f : LaneF) (s : State) : Host.Outcome State Fault Refusal :=
  .next (s.decLong (fNV ||| fNX) f (useDAB f) fun x l => quantD (dA x f l) (dB x f l) (f.ctlN 13 3))

/-- dcmp (R128): the mask is a member of the destination set. -/
def opDcmp (f : LaneF) (s : State) : State :=
  s.laneRun (useAB f) (guardMask f ++ maskD f.vd.toNat) fun s =>
    let x := s.me
    let act := active x s.cur.path f
    let ls := lanesOf act
    s.decEnd (ls.foldl (fun a l => a ||| nvD [dA x f l, dB x f l]) 0) fun s =>
      let bits := maskOf (ls.filter fun l => condD (f.ctlN 0 3) (dA x f l) (dB x f l))
      s.laneLong (outst (lookOf s.me.dtraps fNV f.la.toNat) [] (maskD f.vd.toNat) [] [⟨f.vd.toNat, act, bits⟩])
def execDcmp (f : LaneF) (s : State) : Host.Outcome State Fault Refusal := .next (opDcmp f s)

/-- DCVT's value and flags (R129): `other` 0 f64, 1 i64, 2 n64; `out` from d64. -/
def valDcvt (other : Nat) (out : Bool) (rm : Nat) (a : W64) : W64 × Nat :=
  if out then
    let (c, fl) := if other = 0 then dToF64 (decodeD a) rm else dToInt (other == 1) (decodeD a) rm
    (BitVec.ofNat 64 c, fl)
  else toD (if other = 0 then decodeF fmtF64 a.toNat else ofInt (intVal 64 (other == 1) a.toNat)) rm
/-- dcvt (R129). -/
def execDcvt (f : LaneF) (s : State) : Host.Outcome State Fault Refusal :=
  .next (s.decLong dCan f (useDA f) fun x l => valDcvt (f.ctlN 0 2) (f.ctlN 2 1 == 1) (f.ctlN 13 3) (vpair x f.va.toNat l))

/-! ## Block quantisation (R108, R110, R130, R131) -/

/-- The greatest exponent of an element format, as R108 lists it. -/
def emaxElem (ty : Nat) : Int := match ty with | 0x0E => 8 | 0x0F => 15 | 0x10 => 2 | 0x11 => 4 | _ => 2

/-- The sources of a block: their codes' signs and their values. -/
def blockSrc (fm : Fmt) (codes : List Nat) : List (Bool × FVal) :=
  codes.map fun c => (c / 2 ^ (fm.w + fm.p) % 2 == 1, decodeF fm c)

def finiteF : FVal → Bool
  | .fin _ _ _ => true
  | _ => false
def absF : FVal → FVal
  | .fin _ m e => .fin false m e
  | v => v
def maxAbs (xs : List FVal) : FVal := xs.foldl (fun a x => if ltF a (absF x) then absF x else a) (.fin false 0 0)
/-- ⌊log2⌋ of a finite value that is not zero. -/
def floorLog2 : FVal → Int
  | .fin _ m e => (bitLen m : Int) - 1 + e
  | _ => 0

/-- Round one quotient into an element; `big` says that it exceeds the largest finite element. -/
def quantElem (fm : Fmt) (neg : Bool) (q : FVal) (big : Bool) : Nat × Nat :=
  if big then (signCode fm neg + largestCode fm, fNX)
  else
    let (c, fl) := roundF fm q 0
    (c, fl &&& (fNX ||| fUF))

/-- Zeros with the sources' signs. -/
def zeroElems (fm : Fmt) (xs : List (Bool × FVal)) : List Nat := xs.map fun x => signCode fm x.1

/-- R108: the elements' codes, the scale and the flags of an MX block. -/
def quantMx (ty : Nat) (xs : List (Bool × FVal)) : List Nat × Nat × Nat :=
  let fm := fmtOf ty
  let vs := xs.map (·.2)
  if vs.any (fun v => !finiteF v) then (zeroElems fm xs, 0xFF, fNV)
  else if vs.all isZero then (zeroElems fm xs, 0, 0)
  else
    let e := max (-127) (min 127 (floorLog2 (maxAbs vs) - emaxElem ty))
    let r := xs.map fun x =>
      let q : FVal := match x.2 with | .fin n m g => .fin n m (g - e) | v => v
      quantElem fm x.1 q (ltF (decodeF fm (largestCode fm)) (absF q))
    (r.map (·.1), (e + 127).toNat, orFlags r)

/-- R110: the same of a native block with band scale `b`. -/
def quantNative (xs : List (Bool × FVal)) (b : FVal) : List Nat × Nat × Nat :=
  let fm := fmtE2M1
  let vs := xs.map (·.2)
  if vs.any (fun v => !finiteF v) || !finiteF b || (isNeg b && !isZero b) then (zeroElems fm xs, 0xFF, fNV)
  else if vs.all isZero then (zeroElems fm xs, 0, 0)
  else if isZero b then (zeroElems fm xs, 0xFF, fNV)
  else
    let six (c : Nat) : FVal := (mulF (.fin false 6 0) (mulF b (decodeE3M5 c)).1).1
    let amax := maxAbs vs
    let sc := ((List.range 255).find? fun c => !ltF (six c) amax).getD 0xFE
    let d := (mulF b (decodeE3M5 sc)).1
    let r := xs.map fun x => quantElem fm x.1 (divF x.2 d).1 (ltF (six sc) (absF x.2))
    (r.map (·.1), sc, orFlags r)

/-- The source format of BQNT. -/
def bqntFmt (k : Nat) : Fmt := match k with | 0 => fmtF32 | 1 => fmtF16 | _ => fmtBF16

/-- bqnt (R130). -/
def opBqnt (f : LaneF) (s : State) : State :=
  let native := f.ctlN 2 1 == 1
  let regs := regsOf true f.vd ++ regsOf native f.va
  s.laneRun regs (guardMask f) fun s =>
    let x := s.me
    let p := s.cur.path
    let act := active x p f
    let fm := bqntFmt (f.ctlN 0 2)
    let width := fm.w + fm.p + 1
    let codes := (List.range 32).map fun l => if hasLane act l then (vreg x f.va.toNat l).toNat % 2 ^ width else 0
    let src := blockSrc fm codes
    let blocks : List (List Nat × Nat × Nat) :=
      if native then (List.range 4).map fun j =>
        quantNative ((src.drop (8 * j)).take 8) (decodeF fmtBF16 (crossV x p false (f.va.toNat + 1) (8 * j) % 2 ^ 16))
      else [quantMx f.ty.toNat src]
    let out := blocks.flatMap fun b => b.1.map fun c => (c, b.2.1)
    s.fpEnd (blocks.foldl (fun a b => a ||| b.2.2) 0) fun s =>
      s.longRegs (lookOf s.me.fptraps (fNV ||| fUF ||| fNX) f.la.toNat) (regsOf true f.vd) ((lanesOf act).flatMap fun l =>
        let e := out.getD l (0, 0)
        [⟨f.vd.toNat, l, BitVec.ofNat 32 e.1⟩, ⟨f.vd.toNat + 1, l, BitVec.ofNat 32 e.2⟩])
def execBqnt (f : LaneF) (s : State) : Host.Outcome State Fault Refusal := .next (opBqnt f s)

/-- BDQ's value and flags (R131). -/
def valBdq (ty : Nat) (native : Bool) (a b : Nat) : Nat × Nat :=
  let fm := fmtOf ty
  let sc := b % 256
  if sc = 0xFF then (qnan fmtF32, 0)
  else
    let e := decodeF fm (a % 2 ^ (fm.w + fm.p + 1))
    roundCode fmtF32 0 (if native then mulF (mulF e (decodeE3M5 sc)).1 (decodeF fmtBF16 (b / 2 ^ 16))
      else mulF e (decodeE8M0 sc))
/-- bdq (R131). -/
def execBdq (f : LaneF) (s : State) : Host.Outcome State Fault Refusal :=
  .next (s.floatLong (fNV ||| fOF ||| fUF ||| fNX) f ([f.vd.toNat] ++ regsOf true f.va) false fun x l =>
    valBdq f.ty.toNat (f.ctlN 2 1 == 1) (vreg x f.va.toNat l).toNat (vreg x (f.va.toNat + 1) l).toNat)

end Sys2Proof.Machine
end

