-- ==== Sys2Proof/Machine/Sign.lean ====
section
/-! DEFINITION. The digests and signatures of R386 and R387: SHA-512, and Ed25519 over a device's own seed. The manual names
the two and does not restate them: the text is PRESUMED, from FIPS 180-4 and RFC 8032 (log 8). -/

namespace Sys2Proof.Machine

/-! ## SHA-512 -/

def shaK0 : List W64 := [
  0x428a2f98d728ae22, 0x7137449123ef65cd, 0xb5c0fbcfec4d3b2f, 0xe9b5dba58189dbbc,
  0x3956c25bf348b538, 0x59f111f1b605d019, 0x923f82a4af194f9b, 0xab1c5ed5da6d8118,
  0xd807aa98a3030242, 0x12835b0145706fbe, 0x243185be4ee4b28c, 0x550c7dc3d5ffb4e2,
  0x72be5d74f27b896f, 0x80deb1fe3b1696b1, 0x9bdc06a725c71235, 0xc19bf174cf692694,
  0xe49b69c19ef14ad2, 0xefbe4786384f25e3, 0x0fc19dc68b8cd5b5, 0x240ca1cc77ac9c65]
def shaK1 : List W64 := [
  0x2de92c6f592b0275, 0x4a7484aa6ea6e483, 0x5cb0a9dcbd41fbd4, 0x76f988da831153b5,
  0x983e5152ee66dfab, 0xa831c66d2db43210, 0xb00327c898fb213f, 0xbf597fc7beef0ee4,
  0xc6e00bf33da88fc2, 0xd5a79147930aa725, 0x06ca6351e003826f, 0x142929670a0e6e70,
  0x27b70a8546d22ffc, 0x2e1b21385c26c926, 0x4d2c6dfc5ac42aed, 0x53380d139d95b3df,
  0x650a73548baf63de, 0x766a0abb3c77b2a8, 0x81c2c92e47edaee6, 0x92722c851482353b]
def shaK2 : List W64 := [
  0xa2bfe8a14cf10364, 0xa81a664bbc423001, 0xc24b8b70d0f89791, 0xc76c51a30654be30,
  0xd192e819d6ef5218, 0xd69906245565a910, 0xf40e35855771202a, 0x106aa07032bbd1b8,
  0x19a4c116b8d2d0c8, 0x1e376c085141ab53, 0x2748774cdf8eeb99, 0x34b0bcb5e19b48a8,
  0x391c0cb3c5c95a63, 0x4ed8aa4ae3418acb, 0x5b9cca4f7763e373, 0x682e6ff3d6b2b8a3,
  0x748f82ee5defb2fc, 0x78a5636f43172f60, 0x84c87814a1f0ab72, 0x8cc702081a6439ec]
def shaK3 : List W64 := [
  0x90befffa23631e28, 0xa4506cebde82bde9, 0xbef9a3f7b2c67915, 0xc67178f2e372532b,
  0xca273eceea26619c, 0xd186b8c721c0c207, 0xeada7dd6cde0eb1e, 0xf57d4f7fee6ed178,
  0x06f067aa72176fba, 0x0a637dc5a2c898a6, 0x113f9804bef90dae, 0x1b710b35131c471b,
  0x28db77f523047d84, 0x32caab7b40c72493, 0x3c9ebe0a15c9bebc, 0x431d67c49c100d4c,
  0x4cc5d4becb3e42b6, 0x597f299cfc657e2a, 0x5fcb6fab3ad6faec, 0x6c44198c4a475817]

/-- The constants of the eighty rounds. -/
def shaK : List W64 := shaK0 ++ shaK1 ++ shaK2 ++ shaK3

/-- The eight words of a hash in progress. -/
structure ShaWords where
  a : W64
  b : W64
  c : W64
  d : W64
  e : W64
  f : W64
  g : W64
  h : W64
  deriving DecidableEq, Repr, Inhabited

def shaStart : ShaWords := ⟨
  0x6a09e667f3bcc908, 0xbb67ae8584caa73b, 0x3c6ef372fe94f82b, 0xa54ff53a5f1d36f1,
  0x510e527fade682d1, 0x9b05688c2b3e6c1f, 0x1f83d9abfb41bd6b, 0x5be0cd19137e2179⟩

def ror64 (x : W64) (n : Nat) : W64 := x.rotateRight n

/-- The message schedule, newest word first, longer by `n` words. -/
def shaExtend : Nat → List W64 → List W64
  | 0, w => w
  | n + 1, w =>
    let at_ (i : Nat) : W64 := w.getD i 0
    let s0 := ror64 (at_ 14) 1 ^^^ ror64 (at_ 14) 8 ^^^ (at_ 14 >>> (7 : Nat))
    let s1 := ror64 (at_ 1) 19 ^^^ ror64 (at_ 1) 61 ^^^ (at_ 1 >>> (6 : Nat))
    shaExtend n ((at_ 15 + s0 + at_ 6 + s1) :: w)

/-- One round. -/
def shaRound (x : ShaWords) (k w : W64) : ShaWords :=
  let t1 := x.h + (ror64 x.e 14 ^^^ ror64 x.e 18 ^^^ ror64 x.e 41) + ((x.e &&& x.f) ^^^ (~~~x.e &&& x.g)) + k + w
  let t2 := (ror64 x.a 28 ^^^ ror64 x.a 34 ^^^ ror64 x.a 39) + ((x.a &&& x.b) ^^^ (x.a &&& x.c) ^^^ (x.b &&& x.c))
  ⟨t1 + t2, x.a, x.b, x.c, x.d + t1, x.e, x.f, x.g⟩

/-- One block of 128 bytes. -/
def shaBlock (x : ShaWords) (bs : List Byte) : ShaWords :=
  let w0 := (List.range 16).map fun i => BitVec.ofNat 64 (ofBytes ((bs.drop (8 * i)).take 8).reverse)
  let w := (shaExtend 64 w0.reverse).reverse
  let y := (shaK.zip w).foldl (fun y e => shaRound y e.1 e.2) x
  ⟨x.a + y.a, x.b + y.b, x.c + y.c, x.d + y.d, x.e + y.e, x.f + y.f, x.g + y.g, x.h + y.h⟩

/-- A message with its padding: a one bit, zeros, its length in bits. -/
def shaPad (m : List Byte) : List Byte :=
  m ++ [0x80] ++ List.replicate ((239 - m.length % 128) % 128) 0 ++ (toBytes 16 (8 * m.length)).reverse

/-- SHA-512 of a message, 64 bytes. -/
def sha512 (m : List Byte) : List Byte :=
  let p := shaPad m
  let x := (List.range (p.length / 128)).foldl (fun x i => shaBlock x ((p.drop (128 * i)).take 128)) shaStart
  [x.a, x.b, x.c, x.d, x.e, x.f, x.g, x.h].flatMap fun w => (toBytes 8 w.toNat).reverse

/-! ## Ed25519 -/

/-- The field's modulus, the group's order, and the curve's constant. -/
def edP : Nat := 2 ^ 255 - 19
def edL : Nat := 2 ^ 252 + 27742317777372353535851937790883648493
def edD : Nat := 37095705934669439343138083508754565189542113879843219016388785533085940283555

/-- A point in extended coordinates. -/
structure EdPoint where
  x : Nat
  y : Nat
  z : Nat
  t : Nat
  deriving DecidableEq, Repr, Inhabited

def edZero : EdPoint := ⟨0, 1, 1, 0⟩

/-- The base point. -/
def edBase : EdPoint :=
  let x := 15112221349535400772501151409588531511454012693041857206046113283949847762202
  let y := 46316835694926478169428394003475163141307993866256225615783033603165251855960
  ⟨x, y, 1, x * y % edP⟩

def edSub (a b : Nat) : Nat := (a + edP - b) % edP

/-- The sum of two points. -/
def edAdd (p q : EdPoint) : EdPoint :=
  let a := edSub p.y p.x * edSub q.y q.x % edP
  let b := (p.y + p.x) * (q.y + q.x) % edP
  let c := 2 * p.t * q.t * edD % edP
  let d := 2 * p.z * q.z % edP
  let e := edSub b a
  let f := edSub d c
  let g := (d + c) % edP
  let h := (b + a) % edP
  ⟨e * f % edP, g * h % edP, f * g % edP, e * h % edP⟩

/-- `k` times a point, by `n` bits of `k` from the lowest. -/
def edMul : Nat → Nat → EdPoint → EdPoint
  | 0, _, _ => edZero
  | n + 1, k, p =>
    let r := edMul n (k / 2) (edAdd p p)
    if k % 2 = 1 then edAdd p r else r

/-- A power modulo the field's modulus, by `n` bits of the exponent. -/
def edPow : Nat → Nat → Nat → Nat
  | 0, _, _ => 1
  | n + 1, k, a =>
    let r := edPow n (k / 2) (a * a % edP)
    if k % 2 = 1 then a * r % edP else r

/-- The 32 bytes of a point. -/
def edBytes (p : EdPoint) : List Byte :=
  let i := edPow 255 (edP - 2) p.z
  toBytes 32 (p.y * i % edP + 2 ^ 255 * (p.x * i % edP % 2))

/-- The scalar of a seed: the first half of its hash, clamped. -/
def edScalar (seed : List Byte) : Nat :=
  let a := ofBytes ((sha512 seed).take 32)
  2 ^ 254 + a % 2 ^ 254 / 8 * 8

/-- The public key of a seed. -/
def edPublic (seed : List Byte) : List Byte := edBytes (edMul 256 (edScalar seed) edBase)

/-- The signature of a message under a seed, 64 bytes. -/
def edSign (seed m : List Byte) : List Byte :=
  let h := sha512 seed
  let a := edScalar seed
  let r := ofBytes (sha512 (h.drop 32 ++ m)) % edL
  let rb := edBytes (edMul 256 r edBase)
  let k := ofBytes (sha512 (rb ++ edBytes (edMul 256 a edBase) ++ m)) % edL
  rb ++ toBytes 32 ((r + k * a) % edL)

end Sys2Proof.Machine
end

