-- ==== Sys2Proof/Machine/Mgmt.lean ====
section
/-! DEFINITION. The steward: bring-up, the host space, the mailboxes and their commands, the state summary, attestation, and
the thermal limits (R386 to R394). -/

namespace Sys2Proof.Machine

/-! ## Bring-up and reset (R386) -/

/-- The steward's error bank on IO0 (R354). -/
def stewardBank : Nat := 0x0414

/-- A die is withheld: bank 0x0414 records it, with a syndrome the manual does not give, a free value (log 16). -/
def State.withholdDie (s : State) : State :=
  let syn := (Config.freeWord s.draws).toNat % 2 ^ 16
  { s.bankError stewardBank (if syn ≥ 0x10 then 4 else 2) syn 0 with draws := s.draws + 1 }

/-- The links of the two I/O dies, and the pairs of dies, in the numbers of setting 9 (R391). -/
def latencyKeys : List Nat :=
  List.range 7 ++ List.range' 16 6 ++
    (List.range 6).flatMap fun a => (List.range' (a + 1) (5 - a)).map fun b => 0x100 + 8 * a + b

/-- Bring-up measures the least latency of every link (R391, setting 9): a free value in the setting's range (log 49). -/
def State.measure (s : State) : State :=
  let m := latencyKeys.zipIdx.foldl (fun m (k, i) => kSet m k (1 + (Config.freeWord (s.draws + i)).toNat % 100000))
    s.mgmt.settings.latency
  { s with draws := s.draws + latencyKeys.length, mgmt := { s.mgmt with settings := { s.mgmt.settings with latency := m } } }

/-- Bring-up: `verdicts` says how steps 1 to 4 end, and then step 5 on dies 0 to 3, inputs. A failure of the former, an image
whose security version is below the fused counter, or no compute die released, leaves the device in recovery. -/
def State.bringUp (s : State) (verdicts : List Bool) : State :=
  let ok (i : Nat) : Bool := verdicts.getD i false
  let steps := (List.range 4).all ok && s.mgmt.fuse.toNat ≤ s.mgmt.secVersion.toNat
  let dies := (List.range 4).filter fun d => ok (4 + d)
  let bad := (List.range 4).filter fun d => !ok (4 + d)
  if !steps then { s with mgmt := { s.mgmt with recovery := true } }
  else if dies.isEmpty then
    let s := bad.foldl (fun s _ => s.withholdDie) s
    { s with coreMap := [], mgmt := { s.mgmt with recovery := true } }
  else
    let s := (bad.foldl (fun s _ => s.withholdDie) s).measure
    { s with
      coreMap := s.mgmt.map.filter fun c => dies.contains (c / 44)
      dies := kMap (fun k (d : Die) => { d with released := dies.contains k || k ≥ 4 }) s.dies
      fab := { s.fab with routers := kMap (fun _ (r : Router) => { r with recomputing := true }) s.fab.routers }
      mgmt := { s.mgmt with booted := true } }

/-- POWER_ON_BRING_UP (R386). -/
def opPowerOnBringUp (verdicts : List Bool) (s : State) : State :=
  if s.mgmt.booted || s.mgmt.recovery then s else s.bringUp verdicts
def execPowerOnBringUp (verdicts : List Bool) (s : State) : Host.Outcome State Fault Refusal :=
  .next (opPowerOnBringUp verdicts s)

/-- The machine after a device reset. What persists: memory and its poison (log 2), the host's memory, the core map and the
failed cores (R363), the fused counter and the image, the settings that take effect now (R391), the mailboxes, each die's
count (R296), and its heat with the shutdown that it caused (R394). -/
def State.deviceReset (s : State) : State :=
  let r := State.reset
  let t := s.mgmt.settings
  { r with
    turns := s.turns, draws := s.draws, nextId := s.nextId, mem := s.mem, poison := s.poison, host := s.host
    dies := kMap (fun k (d : Die) =>
      let c := (s.die k).count
      { d with count := c, c0 := c, refillAt := c + 100, hot := (s.die k).hot, warm := (s.die k).warm }) r.dies
    coreMap := s.mgmt.map, failed := s.failed
    mgmt := { r.mgmt with
      map := s.mgmt.map, shutdown := s.mgmt.shutdown
      settings := { r.mgmt.settings with
        ecc := t.nextEcc, nextEcc := t.nextEcc, deviceId := t.nextDeviceId, nextDeviceId := t.nextDeviceId }
      mailbox0 := s.mgmt.mailbox0, mailbox1 := s.mgmt.mailbox1
      fuse := s.mgmt.fuse, firmware := s.mgmt.firmware, serial := s.mgmt.serial, secVersion := s.mgmt.secVersion } }

/-! ## The host space (R388, R389, R319) -/

/-- The host link carries accesses and the device answers them. -/
def State.hostReaches (s : State) : Bool := !(kGet s.fab.links 6).dead && !s.mgmt.recovery

/-- Byte `i` of a mailbox takes host writes (R389). -/
def mailboxOpen (i : Nat) : Bool := i < 256 && !(4 ≤ i && i < 8) && !(10 ≤ i && i < 16)

/-- A host write of bytes at an offset of a mailbox. -/
def mailboxWrite (m : Memory) (off : Nat) (bs : List Byte) : Memory :=
  bs.zipIdx.foldl (fun m (b, i) => if mailboxOpen (off + i) then spSet m (off + i) b else m) m

/-- HOST_REGISTER_WRITE (R388, R389): a host write below offset 0x3000. In the register window a write reaches only the
producer fields (R328). -/
def opHostRegisterWrite (off : Nat) (bytes : List Byte) (s : State) : State :=
  if !s.hostReaches || off + bytes.length > 0x3000 then s
  else if off < 0x1000 then
    (List.range 16).foldl (fun s q =>
      let at_ := 32 * q + 16
      if off < at_ + 4 && at_ < off + bytes.length then
        let x := s.queue q
        let old := toBytes 4 x.producer.toNat
        let new := old.zipIdx.map fun (b, i) => if off ≤ at_ + i && at_ + i < off + bytes.length then bytes.getD (at_ + i - off) 0 else b
        (s.setQueue q { x with producer := BitVec.ofNat 32 (ofBytes new) }).queueOver q
      else s) s
  else if off < 0x2000 then { s with mgmt := { s.mgmt with mailbox0 := mailboxWrite s.mgmt.mailbox0 (off - 0x1000) bytes } }
  else { s with mgmt := { s.mgmt with mailbox1 := mailboxWrite s.mgmt.mailbox1 (off - 0x2000) bytes } }
def execHostRegisterWrite (off : Nat) (bytes : List Byte) (s : State) : Host.Outcome State Fault Refusal :=
  .next (opHostRegisterWrite off bytes s)

/-- A host-space offset is outside every region (R388). -/
def hostReserved (off : Nat) : Bool := (0x3000 ≤ off && off < 2 ^ 40) || 2 ^ 40 + 16 * 2 ^ 36 ≤ off

/-- A refused host access writes a violation record of kind 6 on IO0 (R16, R388). -/
def State.logHost (s : State) (off code : Nat) (write : Bool) (len : Nat) : State :=
  s.logFrom 0xFFF 4 (BitVec.ofNat 64 off) 6 code 0xFFFFFFFF 6 (if write then 1 else 0) len

/-- The host is given a response. -/
def State.answerHost (s : State) (code : Nat) (data : List Byte) : State :=
  { s with mgmt := { s.mgmt with reply := some (code, data) } }

/-- The 32 bytes of a queue's control block (R328). -/
def queueBytes (x : HostQueue) : List Byte :=
  toBytes 8 x.base.toNat ++ toBytes 1 x.size ++ toBytes 1 (x.cls + if x.priv then 128 else 0) ++
    toBytes 2 (if x.enable then 1 else 0) ++ toBytes 4 x.ctx ++ toBytes 4 x.producer.toNat ++ toBytes 4 x.consumer.toNat ++
    toBytes 8 x.ring.toNat

/-- The byte that the host reads at an offset below 0x3000 (R388): a control block, a zero, or a mailbox. -/
def State.hostByte (s : State) (off : Nat) : Byte :=
  if off < 0x200 then (queueBytes (s.queue (off / 32))).getD (off % 32) 0
  else if off < 0x1000 then 0
  else if off < 0x2000 then (readBytes s.mgmt.mailbox0 (off - 0x1000) 1).getD 0 0
  else (readBytes s.mgmt.mailbox1 (off - 0x2000) 1).getD 0 0

/-- HOST_RESERVED_ACCESS (R388): an access to a reserved offset draws XLATE; a read below 0x3000, the reserved bytes of the
register window among them, is answered. -/
def opHostReservedAccess (off : Nat) (write : Bool) (len : Nat) (s : State) : State :=
  if !s.hostReaches || off ≥ 2 ^ 48 then s
  else if hostReserved off then (s.logHost off cXLATE write len).answerHost cXLATE []
  else if write || off + len > 0x3000 then s
  else s.answerHost 0 ((List.range len).map fun i => s.hostByte (off + i))
def execHostReservedAccess (off : Nat) (write : Bool) (len : Nat) (s : State) : Host.Outcome State Fault Refusal :=
  .next (opHostReservedAccess off write len s)

/-- A window as the check of an import entry takes it. -/
def windowImport (w : Window) : Import := ⟨w.base, w.len, 0, w.ctx, w.valid, w.r, w.w, false⟩

/-- The request waits at its window already. -/
def State.hostWait (s : State) (win off : Nat) (write : Bool) (data : List Byte) : Option HostWait :=
  s.mgmt.waits.find? fun q => q.win == win && q.off == off && q.write == write && q.data == data

def State.dropWait (s : State) (win off : Nat) (write : Bool) (data : List Byte) : State :=
  { s with mgmt := { s.mgmt with
    waits := s.mgmt.waits.filter fun q => !(q.win == win && q.off == off && q.write == write && q.data == data) } }

/-- One packet of a window access is performed or refused, and adds to the response. -/
def State.windowPiece (s : State) (win off : Nat) (write : Bool) (data : List Byte) (r : Nat × List Byte)
    (o n : Nat) : ReqGot → State × Nat × List Byte
  | .wait _ => (s, r)
  | .refuse code =>
    (s.logHost (2 ^ 40 + win * 2 ^ 36 + o) code write n, if r.1 = 0 then (cIMPORT, r.2) else r)
  | .here pa pte =>
    if write then ((s.storeAt pte pa ((data.drop (o - off)).take n)).noteGated none false pa n, r)
    else (s, r.1, r.2 ++ readBytes s.mem pa n)

/-- HOST_WINDOW_ACCESS (R319, R316): the packets of an access through a window, split at 256-byte boundaries (R309), are each
checked as an import entry checks it, and performed or refused. A request that has to wait keeps the window it was checked
under until it is performed (R390); what a read returns, or the refusal's code, is the response. -/
def opHostWindowAccess (win off : Nat) (write : Bool) (data : List Byte) (s : State) : State :=
  if !s.hostReaches || win ≥ 16 || off + data.length > 2 ^ 36 then s
  else
    let held := s.hostWait win off write data
    let w := match held with | some q => q.entry | none => kGet? s.mgmt.windows win
    let gots := (pieces (BitVec.ofNat 64 off) data.length).map fun (_, a, n) =>
      (a.toNat, n, s.importGot (w.map windowImport) 0 true a.toNat n (if write then 1 else 0) (2 ^ unitOf a n))
    match gots.findSome? fun g => match g.2.2 with | .wait t => some t | _ => none with
    | some t =>
      if held.isSome then t
      else { t with mgmt := { t.mgmt with waits := t.mgmt.waits ++ [⟨win, off, write, data, w⟩] } }
    | none =>
      let r := gots.foldl (fun (r : State × Nat × List Byte) (o, n, g) => r.1.windowPiece win off write data r.2 o n g) (s, 0, [])
      let t := if held.isSome then r.1.dropWait win off write data else r.1
      if write && r.2.1 == 0 then t else t.answerHost r.2.1 r.2.2
def execHostWindowAccess (win off : Nat) (write : Bool) (data : List Byte) (s : State) : Host.Outcome State Fault Refusal :=
  .next (opHostWindowAccess win off write data s)

/-! ## Mailbox commands (R389, R390) -/

def State.mailbox (s : State) (mb : Nat) : Memory := if mb = 0 then s.mgmt.mailbox0 else s.mgmt.mailbox1
def State.setMailbox (s : State) (mb : Nat) (m : Memory) : State :=
  if mb = 0 then { s with mgmt := { s.mgmt with mailbox0 := m } } else { s with mgmt := { s.mgmt with mailbox1 := m } }

/-- The command of a mailbox whose doorbell differs from its done, if there is one. -/
def State.command (s : State) (mb : Nat) : Option Nat :=
  let m := s.mailbox mb
  if readBytes m 0 4 = readBytes m 4 4 then none else some (ofBytes (readBytes m 8 2))

/-- The 240 argument bytes. -/
def State.args (s : State) (mb : Nat) : List Byte := readBytes (s.mailbox mb) 16 240

/-- Argument bytes outside the ranges named (first byte, length) are zero. -/
def argsClean (a : List Byte) (named : List (Nat × Nat)) : Bool :=
  a.zipIdx.all fun (b, i) => b == 0 || named.any fun r => r.1 ≤ i && i < r.1 + r.2

/-- A command ends: status, result, done (R389). -/
def State.finish (s : State) (mb status : Nat) (result : List Byte) : State :=
  let m := s.mailbox mb
  let m := writeBytes m 10 (toBytes 2 status ++ toBytes 4 result.length)
  let m := writeBytes m 256 result
  s.setMailbox mb (writeBytes m 4 (readBytes m 0 4))

def stOK : Nat := 0
def stBadCommand : Nat := 1
def stBadArgument : Nat := 2
def stNotNow : Nat := 3
def stFailed : Nat := 4

/-- Run a command of mailbox 0 when it is the one that waits. -/
def State.onCommand (s : State) (code : Nat) (named : List (Nat × Nat)) (body : List Byte → State) : State :=
  if !s.mgmt.booted || s.command 0 ≠ some code then s
  else if !argsClean (s.args 0) named then s.finish 0 stBadArgument []
  else body (s.args 0)

/-! ### SETTING (R391) -/

/-- A setting's present value and its new settings; none for a value, number or index outside R391. -/
def settingPut (t : Settings) (no index v : Nat) : Option (Nat × Settings) :=
  let link := (index / 16 ≤ 1 && (index % 16 ≤ 5 || index == 6)) ||
    ((index - 0x100) / 8 < 6 && (index - 0x100) % 8 < 6 && 0x100 ≤ index && (index - 0x100) / 8 != (index - 0x100) % 8)
  let key := if 0x100 ≤ index then
      0x100 + 8 * min ((index - 0x100) / 8) ((index - 0x100) % 8) + max ((index - 0x100) / 8) ((index - 0x100) % 8)
    else index
  match no with
  | 1 => if index = 0 && v ≤ 1 then some (t.nextEcc, { t with nextEcc := v }) else none
  | 2 => if index = 0 && [16, 8, 4, 2, 1].contains v then some (t.minWidth, { t with minWidth := v }) else none
  | 3 => if index = 0 && 1200 ≤ v && v ≤ 2800 then some (t.capW, { t with capW := v }) else none
  | 4 => if index = 0 && 100 ≤ v && v ≤ 1000000 then some (t.ilim, { t with ilim := v }) else none
  | 5 => if index = 0 && 1000 ≤ v && v ≤ 10000000 then some (t.d1, { t with d1 := v }) else none
  | 6 => if index = 0 && 1000 ≤ v && v ≤ 10000000 then some (t.d2, { t with d2 := v }) else none
  | 7 => if index = 0 && v ≤ 6 then some (t.preCls, { t with preCls := v }) else none
  | 8 => if 3 ≤ index && index ≤ 7 && 100 ≤ v && v ≤ 1000000 then
      some (t.ages.getD (index - 3) 0, { t with ages := setAt t.ages (index - 3) v }) else none
  | 9 => if link && 1 ≤ v && v ≤ 100000 then
      some ((kGet? t.latency key).getD 1, { t with latency := kSet t.latency key v }) else none
  | 10 => if index = 0 && v ≤ 0xFFE then some (t.nextDeviceId, { t with nextDeviceId := v }) else none
  | _ => none

/-- SETTING (R390, R391). -/
def opSetting (s : State) : State :=
  s.onCommand 0x01 [(0, 16)] fun a =>
    match settingPut s.mgmt.settings (fieldN a 0 4) (fieldN a 4 4) (fieldN a 8 8) with
    | none => s.finish 0 stBadArgument []
    | some (old, t) => { s with mgmt := { s.mgmt with settings := t } }.finish 0 stOK (toBytes 8 old)
def execSetting (s : State) : Host.Outcome State Fault Refusal := .next (opSetting s)

/-- QUEUE (R390, R328): a queue whose producer is then too far ahead is disabled (QUEUE_OVER). -/
def opQueue (s : State) : State :=
  s.onCommand 0x02 [(0, 19), (24, 8)] fun a =>
    let q := fieldN a 0 4
    let ctx := fieldN a 4 4
    let base := fieldN a 8 8
    let size := fieldN a 16 1
    let cls := fieldN a 17 1
    let en := fieldN a 18 1
    let ring := fieldN a 24 8
    let x := s.queue q
    if q ≥ 16 || (kGet? s.mgmt.contexts ctx).isNone || base % 128 ≠ 0 || size < 4 || size > 16 || cls / 8 % 16 ≠ 0 || en > 1 ||
        ring % 64 ≠ 0 then s.finish 0 stBadArgument []
    else if ctx ≠ x.ctx && (x.enable || x.producer != x.consumer) then s.finish 0 stNotNow []
    else
      (s.setQueue q { x with
        ctx := ctx, base := BitVec.ofNat 64 base, size := size, cls := cls % 8, priv := cls ≥ 128, enable := en == 1
        ring := BitVec.ofNat 64 ring }).queueOver q |>.finish 0 stOK []
def execQueue (s : State) : Host.Outcome State Fault Refusal := .next (opQueue s)

/-- The CONTEXT command with one of its two operations. -/
def State.onContext (s : State) (destroy : Bool) (body : Nat → List Byte → State) : State :=
  if !s.mgmt.booted || s.command 0 ≠ some 0x03 then s
  else
    let a := s.args 0
    let op := fieldN a 0 4
    let bad := !argsClean a [(0, 24)] || op > 1 || fieldN a 4 4 > 0xFFFFFFFE
    if bad then (if destroy then s else s.finish 0 stBadArgument [])
    else if (op == 1) != destroy then s
    else body (fieldN a 4 4) a

/-- CONTEXT create (R390). -/
def opContextCreate (s : State) : State :=
  s.onContext false fun ctx a =>
    let c : Context := ⟨BitVec.ofNat 64 (fieldN a 8 8), BitVec.ofNat 64 (fieldN a 16 8)⟩
    { s with mgmt := { s.mgmt with contexts := kSet s.mgmt.contexts ctx c } }.finish 0 stOK []
def execContextCreate (s : State) : Host.Outcome State Fault Refusal := .next (opContextCreate s)

/-- CONTEXT destroy (R390). -/
def opContextDestroy (s : State) : State :=
  s.onContext true fun ctx _ =>
    let busy := (s.eng.launches.any fun l => l.2.ctx == ctx && liveLaunch l.2) ||
      ((s.eng.accepted ++ s.eng.device).any fun q => q.ctx == ctx) ||
      s.eng.queues.any fun q => q.2.ctx == ctx && q.2.enable
    if (kGet? s.mgmt.contexts ctx).isNone then s.finish 0 stBadArgument []
    else if busy then s.finish 0 stNotNow []
    else
      { s with
        mgmt := { s.mgmt with contexts := kErase s.mgmt.contexts ctx }
        dies := kMap (fun _ (d : Die) => { d with energy := kErase d.energy ctx }) s.dies }.finish 0 stOK []
def execContextDestroy (s : State) : Host.Outcome State Fault Refusal := .next (opContextDestroy s)

/-- WINDOW (R390, R319). An unmap waits until the host's requests under the old mapping have been performed. -/
def opWindow (s : State) : State :=
  s.onCommand 0x04 [(0, 25)] fun a =>
    let w := fieldN a 0 4
    let perm := fieldN a 24 1
    let base := fieldN a 8 8
    let len := fieldN a 16 8
    if w ≥ 16 || perm ≥ 8 || base % 65536 ≠ 0 || len > 2 ^ 36 then s.finish 0 stBadArgument []
    else if bitN perm 0 = 0 && s.mgmt.waits.any (fun q => q.win == w) then s
    else
      let e : Window := ⟨fieldN a 4 4, BitVec.ofNat 64 base, len, bitN perm 0 == 1, bitN perm 1 == 1, bitN perm 2 == 1⟩
      { s with mgmt := { s.mgmt with windows := kSet s.mgmt.windows w e } }.finish 0 stOK []
def execWindow (s : State) : Host.Outcome State Fault Refusal := .next (opWindow s)

/-- The bytes of memory that frames may take: the HBM that the error code leaves usable (R14), in which both tiers stand
(R275). -/
def usableBytes (t : Settings) : Nat := (if t.ecc = 1 then 840 else 960) * 10 ^ 9

/-- The frames that the pools have been given. -/
def State.frameCount (s : State) : Nat := (s.dies.map fun d => d.2.frames.length).sum

/-- A frame is mapped: an entry of some context's page table stands for it. -/
def State.frameMapped (s : State) (f : Nat) : Bool :=
  s.mgmt.contexts.any fun c => (s.pages c.2.root.toNat).any fun (va, wk) =>
    let base := walkPa wk va
    pteTier wk.pte ≤ 1 && pteKind wk.pte != 3 && base ≤ f && f < base + (if wk.big then 2 ^ 21 else 65536)

/-- Frames given anew leave the pool list of the die that had them. -/
def State.dropFrames (s : State) (fs : List W64) : State :=
  if fs.any fun f => s.dies.any fun d => d.2.frames.contains f then
    { s with dies := kMap (fun _ (d : Die) => { d with frames := d.frames.filter fun f => !fs.contains f }) s.dies }
  else s

/-- FRAME_POOL (R390, R279): the list stands in the host's memory. More frames than the device has usable memory for end
BAD_ARGUMENT (R14, log 45). -/
def opFramePool (s : State) : State :=
  s.onCommand 0x05 [(0, 2), (8, 12)] fun a =>
    let die := fieldN a 0 1
    let tier := fieldN a 1 1
    let at_ := fieldN a 8 8
    let n := fieldN a 16 4
    let new := (List.range n).map fun i => BitVec.ofNat 64 (ofBytes (readBytes s.host (at_ + 8 * i) 8))
    let known (f : W64) : Bool := s.frameMapped f.toNat || s.dies.any fun d => d.2.pool0.contains f || d.2.pool1.contains f
    let t := s.dropFrames new
    if (t.frameCount + new.length) * 65536 > usableBytes s.mgmt.settings then s.finish 0 stBadArgument []
    else if die > 3 || tier > 1 || new.any known || !decide new.Nodup || (new.any fun f => f.toNat % 65536 != 0) then
      s.finish 0 stBadArgument []
    else
      let d := t.die die
      let d := if tier = 0 then { d with pool0 := d.pool0 ++ new, frames := d.frames ++ new }
        else { d with pool1 := d.pool1 ++ new, frames := d.frames ++ new }
      let size := if tier = 0 then d.pool0.length else d.pool1.length
      (t.setDie die d).finish 0 stOK (toBytes 4 size)
def execFramePool (s : State) : Host.Outcome State Fault Refusal := .next (opFramePool s)

/-- A move to or from tier 2 runs on a die. -/
def State.tier2Move (s : State) (die : Nat) : Bool :=
  s.moves.any fun m => m.2.die == die && m.2.marked && (m.2.tier == 2 || pteTier m.2.pte == 2)

/-- TAG_STORE (R390, R279): a new store holds no records yet. -/
def opTagStore (s : State) : State :=
  s.onCommand 0x06 [(0, 1), (8, 16)] fun a =>
    let die := fieldN a 0 1
    let len := fieldN a 16 8
    if die > 3 || len % 64 ≠ 0 then s.finish 0 stBadArgument []
    else if s.tier2Move die then s.finish 0 stNotNow []
    else (s.setDie die { s.die die with tagBase := BitVec.ofNat 64 (fieldN a 8 8), tagLen := len, tags := [] }).finish 0 stOK []
def execTagStore (s : State) : Host.Outcome State Fault Refusal := .next (opTagStore s)

/-- TAG_REGISTER (R390, R279, R289); a full store ends it FAILED. -/
def opTagRegister (s : State) : State :=
  s.onCommand 0x07 [(0, 1), (8, 72)] fun a =>
    let die := fieldN a 0 1
    let tags := (List.range 16).map fun i => BitVec.ofNat 32 (fieldN a (16 + 4 * i) 4)
    if die > 3 then s.finish 0 stBadArgument []
    else match s.putTags die (BitVec.ofNat 64 (fieldN a 8 8)) tags with
      | some t => t.finish 0 stOK []
      | none => s.finish 0 stFailed []
def execTagRegister (s : State) : Host.Outcome State Fault Refusal := .next (opTagRegister s)

/-- DEBUG (R390, R202). -/
def opDebug (s : State) : State :=
  s.onCommand 0x08 [(0, 4), (8, 11)] fun a =>
    let num := fieldN a 0 4
    let wid := BitVec.ofNat 64 (fieldN a 8 8)
    let w := fieldN a 18 1
    if fieldN a 16 1 > 1 || fieldN a 17 1 > 1 || w > 3 then s.finish 0 stBadArgument []
    else match s.warps.find? fun e => e.2.launch == num && warpWid (s.block e.2.block) e.2.widx == wid with
      | none => s.finish 0 stFailed []
      | some (k, x) =>
        (s.setWarp k { x with
          sstep := if bitN w 0 = 1 then fieldN a 16 1 == 1 else x.sstep
          freeze := if bitN w 1 = 1 then fieldN a 17 1 == 1 else x.freeze }).finish 0 stOK []
def execDebug (s : State) : Host.Outcome State Fault Refusal := .next (opDebug s)

/-- POISON_RING (R390, R358). -/
def opPoisonRing (s : State) : State :=
  s.onCommand 0x09 [(0, 12)] fun a =>
    let base := fieldN a 0 8
    if base % 32 ≠ 0 then s.finish 0 stBadArgument []
    else { s with mgmt := { s.mgmt with ringBase := BitVec.ofNat 64 base, ringCtx := fieldN a 8 4 } }.finish 0 stOK []
def execPoisonRing (s : State) : Host.Outcome State Fault Refusal := .next (opPoisonRing s)

/-- FUSE_ADVANCE (R390, R386): it raises the counter and never lowers it. -/
def opFuseAdvance (s : State) : State :=
  s.onCommand 0x0A [(0, 4)] fun a =>
    if fieldN a 0 4 ≠ s.mgmt.secVersion.toNat then s.finish 0 stBadArgument []
    else
      let v := if s.mgmt.fuse.toNat ≤ s.mgmt.secVersion.toNat then s.mgmt.secVersion else s.mgmt.fuse
      { s with mgmt := { s.mgmt with fuse := v } }.finish 0 stOK []
def execFuseAdvance (s : State) : Host.Outcome State Fault Refusal := .next (opFuseAdvance s)

/-- RESET (R390, R386): the device is reset and brought up again, and done is written if bring-up succeeds. -/
def opReset (verdicts : List Bool) (s : State) : State :=
  s.onCommand 0x0D [] fun _ =>
    let t := s.deviceReset.bringUp verdicts
    if t.mgmt.booted then t.finish 0 stOK [] else t
def execReset (verdicts : List Bool) (s : State) : Host.Outcome State Fault Refusal := .next (opReset verdicts s)

/-- BAD_COMMAND (R389, R390): a code that the mailbox does not accept. -/
def opBadCommand (mb : Nat) (s : State) : State :=
  match s.command mb with
  | none => s
  | some c =>
    let known := if mb = 0 then (1 ≤ c && c ≤ 0x0A) || c == 0x0D else c == 0x0B || c == 0x0C
    if !s.mgmt.booted || mb > 1 || known then s else s.finish mb stBadCommand []
def execBadCommand (mb : Nat) (s : State) : Host.Outcome State Fault Refusal := .next (opBadCommand mb s)

/-! ## The state summary (R392, R393) -/

/-- A section: its type, its die, its body (log 12 gives the layouts that the manual leaves open). -/
structure Section where
  ty : Nat
  die : Nat
  body : List Byte
  deriving DecidableEq, Repr, Inhabited

/-- A launch as the summary shows it: number, class, state (0 waiting, 1 running, 2 complete), marker. -/
def State.launchBytes (s : State) (num : Nat) (l : Launch) : List Byte :=
  let st := if l.complete then 2 else if s.blocks.any fun b => b.2.launch == num && !b.2.completed then 1 else 0
  toBytes 4 num ++ toBytes 1 l.effective ++ toBytes 1 st ++ toBytes 2 0 ++ toBytes 8 l.marker

/-- The engines of a die: the channel heads of its blocks, the slot owners of its cores, the timetable entries started. -/
def State.engineBytes (s : State) (die : Nat) : List Byte :=
  ((s.blocks.filter fun b => b.2.pcore / 44 == die && !b.2.completed).flatMap fun b =>
    toBytes 2 b.2.pcore ++ toBytes 4 b.2.launch ++ toBytes 2 0 ++
      (List.range 8).flatMap fun c => toBytes 8 (kGet b.2.chans c).head.toNat) ++
  ((s.cores.filter fun c => c.1 / 44 == die).flatMap fun c =>
    (c.2.slots.filter fun q => q.2.loaded).flatMap fun q => toBytes 2 c.1 ++ toBytes 2 q.1 ++ toBytes 4 q.2.owner) ++
  (s.eng.launches.flatMap fun l => (l.2.entries.filter fun e => e.2.started && e.2.die == die).flatMap fun e =>
    toBytes 4 l.1 ++ toBytes 2 e.1 ++ toBytes 2 (if e.2.ended then 1 else 0) ++ toBytes 8 e.2.page)

/-- The banks of a die, in the order of R354. -/
def State.bankSection (s : State) (die : Nat) : List Byte :=
  ((List.range 256).filter fun u => bankOk (256 * die + u)).flatMap fun u => bankBytes (kGet s.banks (256 * die + u))

/-- The links of an I/O die: width, retrain count, liveness. -/
def State.linkSection (s : State) (io : Nat) : List Byte :=
  (s.fab.links.filter fun l => l.1 / 16 == io).flatMap fun l =>
    toBytes 1 l.1 ++ toBytes 1 l.2.width ++ toBytes 1 (if l.2.dead then 0 else 1) ++ toBytes 1 0 ++ toBytes 4 l.2.retrains

/-- Routing: the version and the dead set. -/
def State.routeSection (s : State) (io : Nat) : List Byte :=
  let r := kGet s.fab.routers io
  toBytes 4 r.version ++ toBytes 4 r.dead.length ++
    r.dead.flatMap fun d => toBytes 2 d.device ++ toBytes 1 d.io ++ toBytes 1 d.link

def intervalBytes (d : Die) : List Byte := toBytes 8 (dieE d) ++ toBytes 8 (dieL d)

/-- The sections of a device that is up; none before. DESIGN CHOICE (log 12): the units are captured in one step, which R17
does not require. -/
def State.sections (s : State) : List Section :=
  if !s.mgmt.booted then []
  else
    [⟨1, 4, s.eng.queues.flatMap fun q => queueBytes q.2⟩, ⟨2, 4, s.eng.launches.flatMap fun l => s.launchBytes l.1 l.2⟩] ++
    ((List.range 4).map fun d => ⟨3, d, s.engineBytes d⟩) ++ ((List.range 6).map fun d => ⟨4, d, s.bankSection d⟩) ++
    ((List.range 6).map fun d => ⟨5, d, (s.die d).log.flatMap vioBytes⟩) ++
    ((List.range 2).map fun i => ⟨6, 4 + i, s.linkSection i⟩) ++ ((List.range 2).map fun i => ⟨7, 4 + i, s.routeSection i⟩) ++
    ((List.range 6).map fun d => ⟨8, d, intervalBytes (s.die d)⟩)

/-- The directory (R393), and the bodies after it. -/
def State.directory (s : State) (at_ : Nat) : List Section → List Byte × List Byte
  | [] => ([], [])
  | x :: t =>
    let r := s.directory (at_ + x.body.length) t
    (toBytes 1 x.ty ++ toBytes 1 x.die ++ toBytes 2 0 ++ toBytes 4 at_ ++ toBytes 8 x.body.length ++
      intervalBytes (s.die x.die) ++ r.1, x.body ++ r.2)

/-- The summary header (R392). -/
def State.summaryHeader (s : State) (n len : Nat) (trunc : Bool) : List Byte :=
  toBytes 4 0x4D534541 ++ toBytes 2 1 ++ toBytes 2 n ++ toBytes 4 len ++
    toBytes 1 ((if trunc then 1 else 0) + if s.mgmt.booted then 0 else 2) ++
    toBytes 1 (kGet s.fab.routers 0).version ++ toBytes 2 0 ++ intervalBytes (s.die 4) ++ List.replicate 32 0

/-- STATE_SUMMARY (R392, R17): it changes nothing but the host's buffer and the mailbox. -/
def opStateSummary (mb : Nat) (s : State) : State :=
  if mb ≠ 1 || s.command 1 ≠ some 0x0B || !s.hostReaches then s
  else
    let a := s.args 1
    let buf := fieldN a 0 8
    if !argsClean a [(0, 16)] then s.finish 1 stBadArgument []
    else
      let secs := s.sections
      let r := s.directory (64 + 32 * secs.length) secs
      let len := 64 + r.1.length + r.2.length
      let trunc := fieldN a 8 8 < len
      let h := s.summaryHeader (if trunc then 0 else secs.length) len trunc
      let bs := if trunc then h else h ++ r.1 ++ r.2
      { s with host := writeBytes s.host buf bs }.finish 1 stOK h
def execStateSummary (mb : Nat) (s : State) : Host.Outcome State Fault Refusal := .next (opStateSummary mb s)

/-! ## Attestation (R387) -/

/-- Constants of this device (log 8): 0 to 319 the digests of its five images, 320 to 351 the seed of its identity key, and from
352 the expected scan signatures. -/
def ident (lo n : Nat) : List Byte := (List.range n).map fun i => Config.identityByte (lo + i)

def identitySeed : List Byte := ident 320 32

/-- The measurement (R387): SHA-512 over the digests of the verified images, in the order of R386: the steward's image, which
both I/O dies verified, and the microcode of each compute die released. -/
def State.measurement (s : State) : List Byte :=
  sha512 (ident 0 64 ++ ident 0 64 ++ ((List.range 4).filter fun d => (s.die d).released).flatMap fun d => ident (64 * (d + 1)) 64)

/-- The report without its signature: image digests, seed and scan signatures are free values (log 8). Its N is where
the count of logical cores can be read: no register of R75 or of the host's register window holds it (R1, log 45). -/
def State.report (s : State) (nonce : List Byte) : List Byte :=
  toBytes 4 0x54414541 ++ toBytes 2 1 ++ toBytes 2 s.mgmt.settings.deviceId ++ padTo 16 (s.mgmt.serial.take 16) ++
    toBytes 8 s.mgmt.firmware.toNat ++ toBytes 4 s.mgmt.fuse.toNat ++ toBytes 4 s.coreMap.length ++ s.measurement ++
    nonce ++ edPublic identitySeed ++ toBytes 8 (dieE (s.die 4)) ++ List.replicate 80 0 ++ ident 352 2816

/-- ATTEST (R387, R390): the report and its signature, Ed25519 over the report's SHA-512. -/
def opAttest (mb : Nat) (s : State) : State :=
  if mb ≠ 1 || s.command 1 ≠ some 0x0C || !s.mgmt.booted || !s.hostReaches then s
  else
    let a := s.args 1
    if !argsClean a [(0, 40)] then s.finish 1 stBadArgument []
    else
      let r := s.report (a.take 32)
      { s with host := writeBytes s.host (fieldN a 32 8) (r ++ edSign identitySeed (sha512 r)) }.finish 1 stOK []
def execAttest (mb : Nat) (s : State) : Host.Outcome State Fault Refusal := .next (opAttest mb s)

/-! ## Heat (R394) -/

/-- THERMAL_THROTTLE (R394): a compute die's junction passes 95 °C, an input. -/
def opThermalThrottle (die : Nat) (s : State) : State :=
  if die > 3 then s else s.setDie die { s.die die with hot := true, warm := (s.die die).warm || s.mgmt.shutdown }
def execThermalThrottle (die : Nat) (s : State) : Host.Outcome State Fault Refusal := .next (opThermalThrottle die s)

/-- THERMAL_RECOVER (R394): a die, an I/O die too, is below 90 °C, an input; once every die has been so after a shutdown,
launches run again. -/
def opThermalRecover (die : Nat) (s : State) : State :=
  if die > 5 then s
  else
    let s := s.setDie die { s.die die with hot := false, warm := false }
    if s.dies.any fun d => d.2.hot || d.2.warm then s else { s with mgmt := { s.mgmt with shutdown := false } }
def execThermalRecover (die : Nat) (s : State) : Host.Outcome State Fault Refusal := .next (opThermalRecover die s)

/-- THERMAL_SHUTDOWN (R394): a die that has passed 95 °C reaches 105 °C. Every die then counts as warm until an input says that
it is below 90 °C (log 33). -/
def opThermalShutdown (s : State) : State :=
  if !(s.dies.any fun d => d.2.hot) then s
  else
    let ctxs := (s.mgmt.contexts.map (·.1) ++ s.eng.launches.map (·.2.ctx)).eraseDups
    let s := ctxs.foldl State.forceReset s
    { s with
      dies := kMap (fun _ (d : Die) => { d with warm := true }) s.dies
      mgmt := { s.mgmt with shutdown := true } }.bankError stewardBank 4 0x0040 0
def execThermalShutdown (s : State) : Host.Outcome State Fault Refusal := .next (opThermalShutdown s)

end Sys2Proof.Machine
end

