-- ==== Sys2Proof/Machine/Dispatch.lean ====
section
/-! DEFINITION. One arm per instruction. -/

namespace Sys2Proof.Machine

def exec (i : Instr) (s : State) : Host.Outcome State Fault Refusal :=
  match i with
  | .add d a b => Sys2Proof.Machine.execAdd d a b s
  | .sub d a b => Sys2Proof.Machine.execSub d a b s
  | .mul d a b => Sys2Proof.Machine.execMul d a b s
  | .mulh d a b => Sys2Proof.Machine.execMulh d a b s
  | .mulhn d a b => Sys2Proof.Machine.execMulhn d a b s
  | .div d a b => Sys2Proof.Machine.execDiv d a b s
  | .divn d a b => Sys2Proof.Machine.execDivn d a b s
  | .rem d a b => Sys2Proof.Machine.execRem d a b s
  | .remn d a b => Sys2Proof.Machine.execRemn d a b s
  | .and d a b => Sys2Proof.Machine.execAnd d a b s
  | .or d a b => Sys2Proof.Machine.execOr d a b s
  | .xor d a b => Sys2Proof.Machine.execXor d a b s
  | .shl d a b => Sys2Proof.Machine.execShl d a b s
  | .shr d a b => Sys2Proof.Machine.execShr d a b s
  | .sar d a b => Sys2Proof.Machine.execSar d a b s
  | .min d a b => Sys2Proof.Machine.execMin d a b s
  | .max d a b => Sys2Proof.Machine.execMax d a b s
  | .minn d a b => Sys2Proof.Machine.execMinn d a b s
  | .maxn d a b => Sys2Proof.Machine.execMaxn d a b s
  | .setcEq d a b => Sys2Proof.Machine.execSetcEq d a b s
  | .setcNe d a b => Sys2Proof.Machine.execSetcNe d a b s
  | .setcLt d a b => Sys2Proof.Machine.execSetcLt d a b s
  | .setcGe d a b => Sys2Proof.Machine.execSetcGe d a b s
  | .setcLtn d a b => Sys2Proof.Machine.execSetcLtn d a b s
  | .setcGen d a b => Sys2Proof.Machine.execSetcGen d a b s
  | .addi d a imm => Sys2Proof.Machine.execAddi d a imm s
  | .andi d a imm => Sys2Proof.Machine.execAndi d a imm s
  | .ori d a imm => Sys2Proof.Machine.execOri d a imm s
  | .xori d a imm => Sys2Proof.Machine.execXori d a imm s
  | .shli d a imm => Sys2Proof.Machine.execShli d a imm s
  | .shri d a imm => Sys2Proof.Machine.execShri d a imm s
  | .sari d a imm => Sys2Proof.Machine.execSari d a imm s
  | .li d imm => Sys2Proof.Machine.execLi d imm s
  | .lih d imm => Sys2Proof.Machine.execLih d imm s
  | .orl d imm => Sys2Proof.Machine.execOrl d imm s
  | .b o => Sys2Proof.Machine.execB o s
  | .call o => Sys2Proof.Machine.execCall o s
  | .bcEq a b o => Sys2Proof.Machine.execBcEq a b o s
  | .bcNe a b o => Sys2Proof.Machine.execBcNe a b o s
  | .bcLt a b o => Sys2Proof.Machine.execBcLt a b o s
  | .bcGe a b o => Sys2Proof.Machine.execBcGe a b o s
  | .bcLtn a b o => Sys2Proof.Machine.execBcLtn a b o s
  | .bcGen a b o => Sys2Proof.Machine.execBcGen a b o s
  | .bcBs a b o => Sys2Proof.Machine.execBcBs a b o s
  | .bcBc a b o => Sys2Proof.Machine.execBcBc a b o s
  | .ret => Sys2Proof.Machine.execRet s
  | .jmpr a => Sys2Proof.Machine.execJmpr a s
  | .sld d b z sp o => Sys2Proof.Machine.execSld d b z sp o s
  | .sst d b z sp o => Sys2Proof.Machine.execSst d b z sp o s
  | .sldAcq d b z sp p o => Sys2Proof.Machine.execSldAcq d b z sp p o s
  | .sstRel d b z sp p o => Sys2Proof.Machine.execSstRel d b z sp p o s
  | .satom d a b o k p => Sys2Proof.Machine.execSatom d a b o k p s
  | .lrun imm => Sys2Proof.Machine.execLrun imm s
  | .lsync => Sys2Proof.Machine.execLsync s
  | .barBk d => Sys2Proof.Machine.execBarBk d s
  | .barGg d => Sys2Proof.Machine.execBarGg d s
  | .bareBk d => Sys2Proof.Machine.execBareBk d s
  | .bareGg d => Sys2Proof.Machine.execBareGg d s
  | .binit a b => Sys2Proof.Machine.execBinit a b s
  | .barrive a b => Sys2Proof.Machine.execBarrive a b s
  | .bwait a => Sys2Proof.Machine.execBwait a s
  | .bcont a imm => Sys2Proof.Machine.execBcont a imm s
  | .yieldC a imm => Sys2Proof.Machine.execYieldC a imm s
  | .copy a c => Sys2Proof.Machine.execCopy a c s
  | .mloop a => Sys2Proof.Machine.execMloop a s
  | .kseqLd sp a => Sys2Proof.Machine.execKseqLd sp a s
  | .kseqSt sp a => Sys2Proof.Machine.execKseqSt sp a s
  | .klenCommit sp a => Sys2Proof.Machine.execKlenCommit sp a s
  | .klenReject sp => Sys2Proof.Machine.execKlenReject sp s
  | .krot sp a b => Sys2Proof.Machine.execKrot sp a b s
  | .kreq sp a b => Sys2Proof.Machine.execKreq sp a b s
  | .ksum sp a => Sys2Proof.Machine.execKsum sp a s
  | .pmark n => Sys2Proof.Machine.execPmark n s
  | .xmap a b => Sys2Proof.Machine.execXmap a b s
  | .xlook d a b => Sys2Proof.Machine.execXlook d a b s
  | .xfill a b => Sys2Proof.Machine.execXfill a b s
  | .xevict a b => Sys2Proof.Machine.execXevict a b s
  | .xflush b => Sys2Proof.Machine.execXflush b s
  | .xfillX24 a b => Sys2Proof.Machine.execXfillX24 a b s
  | .clk d => Sys2Proof.Machine.execClk d s
  | .cwait a => Sys2Proof.Machine.execCwait a s
  | .ftld a => Sys2Proof.Machine.execFtld a s
  | .ftsw => Sys2Proof.Machine.execFtsw s
  | .srr d r => Sys2Proof.Machine.execSrr d r s
  | .srw a r => Sys2Proof.Machine.execSrw a r s
  | .fence k p => Sys2Proof.Machine.execFence k p s
  | .trap n => Sys2Proof.Machine.execTrap n s
  | .eret => Sys2Proof.Machine.execEret s
  | .nop => Sys2Proof.Machine.execNop s
  | .launch d a => Sys2Proof.Machine.execLaunch d a s
  | .exit => Sys2Proof.Machine.execExit s
  | .grant d a b => Sys2Proof.Machine.execGrant d a b s
  | .gate a b => Sys2Proof.Machine.execGate a b s
  | .digr d a b => Sys2Proof.Machine.execDigr d a b s
  | .errqRead d a b => Sys2Proof.Machine.execErrqRead d a b s
  | .errqRepair d a => Sys2Proof.Machine.execErrqRepair d a s
  | .errqLog d a b => Sys2Proof.Machine.execErrqLog d a b s
  | .corectlDrain d a => Sys2Proof.Machine.execCorectlDrain d a s
  | .corectlIsolate a => Sys2Proof.Machine.execCorectlIsolate a s
  | .corectlRelease a => Sys2Proof.Machine.execCorectlRelease a s
  | .scan a b => Sys2Proof.Machine.execScan a b s
  | .scanwt d a => Sys2Proof.Machine.execScanwt d a s
  | .lcmap d a b => Sys2Proof.Machine.execLcmap d a b s
  | .wkill d a b => Sys2Proof.Machine.execWkill d a b s
  | .vadd f => Sys2Proof.Machine.execVadd f s
  | .vsub f => Sys2Proof.Machine.execVsub f s
  | .vmul f => Sys2Proof.Machine.execVmul f s
  | .vmulh f => Sys2Proof.Machine.execVmulh f s
  | .vmad f => Sys2Proof.Machine.execVmad f s
  | .vand f => Sys2Proof.Machine.execVand f s
  | .vor f => Sys2Proof.Machine.execVor f s
  | .vxor f => Sys2Proof.Machine.execVxor f s
  | .vshl f => Sys2Proof.Machine.execVshl f s
  | .vshr f => Sys2Proof.Machine.execVshr f s
  | .vsar f => Sys2Proof.Machine.execVsar f s
  | .vmin f => Sys2Proof.Machine.execVmin f s
  | .vmax f => Sys2Proof.Machine.execVmax f s
  | .vabs f => Sys2Proof.Machine.execVabs f s
  | .vcnt f => Sys2Proof.Machine.execVcnt f s
  | .vclz f => Sys2Proof.Machine.execVclz f s
  | .vbfx f => Sys2Proof.Machine.execVbfx f s
  | .vbfi f => Sys2Proof.Machine.execVbfi f s
  | .vsel f => Sys2Proof.Machine.execVsel f s
  | .vmov f => Sys2Proof.Machine.execVmov f s
  | .vwid f => Sys2Proof.Machine.execVwid f s
  | .vcmp f => Sys2Proof.Machine.execVcmp f s
  | .mlog f => Sys2Proof.Machine.execMlog f s
  | .mcnt f => Sys2Proof.Machine.execMcnt f s
  | .vbr f => Sys2Proof.Machine.execVbr f s
  | .lend f => Sys2Proof.Machine.execLend f s
  | .vshuf f => Sys2Proof.Machine.execVshuf f s
  | .vbcast f => Sys2Proof.Machine.execVbcast f s
  | .vvote f => Sys2Proof.Machine.execVvote f s
  | .vrdl f => Sys2Proof.Machine.execVrdl f s
  | .vscan f => Sys2Proof.Machine.execVscan f s
  | .vredx f => Sys2Proof.Machine.execVredx f s
  | .fadd f => Sys2Proof.Machine.execFadd f s
  | .fsub f => Sys2Proof.Machine.execFsub f s
  | .fmul f => Sys2Proof.Machine.execFmul f s
  | .ffma f => Sys2Proof.Machine.execFfma f s
  | .fmin f => Sys2Proof.Machine.execFmin f s
  | .fmax f => Sys2Proof.Machine.execFmax f s
  | .fdiv f => Sys2Proof.Machine.execFdiv f s
  | .fsqrt f => Sys2Proof.Machine.execFsqrt f s
  | .frcp f => Sys2Proof.Machine.execFrcp f s
  | .frsq f => Sys2Proof.Machine.execFrsq f s
  | .fexp2 f => Sys2Proof.Machine.execFexp2 f s
  | .flog2 f => Sys2Proof.Machine.execFlog2 f s
  | .fcmp f => Sys2Proof.Machine.execFcmp f s
  | .fclass f => Sys2Proof.Machine.execFclass f s
  | .fcvt f => Sys2Proof.Machine.execFcvt f s
  | .vrot f => Sys2Proof.Machine.execVrot f s
  | .vft f => Sys2Proof.Machine.execVft f s
  | .dadd f => Sys2Proof.Machine.execDadd f s
  | .dsub f => Sys2Proof.Machine.execDsub f s
  | .dmul f => Sys2Proof.Machine.execDmul f s
  | .dfma f => Sys2Proof.Machine.execDfma f s
  | .dqtz f => Sys2Proof.Machine.execDqtz f s
  | .dcmp f => Sys2Proof.Machine.execDcmp f s
  | .dcvt f => Sys2Proof.Machine.execDcvt f s
  | .bqnt f => Sys2Proof.Machine.execBqnt f s
  | .bdq f => Sys2Proof.Machine.execBdq f s
  | .vld f => Sys2Proof.Machine.execVld f s
  | .vst f => Sys2Proof.Machine.execVst f s
  | .vlds f => Sys2Proof.Machine.execVlds f s
  | .vsts f => Sys2Proof.Machine.execVsts f s
  | .vatom f => Sys2Proof.Machine.execVatom f s
  | .vcas f => Sys2Proof.Machine.execVcas f s
  | .mma f => Sys2Proof.Machine.execMma f s
  | .mmaNs f => Sys2Proof.Machine.execMmaNs f s
  | .scacc f => Sys2Proof.Machine.execScacc f s
  | .attb f => Sys2Proof.Machine.execAttb f s
  | .attbResume f => Sys2Proof.Machine.execAttbResume f s
  | .kapp f => Sys2Proof.Machine.execKapp f s
  | .treq f => Sys2Proof.Machine.execTreq f s
  | .vstc f => Sys2Proof.Machine.execVstc f s
  | .vlda f => Sys2Proof.Machine.execVlda f s
  | .laneBlockStart w => Sys2Proof.Machine.execLaneBlockStart w s
  | .pathReconvergence w p => Sys2Proof.Machine.execPathReconvergence w p s
  | .laneLongCompletion w p k => Sys2Proof.Machine.execLaneLongCompletion w p k s
  | .streamUrgent w lane => Sys2Proof.Machine.execStreamUrgent w lane s
  | .faultDelivery w => Sys2Proof.Machine.execFaultDelivery w s
  | .parkReplay w which => Sys2Proof.Machine.execParkReplay w which s
  | .warpWake w => Sys2Proof.Machine.execWarpWake w s
  | .continuationSpawn b k slot => Sys2Proof.Machine.execContinuationSpawn b k slot s
  | .registerMiss w reg => Sys2Proof.Machine.execRegisterMiss w reg s
  | .mirrorCompare w lane words operands => Sys2Proof.Machine.execMirrorCompare w lane words operands s
  | .chainCardRead b ch => Sys2Proof.Machine.execChainCardRead b ch s
  | .copyJobStart job => Sys2Proof.Machine.execCopyJobStart job s
  | .copyChunk job => Sys2Proof.Machine.execCopyChunk job s
  | .copyJobFinish job => Sys2Proof.Machine.execCopyJobFinish job s
  | .ringReport job => Sys2Proof.Machine.execRingReport job s
  | .poisonReport k => Sys2Proof.Machine.execPoisonReport k s
  | .mloopStep job => Sys2Proof.Machine.execMloopStep job s
  | .energyRefill die => Sys2Proof.Machine.execEnergyRefill die s
  | .attbReissue w p => Sys2Proof.Machine.execAttbReissue w p s
  | .timetableEntryStart launch entry => Sys2Proof.Machine.execTimetableEntryStart launch entry s
  | .pageMove move damage1 damage2 => Sys2Proof.Machine.execPageMove move damage1 damage2 s
  | .syncSend die link => Sys2Proof.Machine.execSyncSend die link s
  | .syncReceive die drift => Sys2Proof.Machine.execSyncReceive die drift s
  | .stampedCommit die => Sys2Proof.Machine.execStampedCommit die s
  | .dieWide die => Sys2Proof.Machine.execDieWide die s
  | .linkFlitSend link => Sys2Proof.Machine.execLinkFlitSend link s
  | .linkFlitReceive link bytes bufferFull => Sys2Proof.Machine.execLinkFlitReceive link bytes bufferFull s
  | .linkReplay link => Sys2Proof.Machine.execLinkReplay link s
  | .linkRetrain link => Sys2Proof.Machine.execLinkRetrain link s
  | .retrainComplete link working ok => Sys2Proof.Machine.execRetrainComplete link working ok s
  | .linkDeadTimeout link => Sys2Proof.Machine.execLinkDeadTimeout link s
  | .advanceReceive router => Sys2Proof.Machine.execAdvanceReceive router s
  | .routeRecompute router routes => Sys2Proof.Machine.execRouteRecompute router routes s
  | .packetForward router => Sys2Proof.Machine.execPacketForward router s
  | .packetReceive io => Sys2Proof.Machine.execPacketReceive io s
  | .requestPerform stream => Sys2Proof.Machine.execRequestPerform stream s
  | .e2eAckReceive io => Sys2Proof.Machine.execE2eAckReceive io s
  | .e2eReplayTimeout dst sseq => Sys2Proof.Machine.execE2eReplayTimeout dst sseq s
  | .gatePass w which => Sys2Proof.Machine.execGatePass w which s
  | .errorBankUpdate bank sev syndrome addr victim => Sys2Proof.Machine.execErrorBankUpdate bank sev syndrome addr victim s
  | .scanComplete core lo hi => Sys2Proof.Machine.execScanComplete core lo hi s
  | .scanAbort die => Sys2Proof.Machine.execScanAbort die s
  | .hostProducerWrite q v => Sys2Proof.Machine.execHostProducerWrite q v s
  | .hostRegisterWrite off bytes => Sys2Proof.Machine.execHostRegisterWrite off bytes s
  | .hostReservedAccess off write len => Sys2Proof.Machine.execHostReservedAccess off write len s
  | .hostWindowAccess win off write data => Sys2Proof.Machine.execHostWindowAccess win off write data s
  | .hostQueueAccept q => Sys2Proof.Machine.execHostQueueAccept q s
  | .deviceQueueAccept => Sys2Proof.Machine.execDeviceQueueAccept s
  | .pennantRetest launch => Sys2Proof.Machine.execPennantRetest launch s
  | .graphAccept graph => Sys2Proof.Machine.execGraphAccept graph s
  | .graphNodeAccept graph node => Sys2Proof.Machine.execGraphNodeAccept graph node s
  | .blockAdmission launch slots => Sys2Proof.Machine.execBlockAdmission launch slots s
  | .agePromotion launch => Sys2Proof.Machine.execAgePromotion launch s
  | .preemptStart launch => Sys2Proof.Machine.execPreemptStart launch s
  | .rung2Stop launch => Sys2Proof.Machine.execRung2Stop launch s
  | .blockSave b => Sys2Proof.Machine.execBlockSave b s
  | .forcedReset launch => Sys2Proof.Machine.execForcedReset launch s
  | .blockResume launch slots => Sys2Proof.Machine.execBlockResume launch slots s
  | .launchCompletion launch => Sys2Proof.Machine.execLaunchCompletion launch s
  | .completionRingWrite q => Sys2Proof.Machine.execCompletionRingWrite q s
  | .powerOnBringUp verdicts => Sys2Proof.Machine.execPowerOnBringUp verdicts s
  | .setting => Sys2Proof.Machine.execSetting s
  | .queue => Sys2Proof.Machine.execQueue s
  | .contextCreate => Sys2Proof.Machine.execContextCreate s
  | .contextDestroy => Sys2Proof.Machine.execContextDestroy s
  | .window => Sys2Proof.Machine.execWindow s
  | .framePool => Sys2Proof.Machine.execFramePool s
  | .tagStore => Sys2Proof.Machine.execTagStore s
  | .tagRegister => Sys2Proof.Machine.execTagRegister s
  | .debug => Sys2Proof.Machine.execDebug s
  | .poisonRing => Sys2Proof.Machine.execPoisonRing s
  | .fuseAdvance => Sys2Proof.Machine.execFuseAdvance s
  | .stateSummary mb => Sys2Proof.Machine.execStateSummary mb s
  | .attest mb => Sys2Proof.Machine.execAttest mb s
  | .reset verdicts => Sys2Proof.Machine.execReset verdicts s
  | .thermalThrottle die => Sys2Proof.Machine.execThermalThrottle die s
  | .thermalRecover die => Sys2Proof.Machine.execThermalRecover die s
  | .thermalShutdown => Sys2Proof.Machine.execThermalShutdown s
  | .illegalOp w lane w0 w1 w2 => Sys2Proof.Machine.execIllegalOp w lane w0 w1 w2 s
  | .badCommand mb => Sys2Proof.Machine.execBadCommand mb s
  | .cwaitReturn w => Sys2Proof.Machine.execCwaitReturn w s
  | .asOfWaitEnd w p k => Sys2Proof.Machine.execAsOfWaitEnd w p k s

end Sys2Proof.Machine
end

