-- ==== Sys2Proof/Machine/Fetch.lean ====
section
/-! DEFINITION. What one step does: whose turn it is, which stream a partition may choose, fetching and running its
instruction, and what goes with an issue (R35 to R37, R54, R188, R195, R203). -/

namespace Sys2Proof.Machine

/-- The outcome of a step. -/
abbrev Result := Host.Outcome State Fault Refusal

/-- Go on from a next state. -/
def Result.map (f : State → State) : Result → Result
  | .next s => .next (f s)
  | .fault r => .fault r
  | .refused r => .refused r

/-- The state a result leads to; the state before where it leads to none. -/
def Result.stateOr (s : State) : Result → State
  | .next t => t
  | _ => s

/-! ## Fetching (R54) -/

/-- The scalar stream of a warp fetches at its PC and runs what it finds; words that are no instruction fault (R53). -/
def State.runScalar (s : State) (w : Nat) : Result :=
  let pc := (s.warp w).pc
  match s.scalarWords w pc with
  | .wait t => .next t
  | .bad c a => .next (s.scalarFetchFault w c a)
  | .words ws =>
    let w0 := ws.getD 0 0
    let s := { s with cur := ⟨w, 0, w0, 0, 0⟩ }
    match decodeScalar w0 with
    | some i => exec i s
    | none => Sys2Proof.Machine.execIllegalOp w false w0 0 0 s

/-- A path of a warp does the same; one whose ATTB was interrupted re-issues that first (R268). -/
def State.runLane (s : State) (w p : Nat) : Result :=
  if (warpPath (s.warp w) p).cont then Sys2Proof.Machine.execAttbReissue w p s
  else match s.laneWords w (warpPath (s.warp w) p).pc with
  | .wait t => .next t
  | .bad c a => .next (s.laneFetchFault w p c a)
  | .words ws =>
    let w0 := ws.getD 0 0
    let w1 := ws.getD 1 0
    let w2 := ws.getD 2 0
    let s := { s with cur := ⟨w, p, w0, w1, w2⟩ }
    match decodeLane w0 w1 w2 with
    | some i => exec i s
    | none => Sys2Proof.Machine.execIllegalOp w true w0 w1 w2 s

/-- The same for a stream named by path 0 or 1, or 2 for the scalar stream. -/
def State.runStream (s : State) (w which : Nat) : Result := if which = 2 then s.runScalar w else s.runLane w which

/-! ## Readiness (R35) -/

/-- The stream's instruction has issued part of its work and now completes, whatever holds a new issue: an access of other
devices that is answered, an atomic that has passed its gate, an import entry written, a row whose place is reserved, a maintenance
that has changed some of its blocks (R188, R204, R253). -/
def completing (x : Warp) (which : Nat) : Bool :=
  if which = 2 then
    match x.wait with
    | .io io => ioDone io
    | .gated _ => true
    | .grant _ _ => true
    | .none => x.kvDone.isSome
    | _ => false
  else
    let q := warpPath x which
    (match q.io with
      | some io => ioDone io
      | none => q.reserved.isSome)

/-- A scalar stream waits for nothing, or for a launch that it has read (R73). -/
def scalarFree (x : Warp) : Bool :=
  match x.wait with
  | .none => true
  | .launch _ => true
  | _ => false

/-- A path can go on: it is live, not parked, not at its reconvergence PC. One whose ATTB was interrupted stands at that (R268). -/
def pathFree (x : Warp) (q : Path) : Bool :=
  q.live && !x.handler && (q.rpc != some q.pc || q.cont) && q.park.isNone

/-- Fewer than 64 instructions separate a leader from its mirror (R37). -/
def lagRoom (x : Warp) (lane : Bool) : Bool :=
  match x.mirror with
  | some m => (if lane then m.lagL else m.lagS).length < 64
  | none => true

/-- Another stream of a warp that steps has begun an instruction that has still to complete: it suspends fetch (R203). -/
def stepBusy (x : Warp) (which : Nat) : Bool :=
  let begun (q : Path) : Bool := q.io.isSome || q.reserved.isSome
  x.sstep && !x.handler &&
    ((which != 2 && (x.kvDone.isSome || match x.wait with | .io _ => true | .gate _ => true | .gated _ => true | .grant _ _ => true | _ => false)) ||
      (which != 0 && begun x.path0) || (which != 1 && begun x.path1))

/-- What holds a stream whatever its next instruction is (R35). -/
def State.mayIssue (s : State) (w which : Nat) : Bool :=
  match kGet? s.warps w with
  | none => false
  | some x => !x.stopped && which ≤ 2 && (which = 2 || pathFree x (warpPath x which)) &&
      (completing x which || (x.pend.isNone && !s.frozen w && !stepBusy x which && lagRoom x (which != 2) &&
        if which = 2 then scalarFree x else (warpPath x which).io.isNone))

/-! ## Mirrors at issue (R342, R343) -/

/-- The leader's next instruction waits: its effect has not passed the comparator, or it would push into a full value queue.
None where it may go on. -/
def State.mirrorHolds (s : State) (w which : Nat) : Option State :=
  let x := s.warp w
  match x.mirror with
  | none => none
  | some m =>
    match s.standsAt w which with
    | none => none
    | some (_, i) =>
      let n := queueValues x which i
      if n ≠ 0 && m.queue.length + n > 64 then some s
      else if (effectOf x which (s.slotOf w i) i).isNone || (m.passed && m.held == some which) then none
      else if m.held.isNone then some (s.setWarp w { x with mirror := some { m with held := some which } })
      else some s

/-- The entries that an instruction pushes into the pair's queue at issue: a scalar's values have arrived, those of a lane
instruction arrive when it completes (R342). -/
def State.pushed (s : State) (w which : Nat) (num n : Nat) (i : Instr) : List ValueEntry :=
  (List.range n).map fun k =>
    ⟨which != 2, num, if which = 2 then some ((s.obtained w i).getD k []) else none⟩

/-- After an attempt, the leader's mirror owes the instruction that has issued, with the values it takes and the energy that the
leader has been charged since the one before, by every attempt (R234, log 31), and its values are in the queue; an effect that has gone ahead, or a fault, leaves the comparator. -/
def State.mirrorOwes (before after : State) (w which : Nat) : State :=
  match kGet? after.warps w with
  | none => after
  | some y =>
    match y.mirror with
    | none => after
    | some m =>
      let x := before.warp w
      let issued := if which = 2 then y.issuedS != x.issuedS else y.issuedL != x.issuedL
      let m := if (issued && m.held == some which) || (y.pend.isSome && x.pend.isNone) then
          { m with held := none, passed := false } else m
      let die := (before.block x.block).pcore / 44
      let ctx := (before.launch x.launch).ctx
      let units := before.budget die ctx - after.budget die ctx
      let entries := match before.standsAt w which with
        | some (_, i) => after.pushed w which (if which = 2 then y.issuedS else y.issuedL) (queueValues x which i) i
        | none => []
      let m := { m with owed := m.owed + units }
      let m := if !issued then m
        else
          let lag := [(entries.length, m.owed)]
          let m := { m with queue := m.queue ++ entries, owed := 0 }
          if which = 2 then { m with lagS := m.lagS ++ lag } else { m with lagL := m.lagL ++ lag }
      after.setWarp w { y with mirror := some m }

/-- The number of the next instruction that a mirror issues of a stream (R37). -/
def mirrorNext (x : Warp) (m : Mirror) (lane : Bool) : Nat :=
  if lane then x.issuedL + 1 - m.lagL.length else x.issuedS + 1 - m.lagS.length

/-- The entries of the queue that the mirror's next instruction of a stream takes. -/
def mirrorTakes (x : Warp) (m : Mirror) (lane : Bool) (e : ValueEntry) : Bool :=
  e.lane == lane && e.num == mirrorNext x m lane

/-- The next instruction of a mirror's stream is ready: its leader has issued it, its values have arrived (R342), and the budget
covers its charge, which is its leader's (R37, R234). -/
def State.mirrorReady (s : State) (w : Nat) (lane : Bool) : Bool :=
  match kGet? s.warps w with
  | none => false
  | some x =>
    match x.mirror with
    | none => false
    | some m =>
      match (if lane then m.lagL else m.lagS) with
      | [] => false
      | (_, units) :: _ =>
        !x.stopped && !s.frozen w && decide (units ≤ s.budget ((s.block x.block).pcore / 44) (s.launch x.launch).ctx) &&
          m.queue.all fun e => !mirrorTakes x m lane e || e.value.isSome

/-- A mirror issues its next instruction of a stream: it pops the instruction's values and is charged (R37, R234, R342). -/
def State.mirrorIssue (s : State) (w : Nat) (lane : Bool) : State :=
  match kGet? s.warps w with
  | none => s
  | some x =>
    match x.mirror with
    | none => s
    | some m =>
      if !s.mirrorReady w lane then s
      else
        let units := (((if lane then m.lagL else m.lagS).head?).map (·.2)).getD 0
        let core := (s.block x.block).pcore
        let s := if units = 0 then s else s.debit (core / 44) (s.launch x.launch).ctx units
        let m := { m with queue := m.queue.filter fun e => !mirrorTakes x m lane e }
        if lane then
          let s := s.setWarp w { x with mirror := some { m with lagL := m.lagL.drop 1, readyL := none } }
          let c := s.core core
          s.setCore core { c with lastLane := kSet c.lastLane (x.slot % 6) (w, true) }
        else s.setWarp w { x with mirror := some { m with lagS := m.lagS.drop 1, readyS := none } }

/-! ## Issue -/

/-- The stream has issued between two states: its count has moved, or its warp is gone. -/
def hasIssued (before after : State) (w which : Nat) : Bool :=
  match kGet? after.warps w with
  | none => true
  | some y => if which = 2 then y.issuedS != (before.warp w).issuedS else y.issuedL != (before.warp w).issuedL

/-- SSTEP (R189, R203): the instruction just issued is reported, once it completes. -/
def State.raiseStep (s : State) (w which : Nat) : State :=
  match kGet? s.warps w with
  | none => s
  | some x =>
    if x.pend.isSome then s
    else
      let q := warpPath x which
      let flpc : W64 := if which = 2 || !q.live then 0 else BitVec.ofNat 64 q.pc
      let rep : Report := ⟨faultWord 0x18 (if which = 2 then 0 else 1) (if which = 2 then 0 else which) 0 0, 0, x.pc, flpc,
        s.cur.word0, s.cur.word1, s.cur.word2⟩
      (s.setWarp w { x with pend := some ⟨0x18, rep, true⟩ }).tryDeliver

/-- The stream's ready time starts anew, and a lane issue is remembered by its partition (R36). -/
def State.noteIssue (s : State) (core w which : Nat) : State :=
  match kGet? s.warps w with
  | none => s
  | some x =>
    if which = 2 then s.setWarp w { x with readyS := none, urgentS := false }
    else
      let s := s.setWarp w { x with readyL := none, urgentL := false }
      let c := s.core core
      s.setCore core { c with lastLane := kSet c.lastLane (x.slot % 6) (w, false) }

/-- What goes with an issue: the mirror's debt, the stream's ready time, single step. -/
def State.afterRun (before : State) (w which : Nat) (after : State) : State :=
  let x := before.warp w
  let t := before.mirrorOwes after w which
  if !hasIssued before t w which then t
  else
    let t := t.noteIssue (before.block x.block).pcore w which
    if x.sstep && !x.handler then t.raiseStep w which else t

/-- A stream that may issue runs its next instruction; a warp that is being pre-empted stops at a safe point instead. -/
def State.issue (s : State) (w which : Nat) : Result :=
  if s.stopping (s.warp w).block && s.atSafe w then .next (s.stopAtSafe w)
  else match s.mirrorHolds w which with
    | some t => .next t
    | none => (s.runStream w which).map (s.afterRun w which)

/-! ## Choice in a partition (R34, R36) -/

/-- The stream is ready: nothing holds it, and its attempt to issue changes its warp. -/
def State.ready (s : State) (w which : Nat) : Bool :=
  s.mayIssue w which && decide (kGet? ((s.issue w which).stateOr s).warps w ≠ some (s.warp w))

/-- A stream in the order of R36: urgent, class, whether its warp issued the partition's last lane instruction, age, slot. A leader's
slot goes before its mirror's (log 31). -/
structure Rank where
  urgent : Bool
  cls : Nat
  last : Bool
  age : Nat
  slot : Nat
  deriving DecidableEq, Repr, Inhabited

def State.rank (s : State) (w : Nat) (lane : Bool) : Rank :=
  let x := s.warp w
  let c := s.core (s.block x.block).pcore
  ⟨if lane then x.urgentL else x.urgentS, (s.launch x.launch).effective,
    lane && kGet? c.lastLane (x.slot % 6) == some (w, false), ((if lane then x.readyL else x.readyS).getD (s.now w)), 2 * x.slot⟩

/-- The same of the stream of a warp's mirror, which has its leader's partition and class (R37). -/
def State.mirrorRank (s : State) (w : Nat) (lane : Bool) : Rank :=
  let x := s.warp w
  let c := s.core (s.block x.block).pcore
  let since := x.mirror.bind fun m => if lane then m.readyL else m.readyS
  ⟨since.any fun t => t + 2000 ≤ s.now w, (s.launch x.launch).effective,
    lane && kGet? c.lastLane (x.slot % 6) == some (w, true), since.getD (s.now w), 2 * x.slot + 1⟩

/-- R36: the first goes before the second. -/
def rankBefore (a b : Rank) : Bool :=
  let old := a.age < b.age || (a.age == b.age && a.slot < b.slot)
  if a.urgent != b.urgent then a.urgent
  else if a.urgent then old
  else if a.cls ≠ b.cls then a.cls < b.cls
  else if a.last != b.last then a.last
  else old

/-- The other warps of a warp's partition. -/
def State.rivals (s : State) (w : Nat) : List Nat :=
  let x := s.warp w
  (s.warps.filter fun e => e.1 != w && e.2.slot % 6 == x.slot % 6 &&
    (s.block e.2.block).pcore == (s.block x.block).pcore).map (·.1)

/-- No mirror of these warps whose rank goes before is ready. -/
def State.mirrorsYield (s : State) (us : List Nat) (lane : Bool) (me : Rank) : Bool :=
  us.all fun u => !(s.mirrorReady u lane && rankBefore (s.mirrorRank u lane) me)

/-- No leader of these warps whose rank goes before is ready. -/
def State.leadersYield (s : State) (us : List Nat) (lane : Bool) (me : Rank) : Bool :=
  us.all fun u => !rankBefore (s.rank u lane) me || !(if lane then s.ready u 0 || s.ready u 1 else s.ready u 2)

/-- The partition chooses this stream (R36): no rival that goes before it is ready, warp or mirror, and of two ready paths of one
warp the one that did not issue last goes first (R34). -/
def State.chosen (s : State) (w which : Nat) : Bool :=
  let lane := which != 2
  let me := s.rank w lane
  s.leadersYield (s.rivals w) lane me && s.mirrorsYield (w :: s.rivals w) lane me &&
  (which == 2 || (s.warp w).lastPath != which || !(warpPath (s.warp w) (1 - which)).live || !s.ready w (1 - which))

/-- The partition chooses this stream of a mirror. -/
def State.mirrorChosen (s : State) (w : Nat) (lane : Bool) : Bool :=
  let me := s.mirrorRank w lane
  s.leadersYield (w :: s.rivals w) lane me && s.mirrorsYield (s.rivals w) lane me

/-! ## A turn -/

/-- The steps of the device that no fetched word asks for. -/
def isEvent (i : Instr) : Bool :=
  match i with
  | .illegalOp _ _ _ _ _ => false
  | i => (encode i).isNone

/-- A lane path takes its turn. -/
def State.laneTurn (s : State) (w p : Nat) : Result :=
  if p < 2 && s.mayIssue w p && s.chosen w p then s.issue w p else .next s

/-- The mover takes its turn; one that may not move leaves the state as it is. The re-issue of an ATTB is the path's issue (R268). -/
def State.move (s : State) (m : Mover) : Result :=
  match m with
  | .event (.attbReissue w p) => if (warpPath (s.warp w) p).cont then s.laneTurn w p else .next s
  | .event i => if isEvent i then exec i s else .next s
  | .mirror w lane => .next (if s.mirrorChosen w lane then s.mirrorIssue w lane else s)
  | .scalar w => if s.mayIssue w 2 && s.chosen w 2 then s.issue w 2 else .next s
  | .lane w p => s.laneTurn w p

/-- Each stream's ready time is kept while it stays ready (R36). -/
def State.refresh (s : State) : State :=
  let keep (ready : Bool) (old : Option Nat) (now : Nat) : Option Nat := if ready then some (old.getD now) else none
  { s with warps := kMap (fun w (x : Warp) =>
      let rs := s.ready w 2
      let rl := s.ready w 0 || s.ready w 1
      { x with
        readyS := keep rs x.readyS (s.now w), urgentS := rs && x.urgentS
        readyL := keep rl x.readyL (s.now w), urgentL := rl && x.urgentL
        mirror := x.mirror.map fun m => { m with
          readyS := keep (s.mirrorReady w false) m.readyS (s.now w)
          readyL := keep (s.mirrorReady w true) m.readyL (s.now w) } }) s.warps }

/-- Time passes on the oscillators of the dies, whose counts saturate (R296); a die that has become wide notes it (R300). -/
def State.passTime (s : State) (ticks : List Nat) : State :=
  if ticks.all (· == 0) then s
  else
    let s := s.refresh
    let s := { s with dies := kMap (fun k (d : Die) => { d with count := min (2 ^ 64 - 1) (d.count + ticks.getD k 0) }) s.dies }
    (s.dies.map (·.1)).foldl State.noteWide s

/-- The next turn: the first of those listed, else a free one (log 1). -/
def State.nextTurn (s : State) : Turn × State :=
  match s.turns with
  | t :: ts => (t, { s with turns := ts })
  | [] => (Config.freeTurn s.draws, { s with draws := s.draws + 1 })

/-! ## Placing an instruction (the host's questions) -/

/-- The words of an instruction of a table row's width: one of 32 bits, or three. -/
def tableBytes (nbits w : Nat) : List Byte := if nbits ≤ 32 then toBytes 4 w else toBytes 12 w

/-- A record of a privileged launch of one warp with its scalar code at 0 and its lane code at 0x10000. -/
def fetchRecord : LaunchRec where
  entry := 0
  sbase := 0
  lbase := 0x10000
  sbytes := 0x8000
  lbytes := 0x6000
  counts := [1, 1, 1, 1, 1]
  widths := [0, 0, 0, 0, 0]
  vregs := 256
  cls := 0
  priv := true
  graph := false
  digc := false
  scratch := 0x10000
  mode := 0
  seed := 0
  refDigest := 0
  args := 0
  pennants := 0
  regions := 0
  timetable := 0
  entries := 0
  fptraps := 0
  dtraps := 0
  handler := 0
  save := 0
  completion := 0

/-- The page table of a context that maps the 2 MiB at address 0 to physical 0x200000 with r, w and x, rooted at physical
0x100000 (R276, R277). -/
def fetchTable : List (Nat × Nat) :=
  [(0x100000, 0x102001), (0x102000, 0x103001), (0x103000, 0x104001), (0x104000, 0x20040F)]

/-- The state with an instruction where the next step fetches: a warp of a privileged launch stands before it, on the scalar
stream for a 32-bit row and on lane path 0 otherwise, and has the next turn. It stands for bringing the device up, loading
a program and admitting a launch (log 18). -/
def State.placeWord (s : State) (nbits w : Nat) : State :=
  let scalar := nbits ≤ 32
  let mem := fetchTable.foldl (fun m e => writeBytes m e.1 (toBytes 8 e.2)) s.mem
  let mem := writeBytes mem (if scalar then 0x200000 else 0x210000) (tableBytes nbits w)
  let num := 1
  let key := s.nextId
  let l : Launch := { s.newLaunch fetchRecord 0 0 .device [] [] none with
    admissibleAt := some 0, placed := 1, admitted := 1, map := s.coreMap, home := some 0 }
  let b : Block :=
    { launch := num, index := 0, gblock := 0, gang := 0, lcore := 0, pcore := 0, scratch := [], regions := [], lines := [],
      chans := [], armed := [], episode := [], abandoned := false, completed := false, conts := [], exited := [], killed := [],
      digest := [], terms := [], redrawn := false, unsavable := false, damaged := [] }
  let x := freshWarp num key 0 0 0 fetchRecord none
  let x := if scalar then x else { x with
    running := some ⟨0, []⟩
    path0 := { freePath with live := true, mask := BitVec.allOnes 32 } }
  { s with
    turns := [⟨[], if scalar then .scalar (key + 1) else .lane (key + 1) 0⟩]
    mem := mem
    nextId := key + 2
    warps := kSet s.warps (key + 1) x
    blocks := kSet s.blocks key b
    eng := { s.eng with launches := kSet s.eng.launches num l }
    mgmt := { s.mgmt with booted := true, contexts := kSet s.mgmt.contexts 0 ⟨0x100000, 0⟩ } }

end Sys2Proof.Machine
end

