-- ==== Sys2Proof/Machine/Step.lean ====
section
/-! DEFINITION. One step of the device, and the host's way to place an instruction. -/

namespace Sys2Proof.Machine

/-- One step: the next turn is taken, its time passes, and its mover moves. -/
def step (s : State) : Host.Outcome State Fault Refusal :=
  (s.nextTurn.2.passTime s.nextTurn.1.ticks).move s.nextTurn.1.mover

/-- The state with an instruction of a table row placed where `step` fetches next. -/
def State.withFetchWord (s : State) (nbits w : Nat) : State := s.placeWord nbits w

end Sys2Proof.Machine
end

