-- ==== Sys2Proof/Safety.lean ====
section
/-! DEFINITION. The terms in which claims are made: what a state keeps to (its canonical forms), and what one instruction
does to a state and leaves alone (its frame). -/

namespace Sys2Proof.Machine

/-! ## Canonical forms -/

/-- The byte memories of the device and of the host are in canonical form (log 3). -/
def State.memForm (s : State) : Prop := Memory.wf s.mem ∧ Memory.wf s.host

/-! ## Frames -/

/-- Nothing outside the records of the warps has changed, and no warp but `w`. -/
structure OnlyWarp (w : Nat) (s t : State) : Prop where
  others : ∀ v, v ≠ w → kGet? t.warps v = kGet? s.warps v
  rest : { t with warps := s.warps } = s

/-- What of a warp a scalar instruction that only writes a register leaves alone: all but s0 to s63, the PC, the wait,
the count of instructions issued and the model's note of a CALL not yet followed by a fetch. -/
def scalarRest (x : Warp) : Warp := { x with s := [], pc := 0, lastPc := 0, wait := .none, issuedS := 0, link := none }

/-- The scalar stream has written `v` to `d` and gone to `pc`: s0 reads zero whatever is written, every other scalar
register keeps its value, so does the rest of the warp, and no other warp has changed. -/
structure StreamWrites (s t : State) (d : BitVec 6) (v pc : W64) : Prop where
  warps : ∀ w, w ≠ s.cur.warp → kGet? t.warps w = kGet? s.warps w
  value : sreg t.me d = if d = 0 then 0 else v
  others : ∀ r, r ≠ d → sreg t.me r = sreg s.me r
  next : t.me.pc = pc
  free : t.me.wait = .none
  kept : scalarRest t.me = scalarRest s.me

/-- The same where no register is written. -/
abbrev StreamGoes (s t : State) (pc : W64) : Prop := StreamWrites s t 0 0 pc

/-- The same, and nothing outside the warps has changed either. -/
structure ScalarWrites (s t : State) (d : BitVec 6) (v pc : W64) : Prop extends StreamWrites s t d v pc where
  rest : { t with warps := s.warps } = s

/-- The same where no register is written. -/
abbrev ScalarGoes (s t : State) (pc : W64) : Prop := ScalarWrites s t 0 0 pc

/-- What of a warp a lane instruction that only writes registers, masks or a return register leaves alone. -/
def laneRest (x : Warp) (p : Nat) : Warp :=
  { setPath x p freePath with s := [], v := [], m := [], lastPath := 0, issuedL := 0 }

/-- A lane instruction of the current path has issued, the path is now `q`, and nothing of its warp has changed but the
registers, masks and return registers named by the other clauses (R49). -/
structure PathGoes (s t : State) (q : Path) : Prop where
  frame : OnlyWarp s.cur.warp s t
  path : t.myPath = q
  rest : laneRest t.me s.cur.path = laneRest s.me s.cur.path

/-- The same where the path has gone on by one instruction and no more (R43, R49). -/
abbrev LaneGoes (s t : State) : Prop := PathGoes s t (stepPath s.myPath)

/-- A short lane instruction has written `val l` to register `n` (or the pair n, n+1) of each active lane `l` (R45, R79). -/
structure LaneWrites (s t : State) (act : W32) (pair : Bool) (n : Nat) (val : Nat → Nat) : Prop where
  goes : LaneGoes s t
  low : ∀ l, hasLane act l → vreg t.me n l = BitVec.ofNat 32 (val l)
  high : ∀ l, hasLane act l → pair → vreg t.me (n + 1) l = BitVec.ofNat 32 (val l / 2 ^ 32)
  others : ∀ r l, l < 32 → (hasLane act l → r ≠ n ∧ (pair → r ≠ n + 1)) → vreg t.me r l = vreg s.me r l
  masks : t.me.m = s.me.m
  scalars : t.me.s = s.me.s

/-- A short lane instruction has written the active lanes' bits of mask `k`; m0 is never written (R81). -/
structure MaskWrites (s t : State) (act : W32) (k : Nat) (val : Nat → Bool) : Prop where
  goes : LaneGoes s t
  bits : ∀ l, k ≠ 0 → hasLane act l → hasLane (spGet t.me.m k) l = val l
  kept : ∀ l, ¬ hasLane act l → hasLane (spGet t.me.m k) l = hasLane (spGet s.me.m k) l
  others : ∀ j, j ≠ k → spGet t.me.m j = spGet s.me.m j
  zero : k = 0 → t.me.m = s.me.m
  regs : t.me.v = s.me.v
  scalars : t.me.s = s.me.s

/-- A lane instruction has written return register `d` of the scalar stream (R82); an ATTB outstanding on the path will no
longer write it (R31). -/
structure ReturnWrites (s t : State) (d : BitVec 6) (v : W64) : Prop where
  goes : PathGoes s t (stepPath (loseRet s.myPath d.toNat))
  value : sreg t.me d = if d = 0 then 0 else v
  others : ∀ r, r ≠ d → sreg t.me r = sreg s.me r
  regs : t.me.v = s.me.v
  masks : t.me.m = s.me.m

/-- The outstanding instructions of a path once one more instruction has issued (R49). -/
def steppedOuts (q : Path) : List Outst := q.outs.map fun j => { j with left := j.left - 1 }

/-- A long lane instruction has issued: it is outstanding with the record `o`, the path has gone on, and nothing else of the
warp has changed (R49). -/
structure LaneOwes (s t : State) (o : Outst) : Prop where
  others : ∀ v, v ≠ s.cur.warp → kGet? t.warps v = kGet? s.warps v
  path : t.myPath = { stepPath s.myPath with outs := steppedOuts s.myPath ++ [{ o with num := s.me.issuedL + 1 }] }
  regs : t.me.v = s.me.v
  masks : t.me.m = s.me.m
  scalars : t.me.s = s.me.s
  rest : laneRest t.me s.cur.path = laneRest s.me s.cur.path

/-! ## Memory -/

/-- Byte `a` of physical memory. -/
def State.byteAt (s : State) (a : Nat) : Byte := spGet s.mem a

/-- The bytes that a store of `n` bytes to a SUMMARISED page sets besides its own: the STALE flags of the frames it meets
(R166, R245, R248). -/
def staleByte (pte : W64) (pa n a : Nat) : Prop :=
  let z := 2 ^ (pteFsz pte + 8)
  pteKind pte = 2 ∧ a % z = 4 ∧ pa / z ≤ a / z ∧ a / z ≤ (pa + n - 1) / z

/-- Exactly the bytes `bs` from `pa` upward have been stored; on a SUMMARISED page the STALE flags of their frames are set
too. -/
structure StoresAt (s t : State) (pte : W64) (pa : Nat) (bs : List Byte) : Prop where
  stored : ∀ i, i < bs.length → ¬ staleByte pte pa bs.length (pa + i) → t.byteAt (pa + i) = bs.getD i 0
  stale : ∀ a, staleByte pte pa bs.length a → (t.byteAt a).getLsbD 0 = true
  kept : ∀ a, (a < pa ∨ pa + bs.length ≤ a) → ¬ staleByte pte pa bs.length a → t.byteAt a = s.byteAt a

/-- What a store by the current warp may change outside the warps: memory, the frames unwritten since their fetch (R281),
pennant waits and NONDET flags of launches (R326, R350), and the digest of a block (R345). -/
structure StoreFrame (s t : State) : Prop where
  rest : { t with warps := s.warps, mem := s.mem, clean := s.clean, eng := s.eng, blocks := s.blocks } = s

end Sys2Proof.Machine
end

