-- ==== Sys2Proof/Certificates/Slice0/Obligations.lean ====
section
/-! DEFINITION. The statements about this model, for the provers. The tables they quantify over are written from the tables
of the manual, with the values as the manual words them. -/

namespace Sys2Proof.Claims

open Sys2Proof Sys2Proof.Machine

/-! ## Tables of the scalar instructions -/

/-- A scalar word of form SR: opcode, sd, sa, sb, fn (R40). -/
def srWord (op : Nat) (d a b : BitVec 6) (fn : Nat) : W32 :=
  BitVec.ofNat 32 (op * 2 ^ 26 + d.toNat * 2 ^ 20 + a.toNat * 2 ^ 14 + b.toNat * 2 ^ 8 + fn)

/-- R59: quotient and remainder. -/
def divide (signed : Bool) (a b : W64) : W64 × W64 :=
  if b = 0 then (0xFFFFFFFFFFFFFFFF, a)
  else if signed ∧ a.toInt = -2 ^ 63 ∧ b.toInt = -1 then (BitVec.ofInt 64 (-2 ^ 63), 0)
  else
    let q : W64 := if signed then BitVec.ofInt 64 (a.toInt.tdiv b.toInt) else BitVec.ofNat 64 (a.toNat / b.toNat)
    (q, a - q * b)

/-- The conditions of R61. -/
def condition (cc : Nat) (a b : W64) : Bool :=
  match cc with
  | 0 => decide (a = b)
  | 1 => decide (a ≠ b)
  | 2 => decide (a.toInt < b.toInt)
  | 3 => decide (a.toInt ≥ b.toInt)
  | 4 => decide (a.toNat < b.toNat)
  | 5 => decide (a.toNat ≥ b.toNat)
  | 6 => a.getLsbD (b.toNat % 64)
  | _ => !a.getLsbD (b.toNat % 64)

/-- The table of R58: fn, instruction, value. -/
def aluRows : List (Nat × (BitVec 6 → BitVec 6 → BitVec 6 → Instr) × (W64 → W64 → W64)) :=
  [(0x00, .add, fun a b => a + b),
   (0x01, .sub, fun a b => a - b),
   (0x02, .mul, fun a b => (a.setWidth 128 * b.setWidth 128).extractLsb' 0 64),
   (0x03, .mulh, fun a b => (a.signExtend 128 * b.signExtend 128).extractLsb' 64 64),
   (0x04, .mulhn, fun a b => (a.setWidth 128 * b.setWidth 128).extractLsb' 64 64),
   (0x05, .div, fun a b => (divide true a b).1),
   (0x06, .divn, fun a b => (divide false a b).1),
   (0x07, .rem, fun a b => (divide true a b).2),
   (0x08, .remn, fun a b => (divide false a b).2),
   (0x10, .and, fun a b => a &&& b),
   (0x11, .or, fun a b => a ||| b),
   (0x12, .xor, fun a b => a ^^^ b),
   (0x18, .shl, fun a b => a <<< (b.toNat % 64)),
   (0x19, .shr, fun a b => a >>> (b.toNat % 64)),
   (0x1A, .sar, fun a b => a.sshiftRight (b.toNat % 64)),
   (0x20, .min, fun a b => BitVec.ofInt 64 (min a.toInt b.toInt)),
   (0x21, .max, fun a b => BitVec.ofInt 64 (max a.toInt b.toInt)),
   (0x22, .minn, fun a b => BitVec.ofNat 64 (min a.toNat b.toNat)),
   (0x23, .maxn, fun a b => BitVec.ofNat 64 (max a.toNat b.toNat)),
   (0x28, .setcEq, fun a b => if condition 0 a b then 1 else 0),
   (0x29, .setcNe, fun a b => if condition 1 a b then 1 else 0),
   (0x2A, .setcLt, fun a b => if condition 2 a b then 1 else 0),
   (0x2B, .setcGe, fun a b => if condition 3 a b then 1 else 0),
   (0x2C, .setcLtn, fun a b => if condition 4 a b then 1 else 0),
   (0x2D, .setcGen, fun a b => if condition 5 a b then 1 else 0)]

/-- The rows of R60 with a 14-bit immediate. -/
def immRows : List ((BitVec 6 → BitVec 6 → BitVec 14 → Instr) × (W64 → BitVec 14 → W64)) :=
  [(.addi, fun a i => a + i.signExtend 64),
   (.andi, fun a i => a &&& i.setWidth 64),
   (.ori, fun a i => a ||| i.setWidth 64),
   (.xori, fun a i => a ^^^ i.setWidth 64)]

/-- The rows of R60 with a shift amount. -/
def shiftRows : List ((BitVec 6 → BitVec 6 → BitVec 6 → Instr) × (W64 → BitVec 6 → W64)) :=
  [(.shli, fun a i => a <<< i.toNat),
   (.shri, fun a i => a >>> i.toNat),
   (.sari, fun a i => a.sshiftRight i.toNat)]

/-- The rows of R60 that read no register, or the destination, with the second word of the pair the immediate. -/
def wideRows : List ((BitVec 6 → BitVec 20 → Instr) × (W64 → BitVec 20 → W64)) :=
  [(.lih, fun _ i => i.setWidth 64 <<< 44),
   (.orl, fun a i => a ||| (i.setWidth 64 <<< 24))]

/-- The conditional branches of R61: the condition's code and the instruction. -/
def branchRows : List (Nat × (BitVec 6 → BitVec 6 → BitVec 11 → Instr)) :=
  [(0, .bcEq), (1, .bcNe), (2, .bcLt), (3, .bcGe), (4, .bcLtn), (5, .bcGen), (6, .bcBs), (7, .bcBc)]

end Sys2Proof.Claims

open Sys2Proof Sys2Proof.Machine Sys2Proof.Claims

/-! ## Scalar arithmetic and branches -/

/-- R58, with R59 and R61: every fn of opcode 0x00 is decoded as its instruction, and where the warp need not wait for its
lane blocks (R31) the instruction runs and writes its value; nothing else of the state changes. -/
def Sys2Proof.Claims.RegisterArithmeticWritesItsValue : Prop :=
  ∀ row ∈ aluRows, ∀ (d a b : BitVec 6),
    decodeScalar (srWord 0 d a b row.1) = some (row.2.1 d a b) ∧
    ∀ s : State, sregWait s.me [d, a, b] = false →
      ∃ t, exec (row.2.1 d a b) s = .next t ∧
        ScalarWrites s t d (row.2.2 (sreg s.me a) (sreg s.me b)) (s.me.pc + 4)

/-- R59: division by zero gives all ones and the dividend; otherwise quotient and remainder recompose the dividend, and the
signed remainder takes the dividend's sign and is smaller than the divisor. -/
def Obligations.DivisionRecomposes : Prop :=
  ∀ (d : BitVec 6) (a b : BitVec 6) (s : State), d ≠ 0 → sregWait s.me [d, a, b] = false →
    let x := sreg s.me a
    let y := sreg s.me b
    ∃ q r qn rn, exec (.div d a b) s = .next q ∧ exec (.rem d a b) s = .next r ∧
      exec (.divn d a b) s = .next qn ∧ exec (.remn d a b) s = .next rn ∧
      (y = 0 → sreg q.me d = BitVec.allOnes 64 ∧ sreg r.me d = x ∧ sreg qn.me d = BitVec.allOnes 64 ∧ sreg rn.me d = x) ∧
      (y ≠ 0 → sreg q.me d * y + sreg r.me d = x ∧ sreg qn.me d * y + sreg rn.me d = x ∧
        (sreg rn.me d).toNat < y.toNat ∧ (sreg r.me d).toInt.natAbs < y.toInt.natAbs ∧
        (0 ≤ x.toInt → 0 ≤ (sreg r.me d).toInt) ∧ (x.toInt ≤ 0 → (sreg r.me d).toInt ≤ 0))

/-- R60: the immediate forms write their values. -/
def Sys2Proof.Claims.ImmediateFormsWriteTheirValue : Prop :=
  ∀ s : State,
    (∀ row ∈ immRows, ∀ d a i, sregWait s.me [d, a] = false →
      ∃ t, exec (row.1 d a i) s = .next t ∧ ScalarWrites s t d (row.2 (sreg s.me a) i) (s.me.pc + 4)) ∧
    (∀ row ∈ shiftRows, ∀ d a i, sregWait s.me [d, a] = false →
      ∃ t, exec (row.1 d a i) s = .next t ∧ ScalarWrites s t d (row.2 (sreg s.me a) i) (s.me.pc + 4)) ∧
    (∀ row ∈ wideRows, ∀ d i, sregWait s.me [d] = false →
      ∃ t, exec (row.1 d i) s = .next t ∧ ScalarWrites s t d (row.2 (sreg s.me d) i) (s.me.pc + 4)) ∧
    (∀ d i, sregWait s.me [d] = false →
      ∃ t, exec (.li d i) s = .next t ∧ ScalarWrites s t d (i.signExtend 64) (s.me.pc + 4))

/-- R61: B, BC and CALL go to PC + 4 + 4 × offset, BC only where its condition holds; CALL leaves PC + 4 in s62; RET and
JMPR go to the address in their register, which must be a multiple of 4 (R54). Nothing else changes. -/
def Obligations.BranchesGoToTheirTarget : Prop :=
  ∀ s : State,
    (∀ o, ∃ t, exec (.b o) s = .next t ∧ ScalarGoes s t (s.me.pc + 4 + 4 * o.signExtend 64)) ∧
    (∀ row ∈ branchRows, ∀ a b o, sregWait s.me [a, b] = false →
      ∃ t, exec (row.2 a b o) s = .next t ∧ ScalarGoes s t
        (if condition row.1 (sreg s.me a) (sreg s.me b) then s.me.pc + 4 + 4 * o.signExtend 64 else s.me.pc + 4)) ∧
    (∀ o, laneWait s.me = false →
      ∃ t, exec (.call o) s = .next t ∧ ScalarWrites s t 62 (s.me.pc + 4) (s.me.pc + 4 + 4 * o.signExtend 64)) ∧
    (laneWait s.me = false → (sreg s.me 62).toNat % 4 = 0 →
      ∃ t, exec .ret s = .next t ∧ ScalarGoes s t (sreg s.me 62)) ∧
    (∀ a, sregWait s.me [a] = false → (sreg s.me a).toNat % 4 = 0 →
      ∃ t, exec (.jmpr a) s = .next t ∧ ScalarGoes s t (sreg s.me a))

namespace Sys2Proof.Claims

/-! ## Scalar accesses -/

/-- The sum of a base and a scaled offset, signed in the global and constant spaces (R62). -/
def scalarEa {n : Nat} (x : Warp) (b : BitVec 6) (z sp : BitVec 2) (o : BitVec n) : W64 :=
  sreg x b + ((if sp = 0 ∨ sp = 3 then o.signExtend 64 else o.setWidth 64) <<< z.toNat)

/-- `i` is a scalar load to `d` from base `b`, of 2^z bytes in space `sp`, at effective address `ea` (R62, R64). -/
def LoadForm (i : Instr) (x : Warp) (d b : BitVec 6) (z sp : BitVec 2) (ea : W64) : Prop :=
  (∃ o, i = .sld d b z sp o ∧ ea = scalarEa x b z sp o) ∨ (∃ p o, i = .sldAcq d b z sp p o ∧ ea = scalarEa x b z sp o)

/-- `i` is a scalar store of `v`; a release needs the warp's stamped stores visible first (R62, R64, R303). -/
def StoreForm (i : Instr) (s : State) (v b : BitVec 6) (z sp : BitVec 2) (ea : W64) : Prop :=
  (∃ o, i = .sst v b z sp o ∧ ea = scalarEa s.me b z sp o) ∨
  (∃ p o, i = .sstRel v b z sp p o ∧ ea = scalarEa s.me b z sp o ∧ s.stampsPending s.me = false)

/-- The block and offset that a scratch (1) or gang-scratch (2) address names, where it is within bounds (R62, R134). -/
def LocalAt (s : State) (sp : BitVec 2) (ea : W64) (bk off : Nat) : Prop :=
  (sp = 1 ∧ ea.toNat < s.myLaunch.record.scratch ∧ bk = s.me.block ∧ off = ea.toNat) ∨
  (sp = 2 ∧ ea.toNat < 2 ^ 27 ∧ ea.toNat / 2 ^ 21 < count2 s.myLaunch ∧ off = ea.toNat % 2 ^ 21 ∧
    off < s.myLaunch.record.scratch ∧ s.gangBlock s.myBlock (ea.toNat / 2 ^ 21) = some bk)

/-- R65: the new value of a SATOM, none where a cas does not write. -/
def satomNew (op : Nat) (old b cmp : W64) : Option W64 :=
  match op with
  | 0 => some b
  | 1 => some (old + b)
  | 2 => some (old &&& b)
  | 3 => some (old ||| b)
  | 4 => some (BitVec.ofInt 64 (max old.toInt b.toInt))
  | 5 => some (BitVec.ofInt 64 (min old.toInt b.toInt))
  | _ => if old = cmp then some b else none

/-! ## Special registers -/

/-- The map of R75: a register's number and what it reads. -/
def specialRows : List (Nat × (State → W64)) :=
  [(0x000, fun s => s.myBlock.index + BitVec.ofNat 64 (s.me.widx * 32)),
   (0x001, fun s => BitVec.ofNat 64 s.myBlock.lcore),
   (0x002, fun s => BitVec.ofNat 64 s.myBlock.pcore),
   (0x003, fun s => BitVec.ofNat 64 (s.myBlock.pcore / 44)),
   (0x004, fun s => BitVec.ofNat 64 s.mgmt.settings.deviceId),
   (0x005, fun s => BitVec.ofNat 64 (s.me.slot % 6)),
   (0x006, fun s => BitVec.ofNat 64 s.me.slot),
   (0x007, fun s => BitVec.ofNat 64 s.me.launch),
   (0x008, fun s => s.myLaunch.record.seed),
   (0x010, fun s => BitVec.ofNat 64 s.myLaunch.effective),
   (0x011, fun s => s.myLaunch.record.mode.setWidth 64),
   (0x012, fun s => BitVec.ofNat 64 s.myLaunch.marker),
   (0x013, fun s => BitVec.ofNat 64 ((kGet? (s.die s.myDie).energy s.myCtx).getD (2 ^ 20))),
   (0x020, fun s => s.me.fpflags),
   (0x021, fun s => s.me.fptraps),
   (0x022, fun s => s.me.dflags),
   (0x023, fun s => s.me.dtraps),
   (0x030, fun s => s.me.rep.fault),
   (0x031, fun s => s.me.rep.faddr),
   (0x032, fun s => s.me.rep.fspc),
   (0x033, fun s => s.me.rep.flpc),
   (0x034, fun s => s.me.rep.fw0.setWidth 64),
   (0x035, fun s => s.me.rep.fw1.setWidth 64),
   (0x036, fun s => s.me.rep.fw2.setWidth 64),
   (0x040, fun s => if s.me.sstep then 1 else 0),
   (0x041, fun s => if s.me.freeze then 1 else 0),
   (0x050, fun s => spGet s.myBlock.digest s.me.widx),
   (0x060, fun s => BitVec.ofNat 64 s.myLaunch.ilim)]

/-- The reads marked N in R75. -/
def readsN : List Nat := [0x002, 0x005, 0x006, 0x007, 0x010, 0x012, 0x013]

/-- SRR and SRW of the flag and trap registers wait for the lane blocks before them (R74) and, for the binary ones, for the
warp's MLOOP jobs (R230); a read of $DIG waits for the warp's stamped stores. -/
def SpecialReady (s : State) (k : Nat) : Prop :=
  (k ∈ [0x020, 0x021, 0x022, 0x023] → laneWait s.me = false) ∧ (k ∈ [0x020, 0x021] → s.me.held = []) ∧
  (k = 0x050 → s.stampsQueued s.me = false)

/-- SRW has written one register, that `clear` blanks, and gone on; nothing else has changed (R74). -/
def SpecialWrites (s t : State) (clear : Warp → Warp) : Prop :=
  OnlyWarp s.cur.warp s t ∧ t.me.pc = s.me.pc + 4 ∧ t.me.s = s.me.s ∧ clear (scalarRest t.me) = clear (scalarRest s.me)

end Sys2Proof.Claims

/-! ## Scalar memory -/

/-- R62, R63, R64: a scalar load whose checks pass writes its bytes, little-endian and zero-extended, from a global page in
tier 0 on this device, from the constant space, or from a scratchpad of the gang. Nothing but its register changes. -/
def Sys2Proof.Claims.ScalarLoadsReadTheirBytes : Prop :=
  ∀ (s : State) (i : Instr) (d b : BitVec 6) (z sp : BitVec 2) (ea : W64), LoadForm i s.me d b z sp ea →
    sregWait s.me [d, b] = false → s.me.wait = .none → ea.toNat % 2 ^ z.toNat = 0 →
    (∀ pa pte, (sp = 0 ∨ sp = 3) →
      s.check s.myCtx (if sp = 0 then ea else s.myLaunch.record.args + ea) 0 = .here pa pte →
      s.poisoned pa (2 ^ z.toNat) = false →
      ∃ t, exec i s = .next t ∧
        ScalarWrites s t d (BitVec.ofNat 64 (ofBytes (readBytes s.mem pa (2 ^ z.toNat)))) (s.me.pc + 4)) ∧
    (∀ bk off, LocalAt s sp ea bk off →
      ∃ t, exec i s = .next t ∧
        ScalarWrites s t d (BitVec.ofNat 64 (ofBytes (readBytes (s.block bk).scratch off (2 ^ z.toNat)))) (s.me.pc + 4))

/-- R62, R63, R64: a scalar store whose checks pass stores the low bytes of its register there and nowhere else. -/
def Sys2Proof.Claims.ScalarStoresWriteTheirBytesOnly : Prop :=
  ∀ (s : State) (i : Instr) (v b : BitVec 6) (z sp : BitVec 2) (ea : W64), StoreForm i s v b z sp ea →
    sregWait s.me [v, b] = false → s.me.wait = .none → ea.toNat % 2 ^ z.toNat = 0 →
    (∀ pa pte, sp = 0 → s.check s.myCtx ea 1 = .here pa pte →
      ∃ t, exec i s = .next t ∧ StreamGoes s t (s.me.pc + 4) ∧
        StoresAt s t pte pa (toBytes (2 ^ z.toNat) (sreg s.me v).toNat) ∧ StoreFrame s t) ∧
    (∀ bk off, LocalAt s sp ea bk off → armedHit (s.block bk) off (2 ^ z.toNat) = false →
      ∃ t, exec i s = .next t ∧ StreamGoes s t (s.me.pc + 4) ∧
        (∀ a, spGet (t.block bk).scratch a =
          if off ≤ a ∧ a < off + 2 ^ z.toNat then (toBytes (2 ^ z.toNat) (sreg s.me v).toNat).getD (a - off) 0
          else spGet (s.block bk).scratch a) ∧
        (∀ k, k ≠ bk → kGet? t.blocks k = kGet? s.blocks k) ∧ { t with warps := s.warps, blocks := s.blocks } = s)

/-- R65: a SATOM on a line that no gate of its launch governs returns the old value of its 8 bytes and stores the new one in
the same step; a cas that does not compare equal stores nothing.
Where it rests on the model's own choices, they are those of log 5. -/
def Obligations.ScalarAtomicReturnsOldAndStoresNew : Prop :=
  ∀ (s : State) (d a b : BitVec 6) (o : BitVec 3) (k : BitVec 2) (p : BitVec 3) (pa : Nat) (pte : W64),
    o.toNat ≤ 6 → sregWait s.me [d, a, b] = false → s.me.wait = .none → (sreg s.me a).toNat % 8 = 0 →
    (k.toNat < 2 ∨ s.stampsPending s.me = false) → s.check s.myCtx (sreg s.me a) 2 = .here pa pte →
    s.poisoned pa 8 = false → s.gateOf s.myLaunch (sreg s.me a) = none →
    let old := BitVec.ofNat 64 (ofBytes (readBytes s.mem pa 8))
    ∃ t, exec (.satom d a b o k p) s = .next t ∧ StreamWrites s t d old (s.me.pc + 4) ∧ StoreFrame s t ∧
      (match satomNew o.toNat old (sreg s.me b) (sreg s.me d) with
        | some v => StoresAt s t pte pa (toBytes 8 v.toNat)
        | none => t.mem = s.mem)

/-! ## Lane control and system instructions -/

/-- R67, R68, R69, R72: LRUN enqueues a block at 12 × its index, whose first word can be fetched, with s40 to s47 as a0 to a7; LSYNC, FENCE and NOP, once what
they wait for is over, write nothing and go on.
Where it rests on the model's own choices, they are those of log 5. -/
def Obligations.LaneControlQueuesAndWaits : Prop :=
  ∀ s : State,
    (∀ i : BitVec 26, s.me.handler = false → 12 * i.toNat < s.myLaunch.record.lbytes → s.me.queue.length < 8 →
      (∀ c a, s.laneWords s.cur.warp (12 * i.toNat) ≠ .bad c a) →
      ∃ t, exec (.lrun i) s = .next t ∧ OnlyWarp s.cur.warp s t ∧ t.me.pc = s.me.pc + 4 ∧
        t.me.queue = s.me.queue ++ [⟨12 * i.toNat, (List.range 8).map fun k => spGet s.me.s (40 + k)⟩] ∧
        { scalarRest t.me with queue := [] } = { scalarRest s.me with queue := [] } ∧ t.me.s = s.me.s) ∧
    (s.me.handler = false → laneBusy s.me = false → s.me.held = [] →
      ∃ t, exec .lsync s = .next t ∧ ScalarGoes s t (s.me.pc + 4)) ∧
    (∀ k p, laneWait s.me = false → s.me.held = [] → (k = 0 ∨ s.stampsPending s.me = false) →
      ∃ t, exec (.fence k p) s = .next t ∧ ScalarGoes s t (s.me.pc + 4)) ∧
    (∃ t, exec .nop s = .next t ∧ ScalarGoes s t (s.me.pc + 4)) ∧
    ((s.me.handler = true ∨ laneBusy s.me = false) → s.me.held = [] → s.stampsQueued s.me = false →
      ∃ t, exec .exit s = .next t ∧ kGet? t.warps s.cur.warp = none)

/-- R74, R75: SRR writes each register's value, bits above its width zero; a read marked N sets the launch's NONDET flag.
SRW replaces a flag or trap register, or $SSTEP or $FREEZE from a privileged launch, where no reserved bit would be set. -/
def Obligations.SpecialRegistersReadAndWrite : Prop :=
  ∀ s : State,
    (∀ row ∈ specialRows, ∀ d, sregWait s.me [d] = false → SpecialReady s row.1 →
      ∃ t, exec (.srr d (BitVec.ofNat 14 row.1)) s = .next t ∧ StreamWrites s t d (row.2 s) (s.me.pc + 4) ∧
        { t with warps := s.warps, eng := s.eng } = s ∧
        (row.1 ∈ readsN ∨ (row.1 ∈ [0x001, 0x003] ∧ (modeDet s.myMode = 0 ∨ s.myBlock.redrawn = true)) →
          (t.launch s.me.launch).tally.nondet = true)) ∧
    (∀ a, sregWait s.me [a] = false → laneWait s.me = false → s.me.held = [] →
      (sreg s.me a &&& ~~~0x11F = 0 → ∃ t, exec (.srw a 0x020) s = .next t ∧ t.me.fpflags = sreg s.me a ∧
        SpecialWrites s t fun x => { x with fpflags := 0 }) ∧
      (sreg s.me a &&& ~~~0x1F = 0 →
        (∃ t, exec (.srw a 0x021) s = .next t ∧ t.me.fptraps = sreg s.me a ∧
          SpecialWrites s t fun x => { x with fptraps := 0 }) ∧
        (∃ t, exec (.srw a 0x022) s = .next t ∧ t.me.dflags = sreg s.me a ∧
          SpecialWrites s t fun x => { x with dflags := 0 }) ∧
        (∃ t, exec (.srw a 0x023) s = .next t ∧ t.me.dtraps = sreg s.me a ∧
          SpecialWrites s t fun x => { x with dtraps := 0 })) ∧
      (s.privileged = true → sreg s.me a &&& ~~~1 = 0 →
        (∃ t, exec (.srw a 0x040) s = .next t ∧ t.me.sstep = (sreg s.me a).getLsbD 0 ∧
          SpecialWrites s t fun x => { x with sstep := false }) ∧
        (∃ t, exec (.srw a 0x041) s = .next t ∧ t.me.freeze = (sreg s.me a).getLsbD 0 ∧
          SpecialWrites s t fun x => { x with freeze := false })))

namespace Sys2Proof.Claims

/-! ## Barrier objects -/

/-- The object at the offset in S[sa] passes the checks of R174 and stands as `q`. -/
def ObjectReady (s : State) (a : BitVec 6) (o : Nat) (q : Obj) : Prop :=
  o = (sreg s.me a).toNat ∧ objFault s.myBlock s.myLaunch.record.scratch (sreg s.me a) = none ∧
    q = readObj s.myBlock o ∧ objOk q = true

/-- Only the current warp's stream and its block have changed, and of the block's scratchpad only the object at `o`. -/
structure ObjectFrame (s t : State) (o : Nat) : Prop where
  rest : { t with warps := s.warps, blocks := s.blocks } = s
  blocks : ∀ k, k ≠ s.me.block → kGet? t.blocks k = kGet? s.blocks k
  scratch : ∀ i, (i < o ∨ o + 32 ≤ i) → spGet (t.block s.me.block).scratch i = spGet s.myBlock.scratch i

/-- The label of BCONT and YIELD.C (R177). -/
def labelOf (x : Warp) (i : BitVec 14) : W64 := x.pc + 4 + 4 * i.signExtend 64

/-- The label lies in the scalar code section. -/
def InCode (s : State) (t : W64) : Prop := (t - s.myLaunch.record.sbase).toNat < s.myLaunch.record.sbytes

/-- Bit `w` of a mask. -/
def bit32 (w : Nat) : W32 := 1#32 <<< w

/-- The barrier instructions: whether of the gang, whether BARE, the instruction. -/
def barRows : List (Bool × Bool × (BitVec 6 → Instr)) :=
  [(false, false, .barBk), (true, false, .barGg), (false, true, .bareBk), (true, true, .bareGg)]

end Sys2Proof.Claims

/-! ## Barriers, objects and continuations -/

/-- R175, R178: BINIT arms an object with count n, or with n = 0 makes it DONE in the next generation. -/
def Obligations.BinitArmsItsObject : Prop :=
  ∀ (s : State) (a b : BitVec 6) (o : Nat) (q : Obj), ObjectReady s a o q → sregWait s.me [a, b] = false →
    (q.state = 1 → q.waiters = 0 ∧ q.conts = 0) →
    ∃ t, exec (.binit a b) s = .next t ∧ StreamGoes s t (s.me.pc + 4) ∧ ObjectFrame s t o ∧
      readObj (t.block s.me.block) o =
        if sreg s.me b = 0 then { q with count := 0, gen := q.gen + 1, state := 2 }
        else ⟨sreg s.me b, 0, 0, q.gen, 1, true⟩

/-- R175, R176, R178: an arrival of n at an ARMED object lowers its count, or completes it when n reaches the count: the
object is DONE in the next generation, exactly the warps recorded in it are woken and exactly the continuations recorded
become ready. At a DONE object it changes nothing. -/
def Obligations.ArrivalLowersOrCompletesItsObject : Prop :=
  ∀ (s : State) (a b : BitVec 6) (o : Nat) (q : Obj), ObjectReady s a o q → sregWait s.me [a, b] = false → q.state ≠ 0 →
    s.stampsPending s.me = false →
    let n := sreg s.me b
    ∃ t, exec (.barrive a b) s = .next t ∧ t.me.pc = s.me.pc + 4 ∧ t.me.wait = .none ∧ ObjectFrame s t o ∧
      (q.state = 2 → StreamGoes s t (s.me.pc + 4) ∧ readObj (t.block s.me.block) o = q) ∧
      (q.state = 1 → n.toNat < q.count.toNat →
        StreamGoes s t (s.me.pc + 4) ∧ readObj (t.block s.me.block) o = { q with count := q.count - n }) ∧
      (q.state = 1 → q.count.toNat ≤ n.toNat →
        readObj (t.block s.me.block) o = ⟨0, 0, 0, q.gen + 1, 2, true⟩ ∧
        (∀ w x, w ≠ s.cur.warp → kGet? s.warps w = some x → kGet? t.warps w =
          some { x with woken := x.woken || (x.block == s.me.block && hasLane q.waiters x.widx) }) ∧
        (t.block s.me.block).conts = s.myBlock.conts.map fun c => { c with ready := c.ready || hasLane q.conts c.widx })

/-- R179: BWAIT and YIELD.C at a DONE object go on at once, YIELD.C at its label; at an ARMED one the warp is recorded as a
waiter and its scalar stream waits. -/
def Obligations.WaitsOnObjectsRecordTheWarp : Prop :=
  ∀ (s : State) (a : BitVec 6) (i : BitVec 14) (o : Nat) (q : Obj), ObjectReady s a o q → sregWait s.me [a] = false →
    s.me.handler = false → q.state ≠ 0 →
    (∃ t, exec (.bwait a) s = .next t ∧ ObjectFrame s t o ∧
      (q.state = 2 → StreamGoes s t (s.me.pc + 4) ∧ readObj (t.block s.me.block) o = q) ∧
      (q.state = 1 → t.me.wait = .bwait o ∧ t.me.woken = false ∧ t.me.pc = s.me.pc + 4 ∧
        readObj (t.block s.me.block) o = { q with waiters := q.waiters ||| bit32 s.me.widx })) ∧
    (InCode s (labelOf s.me i) → ∃ t, exec (.yieldC a i) s = .next t ∧ ObjectFrame s t o ∧
      (q.state = 2 → StreamGoes s t (labelOf s.me i) ∧ readObj (t.block s.me.block) o = q) ∧
      (q.state = 1 → t.me.wait = .yield o (labelOf s.me i) ∧ t.me.woken = false ∧
        readObj (t.block s.me.block) o = { q with waiters := q.waiters ||| bit32 s.me.widx }))

/-- R180: BCONT ends the warp and leaves a continuation with s40 to s47 and its label on the object. -/
def Sys2Proof.Claims.BcontLeavesAContinuation : Prop :=
  ∀ (s : State) (a : BitVec 6) (i : BitVec 14) (o : Nat) (q : Obj), ObjectReady s a o q → sregWait s.me [a] = false →
    s.me.handler = false → laneBusy s.me = false → s.me.held = [] → s.stampsPending s.me = false → q.state ≠ 0 →
    s.coreConts s.myBlock.pcore < 1024 → InCode s (labelOf s.me i) →
    ∃ t, exec (.bcont a i) s = .next t ∧ kGet? t.warps s.cur.warp = none ∧
      (∀ w, w ≠ s.cur.warp → kGet? t.warps w = kGet? s.warps w) ∧ ObjectFrame s t o ∧
      (t.block s.me.block).conts = s.myBlock.conts ++
        [⟨(List.range 8).map fun k => spGet s.me.s (40 + k), labelOf s.me i, o, s.me.widx, q.state == 2⟩] ∧
      readObj (t.block s.me.block) o =
        if q.state = 1 then { q with conts := q.conts ||| bit32 s.me.widx } else q

namespace Sys2Proof.Claims

/-- R185: the arrival of an episode that takes the epilogue role, `alive` saying which arrivals' warps are neither killed nor
exited: in DET FREE the last BARE arriver that is alive, else the one of lowest logical warp index. -/
def TakesRole (det : Nat) (ep : List Arrival) (alive : Arrival → Prop) (a : Arrival) : Prop :=
  a.bare = true ∧ alive a ∧
    if det = 0 then ∃ l r, ep = l ++ a :: r ∧ ∀ b ∈ r, b.bare = true → ¬ alive b
    else a ∈ ep ∧ ∀ b ∈ ep, b.bare = true → alive b → a.gblock < b.gblock ∨ (a.gblock = b.gblock ∧ a.widx ≤ b.widx)

/-- R182: bit 0 whether a block is abandoned, bit 1 whether the role is taken, nothing else. -/
def EpisodeStatus (v : W64) (dead : Bool) (role : Prop) : Prop :=
  (role → v = (if dead then 1 else 0) + 2) ∧ (¬ role → v = if dead then 1 else 0)

/-- The arrival that a warp makes (R182). -/
def arrivalOf (s : State) (bare : Bool) : Arrival := ⟨s.myBlock.gblock, s.me.widx, bare⟩

/-- The state in which the arrival has joined the gang's episode. -/
def joinsGang (s : State) (bare : Bool) : State :=
  let ep := gangEpisode s.myLaunch s.myBlock.gang ++ [arrivalOf s bare]
  s.setLaunch s.me.launch { s.myLaunch with gangs := kSet s.myLaunch.gangs s.myBlock.gang.toNat ep }

/-- The slots that a warp of the block occupies: two where the launch is mirrored (R25, R341). -/
def blockNeed (s : State) (b : Nat) : Nat := if modeMirror (s.launch (s.block b).launch).record.mode then 2 else 1

end Sys2Proof.Claims

/-- R182 to R185: BAR.bk, BAR.gg, BARE.bk and BARE.gg arrive at the episode of their level once the warp's lane blocks are over,
and always go on to a next state. While participants are still to arrive, the warp waits and the episode holds its arrival. The
arrival that completes an episode opens the next one, ends the wait of every warp that waited in it, and gives the warp its
status: bit 0 whether its block, or for the gang a block of it, is abandoned, bit 1 whether it takes the epilogue role. -/
def Obligations.BarriersArriveAndComplete : Prop :=
  ∀ (s : State) (d : BitVec 6), s.me.handler = false → laneBusy s.me = false → s.stampsPending s.me = false →
    kGet? s.blocks s.me.block = some s.myBlock → s.myBlock.launch = s.me.launch → ∀ row ∈ barRows,
      let e := arrivalOf s row.2.1
      let blk : Block := { s.myBlock with episode := s.myBlock.episode ++ [e] }
      let u := joinsGang s row.2.1
      let gang := s.myBlock.gang
      let ep := gangEpisode s.myLaunch gang ++ [e]
      let keys := s.gangKeys s.me.launch gang
      ∃ t, exec (row.2.2 d) s = .next t ∧ t.me.pc = s.me.pc + 4 ∧
        { t with warps := s.warps, blocks := s.blocks, eng := s.eng } = s ∧
        (row.1 = false → bkEpisodeDone s.myLaunch blk = false →
          t.me.wait = .barrier false d.toNat ∧ (t.block s.me.block).episode = blk.episode) ∧
        (row.1 = false → bkEpisodeDone s.myLaunch blk = true →
          t.me.wait = .none ∧ (t.block s.me.block).episode = [] ∧
          (d ≠ 0 → EpisodeStatus (sreg t.me d) s.myBlock.abandoned
            (∃ a, TakesRole (modeDet s.myMode) blk.episode (fun a => goneWarp blk a.widx = false) a ∧ a.widx = s.me.widx)) ∧
          ∀ w x sd, w ≠ s.cur.warp → kGet? s.warps w = some x → x.block = s.me.block → x.wait = .barrier false sd →
            (t.warp w).wait = .none) ∧
        (row.1 = true → u.ggEpisodeDone s.me.launch gang = false →
          t.me.wait = .barrier true d.toNat ∧ gangEpisode (t.launch s.me.launch) gang = ep) ∧
        (row.1 = true → u.ggEpisodeDone s.me.launch gang = true →
          t.me.wait = .none ∧ gangEpisode (t.launch s.me.launch) gang = [] ∧
          (d ≠ 0 → EpisodeStatus (sreg t.me d) (keys.any fun k => (s.block k).abandoned)
            (∃ a, TakesRole (modeDet s.myMode) ep
              (fun a => ∃ k ∈ keys, (s.block k).gblock = a.gblock ∧ goneWarp (s.block k) a.widx = false) a ∧
              a.gblock = s.myBlock.gblock ∧ a.widx = s.me.widx)) ∧
          ∀ w x sd, w ≠ s.cur.warp → kGet? s.warps w = some x → x.block ∈ keys → x.wait = .barrier true sd →
            (t.warp w).wait = .none)

/-- R176, R179, R180: the wake of a warp that a completed object has woken lets BWAIT go on where it stands and YIELD.C at
its label; a continuation whose object has completed is spawned in a free slot of its core, at its label, with its eight
arguments in s40 to s47 and every other register zero. -/
def Sys2Proof.Claims.WokenWarpsAndContinuationsResume : Prop :=
  (∀ (s : State) (w : Nat), (s.warp w).woken = true → (s.warp w).stopped = false →
    (∀ o, (s.warp w).wait = .bwait o → ∃ t, exec (.warpWake w) s = .next t ∧ OnlyWarp w s t ∧
      (t.warp w).wait = .none ∧ (t.warp w).pc = (s.warp w).pc ∧ (t.warp w).s = (s.warp w).s) ∧
    (∀ o l, (s.warp w).wait = .yield o l → ∃ t, exec (.warpWake w) s = .next t ∧ OnlyWarp w s t ∧
      (t.warp w).wait = .none ∧ (t.warp w).pc = l ∧ (t.warp w).s = (s.warp w).s)) ∧
  (∀ (s : State) (b k slot : Nat) (c : Cont), (s.block b).conts[k]? = some c → c.ready = true → s.stopping b = false →
    slot < 512 → s.slotUsed (s.block b).pcore slot = false →
    s.partUse (s.block b).pcore (slot % 6) + blockNeed s b ≤ partSlots (slot % 6) →
    s.vregUse (s.block b).pcore + (s.launch (s.block b).launch).record.vregs * 128 * blockNeed s b ≤ 3072 * 1024 →
    ∃ t x, exec (.continuationSpawn b k slot) s = .next t ∧ kGet? t.warps s.nextId = some x ∧
      x.pc = c.label ∧ x.block = b ∧ x.widx = c.widx ∧ x.slot = slot ∧
      (∀ i : Nat, spGet x.s i = if 40 ≤ i ∧ i < 48 then c.args.getD (i - 40) 0 else 0) ∧ x.v = [] ∧
      (t.block b).conts = (s.block b).conts.eraseIdx k ∧
      ∀ w, w ≠ s.nextId → kGet? t.warps w = kGet? s.warps w)

namespace Sys2Proof.Claims

/-! ## Records in memory -/

/-- The `n` bytes from `va` lie in one page of tier 0 of this device, from physical address `pa` on, and pass the checks of an
access of the kind given (0 read, 1 write, 2 read and write). -/
def Lies (s : State) (ctx : Nat) (va : W64) (n access pa : Nat) (pte : W64) : Prop :=
  ∀ i, i < n → s.check ctx (va + BitVec.ofNat 64 i) access = .here (pa + i) pte

/-- The `n` bytes from `va` pass the checks of an access of the kind given (0 read, 2 read and write) on this device, none is
poisoned, and they are `bs`. -/
def ReadsAs (s : State) (ctx : Nat) (va : W64) (n access : Nat) (bs : List Byte) : Prop :=
  ∃ pa pte, Lies s ctx va n access pa pte ∧ s.poisoned pa n = false ∧ bs = readBytes s.mem pa n

/-- The same for a plain read. -/
abbrev Reads (s : State) (ctx : Nat) (va : W64) (n : Nat) (bs : List Byte) : Prop := ReadsAs s ctx va n 0 bs

/-- The same in units of 8 bytes, which may lie in several pages. -/
def ReadsLong (s : State) (ctx : Nat) (va : W64) (n : Nat) (bs : List Byte) : Prop :=
  va.toNat % 8 = 0 ∧ bs.length = n ∧
    ∀ i, 8 * i < n → Reads s ctx (va + BitVec.ofNat 64 (8 * i)) 8 ((bs.drop (8 * i)).take 8)

/-- The `n` bytes from `va` are writable from `pa` on, whatever they hold: they are no part of their own translation. -/
def Writes (s : State) (ctx : Nat) (va : W64) (n pa : Nat) (pte : W64) : Prop :=
  ∀ m : Memory, (∀ a, (a < pa ∨ pa + n ≤ a) → ¬ staleByte pte pa n a → spGet m a = spGet s.mem a) →
    Lies { s with mem := m } ctx va n 1 pa pte

/-- The scalar stream is between instructions and no lane block before it is running. -/
def Free (s : State) : Prop := s.me.wait = .none ∧ laneWait s.me = false

/-- Of the blocks only the current one has changed, and nothing outside the warps and blocks. -/
structure MyBlockOnly (s t : State) : Prop where
  rest : { t with warps := s.warps, blocks := s.blocks } = s
  blocks : ∀ k, k ≠ s.me.block → kGet? t.blocks k = kGet? s.blocks k

/-! ## Scratchpad regions -/

/-- A ref that names region `r`, slot `k` and width code `e`, its other bits zero (R150). -/
def refOf (r e k : Nat) : W64 := BitVec.ofNat 64 (r + 16 * e + 65536 * k)

/-- Slot `k` of a CACHE region is one of the set of a line address (R149). -/
def inSet (g : Region) (va : W64) (k : Nat) : Prop :=
  k / 2 ^ g.ways = va.toNat / 2 ^ g.line % (slotsOf g / 2 ^ g.ways)

/-- Slot or line `k` of region `r`. -/
def lineOf (b : Block) (r k : Nat) : LineState := kGet b.lines (lineKey r k)

/-- XFILL may fill slot `k` of region `r` with the line at `va` (R153). -/
def FillReady (s : State) (r k : Nat) (va : W64) : Prop :=
  r < 16 ∧ k < 65536 ∧ (s.myRegion r).mode = 2 ∧ 8 ≤ (s.myRegion r).line ∧ k < slotsOf (s.myRegion r) ∧ (lineOf s.myBlock r k).valid = false ∧ inSet (s.myRegion r) va k ∧
    (∀ j, inSet (s.myRegion r) va j → ¬ ((lineOf s.myBlock r j).valid = true ∧ (lineOf s.myBlock r j).tag = va)) ∧
    va.toNat % 2 ^ (s.myRegion r).line = 0 ∧
    armedHit s.myBlock ((s.myRegion r).base + k * 2 ^ (s.myRegion r).line) (2 ^ (s.myRegion r).line) = false

/-- Slot `k` of region `r` has been filled: its bytes, its tag, and nothing else of the block. -/
def Filled (s t : State) (r k : Nat) (va : W64) (byte : Nat → Byte) : Prop :=
  let g := s.myRegion r
  let off := g.base + k * 2 ^ g.line
  MyBlockOnly s t ∧
    (∀ a, spGet (t.block s.me.block).scratch a =
      if off ≤ a ∧ a < off + 2 ^ g.line then byte (a - off) else spGet s.myBlock.scratch a) ∧
    lineOf (t.block s.me.block) r k = ⟨true, false, va⟩ ∧
    ∀ j, j ≠ lineKey r k → kGet? (t.block s.me.block).lines j = kGet? s.myBlock.lines j

/-- R154: byte `p` of a line that is expanded from its compressed form of `w` bytes an element. -/
def expandedByte (w size : Nat) (bs : List Byte) (p : Nat) : Byte :=
  let j := p / w / 4
  let i := p / w % 4
  let nib := (bs.getD (size / 2 + j / 2) 0).toNat / (if j % 2 = 0 then 1 else 16) % 16
  if i = nib % 4 then bs.getD (2 * j * w + p % w) 0
  else if i = nib / 4 then bs.getD ((2 * j + 1) * w + p % w) 0
  else 0

/-- R154: the indices of every group rise. -/
def indicesRise (w size : Nat) (bs : List Byte) : Prop :=
  ∀ j, j < size / (4 * w) →
    let nib := (bs.getD (size / 2 + j / 2) 0).toNat / (if j % 2 = 0 then 1 else 16) % 16
    nib % 4 < nib / 4

end Sys2Proof.Claims

/-! ## Regions -/

/-- R151: XMAP installs, replaces or removes region r by a legal descriptor that fits beside the block's other regions and in
the core's tag store; the region's slots and lines are all invalid afterwards and every other region stands.
Where it rests on the model's own choices, they are those of log 14. -/
def Obligations.XmapInstallsItsRegion : Prop :=
  ∀ (s : State) (a b : BitVec 6) (r : Nat) (g : Region) (bs : List Byte), Free s → r < 16 → sreg s.me b = BitVec.ofNat 64 r →
    (sreg s.me a).toNat % 32 = 0 → Reads s s.myCtx (sreg s.me a) 32 bs → regionDesc bs = some g →
    regionFits s.myLaunch.record.scratch ((kErase s.myBlock.regions r).map (·.2)) g = true →
    s.coreSlots s.myBlock.pcore s.me.block r + slotsOf g ≤ 8192 →
    (((s.myRegion r).mode = 3 ∨ g.mode = 0) → s.stampsPending s.me = false) →
    ((s.myRegion r).mode = 3 → dirtyLines s.myBlock r (s.myRegion r) = []) →
    ∃ t, exec (.xmap a b) s = .next t ∧ StreamGoes s t (s.me.pc + 4) ∧ MyBlockOnly s t ∧
      (t.block s.me.block).scratch = s.myBlock.scratch ∧
      (∀ q, kGet? (t.block s.me.block).regions q =
        if q = r then (if g.mode = 0 then none else some g) else kGet? s.myBlock.regions q) ∧
      ∀ k, kGet? (t.block s.me.block).lines k = if k / 65536 = r then none else kGet? s.myBlock.lines k

/-- R152: XLOOK gives the lowest slot of the line's set that is valid and holds the line's address, or 0xFFFF. -/
def Obligations.XlookFindsTheLine : Prop :=
  ∀ (s : State) (d a b : BitVec 6) (r : Nat), laneWait s.me = false → r < 16 → sreg s.me b = BitVec.ofNat 64 r →
    (s.myRegion r).mode = 2 →
    let g := s.myRegion r
    let va := BitVec.ofNat 64 ((sreg s.me a).toNat / 2 ^ g.line * 2 ^ g.line)
    let hit (k : Nat) : Prop := inSet g va k ∧ (lineOf s.myBlock r k).valid = true ∧ (lineOf s.myBlock r k).tag = va
    ((∀ k, ¬ hit k) → ∃ t, exec (.xlook d a b) s = .next t ∧ ScalarWrites s t d 0xFFFF (s.me.pc + 4)) ∧
    (∀ k, hit k → (∀ j, j < k → ¬ hit j) →
      ∃ t, exec (.xlook d a b) s = .next t ∧ ScalarWrites s t d (BitVec.ofNat 64 k) (s.me.pc + 4))

/-- R153, R154: XFILL copies a line of global memory into an invalid slot of its set and marks it valid with the line's
address as its tag; XFILL.x24 does so with the line expanded from its compressed form. -/
def Obligations.FillsCopyTheirLine : Prop :=
  ∀ (s : State) (a b : BitVec 6) (r e k : Nat) (bs : List Byte), Free s → sreg s.me b = refOf r e k →
    FillReady s r k (sreg s.me a) →
    let size := 2 ^ (s.myRegion r).line
    (e = 0 → Reads s s.myCtx (sreg s.me a) size bs →
      ∃ t, exec (.xfill a b) s = .next t ∧ StreamGoes s t (s.me.pc + 4) ∧
        Filled s t r k (sreg s.me a) fun p => bs.getD p 0) ∧
    (e ≤ 1 → indicesRise (e + 1) size bs →
      Reads s s.myCtx (sreg s.me a) (size / 2 + size / (8 * (e + 1))) bs →
      ∃ t, exec (.xfillX24 a b) s = .next t ∧ StreamGoes s t (s.me.pc + 4) ∧
        Filled s t r k (sreg s.me a) (expandedByte (e + 1) size bs))

/-- R155, R156: XEVICT invalidates a slot, after storing its line to the address in its tag where bit 0 of S[sa] is set; it
does nothing to an invalid slot. XFLUSH leaves no line of a WINDOW dirty; one dirty line is stored to its global address. -/
def Obligations.EvictsAndFlushesWriteBack : Prop :=
  ∀ (s : State) (b : BitVec 6) (r : Nat), Free s → r < 16 →
    let g := s.myRegion r
    let size := 2 ^ g.line
    let bytes (k : Nat) : List Byte := readBytes s.myBlock.scratch (g.base + k * size) size
    let dropped (t : State) (k : Nat) : Prop := (t.block s.me.block).scratch = s.myBlock.scratch ∧
      ∀ j, kGet? (t.block s.me.block).lines j = if j = lineKey r k then none else kGet? s.myBlock.lines j
    (∀ (a : BitVec 6) (k : Nat), k < 65536 → g.mode = 2 → sreg s.me b = refOf r 0 k → (sreg s.me a).toNat < 2 →
      ((lineOf s.myBlock r k).valid = false → ∃ t, exec (.xevict a b) s = .next t ∧ ScalarGoes s t (s.me.pc + 4)) ∧
      ((lineOf s.myBlock r k).valid = true → sreg s.me a = 0 →
        ∃ t, exec (.xevict a b) s = .next t ∧ StreamGoes s t (s.me.pc + 4) ∧ MyBlockOnly s t ∧ dropped t k) ∧
      (∀ pa pte, (lineOf s.myBlock r k).valid = true → sreg s.me a = 1 → 8 ≤ g.line → s.stampsPending s.me = false →
        Writes s s.myCtx (lineOf s.myBlock r k).tag size pa pte →
        ∃ t, exec (.xevict a b) s = .next t ∧ StreamGoes s t (s.me.pc + 4) ∧ StoreFrame s t ∧ dropped t k ∧
          StoresAt s t pte pa (bytes k))) ∧
    (g.mode = 3 → sreg s.me b = BitVec.ofNat 64 r → s.stampsPending s.me = false →
      (dirtyLines s.myBlock r g = [] →
        ∃ t, exec (.xflush b) s = .next t ∧ StreamGoes s t (s.me.pc + 4) ∧ MyBlockOnly s t ∧
          (t.block s.me.block).scratch = s.myBlock.scratch) ∧
      (∀ k pa pte, dirtyLines s.myBlock r g = [k] →
        Writes s s.myCtx (g.gbase + BitVec.ofNat 64 (k * size)) size pa pte →
        ∃ t, exec (.xflush b) s = .next t ∧ StreamGoes s t (s.me.pc + 4) ∧ StoreFrame s t ∧ StoresAt s t pte pa (bytes k) ∧
          dirtyLines (t.block s.me.block) r g = []))

namespace Sys2Proof.Claims

/-! ## Jobs of the copy and matrix engines -/

/-- Job `k` stands, belongs to the launch of its block, and has no answer outstanding. -/
structure JobAt (s : State) (k : Nat) (j : Job) : Prop where
  job : kGet? s.jobs k = some j
  launch : (s.block j.block).launch = j.launch
  quiet : j.io = none

/-- The jobs that job `j` has edges from have finished (R213). -/
def EdgesOver (s : State) (j : Job) : Prop := ∀ i ∈ j.edges, ∀ e, kGet? s.jobs i = some e → jobOver e = true

/-- The entered and unfinished jobs of a channel (R206). -/
def chanJobs (s : State) (b ch : Nat) : List (Nat × Job) :=
  s.jobs.filter fun e => e.2.block == b && !e.2.mloop && e.2.chan == ch

/-- A channel may take on its next card: it is walking, fewer than four of its jobs and fewer than 64 of its core's are
unfinished, and it is not stalled by a ring (R206, R210, R215). -/
structure ChanReady (s : State) (b ch : Nat) : Prop where
  block : kGet? s.blocks b = some (s.block b)
  walking : (kGet (s.block b).chans ch).walking = true
  core : s.coreJobs (s.block b).pcore < 64
  few : (chanJobs s b ch).length < 4
  ring : ∀ e ∈ chanJobs s b ch, e.2.stage ≠ 2
  open_ : s.blockStopping b = false

/-- The context of a job. -/
def jobCtx (s : State) (j : Job) : Nat := (s.launch j.launch).ctx

/-- Job `k` has become `j'`, and no other job has changed. -/
def JobNow (s t : State) (k : Nat) (j' : Option Job) : Prop :=
  kGet? t.jobs k = j' ∧ ∀ i, i ≠ k → kGet? t.jobs i = kGet? s.jobs i

/-- The source of a chunk (R211, R212): `n` bytes of the block's scratchpad within the read footprint, or of memory. -/
def TakesFrom (s : State) (j : Job) (inScratch : Bool) (a n : Nat) (bs : List Byte) : Prop :=
  if inScratch then
    scratchCode (s.block j.block) (s.launch j.launch).record.scratch (cRfp j.card) a n false = 0 ∧
      bs = readBytes (s.block j.block).scratch a n
  else 0 < n ∧ a < 2 ^ 56 ∧ Reads s (jobCtx s j) (BitVec.ofNat 64 a) n bs

/-- A chunk of bytes has been stored to its destination, and nothing else of memory or of a block has changed. -/
def PutTo (s t : State) (j : Job) (a : Nat) (bs : List Byte) : Option (Nat × W64) → Prop
  | none => t.mem = s.mem ∧
      (∀ o, spGet (t.block j.block).scratch o =
        if a ≤ o ∧ o < a + bs.length then bs.getD (o - a) 0 else spGet (s.block j.block).scratch o) ∧
      ∀ b, b ≠ j.block → kGet? t.blocks b = kGet? s.blocks b
  | some (pa, pte) => StoresAt s t pte pa bs ∧ t.blocks = s.blocks

/-- The destination of a chunk: the scratchpad within the write footprint, or memory from `pa` on. -/
def GoesTo (s : State) (j : Job) (a n : Nat) : Option (Nat × W64) → Prop
  | none => cBit j.card 2 = true ∧
      scratchCode (s.block j.block) (s.launch j.launch).record.scratch (cWfp j.card) a n true = 0
  | some (pa, pte) => cBit j.card 2 = false ∧ 0 < n ∧ a < 2 ^ 56 ∧ Lies s (jobCtx s j) (BitVec.ofNat 64 a) n 1 pa pte

/-- Where the bytes of the next chunk come from, where they go, and what they are: `n` bytes at a time for copy, fill and
copy.ind, one element for gather and scatter, 256 dense bytes for expand (R211, R217). -/
def Chunk (s : State) (j : Job) (dst : Nat) (bs : List Byte) : Prop :=
  let c := j.card
  let e := 2 ^ cElem c
  let i := j.pos / e
  match cOp c with
  | 1 => dst = cDst c + j.pos ∧
      bs = (List.range (chunkLen j)).map fun i => BitVec.ofNat 8 (cAux c / 2 ^ (8 * ((j.pos + i) % 8)))
  | 2 => ∃ ix, (cAux c + 4 * i) % 4 = 0 ∧ Reads s (jobCtx s j) (BitVec.ofNat 64 (cAux c + 4 * i)) 4 ix ∧
      dst = (cDst c + i * e) % 2 ^ 64 ∧ TakesFrom s j (cBit c 1) ((cSrc c + ofBytes ix * e) % 2 ^ 64) e bs
  | 3 => ∃ ix, (cAux c + 4 * i) % 4 = 0 ∧ Reads s (jobCtx s j) (BitVec.ofNat 64 (cAux c + 4 * i)) 4 ix ∧
      dst = (cDst c + ofBytes ix * e) % 2 ^ 64 ∧ TakesFrom s j (cBit c 1) ((cSrc c + i * e) % 2 ^ 64) e bs
  | 4 =>
      let g := j.pos / (4 * e)
      ∃ kept nibs, dst = cDst c + j.pos ∧ TakesFrom s j (cBit c 1) (cSrc c + g * 2 * e) 128 kept ∧
        TakesFrom s j (cBit c 1) (cSrc c + cLen c / 2 + g / 2) (256 / (4 * e) / 2) nibs ∧
        indicesRise e 256 (List.replicate 128 0 ++ nibs) ∧ e ≤ 2 ∧
        bs = (List.range 256).map (expandedByte e 256 (kept ++ nibs))
  | _ => dst = cDst c + j.pos ∧ TakesFrom s j (cBit c 1) ((j.source.toNat + j.pos) % 2 ^ 64) (chunkLen j) bs

/-- Bytes `lo .. lo+n-1` of a card as a signed number. -/
def cardInt (k : List Byte) (lo n : Nat) : Int := (BitVec.ofNat (8 * n) (fieldN k lo n)).toInt

/-- R228, R229: an MLOOP card that passes its operand checks for the current warp. -/
structure LoopCard (s : State) (k : List Byte) : Prop where
  fields : cardOperand s.myLaunch.record.vregs k = false
  aligned : ∀ e ∈ loopImages k, e.1 % e.2.2.2 = 0 ∧ e.2.1 % e.2.2.2 = 0
  inside : ∀ e ∈ loopSpans k, 0 ≤ e.1 ∧ fpHolds (lRfp k) e.1.toNat e.2 = true ∧ e.1.toNat + e.2 ≤ s.myLaunch.record.scratch
  plain : ∀ r ∈ loopRanges k, ∀ q ∈ s.myBlock.regions, q.2.mode ≥ 2 → rangesMeet q.2.base q.2.len r.1 r.2 = false
  free : ∀ h ∈ s.me.held, ¬ (h.2 < lAcc k + 32 ∧ lAcc k < h.2 + 32)

end Sys2Proof.Claims

/-! ## Copies and matrix loops -/

/-- R207, R210, R211, R213: COPY points a stopped channel at a head, resumes it, or leaves a walking one alone. A walking
channel reads its card: one without OWN stops it; one that breaks a rule is entered with its error and stops it; any other
is entered as a job with edges from the unfinished jobs whose footprints conflict, and the channel goes on to NEXT. A head
that is not aligned stops the channel there. A job whose edges are all finished starts from its source, or from the pointer
at AUX for copy.ind.
Where it rests on the model's own choices, they are those of log 40. -/
def Obligations.ChannelsEnterTheirCards : Prop :=
  (∀ (s : State) (a : BitVec 6) (c : BitVec 3), sregWait s.me [a] = false → s.stampsPending s.me = false →
    (sreg s.me a).toNat % 64 = 0 → (sreg s.me a).toNat < 2 ^ 56 →
    let ch := kGet s.myBlock.chans c.toNat
    let head := if sreg s.me a = 0 then ch.head else sreg s.me a
    (ch.walking = false → ∃ t, exec (.copy a c) s = .next t ∧ StreamGoes s t (s.me.pc + 4) ∧ MyBlockOnly s t ∧
      (t.block s.me.block).scratch = s.myBlock.scratch ∧ ∀ q, kGet? (t.block s.me.block).chans q =
        if q = c.toNat then some { ch with walking := head != 0, head := head, io := none, park := none }
        else kGet? s.myBlock.chans q) ∧
    (ch.walking = true → sreg s.me a = 0 → ∃ t, exec (.copy a c) s = .next t ∧ StreamGoes s t (s.me.pc + 4) ∧ MyBlockOnly s t ∧
      (t.block s.me.block).scratch = s.myBlock.scratch ∧ ∀ q, kGet? (t.block s.me.block).chans q =
        if q = c.toNat then some { ch with again := ch.io.isSome } else kGet? s.myBlock.chans q)) ∧
  (∀ (s : State) (b ch : Nat) (card : List Byte),
    let q := s.block b
    let c := kGet q.chans ch
    ChanReady s b ch → c.io = none → c.head.toNat % 64 = 0 →
    Reads s (s.launch q.launch).ctx c.head 64 card →
    ∃ t, exec (.chainCardRead b ch) s = .next t ∧ { t with blocks := s.blocks, jobs := s.jobs, nextId := s.nextId } = s ∧
      (∀ k, k ≠ b → kGet? t.blocks k = kGet? s.blocks k) ∧
      (cBit card 0 = false → t.jobs = s.jobs ∧
        kGet (t.block b).chans ch = { c with walking := c.again, io := none, park := none, again := false }) ∧
      (cBit card 0 = true → ∃ j, JobNow s t s.nextId (some j) ∧ j.block = b ∧ j.chan = ch ∧ j.addr = c.head ∧ j.card = card ∧
        j.mloop = false ∧ j.started = false ∧ j.pos = 0 ∧
        (cardCode card = 0 → j.err = none ∧ j.edges = s.edgesOf b (cRfp card) (cWfp card) (cBit card 5) ch ∧
          kGet (t.block b).chans ch = ⟨cNext card != 0, cNext card, none, none, cNext card, false⟩) ∧
        (cardCode card ≠ 0 → j.err = some (cardCode card, 0, 0) ∧ (kGet (t.block b).chans ch).walking = false))) ∧
  (∀ (s : State) (b ch : Nat),
    let c := kGet (s.block b).chans ch
    ChanReady s b ch → c.head.toNat % 64 ≠ 0 →
    ∃ t, exec (.chainCardRead b ch) s = .next t ∧ t.jobs = s.jobs ∧
      kGet (t.block b).chans ch = { c with walking := false, io := none, park := none, again := false }) ∧
  (∀ (s : State) (k : Nat) (j : Job), JobAt s k j → j.mloop = false → j.started = false → j.err = none → j.pin = [] →
    EdgesOver s j →
    (cOp j.card ≠ 5 → ∃ t, exec (.copyJobStart k) s = .next t ∧ { t with jobs := s.jobs } = s ∧
      JobNow s t k (some { j with started := true, source := BitVec.ofNat 64 (cSrc j.card) })) ∧
    (∀ bs, cOp j.card = 5 → cAux j.card % 8 = 0 → Reads s (jobCtx s j) (BitVec.ofNat 64 (cAux j.card)) 8 bs →
      (cBit j.card 2 = true ∨ rangesMeet (ofBytes bs) (cLen j.card) (cDst j.card) (cLen j.card) = false) →
      ∃ t, exec (.copyJobStart k) s = .next t ∧ { t with jobs := s.jobs } = s ∧
        JobNow s t k (some { j with started := true, source := BitVec.ofNat 64 (ofBytes bs), io := none, park := none })))

/-- R211, R214, R215, R217: a chunk of a started job is moved from its source to its destination and counted. A finished job
clears the OWN bit of its card, then reports to its ring or ends; a ring report takes a slot by adding one to the producer
index, and once the slot is free writes the 32 bytes of the entry there and ends the job.
The sizes of the chunks are the model's choice, log 40. -/
def Obligations.JobsMoveTheirBytesAndReport : Prop :=
  ∀ (s : State) (k : Nat) (j : Job), JobAt s k j → j.mloop = false → j.pin = [] →
    (∀ dst bs place, j.started = true → j.err = none → j.stage = 0 → j.pos < cLen j.card → cOp j.card ≤ 5 → j.entry = none →
      Chunk s j dst bs → GoesTo s j dst bs.length place →
      ∃ t, exec (.copyChunk k) s = .next t ∧ PutTo s t j dst bs place ∧ t.warps = s.warps ∧
        JobNow s t k (some { j with
          pos := j.pos + bs.length, io := none, park := none, pin := []
          kept := j.kept.filter fun e => chunkSent j e.1 })) ∧
    (∀ pa pte, j.stage = 0 → (j.err.isSome ∨ (j.started = true ∧ cLen j.card ≤ j.pos)) → j.sent = [] →
      Writes s (jobCtx s j) (j.addr + 29) 1 pa pte → cBit j.card 3 = false →
      ∃ t, exec (.copyJobFinish k) s = .next t ∧ t.warps = s.warps ∧ t.blocks = s.blocks ∧
        StoresAt s t pte pa [BitVec.ofNat 8 (cCtl j.card - cCtl j.card % 2)] ∧
        JobNow s t k (if cBit j.card 4 then some { j with stage := 1, io := none, park := none, pin := [] } else none)) ∧
    (∀ h pa pte, j.stage = 1 → (cRing j.card).toNat % 32 = 0 → Reads s (jobCtx s j) (cRing j.card) 32 h →
      2 ≤ fieldN h 4 1 → fieldN h 4 1 ≤ 16 → fieldN h 5 27 = 0 → s.check (jobCtx s j) (cRing j.card) 2 = .here pa pte →
      Writes s (jobCtx s j) (cRing j.card) 4 pa pte →
      ∃ t, exec (.ringReport k) s = .next t ∧ t.warps = s.warps ∧ t.blocks = s.blocks ∧
        StoresAt s t pte pa (toBytes 4 (fieldN h 0 4 + 1)) ∧
        JobNow s t k (some { j with
          stage := 2, ringSlot := fieldN h 0 4 % 2 ^ fieldN h 4 1, io := none, park := none })) ∧
    (∀ pa pte, j.stage = 2 → cBit j.card 3 = false →
      let slot := cRing j.card + BitVec.ofNat 64 (32 + 32 * j.ringSlot)
      Reads s (jobCtx s j) slot 1 [0] → Writes s (jobCtx s j) slot 32 pa pte →
      ∃ t, exec (.ringReport k) s = .next t ∧ t.warps = s.warps ∧ t.blocks = s.blocks ∧
        StoresAt s t pte pa (ringEntry j) ∧ JobNow s t k none)

/-- R214, R229: a finished job whose card names a barrier object presents the whole length of its transfer there, a loop one
arrival, at an object that is ARMED; the job is gone. -/
def Obligations.FinishedJobsArriveAtTheirObject : Prop :=
  ∀ (s : State) (k : Nat) (j : Job) (q : Obj), JobAt s k j → j.stage = 2 → objOk q = true → q.state = 1 →
    (∀ o : Nat, let b := s.block j.block
      objFault b (s.launch j.launch).record.scratch (BitVec.ofNat 64 o) = none → q = readObj b o → o < 2 ^ 32 →
      (∀ pa pte, j.mloop = false → cBit j.card 3 = true → o = cObj j.card → cLen j.card < q.count.toNat →
        let slot := cRing j.card + BitVec.ofNat 64 (32 + 32 * j.ringSlot)
        Reads s (jobCtx s j) slot 1 [0] → Writes s (jobCtx s j) slot 32 pa pte →
        ∃ t, exec (.ringReport k) s = .next t ∧ JobNow s t k none ∧
          readObj (t.block j.block) o = { q with count := q.count - BitVec.ofNat 64 (cLen j.card) }) ∧
      (∀ x, j.mloop = true → lFlags j.card = 1 → o = lObj j.card → 1 < q.count.toNat → j.edges = [] →
        kGet? s.warps j.warp = some x → j.finished = false → (∀ c a d, j.err = some (c, a, d) → c ≠ 8) →
        ∃ t, exec (.mloopStep k) s = .next t ∧ JobNow s t k none ∧
          readObj (t.block j.block) o = { q with count := q.count - 1 } ∧
          (t.warp j.warp).held = x.held.filter (·.1 != k)))

/-- R227 to R231: MLOOP reads its card for reading and writing, enters it as a job with edges from the jobs whose write
footprint meets its own, and holds the 32 registers of its accumulator; a loop that may trap suspends its stream. Each step
that the budget covers debits 2^class, writes one MMA step of the images to the group, advances the card's offsets and
counts it down; when no step is left the card's changed fields are written back and the registers released.
Where it rests on the model's own choices, they are those of log 34. -/
def Obligations.MatrixLoopsRunTheirSteps : Prop :=
  (∀ (s : State) (a : BitVec 6) (k : List Byte), sregWait s.me [a] = false → s.me.wait = .none →
    s.stampsPending s.me = false → (sreg s.me a).toNat % 64 = 0 → ReadsAs s s.myCtx (sreg s.me a) 64 2 k → LoopCard s k →
    s.coreJobs s.myBlock.pcore < 64 →
    ∃ t j, exec (.mloop a) s = .next t ∧ JobNow s t s.nextId (some j) ∧ j.mloop = true ∧ j.warp = s.cur.warp ∧
      j.block = s.me.block ∧ j.addr = sreg s.me a ∧ j.card = k ∧ j.stage = 0 ∧
      j.edges = s.edgesOf s.me.block (lRfp k) 0 false 0 ∧ t.me.held = s.me.held ++ [(s.nextId, lAcc k)] ∧
      t.me.pc = s.me.pc + 4 ∧ (t.me.wait = .none ∨ t.me.wait = .mloop s.nextId) ∧
      (fragInt (lAfmt k) = true → t.me.wait = .none) ∧ t.me.s = s.me.s ∧ t.me.v = s.me.v ∧
      { t with warps := s.warps, jobs := s.jobs, nextId := s.nextId } = s) ∧
  (∀ (s : State) (k : Nat) (j : Job) (x : Warp), JobAt s k j → j.mloop = true → kGet? s.warps j.warp = some x →
    EdgesOver s j → j.finished = false → j.err = none → s.blockStopping j.block = false →
    (j.stage = 0 → lSteps j.card ≠ 0 → (∀ e ∈ loopImages j.card, damagedAt (s.block j.block) e.1 e.2.2.1 = false) → (∀ i, i < 32 → x.absent.contains (lAcc j.card + i) = false) → j.traps = 0 →
      let die := (s.block j.block).pcore / 44
      let units := 2 ^ max (lClass j.card) (mmaClass (lAfmt j.card) (lBfmt j.card))
      units ≤ s.budget die (jobCtx s j) →
      ∃ t, exec (.mloopStep k) s = .next t ∧ (t.die die).energy = kSet (s.die die).energy (jobCtx s j)
          (s.budget die (jobCtx s j) - units) ∧
        (∀ r l, l < 32 → vreg (t.warp j.warp) r l =
          if lAcc j.card ≤ r ∧ r < lAcc j.card + 32 then
            BitVec.ofNat 32 ((loopStep (s.block j.block) x j.card).mma (r - lAcc j.card) l).1
          else vreg x r l) ∧
        JobNow s t k (some { j with started := true, card := cardStep j.card, z := false }) ∧
        t.mem = s.mem ∧ t.blocks = s.blocks) ∧
    (j.stage = 0 → lSteps j.card = 0 → j.card.length = 64 → ∀ pa pte,
      j.pin = (s.pinOf (jobCtx s j) j.addr).toList → Lies s (jobCtx s j) j.addr 64 1 pa pte →
      ∃ t, exec (.mloopStep k) s = .next t ∧
        (∀ i, i < 64 → ¬ staleByte pte pa 64 (pa + i) → t.byteAt (pa + i) =
          if i < 16 ∨ (28 ≤ i ∧ i < 34) then j.card.getD i 0 else s.byteAt (pa + i)) ∧
        (∀ a, (a < pa ∨ pa + 64 ≤ a) → ¬ staleByte pte pa 64 a → t.byteAt a = s.byteAt a) ∧
        JobNow s t k (some { j with stage := 2, io := none, pin := [] }) ∧ t.warps = s.warps) ∧
    (j.stage = 2 → lFlags j.card = 0 →
      ∃ t, exec (.mloopStep k) s = .next t ∧ JobNow s t k none ∧ OnlyWarp j.warp { s with jobs := t.jobs } t ∧
        (t.warp j.warp).held = x.held.filter (·.1 != k) ∧ (t.warp j.warp).v = x.v))

namespace Sys2Proof.Claims

/-! ## Sequences -/

/-- Slot `k` of the current core stands as `q`, loaded by the launch of the current warp (R239, R240). -/
structure SlotMine (s : State) (k : Nat) (q : Seq) : Prop where
  slot : q = s.seq k
  loaded : q.loaded = true
  owner : q.owner = s.me.launch

/-- The same for a scalar instruction, which waits for a KAPP that has reserved positions on the slot (R241). -/
structure SlotFree (s : State) (k : Nat) (q : Seq) : Prop extends SlotMine s k q where
  open_ : s.kappWaits s.myCore k = false

/-- Only slot `k` of the current core has changed among the cores, to `q`. -/
structure SlotNow (s t : State) (k : Nat) (q : Seq) : Prop where
  slot : kGet (t.core s.myCore).slots k = q
  slots : ∀ j, j ≠ k → kGet? (t.core s.myCore).slots j = kGet? (s.core s.myCore).slots j
  core : { t.core s.myCore with slots := [] } = { s.core s.myCore with slots := [] }
  cores : ∀ c, c ≠ s.myCore → kGet? t.cores c = kGet? s.cores c

/-- Bytes `bs` stand in physical memory from `a` on. -/
def Holds (s : State) (a : Nat) (bs : List Byte) : Prop := ∀ i, i < bs.length → s.byteAt (a + i) = bs.getD i 0

/-- The bytes of a key frame on a slot, its summary and its rows. -/
def frameLen (q : Seq) (fmt : Nat) : Nat := rowStart q.d + rowSpan fmt q.d (2 ^ q.bslog)

/-- A maintenance instruction of effect `e` on a slot finds the blocks `l` to process, each with its frame's place and format
(R243, R246, R253), no two in one frame; its walker then holds `c` (R244). -/
structure Finds (s : State) (k : Nat) (q : Seq) (range : W64) (e : RowEffect) (l : List (KBlock × Nat × Nat))
    (c : List (Nat × W64)) : Prop where
  count : 1 ≤ range.toNat / 2 ^ 32 ∧ range.toNat / 2 ^ 32 ≤ 64
  found : ∃ bs, s.blocksBelow false k q q.t.toNat = .ok bs c ∧
    s.todoBlocks q e ((bs.drop (range.toNat % 2 ^ 32)).take (range.toNat / 2 ^ 32)) = .ok l none
  free : ∀ b ∈ l, fieldN (readBytes s.mem b.2.1 8) 4 1 &&& fBUSY = 0
  rows : ∀ b ∈ l, ∀ r ∈ b.1.rows, r.2.1 < 2 ^ q.bslog
  size : q.bslog ≤ 9
  format : ∀ b ∈ l, b.2.2 = fieldN (readBytes s.mem b.2.1 8) 5 1 ∧ kvFormat b.2.2 = true ∧ effectOk e b.2.2 = true
  apart : l.Pairwise fun a b => a.2.1 + frameLen q a.2.2 ≤ b.2.1 ∨ b.2.1 + frameLen q b.2.2 ≤ a.2.1

/-- The rows of a block before and after maintenance (R253). -/
def rowsAfter (s : State) (q : Seq) (e : RowEffect) (b : KBlock) (pa fmt : Nat) : List (Nat × RowCodes) :=
  (b.rows.map (·.2.1)).eraseDups.map fun r =>
    (r, applyEffect e fmt (readRow fmt q.d (2 ^ q.bslog) r fun o n => readBytes s.mem (pa + rowStart q.d + o) n))

/-- One block has been maintained: its rows are stored anew in format `new` (KSUM stores none), its summary has the next
generation, the format and the number of its rows, EMPTY exactly where it has no row, and STALE exactly where a row holds a NaN or
an infinity (R253). -/
structure BlockMade (s t : State) (q : Seq) (e : RowEffect) (b : KBlock) (pa fmt new : Nat) : Prop where
  rows : ∀ r ∈ rowsAfter s q e b pa fmt, e ≠ .sum →
    ∀ p ∈ rowPieces new q.d (2 ^ q.bslog) r.1 r.2, Holds t (pa + rowStart q.d + p.1) p.2
  gen : BitVec.ofNat 32 (fieldN (readBytes t.mem pa 8) 0 4) = BitVec.ofNat 32 (fieldN (readBytes s.mem pa 8) 0 4) + 1
  format : fieldN (readBytes t.mem pa 8) 5 1 = new
  stale : fieldN (readBytes t.mem pa 8) 4 1 % 2 = 1 ↔
    ∃ r ∈ rowsAfter s q e b pa fmt, rowBounds (rowValues new r.2) = none
  empty : fieldN (readBytes t.mem pa 8) 4 1 / 2 % 2 = 1 ↔ b.rows = []
  count : ∀ r ∈ rowsAfter s q e b pa fmt, r.1 < fieldN (readBytes t.mem pa 8) 6 2

/-- The blocks of a range have been maintained, each with the format that `new` gives for its own; the slot's generation has advanced
where there was one, and no byte outside their frames has changed, outside their summaries for KSUM (R253). -/
structure Maintained (s t : State) (k : Nat) (q : Seq) (e : RowEffect) (l : List (KBlock × Nat × Nat)) (new : Nat → Nat)
    (c : List (Nat × W64)) : Prop where
  goes : StreamGoes s t (s.me.pc + 4)
  slot : SlotNow s t k { q with gen := if l = [] then q.gen else q.gen + 1, cache := c }
  made : ∀ b ∈ l, BlockMade s t q e b.1 b.2.1 b.2.2 (new b.2.2)
  kept : ∀ a, (∀ b ∈ l, a < b.2.1 ∨ b.2.1 + frameLen q (new b.2.2) ≤ a) → t.byteAt a = s.byteAt a
  same : e = .sum → ∀ a, (∀ b ∈ l, a < b.2.1 ∨ b.2.1 + 32 + 4 * q.d ≤ a) → t.byteAt a = s.byteAt a
  rest : { t with warps := s.warps, cores := s.cores, mem := s.mem, clean := s.clean, eng := s.eng, draws := s.draws } = s

end Sys2Proof.Claims

/-! ## Sequences -/

/-- R239 to R241, R251: KSEQ.ld fills a slot of the core from a descriptor; KSEQ.st writes C and T to its bytes [8:15] and
the generation to [24:27]; KLEN.commit advances C by S[sa], never past T; KLEN.reject cuts T to C in a new generation where
T is beyond C. -/
def Obligations.SlotsLoadStoreCommitAndReject : Prop :=
  ∀ (s : State) (k a : BitVec 6), Free s →
    (∀ bs, ((s.seq k.toNat).loaded = true → (s.seq k.toNat).owner = s.me.launch) → (sreg s.me a).toNat % 64 = 0 →
      Reads s s.myCtx (sreg s.me a) 64 bs → seqOk bs = true →
      ∃ t, exec (.kseqLd k a) s = .next t ∧ StreamGoes s t (s.me.pc + 4) ∧
        SlotNow s t k.toNat (seqOf bs s.me.launch (sreg s.me a) s.myCtx) ∧
        { t with warps := s.warps, cores := s.cores } = s) ∧
    (∀ q, SlotFree s k.toNat q → sregWait s.me [a] = false →
      (∀ pa pte, (sreg s.me a).toNat % 64 = 0 → Writes s s.myCtx (sreg s.me a) 32 pa pte →
        ∃ t, exec (.kseqSt k a) s = .next t ∧ StreamGoes s t (s.me.pc + 4) ∧
          Holds t (pa + 8) (toBytes 4 q.c.toNat ++ toBytes 4 q.t.toNat) ∧ Holds t (pa + 24) (toBytes 4 q.gen.toNat) ∧
          (∀ i, ¬ (pa + 8 ≤ i ∧ i < pa + 16) → ¬ (pa + 24 ≤ i ∧ i < pa + 28) → ¬ staleByte pte pa 32 i →
            t.byteAt i = s.byteAt i) ∧ StoreFrame s t) ∧
      (∃ t, exec (.klenCommit k a) s = .next t ∧ StreamGoes s t (s.me.pc + 4) ∧
        { t with warps := s.warps, cores := s.cores } = s ∧
        SlotNow s t k.toNat { q with
          c := if q.c.toNat + (sreg s.me a).toNat ≤ q.t.toNat then q.c + (sreg s.me a).setWidth 32
               else if q.c.toNat ≤ q.t.toNat then q.t else q.c })) ∧
    (∀ q, SlotFree s k.toNat q → ∃ t, exec (.klenReject k) s = .next t ∧ StreamGoes s t (s.me.pc + 4) ∧
      { t with warps := s.warps, cores := s.cores } = s ∧
      (q.c.toNat < q.t.toNat → SlotNow s t k.toNat { q with t := q.c, gen := q.gen + 1 }) ∧
      (q.t.toNat ≤ q.c.toNat → t.cores = s.cores))

/-- R253, R254: KROT, KREQ and KSUM process the blocks of their range: of each, the rows below T take the effect and the summary is
made again.
Where it rests on the model's own choices, they are those of log 35. -/
def Obligations.MaintenanceRemakesItsBlocks : Prop :=
  ∀ (s : State) (k a b : BitVec 6) (q : Seq) (l : List (KBlock × Nat × Nat)) (c : List (Nat × W64)), Free s →
    SlotFree s k.toNat q →
    sregWait s.me [a, b] = false → s.me.kvDone = none →
    let range := sreg s.me a
    (Finds s k.toNat q range .sum l c →
      ∃ t, exec (.ksum k a) s = .next t ∧ Maintained s t k.toNat q .sum l id c) ∧
    (0x0C ≤ (sreg s.me b).toNat → (sreg s.me b).toNat ≤ 0x0F →
      Finds s k.toNat q range (.req (sreg s.me b).toNat) l c →
      ∃ t, exec (.kreq k a b) s = .next t ∧
        Maintained s t k.toNat q (.req (sreg s.me b).toNat) l (fun _ => (sreg s.me b).toNat) c) ∧
    (∀ table, q.freq ≠ 0 → ReadsLong s s.myCtx q.freq (q.d / 2 * 8) table → 2 ≤ q.d →
      let e := RowEffect.rot (rotTable ((sreg s.me b).setWidth 32).toInt table q.d)
      Finds s k.toNat q range e l c →
      ∃ t, exec (.krot k a b) s = .next t ∧ Maintained s t k.toNat q e l id c)

/-- R249, R250: KAPP reserves one position per active lane at T, or at C when it commits, gives the first to s63, and appends
each lane's row: its key row and its value row are stored, and its block's summary counts the rows appended to it, in a generation
for each. The instruction stays outstanding.
Where it rests on the model's own choices, they are those of log 35. -/
def Obligations.KappReservesAndAppends : Prop :=
  ∀ (s : State) (f : LaneF) (q : Seq) (ts : List (Nat × Nat × W64 × Nat)) (pv : W64 → Nat) (vpte : W64 → W64)
      (c : List (Nat × W64)),
    let k := f.aux.toNat % 64
    let tent := f.aux.getLsbD 6 = false
    let base := if tent then q.t.toNat else q.c.toNat
    let n := 2 ^ q.bslog
    let x := s.me
    let bands := (areg x (f.aux.toNat / 128 % 8)).toNat
    let kr (l : Nat) := laneRow x q.kfmt q.d f.va.toNat f.vc.toNat (bands % 65536) l
    let vr (l : Nat) := laneRow x q.vfmt q.d f.vb.toNat (f.vc.toNat + (if q.kfmt = 0x12 then q.d / 32 else 0)) (bands / 65536 % 65536) l
    let klen := rowStart q.d + rowSpan q.kfmt q.d n
    let vlen := rowSpan q.vfmt q.d n
    let lanes := lanesOf (active x s.cur.path f)
    let units := 2 ^ max (f.ctlN 11 2) 0
    let path := loseRet s.myPath 63
    SlotMine s k q → s.lanePre (kappRegs f q) (guardMask f) = .go → s.retHeld = false →
    memHeld s.myPath = false → s.myPath.reserved = none →
    (tent → modeTacc s.myMode = true) → (q.kfmt = 0x12 ∨ q.vfmt = 0x12 ∨ (f.vc = 0 ∧ f.aux.toNat / 128 % 8 = 0)) →
    base + lanes.length ≤ 0xFFFFFFFF → s.kappTargets k q base lanes = .ok ts c → q.bslog ≤ 9 → units ≤ s.budget s.myDie s.myCtx →
    (∀ τ ∈ ts, τ.2.2.2 < n ∧ fieldN (readBytes s.mem τ.2.1 8) 4 1 &&& fBUSY = 0 ∧ pteKind (vpte τ.2.2.1) = 0 ∧
      τ.2.2.1.toNat + vlen ≤ 2 ^ 56) →
    (∀ τ ∈ ts, ∀ σ ∈ ts, (τ.2.1 = σ.2.1 ∨ τ.2.1 + klen ≤ σ.2.1 ∨ σ.2.1 + klen ≤ τ.2.1) ∧
      (τ.2.2.1 = σ.2.2.1 ∨ pv τ.2.2.1 + vlen ≤ pv σ.2.2.1 ∨ pv σ.2.2.1 + vlen ≤ pv τ.2.2.1) ∧
      (τ.2.1 + klen ≤ pv σ.2.2.1 ∨ pv σ.2.2.1 + vlen ≤ τ.2.1)) →
    (ts.Pairwise fun τ σ => (τ.2.1 = σ.2.1 ∨ τ.2.2.1 = σ.2.2.1) → τ.2.2.2 ≠ σ.2.2.2) →
    (∀ m : Memory, (∀ a, (∀ τ ∈ ts, (a < τ.2.1 ∨ τ.2.1 + klen ≤ a) ∧ (a < pv τ.2.2.1 ∨ pv τ.2.2.1 + vlen ≤ a)) →
        spGet m a = spGet s.mem a) →
      ∀ τ ∈ ts, Writes { s with mem := m } s.myCtx τ.2.2.1 vlen (pv τ.2.2.1) (vpte τ.2.2.1)) →
    ∃ t, exec (.kapp f) s = .next t ∧ SlotNow s t k { kappReserve q tent base lanes.length with cache := c } ∧
      ts.map (·.1) = lanes ∧
      sreg t.me 63 = BitVec.ofNat 64 base ∧ (∀ r, r ≠ 63 → sreg t.me r = sreg s.me r) ∧ t.me.v = s.me.v ∧ t.me.m = s.me.m ∧
      t.myPath = { stepPath path with
        outs := steppedOuts path ++ [{ outst f.la.toNat [] [] [] [] with num := x.issuedL + 1 }] } ∧
      (∀ τ ∈ ts, ∀ p ∈ rowPieces q.kfmt q.d n τ.2.2.2 (kr τ.1), Holds t (τ.2.1 + rowStart q.d + p.1) p.2) ∧
      (∀ τ ∈ ts, ∀ p ∈ rowPieces q.vfmt q.d n τ.2.2.2 (vr τ.1), Holds t (pv τ.2.2.1 + p.1) p.2) ∧
      (∀ τ ∈ ts,
        let mine := ts.filter fun σ => σ.2.1 == τ.2.1
        BitVec.ofNat 32 (fieldN (readBytes t.mem τ.2.1 8) 0 4) =
          BitVec.ofNat 32 (fieldN (readBytes s.mem τ.2.1 8) 0 4) + BitVec.ofNat 32 mine.length ∧
        fieldN (readBytes t.mem τ.2.1 8) 6 2 = mine.foldl (fun n σ => max n (σ.2.2.2 + 1)) (fieldN (readBytes s.mem τ.2.1 8) 6 2)) ∧
      (∀ w, w ≠ s.cur.warp → kGet? t.warps w = kGet? s.warps w)

namespace Sys2Proof.Claims

/-! ## Function tables and clocks -/

/-- Only the core of the current warp has changed among the cores, and nothing else outside the warps. -/
structure MyCoreOnly (s t : State) : Prop where
  cores : ∀ c, c ≠ s.myCore → kGet? t.cores c = kGet? s.cores c
  rest : { t with warps := s.warps, cores := s.cores } = s

/-- The inactive bank of a core's function table. -/
def inactiveBank (c : Core) : Sparse 32 := if c.activeBank = 0 then c.bank1 else c.bank0

/-- The interval of R296, with E held at the stamp of the lowest queued store (R303). -/
def IntervalIs (d : Die) (e l : Nat) : Prop :=
  let passed := d.count - d.c0
  let slack := (passed * 20 + 999999) / 1000000
  l = min (2 ^ 64 - 1) (d.l0 + passed + slack) ∧
    (let raw := min (2 ^ 64 - 1) (d.e0 + passed - slack)
     (∀ q ∈ d.queue, e ≤ q.stamp.toNat) ∧ e ≤ raw ∧ (e = raw ∨ ∃ q ∈ d.queue, e = q.stamp.toNat))

/-! ## Lane accesses -/

/-- Every access of `n` bytes is aligned and finds its place in tier 0 of this device: `here` lists lane, address, physical
address and PTE. -/
def LanesHere (s : State) (accs : List (Nat × W64)) (n access : Nat) (here : List (Nat × W64 × Nat × W64)) : Prop :=
  here.map (fun h => (h.1, h.2.1)) = accs ∧
    ∀ h ∈ here, h.2.1.toNat % n = 0 ∧ s.check s.myCtx h.2.1 access = .here h.2.2.1 h.2.2.2

/-- The stamp unit of the warp's die lets a stamped access at `t` begin (R305). -/
def StampReady (s : State) (t : W64) : Prop :=
  ∃ e l, IntervalIs (s.die s.myDie) e l ∧ l - e ≤ s.myLaunch.ilim ∧ t.toNat ≤ l + 1000000

/-- The words of a stamped line at physical address `pa` (R301). -/
def lineWords (s : State) (pa : Nat) : Line :=
  let side := pa / 65536 * 65536 + 65536 + 24 * (pa % 65536 / 8)
  let n (a : Nat) : W64 := BitVec.ofNat 64 (ofBytes (readBytes s.mem a 8))
  ⟨n pa, n side, n (side + 8), n (side + 16)⟩

end Sys2Proof.Claims

/-! ## Function tables, clocks, stamped stores, as-of loads -/

/-- R122 to R124: FTLD loads 256 entries into the inactive bank of its core, sets PENDING and makes its launch the owner; FTSW
switches the active bank where PENDING is set, and clears it; otherwise it does nothing. -/
def Obligations.FunctionTableLoadsAndSwitches : Prop :=
  ∀ s : State, Free s →
    let c := s.core s.myCore
    (∀ (a : BitVec 6) (bs : List Byte), (sreg s.me a).toNat % 64 = 0 → (sreg s.me a).toNat < 2 ^ 56 →
      ReadsLong s s.myCtx (sreg s.me a) 1024 bs →
      ∃ t, exec (.ftld a) s = .next t ∧ StreamGoes s t (s.me.pc + 4) ∧ MyCoreOnly s t ∧
        (∀ i, i < 256 → spGet (inactiveBank (t.core s.myCore)) i = BitVec.ofNat 32 (fieldN bs (4 * i) 4)) ∧
        (t.core s.myCore).pending = true ∧ (t.core s.myCore).owner = s.me.launch ∧
        (t.core s.myCore).activeBank = c.activeBank ∧
        (c.activeBank = 0 → (t.core s.myCore).bank0 = c.bank0) ∧ (c.activeBank ≠ 0 → (t.core s.myCore).bank1 = c.bank1)) ∧
    (c.pending = true → ∃ t, exec .ftsw s = .next t ∧ StreamGoes s t (s.me.pc + 4) ∧ MyCoreOnly s t ∧
      t.core s.myCore = { c with activeBank := 1 - c.activeBank, pending := false }) ∧
    (c.pending = false → ∃ t, exec .ftsw s = .next t ∧ ScalarGoes s t (s.me.pc + 4))

/-- R296, R303, R304: CLK writes the die's E and L to its pair, sets WIDE where L − E exceeds $ILIM, and sets NONDET. CWAIT
goes on where E exceeds the stamp; otherwise its stream waits, and goes on once E does.
That an operand of s56 to s63 waits for the lane blocks before it is the reading of log 26. -/
def Obligations.ClocksAreReadAndWaitedFor : Prop :=
  (∀ s : State, IntervalIs (s.die s.myDie) (dieE (s.die s.myDie)) (dieL (s.die s.myDie))) ∧
  (∀ (s : State) (d : BitVec 5),
    let e := dieE (s.die s.myDie)
    let l := dieL (s.die s.myDie)
    sregWait s.me [BitVec.ofNat 6 (2 * d.toNat), BitVec.ofNat 6 (2 * d.toNat) + 1] = false →
    ∃ t, exec (.clk d) s = .next t ∧ t.me.pc = s.me.pc + 4 ∧ t.me.wait = .none ∧
      sreg t.me (BitVec.ofNat 6 (2 * d.toNat)) = (if d = 0 then 0 else BitVec.ofNat 64 e) ∧
      sreg t.me (BitVec.ofNat 6 (2 * d.toNat + 1)) = BitVec.ofNat 64 l ∧
      (∀ r : BitVec 6, r.toNat / 2 ≠ d.toNat → sreg t.me r = sreg s.me r) ∧
      t.me.fpflags = (if l - e > s.myLaunch.ilim then s.me.fpflags ||| 0x100 else s.me.fpflags) ∧
      { scalarRest t.me with fpflags := 0 } = { scalarRest s.me with fpflags := 0 } ∧
      (t.launch s.me.launch).tally.nondet = true ∧ { t with warps := s.warps, eng := s.eng } = s) ∧
  (∀ (s : State) (a : BitVec 6), sregWait s.me [a] = false → (sreg s.me a).toNat ≤ dieL (s.die s.myDie) + 1000000 →
    ((sreg s.me a).toNat < dieE (s.die s.myDie) → ∃ t, exec (.cwait a) s = .next t ∧ ScalarGoes s t (s.me.pc + 4)) ∧
    (dieE (s.die s.myDie) ≤ (sreg s.me a).toNat →
      ∃ t, exec (.cwait a) s = .next t ∧ OnlyWarp s.cur.warp s t ∧ t.me.wait = .cwait (sreg s.me a) ∧
        t.me.pc = s.me.pc + 4 ∧ t.me.s = s.me.s ∧ scalarRest t.me = scalarRest s.me)) ∧
  (∀ (s : State) (w : Nat) (t : W64), (s.warp w).wait = .cwait t →
    t.toNat < dieE (s.die ((s.block (s.warp w).block).pcore / 44)) →
    ∃ u, exec (.cwaitReturn w) s = .next u ∧ OnlyWarp w s u ∧ u.warp w = { s.warp w with wait := .none })

/-- R168, R302, R303, R305: VSTC puts its lanes' stores into the die's commit queue where there is room, at a stamp no more
than 1 ms ahead, on a die that is not wide; without room it is outstanding with them until there is. The store of the lowest stamp commits once the die's E, but for the queue,
exceeds it: it becomes its line's current version where no later one stands, else its previous version where that is older.
Where it rests on the model's own choices, they are those of log 26. -/
def Obligations.StampedStoresCommitInOrder : Prop :=
  (∀ (s : State) (f : LaneF) (here : List (Nat × W64 × Nat × W64)),
    let t := areg s.me (f.ctlN 0 3)
    let stores : List Stamped := here.map fun h =>
      ⟨s.me.launch, s.me.block, s.me.widx, s.myCtx, h.2.1, h.2.2.1, vpair s.me f.vb.toNat h.1, t, 32 * s.me.widx + h.1,
        s.me.issuedL + 1⟩
    let room := (s.die s.myDie).queue.length + here.length ≤ 4096 ∧ s.stampsWait s.myDie = false
    s.lanePre (regsOf true f.va ++ regsOf true f.vb) (guardMask f) = .go → memHeld s.myPath = false → s.myPath.io = none →
    LanesHere s (laneAccs s.me s.cur.path f) 8 4 here → StampReady s t →
    (room → ∃ u, exec (.vstc f) s = .next u ∧ LaneOwes s u (outst f.la.toNat [] [] [] []) ∧
      { u.die s.myDie with wide := (s.die s.myDie).wide } =
        { s.die s.myDie with queue := (s.die s.myDie).queue ++ stores } ∧
      (∀ k, k ≠ s.myDie → kGet? u.dies k = kGet? s.dies k) ∧
      { u with warps := s.warps, dies := s.dies, banks := s.banks } = s) ∧
    (¬ room → ∃ u, exec (.vstc f) s = .next u ∧ LaneOwes s u { outst f.la.toNat [] [] [] [] with stamps := stores } ∧
      { u with warps := s.warps } = s)) ∧
  (∀ (s : State) (die : Nat) (d : Die) (pre post : List Stamped) (q : Stamped), kGet? s.dies die = some d →
    d.queue = pre ++ q :: post → (∀ e ∈ pre, q.stamp.toNat < e.stamp.toNat) → (∀ e ∈ post, q.stamp.toNat ≤ e.stamp.toNat) →
    q.stamp.toNat < rawE d → q.pa % 8 = 0 →
    let old := lineWords s q.pa
    ∃ t more, exec (.stampedCommit die) s = .next t ∧ (t.die die).queue = pre ++ post ++ more ∧
      (s.stampsWait die = false → more = [] ∧ t.warps = s.warps) ∧
      (old.stamp.toNat ≤ q.stamp.toNat → lineWords t q.pa = ⟨q.data, q.stamp, old.stamp, old.value⟩) ∧
      (q.stamp.toNat < old.stamp.toNat →
        (old.prevStamp = BitVec.allOnes 64 ∨ old.prevStamp.toNat ≤ q.stamp.toNat →
          lineWords t q.pa = { old with prevStamp := q.stamp, prevValue := q.data }) ∧
        (old.prevStamp ≠ BitVec.allOnes 64 → q.stamp.toNat < old.prevStamp.toNat → lineWords t q.pa = old)) ∧
      (∀ a, (a < q.pa ∨ q.pa + 8 ≤ a) →
        (a < q.pa / 65536 * 65536 + 65536 + 24 * (q.pa % 65536 / 8) ∨
          q.pa / 65536 * 65536 + 65536 + 24 * (q.pa % 65536 / 8) + 24 ≤ a) → t.byteAt a = s.byteAt a))

/-- R305: VLDA is outstanding until its die's E exceeds t + $ILIM; then each lane reads the version of its line that stood
at t, and its bit of the mask says that none did. -/
def Obligations.AsOfLoadsReadTheirVersion : Prop :=
  (∀ (s : State) (f : LaneF) (here : List (Nat × W64 × Nat × W64)),
    let t := areg s.me (f.ctlN 0 3)
    let m := f.ctlN 3 4
    s.lanePre (regsOf true f.vd ++ regsOf true f.va) (guardMask f ++ (if m = 0 then [] else [m])) = .go →
    memHeld s.myPath = false → s.myPath.io = none → LanesHere s (laneAccs s.me s.cur.path f) 8 5 here → StampReady s t →
    ∃ u, exec (.vlda f) s = .next u ∧ { u with warps := s.warps } = s ∧
      LaneOwes s u { outst f.la.toNat (regsOf true f.vd) (if m = 0 then [] else [m]) [] [] with
        asOf := some ⟨t, laneAccs s.me s.cur.path f, f.vd.toNat, m⟩ }) ∧
  (∀ (s : State) (w p k : Nat) (j : Outst) (a : AsOf) (place : Nat → Nat), p < 2 →
    (warpPath (s.warp w) p).outs[k]? = some j → j.asOf = some a →
    let b := s.block (s.warp w).block
    let l := s.launch (s.warp w).launch
    a.t.toNat + l.ilim < dieE (s.die (b.pcore / 44)) →
    (∀ e ∈ a.lanes, ∃ pte, s.check l.ctx e.2 5 = .here (place e.1) pte ∧ s.linePoisoned (place e.1) = false) →
    let read (e : Nat × W64) : W64 × Bool :=
      let n := lineWords s (place e.1)
      if n.stamp.toNat ≤ a.t.toNat then (n.value, false)
      else if n.prevStamp ≠ BitVec.allOnes 64 ∧ n.prevStamp.toNat ≤ a.t.toNat then (n.prevValue, false) else (0, true)
    ∃ t, exec (.asOfWaitEnd w p k) s = .next t ∧ OnlyWarp w s t ∧
      (warpPath (t.warp w) p).outs[k]? = some { j with
        asOf := none
        writes := j.writes ++ a.lanes.flatMap fun e =>
          [⟨a.vd, e.1, (read e).1.setWidth 32⟩, ⟨a.vd + 1, e.1, ((read e).1 >>> 32).setWidth 32⟩]
        maskWrites := j.maskWrites ++ a.lanes.map fun e =>
          ⟨a.mask, 1#32 <<< e.1, if (read e).2 then 1#32 <<< e.1 else 0⟩ } ∧
      ∀ i, i ≠ k → (warpPath (t.warp w) p).outs[i]? = (warpPath (s.warp w) p).outs[i]?)

namespace Sys2Proof.Claims

/-! ## Timetables and page moves -/

/-- The table entries of a launch can be read, where they have not ended (R282, R284). -/
def TableReads (s : State) (l : Launch) (n : Nat) (due : List Nat) : Prop :=
  ∃ e : Nat → List Byte, (∀ i, i < l.record.entries → (kGet l.entries i).ended = true ∨ s.entryGot l i = .bytes (e i)) ∧
    due = (List.range l.record.entries).filter fun i =>
      !(kGet l.entries i).ended && decide (fieldN (e i) 18 2 ≤ n) && !(fieldN (e i) 22 2).testBit 0

/-- Move `id` is next for its page, which stands as `wk` translates it (R286, R292). -/
structure MoveReady (s : State) (id : Nat) (m : Move) (wk : Walk) : Prop where
  move : kGet? s.moves id = some m
  alone : m.entry = none
  first : ∀ e ∈ s.moves, e.1 < id → ¬ (e.2.ctx = m.ctx ∧ e.2.va = m.va)
  page : s.translate m.ctx m.va = some wk
  kind : wk.big = false ∧ pteKind wk.pte = 0

/-- The engine of the move's die has room for one more page in flight (R293). -/
def EngineRoom (s : State) (m : Move) : Prop := (s.moves.filter fun e => e.2.marked && e.2.die == m.die).length < 32

/-- A marked move whose page nothing accesses and nothing has changed may finish (R292). -/
structure MoveFinishes (s : State) (id : Nat) (m : Move) (wk : Walk) : Prop extends MoveReady s id m wk where
  marked : m.marked = true ∧ m.pte = wk.pte
  quiet : s.pageBusy m = false

/-- The page-table entry of a finished move says where the page is, and only the tag and poison-any bits may differ
beside (R277, R278). -/
def EntryMoved (t : State) (wk : Walk) (addr tier : Nat) : Prop :=
  ∃ tagd poisoned, t.phys64 wk.at_ = (pteMoved wk.pte addr tier tagd poisoned).toNat

/-! ## Taking a fault -/

/-- The warp can take a fault in the step that raises it: nothing is outstanding, it is in no handler, its launch has one. -/
structure CanTake (s : State) (w : Nat) : Prop where
  none : (s.warp w).pend = .none
  drained : (s.warp w).path0.outs = [] ∧ (s.warp w).path1.outs = [] ∧ (s.warp w).path0.io = .none ∧ (s.warp w).path1.io = .none ∧
    (s.warp w).path0.reserved = .none ∧ (s.warp w).path1.reserved = .none
  free : (s.warp w).wait = .none
  plain : (s.warp w).mirror = .none ∧ (s.warp w).kvDone = .none
  body : (s.warp w).handler = false
  handler : (s.launch (s.warp w).launch).record.handler ≠ 0

/-- R188 to R191: the warp has entered its handler with the report given: the scalar stream stands at the handler's entry,
what it waited for is kept, the lane stream stands still and no park is left. -/
def Entered (x y : Warp) (l : LaunchRec) (r : Report) : Prop :=
  y = { x with
    handler := true, rep := r, pend := none, savedWait := keepWait x.wait, wait := .none
    path0 := { x.path0 with park := none }, path1 := { x.path1 with park := none }, link := none
    pc := l.sbase + BitVec.ofNat 64 l.handler, lastPc := x.pc }

/-- The report of a scalar fault at the current instruction, with what the access was (R76, R189). -/
def scalarReport (s : State) (code access n : Nat) (addr spc : W64) : Report :=
  ⟨BitVec.ofNat 64 (code + access * 1024 + n * 65536), addr, spc, 0, s.cur.word0, s.cur.word1, s.cur.word2⟩

/-- The current scalar instruction has faulted and its warp has entered its handler; nothing else has changed. -/
structure ScalarFaults (s t : State) (code access : Nat) (addr : W64) : Prop where
  frame : OnlyWarp s.cur.warp s t
  entered : Entered s.me t.me s.myLaunch.record (scalarReport s code access 0 addr s.me.pc)

/-- R190: warp `w` has been halted as killed with a code. -/
structure Halted (s t : State) (w code : Nat) (pc : W64) : Prop where
  gone : kGet? t.warps w = none
  block : (t.block (s.warp w).block).abandoned = true
  killed : ((s.warp w).widx, code, pc) ∈ (t.block (s.warp w).block).killed
  count : (t.launch (s.warp w).launch).tally.killedWarps =
    min 65535 ((s.launch (s.warp w).launch).tally.killedWarps + 1)

/-- The instructions of a privileged launch only (R51). -/
def privRows (d a b : BitVec 6) : List Instr :=
  [.grant d a b, .gate a b, .digr d a b, .errqRead d a b, .errqRepair d a, .errqLog d a b, .corectlDrain d a,
   .corectlIsolate a, .corectlRelease a, .scan a b, .scanwt d a, .lcmap d a b, .wkill d a b]

/-- The instructions that a handler may not execute (R191). -/
def handlerRows (a : BitVec 6) (i : BitVec 14) (o : BitVec 26) : List Instr :=
  [.lrun o, .lsync, .bwait a, .yieldC a i, .bcont a i, .barBk a, .barGg a, .bareBk a, .bareGg a]

end Sys2Proof.Claims

/-! ## Residency -/

/-- R283, R284, R288: PMARK raises the marker and starts the entries whose start it has reached; with no entry due it goes on,
else its stream parks until those entries end. An entry whose start is reached starts and its first page is taken on. TREQ goes on where every page has tier 0; otherwise
every page that has not is asked for and the path parks.
Where it rests on the model's own choices, they are those of logs 15 and 25. -/
def Obligations.ResidencyIsRequestedAndAwaited : Prop :=
  (∀ (s : State) (n : BitVec 16) (due : List Nat),
    let u := (s.setLaunch s.me.launch { s.myLaunch with marker := max s.myLaunch.marker n.toNat }).startEntries s.me.launch
    s.me.wait = .none → TableReads u (u.launch s.me.launch) n.toNat due →
    (due = [] → ∃ t, exec (.pmark n) s = .next t ∧ StreamGoes s t (s.me.pc + 4) ∧ { t with warps := u.warps } = u ∧
      (t.launch s.me.launch).marker = max s.myLaunch.marker n.toNat) ∧
    (due ≠ [] → modeSm s.myMode = false → ∃ t, exec (.pmark n) s = .next t ∧
      t.me = { s.me with wait := .parked ⟨.schedule, due.map (BitVec.ofNat 64), 0⟩ } ∧
      (t.launch s.me.launch).marker = max s.myLaunch.marker n.toNat ∧
      (∀ i ∈ due, (kGet (t.launch s.me.launch).entries i).missed = true))) ∧
  (∀ (s : State) (lid i home : Nat) (l : Launch) (e : List Byte), kGet? s.eng.launches lid = some l → l.complete = false → l.tally.forced = false →
    i < l.record.entries → (kGet l.entries i).started = false → (kGet l.entries i).ended = false → l.home = some home →
    s.entryGot l i = .bytes e → entryOk e = true → tStart e ≤ l.marker → s.earlierWaits l i = false →
    s.inFlight (s.entryDie lid e) < 16 →
    ∃ t, exec (.timetableEntryStart lid i) s = .next t ∧
      kGet (t.launch lid).entries i = { kGet l.entries i with started := true, bytes := e, die := s.entryDie lid e } ∧
      kGet? t.moves s.nextId = some ⟨l.ctx, tVa e, tTier e, tAct e, s.entryDie lid e, lid, some i, false, 0, none⟩ ∧
      { t with eng := s.eng, moves := s.moves, nextId := s.nextId, fab := { t.fab with reads := s.fab.reads } } = s) ∧
  (∀ (s : State) (f : LaneF),
    let k := f.ctlN 0 4
    let accs := (lanesOf (active s.me s.cur.path f &&& mreg s.me s.cur.path k)).map fun l => (l, laneVa s.me f l)
    s.lanePre (regsOf true f.va) (guardMask f ++ (if k = 0 then [] else [k])) = .go → (∀ e ∈ s.moves, e.1 < s.nextId) →
    (∀ here, LanesHere s accs 1 0 here →
      ∃ t, exec (.treq f) s = .next t ∧ LaneOwes s t (outst f.la.toNat [] [] [] []) ∧ { t with warps := s.warps } = s) ∧
    ((∀ e ∈ accs, s.check s.myCtx e.2 0 = .away ∨ ∃ pa pte, s.check s.myCtx e.2 0 = .here pa pte) →
      (∃ e ∈ accs, s.check s.myCtx e.2 0 = .away) →
      ∃ t p, exec (.treq f) s = .next t ∧ t.myPath.park = some p ∧ p.kind = .residency ∧ t.myPath.pc = s.myPath.pc ∧
        ∀ e ∈ accs, s.check s.myCtx e.2 0 = .away → s.fetchDue s.myCtx e.2 = true ∨ ∃ m ∈ t.moves, m.2.ctx = s.myCtx ∧ promotes m.2 = true ∧
          m.2.va = BitVec.ofNat 64 (e.2.toNat / 65536 * 65536)))

/-- R278, R281, R292: a move is marked before it copies; a promotion from tier 1 leaves the page's bytes in a free frame of
tier 0, one from tier 2 the bytes of its backing in host memory, or those that the peer holding it has answered; a write-back to
host memory leaves the page's bytes in its backing. The page-table entry
then says where the page is.
Where it rests on the model's own choices, they are those of log 25. -/
def Obligations.PagesMoveBetweenTiers : Prop :=
  ∀ (s : State) (id : Nat) (m : Move) (wk : Walk),
    (MoveReady s id m wk → m.marked = false → EngineRoom s m →
      (m.act = 1 ∧ m.tier < pteTier wk.pte ∨ m.act = 2 ∧ ptePin wk.pte = false ∧ pteTier wk.pte < m.tier) →
      ∃ t, exec (.pageMove id [] []) s = .next t ∧ kGet? t.moves id = some { m with marked := true, pte := wk.pte } ∧
        { t with moves := s.moves } = s) ∧
    (∀ f pool, MoveFinishes s id m wk → m.act = 1 → m.tier = 0 →
      takeFrame (s.die m.die).pool0 1 = some (f, pool) → f.toNat % 65536 = 0 →
      (wk.at_ + 8 ≤ f.toNat ∨ f.toNat + 65536 ≤ wk.at_) →
      (pteTier wk.pte = 1 → (∀ b, s.backingOf m.ctx m.va = some b → b.dropped = false) →
        ∃ t, exec (.pageMove id [] []) s = .next t ∧ EntryMoved t wk f.toNat 0 ∧ kGet? t.moves id = none ∧
          (∀ i, i < 65536 → t.byteAt (f.toNat + i) = s.byteAt (pteAddr wk.pte + i)) ∧
          (∀ a, (a < f.toNat ∨ f.toNat + 65536 ≤ a) → (a < wk.at_ ∨ wk.at_ + 8 ≤ a) → t.byteAt a = s.byteAt a)) ∧
      (pteTier wk.pte = 2 → pteTagd wk.pte = false → s.backingGone (s.backingPlace m) = false →
        (s.backingPlace m = 0 → m.io = none →
          ∃ t, exec (.pageMove id [] []) s = .next t ∧ EntryMoved t wk f.toNat 0 ∧ kGet? t.moves id = none ∧
            (∀ i, i < 65536 → t.byteAt (f.toNat + i) = spGet s.host (pteAddr wk.pte + i)) ∧
            (∀ a, (a < f.toNat ∨ f.toNat + 65536 ≤ a) → (a < wk.at_ ∨ wk.at_ + 8 ≤ a) → t.byteAt a = s.byteAt a) ∧
            t.host = s.host) ∧
        (∀ io, s.backingPlace m ≠ 0 → m.io = some io → io.reqs = [] → io.refused = [] →
          (∀ k, k < 256 → ((kGet? io.answers k).getD []).length = 256) →
          ∃ t, exec (.pageMove id [] []) s = .next t ∧ EntryMoved t wk f.toNat 0 ∧ kGet? t.moves id = none ∧
            (∀ i, i < 65536 → t.byteAt (f.toNat + i) = ((kGet? io.answers (i / 256)).getD []).getD (i % 256) 0)))) ∧
    (∀ b, MoveFinishes s id m wk → m.act = 2 → m.tier = 2 → pteTier wk.pte = 0 → s.backingPlace m = 0 → s.backingGone 0 = false →
      s.backingOf m.ctx m.va = some b → s.clean.contains (pteAddr wk.pte) = false →
      ∃ t, exec (.pageMove id [] []) s = .next t ∧ EntryMoved t wk b.addr.toNat 2 ∧ kGet? t.moves id = none ∧
        (∀ i, i < 65536 → spGet t.host (b.addr.toNat + i) = s.byteAt (pteAddr wk.pte + i)) ∧
        (∀ a, (a < wk.at_ ∨ wk.at_ + 8 ≤ a) → t.byteAt a = s.byteAt a))

/-! ## Faults -/

/-- R53, R70, R188 to R192: TRAP, an illegal word and a pending fault enter the handler with their report; a warp in its
handler, or of a launch without one, is halted as killed; ERET goes back to $FSPC with the wait the stream was in. -/
def Obligations.FaultsEnterTheHandler : Prop :=
  (∀ (s : State) (n : BitVec 8), CanTake s s.cur.warp →
    ∃ t, exec (.trap n) s = .next t ∧ OnlyWarp s.cur.warp s t ∧
      Entered s.me t.me s.myLaunch.record (scalarReport s 0x19 0 n.toNat 0 (s.me.pc + 4))) ∧
  (∀ (s : State) (w : Nat) (lane : Bool) (w0 w1 w2 : W32) (x : Warp), kGet? s.warps w = some x → CanTake s w →
    ∃ t, exec (.illegalOp w lane w0 w1 w2) s = .next t ∧ OnlyWarp w { s with cur := t.cur } t ∧
      Entered (if lane then setPath x s.cur.path { warpPath x s.cur.path with
          io := none, park := none, reserved := none, targets := none } else x) (t.warp w)
        (s.launch x.launch).record
        ⟨if lane then BitVec.ofNat 64 (1 + 256 + s.cur.path * 512) else 1, 0, x.pc,
          if lane then BitVec.ofNat 64 (issuePc (warpPath x s.cur.path)) else 0, w0, w1, w2⟩) ∧
  (∀ (s : State) (w : Nat) (x : Warp) (f : Pending), kGet? s.warps w = some x → x.pend = some f → drained x = true →
    x.mirror = none → f.sstep = false → x.stopped = false →
    let spc := if f.rep.fault.getLsbD 8 then x.pc else f.rep.fspc
    (x.handler = false → (s.launch x.launch).record.handler ≠ 0 →
      ∃ t, exec (.faultDelivery w) s = .next t ∧ OnlyWarp w s t ∧
        Entered x (t.warp w) (s.launch x.launch).record { f.rep with fspc := spc }) ∧
    (x.handler = true ∨ (s.launch x.launch).record.handler = 0 →
      ∃ t, exec (.faultDelivery w) s = .next t ∧ Halted s t w f.code spc)) ∧
  (∀ s : State, s.me.handler = true →
    ∃ t, exec .eret s = .next t ∧ OnlyWarp s.cur.warp s t ∧ t.me.handler = false ∧ t.me.pc = s.me.rep.fspc ∧
      t.me.rep = s.me.rep ∧ t.me.path0 = s.me.path0 ∧ t.me.path1 = s.me.path1 ∧ t.me.v = s.me.v ∧
      ((∀ d v, s.me.savedWait ≠ .barrierDone d v) → t.me.wait = s.me.savedWait ∧ t.me.s = s.me.s) ∧
      (∀ d v, s.me.savedWait = .barrierDone d v → t.me.wait = .none ∧
        sreg t.me (BitVec.ofNat 6 d) = (if BitVec.ofNat 6 d = (0 : BitVec 6) then 0 else v)))

/-- R51, R62, R63, R140, R191: an instruction of a privileged launch faults PRIV in any other; a scalar access that is not
aligned faults ALIGN, one that does not translate XLATE, one without permission PERM, which also leaves a record in the
violation log of the warp's die; a handler that executes a waiting instruction is halted with PRIV.
Where it rests on the model's own choices, they are those of logs 24 and 36. -/
def Obligations.RefusedInstructionsFault : Prop :=
  (∀ (s : State) (d a b : BitVec 6), CanTake s s.cur.warp → s.privileged = false → ∀ i ∈ privRows d a b,
    ∃ t, exec i s = .next t ∧ ScalarFaults s t 0x02 0 0) ∧
  (∀ (s : State) (d b : BitVec 6) (z sp : BitVec 2) (o : BitVec 10), CanTake s s.cur.warp → sregWait s.me [d, b] = false →
    let ea := scalarEa s.me b z sp o
    let n := 2 ^ z.toNat
    (ea.toNat % n ≠ 0 → (∃ t, exec (.sld d b z sp o) s = .next t ∧ ScalarFaults s t 0x05 0 ea) ∧
      (∃ t, exec (.sst d b z sp o) s = .next t ∧ ScalarFaults s t 0x05 1 ea)) ∧
    (ea.toNat % n = 0 → sp = 0 → s.translate s.myCtx ea = none →
      (∃ t, exec (.sld d b z sp o) s = .next t ∧ ScalarFaults s t 0x03 0 ea) ∧
      (∃ t, exec (.sst d b z sp o) s = .next t ∧ ScalarFaults s t 0x03 1 ea)) ∧
    (∀ wk, ea.toNat % n = 0 → sp = 0 → s.translate s.myCtx ea = some wk → (s.die s.myDie).log.length < 256 →
      let noted (t : State) (k : Nat) : Prop := (t.die s.myDie).log = (s.die s.myDie).log ++
        [⟨ea, s.mgmt.settings.deviceId, 0, 0x04, BitVec.ofNat 32 s.myCtx, BitVec.ofNat 32 s.myBlock.lcore, k, n,
          BitVec.ofNat 64 (dieE (s.die s.myDie))⟩] ∧ OnlyWarp s.cur.warp { s with dies := t.dies } t ∧
        Entered s.me t.me s.myLaunch.record (scalarReport s 0x04 k 0 ea s.me.pc)
      (pteR wk.pte = false → ∃ t, exec (.sld d b z sp o) s = .next t ∧ noted t 0) ∧
      (pteW wk.pte = false → ∃ t, exec (.sst d b z sp o) s = .next t ∧ noted t 1))) ∧
  (∀ (s : State) (a : BitVec 6) (i : BitVec 14) (o : BitVec 26) (r : Instr), r ∈ handlerRows a i o → s.me.handler = true →
    s.me.pend = none → drained { s.me with wait := .none } = true → s.me.mirror = none →
    ∃ t, exec r s = .next t ∧ Halted s t s.cur.warp 0x02 s.me.pc)

namespace Sys2Proof.Claims

/-! ## The launch engine -/

/-- A record has been accepted as launch `num`, refused with the code given or not. -/
structure Accepted (t : State) (num ctx cls : Nat) (src : Source) (b : List Byte) (refused : Option Nat) : Prop where
  found : ∃ l, kGet? t.eng.launches num = some l ∧ l.record = decodeRec b ∧ l.ctx = ctx ∧ l.source = src ∧
    l.cls = max (fieldN b 46 1 % 8) cls ∧ l.refused = refused ∧ l.complete = false ∧ l.placed = 0

/-- The engines' reads on other devices are put aside. -/
def noReads (s : State) : State := { s with fab := { s.fab with reads := [] } }

/-- Only the launch engine, its reads, the counter of records, scans' signals and the violation log may have changed. -/
def EngineOnly (s t : State) : Prop :=
  noReads { t with eng := s.eng, nextId := s.nextId, cores := s.cores, dies := s.dies } = noReads s

/-- What acceptance takes of a record of a context, as its checks find it, with its number and its waits (R324, R326). -/
def TakenAs (s : State) (num ctx : Nat) (priv : Bool) (b : List Byte) (k : Taken) : Prop :=
  match s.recordGot324 ctx priv b (decodeRec b) with
  | .ok p r h => k = ⟨b, p, r, h, none, num, s.waitsNow ctx p, false⟩
  | .code c => k = ⟨b, [], [], [], some c, num, [], false⟩
  | .perm _ _ => k = ⟨b, [], [], [], some cPERM, num, [], false⟩
  | .hold _ _ => False

/-- A privileged instruction whose operands are readable. -/
def PrivReady (s : State) (rs : List (BitVec 6)) : Prop :=
  s.privileged = true ∧ sregWait s.me rs = false ∧ s.me.wait = .none ∧ s.stampsPending s.me = false

/-- What GRANT may change beside its register: the import table (R318), and the model's count of requests. -/
structure ImportSet (s t : State) (k : Nat) (e : Import) : Prop where
  entry : kGet? t.fab.imports k = some e
  others : ∀ j, j ≠ k → kGet? t.fab.imports j = kGet? s.fab.imports j
  rest : { t with warps := s.warps, nextId := s.nextId, fab := { t.fab with imports := s.fab.imports } } = s

/-- A gated atomic of warp `w` finds its line in tier 0, unpoisoned, governed by live slot `k` (R350, R352). -/
structure PassReady (s : State) (w : Nat) (a : GateLane) (pa : Nat) (pte : W64) (k : Nat) (g : Gate) : Prop where
  warp : (kGet? s.warps w).isSome
  page : s.check (s.launch (s.warp w).launch).ctx a.va 2 = .here pa pte
  clean : s.poisoned pa (rmwBytes a.rmw.ty) = false
  gate : s.gateOf (s.launch (s.warp w).launch) a.va = some k ∧ g = kGet (s.launch (s.warp w).launch).gates k ∧ g.live = true
  log : s.logNeeds (s.launch (s.warp w).launch) g = none

/-- The pass goes straight to its access: the recording's open chunk takes it and stays open
(R352, R365), or it is at the replay's head with more
of its run to come (R353). -/
def PassesNow (s : State) (w : Nat) (g : Gate) : Prop :=
  let l := s.launch (s.warp w).launch
  let wid := gateWid l (s.block (s.warp w).block).index (s.warp w).widx
  (modeDet l.record.mode = 2 ∧ (g.open_ = true → g.wid = wid ∧ g.run < 254)) ∨
  (modeDet l.record.mode = 3 ∧ g.wid = wid ∧ 2 ≤ g.run ∧ s.widGone (s.warp w).launch wid = false)

/-- The slot after a pass: its hash has taken the old and the new value in, and its run is one longer or one shorter. -/
def Passed (s t : State) (w k : Nat) (g : Gate) (old new : W64) : Prop :=
  let l := s.launch (s.warp w).launch
  let wid := gateWid l (s.block (s.warp w).block).index (s.warp w).widx
  let g' := kGet (t.launch (s.warp w).launch).gates k
  g'.hash = mix (g.hash ^^^ old ^^^ new.rotateLeft 17 ^^^ (BitVec.ofNat 64 wid <<< 40)) ∧ g'.wid = wid ∧ g'.live = true ∧
    g'.run = (if modeDet l.record.mode = 3 then g.run - 1 else if g.open_ then g.run + 1 else 1)

/-! ## Banks, reports, cores -/

/-- R356: a bank's record after an error of severity `sev` (1 CE, 2 or 3 UE, 4 event). -/
def bankAfter (b : Bank) (sev syn : Nat) (addr time : W64) : Bank :=
  let ce := min 0xFFFFFFFF (b.ce + 1)
  let ue := min 0xFFFFFFFF (b.ue + 1)
  if b.severity = 0 then
    { severity := sev, ovf := false, syndrome := syn, addr := addr, time := time
      ce := if sev = 1 ∨ sev = 4 then 1 else 0, ue := if sev = 1 ∨ sev = 4 then 0 else 1 }
  else if sev = 1 ∨ sev = 4 then { b with ce := ce }
  else if b.severity = 1 ∨ b.severity = 4 then
    { b with severity := sev, syndrome := syn, addr := addr, time := time, ue := 1 }
  else { b with ue := ue, ovf := true }

/-- A privileged instruction on another core, named by its logical number (R361). -/
structure OtherCore (s : State) (a : BitVec 6) (c : Nat) : Prop where
  named : s.coreMap[(sreg s.me a).toNat]? = some c
  other : c ≠ s.myBlock.pcore

/-- Core `c` has become `k`; of everything else only the warps may have changed. -/
structure CoreNow (s t : State) (c : Nat) (k : Core) : Prop where
  core : t.core c = k
  others : ∀ d, d ≠ c → kGet? t.cores d = kGet? s.cores d
  rest : { t with warps := s.warps, cores := s.cores } = s

/-- The blocks that stand on a core. -/
def blocksOn (s : State) (c : Nat) : Nat := (s.blocks.filter fun b => b.2.pcore == c && !b.2.completed).length

end Sys2Proof.Claims

/-! ## Launches, imports, gates -/

/-- R73, R324, R326, R328, R329, R332: LAUNCH puts its record, with what acceptance reads for it, into the device queue under a
launch number, its class raised to the launch's where that is not privileged. The engine accepts the next record of a queue; a producer index more than the size
ahead stops its queue; a record's waits are tested from its acceptance, and a launch is admissible once its waits have passed; one that has waited its class's limit moves up.
Where it rests on the model's own choices, they are those of log 28. -/
def Obligations.LaunchesReachTheEngine : Prop :=
  (∀ (s : State) (d a : BitVec 6) (b : List Byte) (k : Taken), sregWait s.me [d, a] = false → s.me.wait = .none →
    s.stampsPending s.me = false → (sreg s.me a).toNat % 128 = 0 → ReadsLong s s.myCtx (sreg s.me a) 128 b →
    s.eng.device.length < 256 → TakenAs s s.nextNum s.myCtx s.privileged b k →
    let prio := s.myLaunch.effective
    let raised := s.privileged = false ∧ fieldN b 46 1 % 8 < prio
    ∃ t q, exec (.launch d a) s = .next t ∧ StreamWrites s t d (BitVec.ofNat 64 s.nextNum) (s.me.pc + 4) ∧
      noReads { t with warps := s.warps, eng := s.eng, dies := s.dies } = noReads s ∧
      t.eng = { s.eng with device := s.eng.device ++ [q], lastNum := s.nextNum } ∧ q.num = s.nextNum ∧ q.ctx = s.myCtx ∧
      q.priv = s.privileged ∧ { q.taken with bytes := b } = k ∧
      (raised → q.taken.bytes = b.set 46 (BitVec.ofNat 8 (fieldN b 46 1 / 8 * 8 + prio))) ∧
      (¬ raised → q.taken.bytes = b)) ∧
  (∀ (s : State) (q : Nat) (x : HostQueue) (v : W64), kGet? s.eng.queues q = some x → (kGet s.fab.links 6).dead = false →
    s.mgmt.recovery = false →
    ∃ t, exec (.hostProducerWrite q v) s = .next t ∧ (t.queue q).producer = v.setWidth 32 ∧
      (t.queue q).enable = (x.enable && decide ((v.setWidth 32 - x.consumer).toNat ≤ 2 ^ x.size)) ∧
      (t.queue q).consumer = x.consumer ∧ { t with eng := s.eng, banks := s.banks } = s) ∧
  (∀ (s : State) (q : Nat) (x : HostQueue) (b : List Byte), kGet? s.eng.queues q = some x → x.enable = true →
    x.producer ≠ x.consumer → (x.producer - x.consumer).toNat ≤ 2 ^ x.size → s.graphWaits (.host q) = false →
    ReadsLong s x.ctx (x.base + BitVec.ofNat 64 (128 * (x.consumer.toNat % 2 ^ x.size))) 128 b →
    (∀ p r h, s.recordGot324 x.ctx x.priv b (decodeRec b) = .ok p r h →
      ∃ t, exec (.hostQueueAccept q) s = .next t ∧ Accepted t s.nextNum x.ctx x.cls (.host q) b none ∧ EngineOnly s t ∧
        (t.queue q).consumer = x.consumer + 1 ∧ t.eng.lastNum = s.nextNum) ∧
    (∀ c, s.recordGot324 x.ctx x.priv b (decodeRec b) = .code c →
      ∃ t, exec (.hostQueueAccept q) s = .next t ∧ Accepted t s.nextNum x.ctx x.cls (.host q) b (some c) ∧ EngineOnly s t ∧
        (t.queue q).consumer = x.consumer + 1 ∧ t.eng.lastNum = s.nextNum)) ∧
  (∀ (s : State) (r : QueuedRec) (rest : List QueuedRec), s.eng.device = r :: rest → s.graphWaits .device = false →
    ∃ t, exec .deviceQueueAccept s = .next t ∧ Accepted t r.num r.ctx 0 .device r.taken.bytes r.taken.refused ∧
      EngineOnly s t ∧ t.eng.device = rest) ∧
  (∀ (s : State) (num : Nat) (q : QueuedRec), (s.eng.accepted ++ s.eng.device).find? (fun q => q.num == num) = some q →
    (∀ w ∈ q.taken.waits, ∃ pa pte, s.check q.ctx w.1 0 = .here pa pte) →
    ∃ t, exec (.pennantRetest num) s = .next t ∧ t.eng.launches = s.eng.launches ∧
      ∀ r ∈ t.eng.accepted ++ t.eng.device, r.num = num → r.taken.waits = q.taken.waits.map fun w =>
        (w.1, w.2.1, w.2.2 || s.waitPasses q.ctx w.1 w.2.1 || s.farPasses q.ctx w.1 w.2.1)) ∧
  (∀ (s : State) (num : Nat) (l : Launch), kGet? s.eng.launches num = some l → l.complete = false → l.refused = none →
    (∀ q ∈ s.eng.accepted ++ s.eng.device, q.num ≠ num) →
    let passes (w : W64 × W64 × Bool) : Bool :=
      w.2.2 || s.waitPasses l.ctx w.1 w.2.1 || s.farPasses l.ctx w.1 w.2.1
    ∃ t, exec (.pennantRetest num) s = .next t ∧
      ((∀ w ∈ l.waits, ∃ pa pte, s.check l.ctx w.1 0 = .here pa pte) → noReads { t with eng := s.eng } = noReads s) ∧
      (t.launch num).waits = l.waits.map (fun w => (w.1, w.2.1, passes w)) ∧
      (t.launch num).admissibleAt = (if l.admissibleAt = none ∧ ∀ w ∈ l.waits, passes w = true
        then some (s.die 4).count else l.admissibleAt)) ∧
  (∀ (s : State) (num : Nat) (l : Launch) (at_ : Nat), kGet? s.eng.launches num = some l → l.admissibleAt = some at_ →
    placeable l = true → 3 ≤ l.cls → l.placed < tasksOf l →
    max at_ l.movedAt + 1000 * (if l.placed = 0 then s.mgmt.settings.ages else l.ages).getD (l.cls - 3) 0 ≤ (s.die 4).count →
    ∃ t, exec (.agePromotion num) s = .next t ∧ { t with eng := s.eng } = s ∧ (t.launch num).cls = l.cls - 1 ∧
      (t.launch num).movedAt = (s.die 4).count)

/-- R317, R318, R350 to R353: GRANT writes an import entry, a named one or the lowest free; GATE installs a slot on a line or
clears one; a gated atomic that may pass performs its access, takes both values into the slot's hash and counts its run. -/
def Obligations.ImportsAreGrantedAndGatesPassed : Prop :=
  (∀ (s : State) (d a b : BitVec 6) (img : List Byte), PrivReady s [d, a, b] → (sreg s.me a).toNat % 32 = 0 →
    ReadsLong s s.myCtx (sreg s.me a) 32 img → fieldN img 24 4 = 0 → fieldN img 28 1 < 16 → fieldN img 29 3 = 0 →
    let on (j : Nat) : Bool := (fieldN img 28 1).testBit j
    (on 0 = true → fieldN img 0 8 % 256 = 0 ∧ fieldN img 0 8 < 2 ^ 56 ∧ 1 ≤ fieldN img 8 8 ∧ fieldN img 8 8 ≤ 2 ^ 42) →
    let e : Import := ⟨BitVec.ofNat 64 (fieldN img 0 8), fieldN img 8 8, BitVec.ofNat 64 (fieldN img 16 8), s.myCtx, on 0, on 1,
      on 2, on 3⟩
    let used (k : Nat) : Prop := (kGet s.fab.imports k).valid = true
    let settled (k : Nat) : Prop := ∀ q ∈ s.fab.ins, ∀ c, q.2.checked = some (k, c) → s.nextId < q.2.since
    (∀ k, k < 1024 → sreg s.me b = BitVec.ofNat 64 k → settled k →
      ∃ t, exec (.grant d a b) s = .next t ∧ StreamWrites s t d (BitVec.ofNat 64 k) (s.me.pc + 4) ∧ ImportSet s t k e) ∧
    (∀ k, k < 1024 → sreg s.me b = BitVec.ofNat 64 k → ¬ settled k →
      ∃ t, exec (.grant d a b) s = .next t ∧ t.me = { s.me with wait := .grant k s.nextId } ∧ ImportSet s t k e) ∧
    (∀ k, k < 1024 → sreg s.me b = BitVec.allOnes 64 → ¬ used k → (∀ j, j < k → used j) → settled k →
      ∃ t, exec (.grant d a b) s = .next t ∧ StreamWrites s t d (BitVec.ofNat 64 k) (s.me.pc + 4) ∧ ImportSet s t k e) ∧
    (sreg s.me b = BitVec.allOnes 64 → (∀ j, j < 1024 → used j) →
      ∃ t, exec (.grant d a b) s = .next t ∧ ScalarWrites s t d (BitVec.allOnes 64) (s.me.pc + 4))) ∧
  (∀ (s : State) (d a b : BitVec 6) (k n : Nat), s.me.wait = .grant k n →
    (∀ q ∈ s.fab.ins, ∀ c, q.2.checked = some (k, c) → n < q.2.since) →
    ∃ t, exec (.grant d a b) s = .next t ∧ ScalarWrites s t d (BitVec.ofNat 64 k) (s.me.pc + 4)) ∧
  (∀ (s : State) (a b : BitVec 6) (k : Nat), PrivReady s [a, b] → 2 ≤ modeDet s.myMode → k < 64 →
    sreg s.me b = BitVec.ofNat 64 k →
    (∀ bs, sreg s.me a ≠ 0 → (sreg s.me a).toNat % 32 = 0 → ReadsLong s s.myCtx (sreg s.me a) 32 bs →
      gateOk bs (modeDet s.myMode == 3) = true → kGet? s.myLaunch.gates k = none →
      let line := BitVec.ofNat 64 (fieldN bs 0 8)
      (∀ g ∈ s.myLaunch.gates, g.2.live = true → s.sameLine s.myLaunch.ctx g.2.line line = false) →
      s.lineInFlight s.me.launch line = false →
      let cap := if modeDet s.myMode = 3 then fieldN bs 20 4 else fieldN bs 16 4
      let g : Gate := ⟨line, sreg s.me a, BitVec.ofNat 64 (fieldN bs 8 8), cap, 0, fieldN bs 24 1, 0, 0, 0, 0, false, cap != 0⟩
      ∃ t, exec (.gate a b) s = .next t ∧ StreamGoes s t (s.me.pc + 4) ∧ { t with warps := s.warps, eng := s.eng } = s ∧
        t.launch s.me.launch = { s.myLaunch with gates := kSet s.myLaunch.gates k g }) ∧
    (sreg s.me a = 0 → kGet? s.myLaunch.gates k = none →
      ∃ t, exec (.gate a b) s = .next t ∧ ScalarGoes s t (s.me.pc + 4)) ∧
    (∀ g, sreg s.me a = 0 → kGet? s.myLaunch.gates k = some g →
      let u := s.lookAhead s.me.launch k
      u.clearNeeds s.myLaunch (kGet u.myLaunch.gates k) = none →
      ∃ t, exec (.gate a b) s = .next t ∧ StreamGoes s t (s.me.pc + 4) ∧
        kGet? (t.launch s.me.launch).gates k = none)) ∧
  (∀ (s : State) (w k pa : Nat) (pte : W64) (g : Gate) (a : GateLane), PassReady s w a pa pte k g → PassesNow s w g →
    let n := rmwBytes a.rmw.ty
    let old := BitVec.ofNat 64 (ofBytes (readBytes s.mem pa n))
    let new := rmwAfter a.rmw old
    let stored (t : State) : Prop := match rmwNew a.rmw old with
      | some v => StoresAt s t pte pa (toBytes n v.toNat)
      | none => t.mem = s.mem
    ((s.warp w).wait = .gate a → ∃ t, exec (.gatePass w 2) s = .next t ∧ stored t ∧ Passed s t w k g old new ∧
      t.warp w = { s.warp w with wait := .gated old }) ∧
    (∀ p j rest outs, p < 2 → (warpPath (s.warp w) p).outs = j :: outs → j.gates = a :: rest →
      ∃ t gates writes, exec (.gatePass w p) s = .next t ∧
        (warpPath (t.warp w) p).outs = { j with gates := gates, writes := j.writes ++ writes } :: outs ∧
        (∀ q ∈ gates, q ∈ rest) ∧ (∀ q ∈ rest, s.samePlace (s.launch (s.warp w).launch).ctx q.va a.va = false → q ∈ gates) ∧
        ((∀ q ∈ rest, s.samePlace (s.launch (s.warp w).launch).ctx q.va a.va = false) → gates = rest ∧ stored t ∧ Passed s t w k g old new ∧
          writes = match a.ret with | some vd => oldWrites (n == 8) vd a.lane old | none => [])))

/-! ## Banks, reports, cores -/

/-- R347, R354 to R358: DIGR reads a retained task digest; ERRQ.read stores a bank's record and clears it; ERRQ.repair ends
the poison of a sector and says whether there was any; ERRQ.log stores a die's violations and clears them; an error enters
its bank's record; a poison report takes a slot of the ring and is written there once it is free.
Where it rests on the model's own choices, they are those of logs 21 and 32, and of log 45 for the bytes of a scratchpad that an
error of a core's bank damages. -/
def Obligations.ErrorsAreBankedReadAndReported : Prop :=
  (∀ (s : State) (d a b : BitVec 6) (r : Retained) (v : W64), PrivReady s [d, a, b] →
    s.eng.retained.find? (fun q => q.launch == (sreg s.me a).toNat) = some r →
    r.tasks.find? (fun e => e.1 == (sreg s.me b).toNat) = some ((sreg s.me b).toNat, v) →
    ∃ t, exec (.digr d a b) s = .next t ∧ ScalarWrites s t d v (s.me.pc + 4)) ∧
  (∀ (s : State) (d a b : BitVec 6) (pa : Nat) (pte : W64), PrivReady s [d, a, b] → (sreg s.me b).toNat % 32 = 0 →
    (bankOk (sreg s.me a).toNat = true → Writes s s.myCtx (sreg s.me b) 32 pa pte →
      let r := kGet s.banks (sreg s.me a).toNat
      ∃ t, exec (.errqRead d a b) s = .next t ∧ StreamWrites s t d (BitVec.ofNat 64 r.severity) (s.me.pc + 4) ∧
        StoresAt s t pte pa (bankBytes r) ∧ (∀ k, kGet? t.banks k =
          if k = (sreg s.me a).toNat then none else kGet? s.banks k) ∧
        { t with warps := s.warps, mem := s.mem, clean := s.clean, eng := s.eng, banks := s.banks } = s) ∧
    ((sreg s.me a).toNat ≤ 5 → (s.die (sreg s.me a).toNat).log.length ≤ 256 → Writes s s.myCtx (sreg s.me b) 8224 pa pte →
      let u := s.die (sreg s.me a).toNat
      ∃ t, exec (.errqLog d a b) s = .next t ∧ StreamWrites s t d (BitVec.ofNat 64 u.log.length) (s.me.pc + 4) ∧
        StoresAt s t pte pa (logImage u) ∧ t.die (sreg s.me a).toNat = { u with log := [], logOver := 0 } ∧
        { t with warps := s.warps, mem := s.mem, clean := s.clean, eng := s.eng, dies := s.dies } = s)) ∧
  (∀ (s : State) (d a : BitVec 6) (pa : Nat) (pte : W64), PrivReady s [d, a] → laneWait s.me = false → s.me.held = [] →
    (sreg s.me a).toNat % 32 = 0 → s.check s.myCtx (sreg s.me a) 0 = .here pa pte → pa % 32 = 0 →
    (s.poisoned pa 32 = false → ∃ t, exec (.errqRepair d a) s = .next t ∧ ScalarWrites s t d 1 (s.me.pc + 4)) ∧
    (s.poisoned pa 32 = true → ∃ t, exec (.errqRepair d a) s = .next t ∧ StreamWrites s t d 0 (s.me.pc + 4) ∧
      (∀ q, q ∈ t.poison ↔ q ∈ s.poison ∧ q ≠ pa / 32) ∧
      { t with
        warps := s.warps, mem := s.mem, poison := s.poison, moves := s.moves
        mgmt := { t.mgmt with reported := s.mgmt.reported } } = s)) ∧
  (∀ (s : State) (bank sev syn addr victim : Nat), bankOk bank = true → 1 ≤ sev → sev ≤ 4 → syn < 2 ^ 16 →
    (sev = 4 ↔ 0x10 ≤ syn) → (sev = 3 → kGet? s.warps victim = none) →
    ∃ t, exec (.errorBankUpdate bank sev syn addr victim) s = .next t ∧ kGet t.banks bank =
        bankAfter (kGet s.banks bank) sev syn (BitVec.ofNat 64 addr) (BitVec.ofNat 64 (dieE (s.die (bank / 256)))) ∧
      (∀ k, k ≠ bank → kGet? t.banks k = kGet? s.banks k) ∧
      let hbm := sev = 2 ∧ bank / 256 < 4 ∧ 49 ≤ bank % 256 ∧ bank % 256 ≤ 51
      let core := sev = 2 ∧ bank / 256 < 4 ∧ bank % 256 < 44
      (¬ hbm → ¬ core → { t with banks := s.banks } = s) ∧
      (hbm → (∀ q, q ∈ t.poison ↔ q ∈ s.poison ∨ q = addr / 32) ∧
        { t with banks := s.banks, poison := s.poison, mem := s.mem, moves := s.moves } = s) ∧
      (core → { t with banks := s.banks, blocks := s.blocks } = s ∧
        (∀ b, kGet? s.blocks victim = some b → b.pcore = bank / 256 * 44 + bank % 256 →
          t.block victim = { b with damaged := b.damaged ++ [addr / 32] }) ∧
        ∀ b, b ≠ victim → kGet? t.blocks b = kGet? s.blocks b)) ∧
  (∀ (s : State) (k : Nat) (r : PoisonRep) (pa : Nat) (pte : W64), s.mgmt.reports[k]? = some r → s.mgmt.ringBase ≠ 0 →
    (r.slot = none → s.check s.mgmt.ringCtx s.mgmt.ringBase 2 = .here pa pte →
      ∃ t, exec (.poisonReport k) s = .next t ∧ StoresAt s t pte pa (toBytes 4 (ofBytes (readBytes s.mem pa 4) + 1)) ∧
        t.mgmt.reports[k]? = some { r with slot := some (ofBytes (readBytes s.mem pa 4) % 2 ^ (s.byteAt (pa + 4)).toNat) }) ∧
    (∀ j, r.slot = some j → s.check s.mgmt.ringCtx (s.mgmt.ringBase + BitVec.ofNat 64 (32 + 32 * j)) 2 = .here pa pte →
      s.byteAt pa = 0 →
      ∃ t, exec (.poisonReport k) s = .next t ∧ t.mgmt.reports = s.mgmt.reports.eraseIdx k ∧
        StoresAt s t pte pa ([1, 0x10] ++ toBytes 1 r.kind ++ toBytes 1 r.die ++ toBytes 4 r.launch ++
          toBytes 8 r.sector.toNat ++ toBytes 8 r.requester.toNat ++ toBytes 8 (dieE (s.die r.die)))))

/-- R359 to R363, R368, R369: an ACTIVE core is drained, a drained one without blocks isolated, either released; an isolated
core scans for 200 µs, after which its signature is stored and it is isolated again, or is set free by a signal; SCANWT says
how the scan ended; LCMAP replaces an isolated core by a spare of its die; WKILL halts a warp of a launch as killed.
Where it rests on the model's own choices, they are those of log 32. -/
def Obligations.CoresAreDrainedScannedAndReplaced : Prop :=
  (∀ (s : State) (d a : BitVec 6) (c : Nat), PrivReady s [d, a] → OtherCore s a c →
    ((s.core c).state = .active → ∃ t, exec (.corectlDrain d a) s = .next t ∧
      StreamWrites s t d (BitVec.ofNat 64 (blocksOn s c)) (s.me.pc + 4) ∧ CoreNow s t c { s.core c with state := .draining }) ∧
    ((s.core c).state = .draining → blocksOn s c = 0 → ∃ t, exec (.corectlIsolate a) s = .next t ∧
      StreamGoes s t (s.me.pc + 4) ∧ CoreNow s t c { s.core c with state := .isolated }) ∧
    ((s.core c).state = .draining ∨ (s.core c).state = .isolated → ∃ t, exec (.corectlRelease a) s = .next t ∧
      StreamGoes s t (s.me.pc + 4) ∧ CoreNow s t c { s.core c with state := .active }) ∧
    (∀ b pa pte, (s.core c).state = .isolated → sregWait s.me [a, b] = false → (sreg s.me b).toNat % 16 = 0 →
      Lies s s.myCtx (sreg s.me b) 16 1 pa pte →
      ∃ t, exec (.scan a b) s = .next t ∧ StreamGoes s t (s.me.pc + 4) ∧ CoreNow s t c { s.core c with
        state := .scanning, scanned := true, aborted := false, signalled := false
        scanEnd := (s.die (c / 44)).count + 200000, scanBuf := sreg s.me b, scanCtx := s.myCtx }) ∧
    ((s.core c).scanned = true → (s.core c).state ≠ .scanning → ∃ t, exec (.scanwt d a) s = .next t ∧
      ScalarWrites s t d (if (s.core c).aborted then 1 else 0) (s.me.pc + 4)) ∧
    (∀ b n, (s.core c).state = .isolated → sregWait s.me [d, a, b] = false → n / 44 = c / 44 → n ∉ s.coreMap → n ∉ s.failed →
      (sreg s.me b = BitVec.ofNat 64 n ∨ sreg s.me b = BitVec.allOnes 64 ∧
        ∀ j, j / 44 = c / 44 → j < n → j ∈ s.coreMap ∨ j ∈ s.failed) → n < 264 →
      ∃ t, exec (.lcmap d a b) s = .next t ∧ StreamWrites s t d (BitVec.ofNat 64 n) (s.me.pc + 4) ∧
        t.coreMap = s.coreMap.map (fun p => if p = c then n else p) ∧ t.failed = s.failed ++ [c] ∧
        (t.core n).state = .isolated ∧ t.blocks = s.blocks ∧ t.mem = s.mem)) ∧
  (∀ (s : State) (c : Nat) (lo hi : W64) (pa : Nat) (pte : W64), (s.core c).state = .scanning →
    (s.core c).scanEnd ≤ (s.die (c / 44)).count → s.mustAbort c = false → s.requestsOf (fun q => q.asker == .scan c) = false →
    s.check (s.core c).scanCtx (s.core c).scanBuf 1 = .here pa pte →
    ∃ t, exec (.scanComplete c lo hi) s = .next t ∧ StoresAt s t pte pa (toBytes 8 lo.toNat ++ toBytes 8 hi.toNat) ∧
      t.core c = { s.core c with state := .isolated, signalled := false } ∧ t.warps = s.warps) ∧
  (∀ (s : State) (die c : Nat) (k : Core), s.cores.filter (fun e => e.1 / 44 == die && aborted (s.die die) e.2) = [(c, k)] →
      kGet? s.cores c = some k →
    ∃ t, exec (.scanAbort die) s = .next t ∧ t.core c = { k with state := .active, aborted := true, signalled := false } ∧
      (kGet t.banks (c / 44 * 256 + c % 44)).severity ≠ 0 ∧ { t with cores := s.cores, banks := s.banks, dies := s.dies } = s) ∧
  (∀ (s : State) (d a b : BitVec 6), PrivReady s [d, a, b] →
    (∀ w x, (kGet? s.warps s.cur.warp).isSome → s.warps.find? (fun e => e.2.launch == (sreg s.me a).toNat &&
        warpWid (s.block e.2.block) e.2.widx == sreg s.me b) = some (w, x) → w ≠ s.cur.warp → kGet? s.warps w = some x → s.missPoisoned x = false →
      ¬ ((sreg s.me a).toNat = s.me.launch ∧ sreg s.me b = warpWid s.myBlock s.me.widx) →
      ∃ t, exec (.wkill d a b) s = .next t ∧ Halted s t w 0x11 x.pc ∧ t.me.pc = s.me.pc + 4 ∧
        sreg t.me d = 0) ∧
    ((∀ e ∈ s.warps, ¬ (e.2.launch = (sreg s.me a).toNat ∧ warpWid (s.block e.2.block) e.2.widx = sreg s.me b)) →
      (∀ e ∈ s.blocks, ∀ c ∈ e.2.conts, ¬ (e.2.launch = (sreg s.me a).toNat ∧ warpWid e.2 c.widx = sreg s.me b)) →
      (s.launch (sreg s.me a).toNat).saved = [] →
      ¬ ((sreg s.me a).toNat = s.me.launch ∧ sreg s.me b = warpWid s.myBlock s.me.widx) →
      ∃ t, exec (.wkill d a b) s = .next t ∧ ScalarWrites s t d 1 (s.me.pc + 4)))

namespace Sys2Proof.Claims

/-! ## Tables of the lane instructions -/

/-- A lane's value in a pair or a single register as the unsigned elements it packs (R46, R55). -/
def elemAt (ty a e : Nat) : Nat := a / 2 ^ (elemBits ty * e) % 2 ^ elemBits ty

/-- An element read as iN or nN (R84). -/
def readAs (ty x : Nat) : Int := if ty % 2 = 0 then (BitVec.ofNat (elemBits ty) x).toInt else ((x % 2 ^ elemBits ty : Nat) : Int)

/-- R84: an exact result wraps, or saturates at the least and the greatest value of the type. -/
def settled (ty : Nat) (sat : Bool) (v : Int) : Nat :=
  let n := elemBits ty
  let least : Int := if ty % 2 = 0 then -2 ^ (n - 1) else 0
  let greatest : Int := if ty % 2 = 0 then 2 ^ (n - 1) - 1 else 2 ^ n - 1
  ((if sat = true ∧ v < least then least else if sat = true ∧ greatest < v then greatest else v) % 2 ^ n).toNat

/-- The rows of R84 whose second source is OpB: instruction and the result of one element. -/
def laneRows : List ((LaneF → Instr) × (Nat → Bool → Nat → Nat → Nat)) :=
  [(.vadd, fun ty sat a b => settled ty sat (readAs ty a + readAs ty b)),
   (.vsub, fun ty sat a b => settled ty sat (readAs ty a - readAs ty b)),
   (.vmul, fun ty _ a b => settled ty false (readAs ty a * readAs ty b)),
   (.vmulh, fun ty _ a b => settled ty false (readAs ty a * readAs ty b / 2 ^ elemBits ty)),
   (.vmin, fun ty _ a b => settled ty false (min (readAs ty a) (readAs ty b))),
   (.vmax, fun ty _ a b => settled ty false (max (readAs ty a) (readAs ty b))),
   (.vand, fun _ _ a b => a &&& b),
   (.vor, fun _ _ a b => a ||| b),
   (.vxor, fun _ _ a b => a ^^^ b),
   (.vshl, fun ty _ a b => (a <<< (b % elemBits ty)) % 2 ^ elemBits ty),
   (.vshr, fun ty _ a b => a >>> (b % elemBits ty)),
   (.vsar, fun ty _ a b => ((BitVec.ofNat (elemBits ty) a).sshiftRight (b % elemBits ty)).toNat)]

/-- The rows of R84 with one source. -/
def laneRows1 : List ((LaneF → Instr) × (Nat → Bool → Nat → Nat)) :=
  [(.vabs, fun ty sat a => settled ty sat (if readAs ty a < 0 then -readAs ty a else readAs ty a)),
   (.vcnt, fun ty _ a => (List.range (elemBits ty)).countP fun i => a.testBit i),
   (.vclz, fun ty _ a => if a = 0 then elemBits ty else elemBits ty - 1 - Nat.log2 a)]

/-- A short lane instruction has written to each active lane a value whose elements are those given (R84). -/
def ElementsWritten (s t : State) (f : LaneF) (res : Nat → Nat → Nat) : Prop :=
  ∃ val, LaneWrites s t (active s.me s.cur.path f) (isPair f.ty) f.vd.toNat val ∧
    ∀ l e, hasLane (active s.me s.cur.path f) l → e < elemCount f.ty.toNat → elemAt f.ty.toNat (val l) e = res l e

/-- The bits `p .. p+w-1` of a word. -/
def bitsOf (x p w : Nat) : Nat := x / 2 ^ p % 2 ^ w

/-- The field of level `lv` of a work identifier: the lane below, then the levels by their widths (R23). -/
def levelField (widths : List Nat) (id lv : Nat) : Nat :=
  match lv with
  | 0 => bitsOf id 0 5
  | k + 1 => bitsOf id (5 + (widths.take k).sum) (widths.getD k 0)

/-- The conditions of R88. -/
def compare (cc : Nat) (a b : Int) : Prop :=
  match cc with
  | 0 => a = b
  | 1 => a ≠ b
  | 2 => a < b
  | 3 => a ≥ b
  | 4 => a ≤ b
  | _ => a > b

/-- Bit `l` of mask `k` as the current path reads it; m0 is its own mask. -/
def maskBit (s : State) (k l : Nat) : Bool := hasLane (mreg s.me s.cur.path k) l

/-- The lanes of the current path that the guard admits (R47). -/
def act (s : State) (f : LaneF) : W32 := active s.me s.cur.path f

/-- Lane `k` of the first source as a cross-lane instruction reads it: zero in a lane outside the path (R80). -/
def laneA (s : State) (f : LaneF) (k : Nat) : Nat := if hasLane s.myPath.mask k then (vreg s.me f.va.toNat k).toNat else 0

/-- The registers, and the masks with the guard, that an instruction names do not make it wait or fault (R45, R49, R201). -/
def Ready (s : State) (f : LaneF) (regs masks : List Nat) : Prop := s.lanePre regs (guardMask f ++ masks) = .go

/-- A mask is a member of a destination set where it is not m0. -/
def maskSet (k : Nat) : List Nat := if k = 0 then [] else [k]

end Sys2Proof.Claims

/-! ## Lane integers, masks and lane movement -/

/-- R47, R79, R84: a lane integer instruction writes to the register, or pair, vd of each active lane the result of each
element, wrapped to the element or saturated, and nothing else. -/
def Sys2Proof.Claims.LaneIntegersWriteTheirElements : Prop :=
  ∀ (s : State) (f : LaneF),
    let ty := f.ty.toNat
    let sat := f.ctl.getLsbD 0
    (∀ r ∈ laneRows, Ready s f (useDAB f) [] → ∃ t, exec (r.1 f) s = .next t ∧
      ElementsWritten s t f fun l e => r.2 ty sat (elemAt ty (opA s.me f l) e) (elemAt ty (opB s.me f l) e)) ∧
    (∀ r ∈ laneRows1, Ready s f (useDA f) [] → ∃ t, exec (r.1 f) s = .next t ∧
      ElementsWritten s t f fun l e => r.2 ty sat (elemAt ty (opA s.me f l) e)) ∧
    (Ready s f (useDABC f) [] → ∃ t, exec (.vmad f) s = .next t ∧
      ElementsWritten s t f fun l e => settled ty false (readAs ty (elemAt ty (opA s.me f l) e) *
        readAs ty (elemAt ty (opReg s.me f l) e) + readAs ty (elemAt ty (opC s.me f l) e)))

/-- R85 to R87: bit fields are extracted and inserted, a mask selects, a register or the literal is copied, and a level of the
lane's work identifier is read, in each active lane. -/
def Sys2Proof.Claims.LaneFieldsAndMovesWriteTheirValue : Prop :=
  ∀ (s : State) (f : LaneF), isPair f.ty = false →
    let a (l : Nat) := (vreg s.me f.va.toNat l).toNat
    (Ready s f (useDABC f) [] → ∃ t, exec (.vbfx f) s = .next t ∧
      LaneWrites s t (act s f) false f.vd.toNat fun l =>
        let p := bitsOf (opReg s.me f l) 0 5
        let w := min (bitsOf (opC s.me f l) 0 6) (32 - p)
        let x := bitsOf (a l) p w
        if f.ty = 0 ∧ w ≠ 0 ∧ 2 ^ (w - 1) ≤ x then x + (2 ^ 32 - 2 ^ w) else x) ∧
    (Ready s f (useDABC f) [] → ∃ t, exec (.vbfi f) s = .next t ∧
      ∃ val, LaneWrites s t (act s f) false f.vd.toNat val ∧ ∀ l i, hasLane (act s f) l → i < 32 →
        let p := bitsOf (opC s.me f l) 0 5
        let w := min (bitsOf (opC s.me f l) 8 6) (32 - p)
        (val l).testBit i = if p ≤ i ∧ i < p + w then (a l).testBit (i - p) else (opReg s.me f l).testBit i) ∧
    (Ready s f (useDAB f) (maskSet (f.ctlN 0 4)) → ∃ t, exec (.vsel f) s = .next t ∧
      LaneWrites s t (act s f) false f.vd.toNat fun l => if maskBit s (f.ctlN 0 4) l then a l else opB s.me f l) ∧
    (Ready s f (f.vd.toNat :: if f.lc = 1 then [] else [f.va.toNat]) [] → ∃ t, exec (.vmov f) s = .next t ∧
      LaneWrites s t (act s f) false f.vd.toNat fun l => if f.lc = 1 then f.c.toNat else a l) ∧
    (Ready s f [f.vd.toNat] [] → ∃ t, exec (.vwid f) s = .next t ∧
      LaneWrites s t (act s f) false f.vd.toNat fun l =>
        bitsOf (levelField s.myLaunch.record.widths ((warpWid s.myBlock s.me.widx).toNat + l) (bitsOf f.c.toNat 0 3))
          (if f.c.getLsbD 8 then 32 else 0) 32)

/-- R81, R82, R88, R89, R95: a compare and MLOG write the active lanes' bits of mask vd; VVOTE writes the scalar register it
names, where the other path does not hold the return registers. -/
def Obligations.MasksAreWrittenAndVotedOn : Prop :=
  ∀ (s : State) (f : LaneF),
    let ty := f.ty.toNat
    let d := f.vd.toNat
    let dst : BitVec 6 := f.vd.setWidth 6
    let m := mreg s.me s.cur.path f.va.toNat
    (Ready s f (useAB f) (maskSet d) → ∃ t, exec (.vcmp f) s = .next t ∧
      ∃ val, MaskWrites s t (act s f) d val ∧ ∀ l, hasLane (act s f) l → (val l = true ↔ ∀ e, e < elemCount ty →
        compare (f.ctlN 0 3) (readAs ty (elemAt ty (opA s.me f l) e)) (readAs ty (elemAt ty (opB s.me f l) e)))) ∧
    (Ready s f [] (maskSet d ++ (maskSet f.va.toNat ++ maskSet f.vb.toNat)) → ∃ t, exec (.mlog f) s = .next t ∧
      MaskWrites s t (act s f) d fun l =>
        f.ctl.getLsbD (2 * (maskBit s f.va.toNat l).toNat + (maskBit s f.vb.toNat l).toNat)) ∧
    (Ready s f [] (maskSet f.va.toNat) → s.retHeld = false → ∃ t, exec (.vvote f) s = .next t ∧ ReturnWrites s t dst
      (match f.ctlN 0 2 with
        | 0 => (m &&& act s f).setWidth 64
        | 1 => if m &&& act s f = 0 then 0 else 1
        | _ => if act s f &&& ~~~m = 0 then 1 else 0))

/-- R90: MCNT writes to the return register it names the number of bits of mask va set in active lanes, as a 64-bit value, and 0
where no lane is active; its ctl, vb and slot C are zero. It has op 0x42, ty 0x00. -/
def Obligations.McntCountsActiveMaskBits : Prop :=
  ∀ (s : State) (f : LaneF),
    (∀ w0 w1 w2, decodeLane w0 w1 w2 = some (.mcnt f) → w2.toNat / 2 ^ 24 = 0x42 ∧ f.ty = 0 ∧ f.ctl = 0 ∧ f.vb = 0 ∧ w0 = 0) ∧
    (Ready s f [] (maskSet f.va.toNat) → s.retHeld = false → ∃ t, exec (.mcnt f) s = .next t ∧
      ReturnWrites s t (f.vd.setWidth 6)
        (BitVec.ofNat 64 ((List.range 32).countP fun l => maskBit s f.va.toNat l && hasLane (act s f) l)) ∧
      (act s f = 0 → ReturnWrites s t (f.vd.setWidth 6) 0))

/-- R94: with k the low five bits of OpB in the lowest active lane, VBCAST gives every active lane the value of lane k of va,
read by R80, and VRDL writes it to the return register it names, zero-extended, or 0 where no lane is active; the type is b32
and ctl is zero. They have op 0x51 and 0x53. -/
def Obligations.OneLaneIsBroadcastOrRead : Prop :=
  ∀ (s : State) (f : LaneF),
    (∀ w0 w1 w2, (decodeLane w0 w1 w2 = some (.vbcast f) → w2.toNat / 2 ^ 24 = 0x51 ∧ f.ty = 0x14 ∧ f.ctl = 0) ∧
      (decodeLane w0 w1 w2 = some (.vrdl f) → w2.toNat / 2 ^ 24 = 0x53 ∧ f.ty = 0x14 ∧ f.ctl = 0)) ∧
    (f.ty = 0x14 →
      (Ready s f (useDAB f) [] → ∃ t, exec (.vbcast f) s = .next t ∧
        (act s f = 0 → LaneGoes s t ∧ t.me.v = s.me.v) ∧
        ∀ first, first < 32 → hasLane (act s f) first → (∀ l, l < first → ¬ hasLane (act s f) l) →
          LaneWrites s t (act s f) false f.vd.toNat fun _ => laneA s f (opB s.me f first % 32)) ∧
      (Ready s f (useAB f) [] → s.retHeld = false → ∃ t, exec (.vrdl f) s = .next t ∧
        (act s f = 0 → ReturnWrites s t (f.vd.setWidth 6) 0) ∧
        ∀ first, first < 32 → hasLane (act s f) first → (∀ l, l < first → ¬ hasLane (act s f) l) →
          ReturnWrites s t (f.vd.setWidth 6) (BitVec.ofNat 64 (laneA s f (opB s.me f first % 32)))))

namespace Sys2Proof.Claims

/-! ## Lane movement -/

/-- The lane VSHUF reads for lane `l`, or none where the lane takes its own (R93). -/
def shuffled (mode l b : Nat) : Option Nat :=
  match mode with
  | 0 => some (b % 32)
  | 1 => some (l ^^^ b % 32)
  | 2 => if b % 64 ≤ l then some (l - b % 64) else none
  | _ => if l + b % 64 ≤ 31 then some (l + b % 64) else none

/-- ⊕ of R96 on integers. -/
def joined (ty op a b : Nat) : Nat :=
  match op with
  | 0 => settled ty false (readAs ty a + readAs ty b)
  | 1 => settled ty false (min (readAs ty a) (readAs ty b))
  | 2 => settled ty false (max (readAs ty a) (readAs ty b))
  | 3 => a &&& b
  | 4 => a ||| b
  | _ => a ^^^ b

/-- Identity(⊕) of R96 on integers. -/
def neutral (ty op : Nat) : Nat :=
  let n := elemBits ty
  match op with
  | 1 => if ty % 2 = 0 then 2 ^ (n - 1) - 1 else 2 ^ n - 1
  | 2 => if ty % 2 = 0 then 2 ^ (n - 1) else 0
  | 3 => 2 ^ n - 1
  | _ => 0

/-- ⊕ over a list of lanes, taken one after the other. On integers every grouping of the tree gives the same. -/
def folded (ty op : Nat) (vs : List Nat) : Nat := vs.foldl (joined ty op) (neutral ty op)

/-- The lookahead of a long instruction: none while a trap register enables a flag that it can raise (R132). -/
def lookahead (traps : W64) (can : Nat) (f : LaneF) : Nat := if trapHit traps can then 0 else f.la.toNat

/-- The record of a long instruction that writes register or pair `n` of each active lane when it completes (R49). -/
def owesIn (s : State) (left : Nat) (f : LaneF) (pair : Bool) (val : Nat → Nat) : Outst :=
  outst left (if pair then [f.vd.toNat, f.vd.toNat + 1] else [f.vd.toNat]) []
    ((lanesOf (act s f)).flatMap fun l =>
      ⟨f.vd.toNat, l, BitVec.ofNat 32 (val l)⟩ ::
        if pair then [⟨f.vd.toNat + 1, l, BitVec.ofNat 32 (val l / 2 ^ 32)⟩] else []) []

/-- The same with the lookahead that the instruction gives. -/
abbrev owes (s : State) (f : LaneF) (pair : Bool) (val : Nat → Nat) : Outst := owesIn s f.la.toNat f pair val

/-- The flags ORed into $FPFLAGS, or $DFLAGS (R56). -/
def withFp (s : State) (fl : Nat) : State := s.setMe { s.me with fpflags := s.me.fpflags ||| BitVec.ofNat 64 fl }
def withDec (s : State) (fl : Nat) : State := s.setMe { s.me with dflags := s.me.dflags ||| BitVec.ofNat 64 fl }

end Sys2Proof.Claims

/-- R80, R93: VSHUF moves the lanes of a register; a lane outside the path reads as zero. -/
def Sys2Proof.Claims.LanesAreMoved : Prop :=
  ∀ (s : State) (f : LaneF), isPair f.ty = false → Ready s f (useDAB f) [] →
    ∃ t, exec (.vshuf f) s = .next t ∧ { t with warps := s.warps } = s ∧
      LaneOwes s t (owes s f false fun l => match shuffled (f.ctlN 0 2) l (opB s.me f l) with
        | some k => laneA s f k
        | none => (vreg s.me f.va.toNat l).toNat)

namespace Sys2Proof.Claims

/-- ⊕ of R96 on floats, with the flags it raises. -/
def joinedF (fm : Fmt) (op rm a b : Nat) : Nat × Nat :=
  match op with
  | 0 => valFadd fm rm a b
  | 1 => valFmin fm a b
  | _ => valFmax fm a b

/-- Comb of R96, an absent value being none. -/
def combined (join : Nat → Nat → Nat × Nat) : Option Nat → Option Nat → Option Nat × Nat
  | none, w => (w, 0)
  | u, none => (u, 0)
  | some u, some w => (some (join u w).1, (join u w).2)

/-- VREDX's tree over the 2^k lanes from lane `i`, with the flags of all its steps (R96). -/
def reduced (join : Nat → Nat → Nat × Nat) (x : Nat → Option Nat) : Nat → Nat → Option Nat × Nat
  | 0, i => (x i, 0)
  | k + 1, i =>
    let u := reduced join x k i
    let w := reduced join x k (i + 2 ^ k)
    ((combined join u.1 w.1).1, u.2 ||| w.2 ||| (combined join u.1 w.1).2)

/-- VSCAN's x[i] after the first `k` of its steps (R96). -/
def scanned (join : Nat → Nat → Nat × Nat) (x : Nat → Option Nat) : Nat → Nat → Option Nat
  | 0, i => x i
  | k + 1, i => if 2 ^ k ≤ i then (combined join (scanned join x k (i - 2 ^ k)) (scanned join x k i)).1 else scanned join x k i

/-- The flags of all the steps of VSCAN's tree. -/
def scanFlags (join : Nat → Nat → Nat × Nat) (x : Nat → Option Nat) : Nat :=
  ((List.range 5).flatMap fun k => ((List.range 32).filter fun i => 2 ^ k ≤ i).map fun i =>
    (combined join (scanned join x k (i - 2 ^ k)) (scanned join x k i)).2).foldl (· ||| ·) 0

/-- Identity(⊕) of R96 on f32 and f64: +0, +∞ and −∞. -/
def neutralF (ty op : Nat) : Nat :=
  match op with
  | 0 => 0
  | 1 => if ty = 8 then 0x7F800000 else 0x7FF0000000000000
  | _ => if ty = 8 then 0xFF800000 else 0xFFF0000000000000

end Sys2Proof.Claims

/-- R56, R96, R114: VREDX gives every active lane ⊕ over all active lanes; VSCAN gives each ⊕ over the active lanes up to it, or below
it when exclusive, and the identity where there is none. On integers the tree's grouping does not matter; on floats the lanes are
combined by the tree of R96, and the flags of every step are ORed in, or trap. -/
def Sys2Proof.Claims.ScansAndReductionsCombineTheLanes : Prop :=
  (∀ (s : State) (f : LaneF), f.ty.toNat = 8 ∨ f.ty.toNat = 9 → f.ctlN 0 3 ≤ 2 → Ready s f (useDA f) [] →
    let ty := f.ty.toNat
    let op := f.ctlN 0 3
    let join := joinedF (fmtOf ty) op (f.ctlN 13 3)
    let x (l : Nat) : Option Nat := if l < 32 ∧ hasLane (act s f) l then some (opA s.me f l) else none
    let whole := reduced join x 5 0
    let y (l : Nat) : Option Nat := if f.ctl.getLsbD 3 then (if l = 0 then none else scanned join x 5 (l - 1)) else scanned join x 5 l
    (trapHit s.me.fptraps whole.2 = false → ∃ t, exec (.vredx f) s = .next t ∧ { t with warps := s.warps } = s ∧
      LaneOwes (withFp s whole.2) t (owes s f (isPair f.ty) fun _ => whole.1.getD 0)) ∧
    (trapHit s.me.fptraps whole.2 = true → exec (.vredx f) s = .next ((withFp s whole.2).laneFault 0x08 0 0)) ∧
    (trapHit s.me.fptraps (scanFlags join x) = false → ∃ t, exec (.vscan f) s = .next t ∧ { t with warps := s.warps } = s ∧
      LaneOwes (withFp s (scanFlags join x)) t (owes s f (isPair f.ty) fun l => (y l).getD (neutralF ty op))) ∧
    (trapHit s.me.fptraps (scanFlags join x) = true →
      exec (.vscan f) s = .next ((withFp s (scanFlags join x)).laneFault 0x08 0 0))) ∧
  ∀ (s : State) (f : LaneF), f.ty.toNat ≤ 3 → f.ctlN 0 3 ≤ 5 → Ready s f (useDA f) [] →
    let ty := f.ty.toNat
    let op := f.ctlN 0 3
    let below (n : Nat) : List Nat := ((List.range n).filter fun l => hasLane (act s f) l).map fun l => opA s.me f l
    (∃ t, exec (.vredx f) s = .next t ∧ { t with warps := s.warps } = s ∧
      LaneOwes s t (owes s f (isPair f.ty) fun _ => folded ty op (below 32))) ∧
    (∃ t, exec (.vscan f) s = .next t ∧ { t with warps := s.warps } = s ∧
      LaneOwes s t (owes s f (isPair f.ty) fun l => folded ty op (below (if f.ctl.getLsbD 3 then l else l + 1))))

namespace Sys2Proof.Claims

/-! ## Floating and decimal instructions -/

/-- A code stands for a finite value (R98). -/
def Denotes (fm : Fmt) (c : Nat) (x : ℚ) : Prop :=
  ∃ n m e, decodeF fm c = .fin n m e ∧ x = (if n then -1 else 1) * (m : ℚ) * (2 : ℚ) ^ e

/-- Code `c` is the value `x` rounded in mode `rm` (R55): 0 nearest, ties to even; 1 toward zero; 2 up; 3 down; 4 nearest, ties
away from zero. -/
def RoundedTo (fm : Fmt) (rm : Nat) (x : ℝ) (c : Nat) : Prop :=
  ∃ v : ℚ, Denotes fm c v ∧ ∀ (c' : Nat) (v' : ℚ), Denotes fm c' v' →
    let y : ℝ := v
    let y' : ℝ := v'
    match rm with
    | 0 => |y - x| ≤ |y' - x| ∧ (|y - x| = |y' - x| → y' ≠ y → c % 2 = 0)
    | 1 => |y| ≤ |x| ∧ 0 ≤ x * y ∧ (|y'| ≤ |x| → 0 ≤ x * y' → |y'| ≤ |y|)
    | 2 => x ≤ y ∧ (x ≤ y' → y ≤ y')
    | 3 => y ≤ x ∧ (y' ≤ x → y' ≤ y)
    | _ => |y - x| ≤ |y' - x| ∧ (|y - x| = |y' - x| → |y'| ≤ |y|)

/-- A result with its flags is the exact value `x` rounded, unless OF is raised; NX is raised exactly where it is not exact. -/
def Correct (fm : Fmt) (rm : Nat) (x : ℝ) (r : Nat × Nat) : Prop :=
  r.2.testBit 2 = false → RoundedTo fm rm x r.1 ∧ (r.2.testBit 4 = false ↔ ∃ v : ℚ, Denotes fm r.1 v ∧ (v : ℝ) = x)

/-- The wide formats of arithmetic with their quiet NaN (R99). -/
def wideFormats : List (Fmt × Nat) :=
  [(fmtF32, 0x7FC00000), (fmtF64, 0x7FF8000000000000), (fmtF16, 0x7E00), (fmtBF16, 0x7FC0)]

/-- The value of a code that is not a NaN, the infinities among them. -/
def Stands (fm : Fmt) (c : Nat) (v : EReal) : Prop :=
  match decodeF fm c with
  | .nan _ => False
  | .inf n => v = if n then ⊥ else ⊤
  | .fin _ _ _ => ∃ x : ℚ, Denotes fm c x ∧ v = ((x : ℝ) : EReal)

/-- The sign bit of a code. -/
def negative (fm : Fmt) (c : Nat) : Bool := c.testBit (fm.w + fm.p)

/-- NV where one of the codes is a signalling NaN (R99). -/
noncomputable def signals (fm : Fmt) (cs : List Nat) : Nat :=
  open Classical in if ∃ c ∈ cs, decodeF fm c = .nan true then 1 else 0

/-- The conditions of R118 on values that are not NaN. -/
def holdsCond (cc : Nat) (x y : EReal) : Prop :=
  match cc with
  | 0 => x = y
  | 1 => x ≠ y
  | 2 => x < y
  | 3 => y ≤ x
  | 4 => x ≤ y
  | 5 => y < x
  | 6 => True
  | _ => False

/-- An integer is a value rounded in mode `rm` (R120, R127). -/
def IntRounded (rm : Nat) (x : ℚ) (z : ℤ) : Prop :=
  match rm with
  | 0 => |(z : ℚ) - x| ≤ 1 / 2 ∧ (|(z : ℚ) - x| = 1 / 2 → z % 2 = 0)
  | 1 => |(z : ℚ)| ≤ |x| ∧ |x| < |(z : ℚ)| + 1 ∧ 0 ≤ x * z
  | 2 => x ≤ z ∧ (z : ℚ) < x + 1
  | 3 => (z : ℚ) ≤ x ∧ x < z + 1
  | _ => |(z : ℚ) - x| ≤ 1 / 2 ∧ (|(z : ℚ) - x| = 1 / 2 → |x| ≤ |(z : ℚ)|)

/-- The binary formats of R98, by type code: exponent bits, significand bits, bias, what an exponent of all ones means (0 infinity
and NaN, 1 NaN with all bits set, 2 nothing special), and the quiet NaN of R55 (R101: zero). -/
def formatRows : List (Nat × Nat × Nat × Nat × Nat × Nat) :=
  [(0x09, 11, 52, 1023, 0, 0x7FF8000000000000), (0x08, 8, 23, 127, 0, 0x7FC00000), (0x0A, 5, 10, 15, 0, 0x7E00),
   (0x0B, 8, 7, 127, 0, 0x7FC0), (0x0C, 5, 10, 15, 0, 0x7E00), (0x0D, 8, 7, 127, 0, 0x7FC0), (0x0E, 4, 3, 7, 1, 0x7F),
   (0x0F, 5, 2, 15, 0, 0x7E), (0x10, 2, 3, 1, 2, 0), (0x11, 3, 2, 3, 2, 0), (0x12, 2, 1, 1, 2, 0)]

/-- The least and the greatest value of an integer type, and an integer's code in it. -/
def leastOf (ty : Nat) : ℤ := if ty % 2 = 0 then -2 ^ (elemBits ty - 1) else 0
def greatestOf (ty : Nat) : ℤ := if ty % 2 = 0 then 2 ^ (elemBits ty - 1) - 1 else 2 ^ elemBits ty - 1
def codeOf (ty : Nat) (z : ℤ) : Nat := (z % 2 ^ elemBits ty).toNat

/-- R120: a finite value goes to an integer type: the nearest in its range, with NV outside it and NX where it is not exact. -/
def ToInteger (ty rm : Nat) (x : ℚ) (r : Nat × Nat) : Prop :=
  ∀ z, IntRounded rm x z →
    (z < leastOf ty → r = (codeOf ty (leastOf ty), 1)) ∧ (greatestOf ty < z → r = (codeOf ty (greatestOf ty), 1)) ∧
    (leastOf ty ≤ z → z ≤ greatestOf ty → r.1 = codeOf ty z ∧ ((z : ℚ) = x → r.2 = 0) ∧ ((z : ℚ) ≠ x → r.2 = 16))

/-- The value of an E3M5 code other than 0xFF (R103). -/
def scaleValue (c : Nat) : ℚ :=
  if c / 32 = 0 then (c : ℚ) / 128 else (2 : ℚ) ^ ((c / 32 : Nat) - 3 : ℤ) * (1 + (c % 32 : Nat) / 32)

/-- A decimal64 code stands for a finite value (R104). -/
def DenotesD (b : W64) (x : ℚ) : Prop :=
  ∃ n c q, decodeD b = .fin n c q ∧ x = (if n then -1 else 1) * (c : ℚ) * (10 : ℚ) ^ q

/-- The value of a decimal64 code that is not a NaN. -/
def StandsD (b : W64) (v : EReal) : Prop :=
  match decodeD b with
  | .nan _ => False
  | .inf n => v = if n then ⊥ else ⊤
  | .fin _ _ _ => ∃ x : ℚ, DenotesD b x ∧ v = ((x : ℝ) : EReal)

/-- A decimal64 code is the value `x` rounded in mode `rm` (R105). -/
def RoundedD (rm : Nat) (x : ℚ) (b : W64) : Prop :=
  ∃ n c q y, decodeD b = .fin n c q ∧ DenotesD b y ∧ ∀ b' y', DenotesD b' y' →
    match rm with
    | 0 => |y - x| ≤ |y' - x| ∧ (|y - x| = |y' - x| → y' ≠ y → c % 2 = 0)
    | 1 => |y| ≤ |x| ∧ 0 ≤ x * y ∧ (|y'| ≤ |x| → 0 ≤ x * y' → |y'| ≤ |y|)
    | 2 => x ≤ y ∧ (x ≤ y' → y ≤ y')
    | 3 => y ≤ x ∧ (y' ≤ x → y' ≤ y)
    | _ => |y - x| ≤ |y' - x| ∧ (|y - x| = |y' - x| → |y'| ≤ |y|)

/-- A decimal result with its flags is the exact value `x` rounded, unless OF is raised; NX is raised exactly where it is not exact;
an exact one has the exponent nearest to the preferred one of those that stand for it (R105). -/
def CorrectD (rm : Nat) (x : ℚ) (pref : ℤ) (r : W64 × Nat) : Prop :=
  r.2.testBit 2 = false → RoundedD rm x r.1 ∧ (r.2.testBit 4 = false ↔ DenotesD r.1 x) ∧
    (r.2.testBit 4 = false → ∀ n c q n' c' q' b', decodeD r.1 = .fin n c q → decodeD b' = .fin n' c' q' → DenotesD b' x →
      |q - pref| ≤ |q' - pref|)

/-- NV where one of the decimal codes is a signalling NaN. -/
noncomputable def signalsD (bs : List W64) : Nat :=
  open Classical in if ∃ b ∈ bs, decodeD b = .nan true then 1 else 0

/-- The union of the flags of the elements of the active lanes (R56). -/
def flagsOver (lanes : W32) (count : Nat) (g : Nat → Nat → Nat) : Nat :=
  ((lanesOf lanes).flatMap fun l => (List.range count).map (g l)).foldl (· ||| ·) 0

/-- The short floating rows of two sources, and the long rows with the flags they can raise (1 NV, 2 DZ, 4 OF, 8 UF, 16 NX):
each gives an element and its flags by format and rounding mode. -/
def floatRows : List ((LaneF → Instr) × (Fmt → Nat → Nat → Nat → Nat × Nat)) :=
  [(.fadd, valFadd), (.fsub, valFsub), (.fmul, valFmul), (.fmin, fun fm _ => valFmin fm), (.fmax, fun fm _ => valFmax fm)]
def floatLongRows : List ((LaneF → Instr) × Nat × (Fmt → Nat → Nat → Nat × Nat)) :=
  [(.fsqrt, 17, valFsqrt), (.frcp, 30, valFrcp), (.frsq, 19, valFrsq), (.fexp2, 28, valFexp2), (.flog2, 19, valFlog2)]
/-- The decimal rows: registers read, the flags that they can raise, and a lane's result with its flags by rounding mode. -/
def decimalRows : List ((LaneF → Instr) × (LaneF → List Nat) × Nat × (Nat → DVal → DVal → DVal → W64 × Nat)) :=
  [(.dadd, useDAB, 29, fun rm a b _ => valDadd rm a b), (.dsub, useDAB, 29, fun rm a b _ => valDsub rm a b),
   (.dmul, useDAB, 29, fun rm a b _ => valDmul rm a b), (.dfma, useDABC, 29, fun rm a b c => fmaD a b c rm),
   (.dqtz, useDAB, 17, fun rm a b _ => quantD a b rm)]

/-- R56: the flags are ORed in. Where none is enabled as a trap, a short instruction has written the elements `g` gives the
active lanes; where one is, nothing is written and the warp has taken FP_TRAP. -/
def FloatDone (s : State) (f : LaneF) (i : Instr) (g : Nat → Nat → Nat × Nat) : Prop :=
  let ty := f.ty.toNat
  let fl := flagsOver (act s f) (elemCount ty) fun l e => (g l e).2
  (trapHit s.me.fptraps fl = false → ∃ t val, exec i s = .next t ∧
    LaneWrites (withFp s fl) t (act s f) (isPair f.ty) f.vd.toNat val ∧
    ∀ l e, hasLane (act s f) l → e < elemCount ty → elemAt ty (val l) e = (g l e).1 % 2 ^ elemBits ty) ∧
  (trapHit s.me.fptraps fl = true → exec i s = .next ((withFp s fl).laneFault 0x08 0 0))

/-- The same for a long instruction that can raise the flags `can`: it owes its writes, and its path issues nothing more before
they are made while one of those flags is enabled as a trap (R132). -/
def FloatOwed (s : State) (f : LaneF) (i : Instr) (can : Nat) (g : Nat → Nat → Nat × Nat) : Prop :=
  let ty := f.ty.toNat
  let fl := flagsOver (act s f) (elemCount ty) fun l e => (g l e).2
  (trapHit s.me.fptraps fl = false → ∃ t val, exec i s = .next t ∧
    LaneOwes (withFp s fl) t (owesIn s (lookahead s.me.fptraps can f) f (isPair f.ty) val) ∧ { t with warps := s.warps } = s ∧
    ∀ l e, hasLane (act s f) l → e < elemCount ty → elemAt ty (val l) e = (g l e).1 % 2 ^ elemBits ty) ∧
  (trapHit s.me.fptraps fl = true → exec i s = .next ((withFp s fl).laneFault 0x08 0 0))

/-- A lane's bits of each element of an operand. -/
def el (f : LaneF) (v e : Nat) : Nat := elemAt f.ty.toNat v e

end Sys2Proof.Claims

/-! ## Floating point -/

/-- R98, R99: what the codes of each binary format stand for. -/
def Sys2Proof.Claims.CodesStandForTheirValues : Prop :=
  ∀ r ∈ formatRows, ∀ c : Nat,
    let fm := fmtOf r.1
    let (w, p, bias, special) := (r.2.1, r.2.2.1, r.2.2.2.1, r.2.2.2.2.1)
    let minus := c / 2 ^ (w + p) % 2 = 1
    let e := c / 2 ^ p % 2 ^ w
    let m := c % 2 ^ p
    let sign : ℚ := if minus then -1 else 1
    (e = 0 → Denotes fm c (sign * 2 ^ (1 - (bias : ℤ)) * ((m : ℚ) / 2 ^ p))) ∧
    (0 < e → (e < 2 ^ w - 1 ∨ special = 2 ∨ special = 1 ∧ m ≠ 2 ^ p - 1) →
      Denotes fm c (sign * 2 ^ ((e : ℤ) - bias) * (1 + (m : ℚ) / 2 ^ p))) ∧
    (e = 2 ^ w - 1 → special = 0 → (m = 0 → decodeF fm c = .inf (decide minus)) ∧
      (m ≠ 0 → decodeF fm c = .nan (decide (m < 2 ^ (p - 1))))) ∧
    (e = 2 ^ w - 1 → special = 1 → m = 2 ^ p - 1 → decodeF fm c = .nan false)

/-- R99, R102, R116, R117: sums, products and quotients where an operand is infinite or a NaN, the signs of zeros, quotients of
finite values, and the lesser and greater of two values. -/
def Sys2Proof.Claims.TwoOperandsGiveTheirValue (fm : Fmt) (qnan rm a b : Nat) : Prop :=
  let na := negative fm a
  let nb := negative fm b
  let nan := isNan (decodeF fm a) || isNan (decodeF fm b)
  let add := valFadd fm rm a b
  let sub := valFsub fm rm a b
  let mul := valFmul fm rm a b
  let div := valFdiv fm rm a b
  let low := valFmin fm a b
  let high := valFmax fm a b
  (nan = true → add.2 = signals fm [a, b] ∧ sub.2 = signals fm [a, b] ∧ mul.2 = signals fm [a, b] ∧ div.2 = signals fm [a, b]) ∧
  (∀ n k, decodeF fm a = .inf n → decodeF fm b = .inf k →
    (if n = k then decodeF fm add.1 = .inf n ∧ add.2 = 0 else add = (qnan, 1)) ∧
    (if n = k then sub = (qnan, 1) else decodeF fm sub.1 = .inf n ∧ sub.2 = 0) ∧ div = (qnan, 1)) ∧
  (∀ n y, decodeF fm a = .inf n → Denotes fm b y → decodeF fm add.1 = .inf n ∧ add.2 = 0 ∧ decodeF fm sub.1 = .inf n ∧ sub.2 = 0 ∧
    decodeF fm div.1 = .inf (na != nb) ∧ div.2 = 0) ∧
  (∀ n x, Denotes fm a x → decodeF fm b = .inf n → decodeF fm add.1 = .inf n ∧ add.2 = 0 ∧ decodeF fm sub.1 = .inf (!n) ∧ sub.2 = 0 ∧
    Denotes fm div.1 0 ∧ div.2 = 0) ∧
  (∀ x y, Denotes fm a x → Denotes fm b y →
    (x + y = 0 → negative fm add.1 = if x = 0 ∧ na = nb then na else decide (rm = 3)) ∧
    (x - y = 0 → negative fm sub.1 = if x = 0 ∧ na = !nb then na else decide (rm = 3)) ∧
    (y ≠ 0 → Correct fm rm (x / y) div) ∧ (y = 0 → x ≠ 0 → decodeF fm div.1 = .inf (na != nb) ∧ div.2 = 2) ∧
    (y = 0 → x = 0 → div = (qnan, 1))) ∧
  (nan = false → (isInf (decodeF fm a) = true ∨ isInf (decodeF fm b) = true) →
    (Denotes fm a 0 ∨ Denotes fm b 0 → mul = (qnan, 1)) ∧
    (¬ Denotes fm a 0 → ¬ Denotes fm b 0 → decodeF fm mul.1 = .inf (na != nb) ∧ mul.2 = 0)) ∧
  (isNan (decodeF fm mul.1) = false → nan = false → negative fm mul.1 = (na != nb)) ∧
  (isNan (decodeF fm div.1) = false → nan = false → negative fm div.1 = (na != nb)) ∧
  (isNan (decodeF fm a) = true → isNan (decodeF fm b) = true → low.1 = qnan ∧ high.1 = qnan) ∧
  (isNan (decodeF fm a) = true → isNan (decodeF fm b) = false → low.1 = b ∧ high.1 = b) ∧
  (isNan (decodeF fm a) = false → isNan (decodeF fm b) = true → low.1 = a ∧ high.1 = a) ∧
  low.2 = signals fm [a, b] ∧ high.2 = signals fm [a, b] ∧
  (∀ x y, Stands fm a x → Stands fm b y → (low.1 = a ∨ low.1 = b) ∧ (high.1 = a ∨ high.1 = b) ∧ Stands fm low.1 (min x y) ∧
    Stands fm high.1 (max x y) ∧ (x = y → negative fm low.1 = (na || nb) ∧ negative fm high.1 = (na && nb)))

/-- R116: square root, reciprocal, reciprocal root, exponential and logarithm, each at every kind of operand. The two last are
rounded from a value within 2^-100 of the exact result, exactly where that is a number of the format (log 11). -/
def Sys2Proof.Claims.OneOperandGivesItsValue (fm : Fmt) (qnan rm a : Nat) : Prop :=
  let na := negative fm a
  let root := valFsqrt fm rm a
  let rcp := valFrcp fm rm a
  let rsq := valFrsq fm rm a
  let exp := valFexp2 fm rm a
  let log := valFlog2 fm rm a
  (isNan (decodeF fm a) = true → ∀ r ∈ [root, rcp, rsq, exp, log], r = (qnan, signals fm [a])) ∧
  (∀ n, decodeF fm a = .inf n →
    Denotes fm rcp.1 0 ∧ negative fm rcp.1 = n ∧ rcp.2 = 0 ∧
    (n = true → root = (qnan, 1) ∧ rsq = (qnan, 1) ∧ log = (qnan, 1) ∧ Denotes fm exp.1 0 ∧ negative fm exp.1 = false ∧ exp.2 = 0) ∧
    (n = false → decodeF fm root.1 = .inf false ∧ root.2 = 0 ∧ Denotes fm rsq.1 0 ∧ negative fm rsq.1 = false ∧ rsq.2 = 0 ∧
      decodeF fm log.1 = .inf false ∧ log.2 = 0 ∧ decodeF fm exp.1 = .inf false ∧ exp.2 = 0)) ∧
  (∀ x, Denotes fm a x →
    (x < 0 → root = (qnan, 1) ∧ rsq = (qnan, 1) ∧ log = (qnan, 1)) ∧
    (x = 0 → Denotes fm root.1 0 ∧ negative fm root.1 = na ∧ root.2 = 0 ∧ decodeF fm rcp.1 = .inf na ∧ rcp.2 = 2 ∧
      decodeF fm rsq.1 = .inf na ∧ rsq.2 = 2 ∧ decodeF fm log.1 = .inf true ∧ log.2 = 2) ∧
    (0 < x → Correct fm rm (Real.sqrt x) root ∧ Correct fm rm (1 / Real.sqrt x) rsq) ∧
    (x ≠ 0 → Correct fm rm (1 / x) rcp ∧ negative fm rcp.1 = na) ∧
    ((∃ z : ℤ, x = z) ∨ x ≤ -2 ^ 20 → Correct fm rm ((2 : ℝ) ^ (x : ℝ)) exp) ∧
    ((∀ z : ℤ, x ≠ z) → |x| < 2 ^ 20 → exp.2.testBit 4 = true ∧
      ∃ y : ℝ, |y - (2 : ℝ) ^ (x : ℝ)| ≤ (2 : ℝ) ^ (x : ℝ) / 2 ^ 100 ∧ Correct fm rm y exp) ∧
    (2 ^ 20 ≤ x → exp.2.testBit 2 = true) ∧
    (∀ k : ℤ, x = (2 : ℚ) ^ k → Denotes fm log.1 k ∧ log.2 = 0 ∧ (k = 0 → negative fm log.1 = false)) ∧
    (0 < x → (∀ k : ℤ, x ≠ (2 : ℚ) ^ k) → log.2.testBit 4 = true ∧
      ∃ y : ℝ, |y - Real.logb 2 x| ≤ 1 / 2 ^ 100 ∧ Correct fm rm y log))

/-- R118, R119: the conditions of FCMP and the class of a value. -/
def Sys2Proof.Claims.ValuesAreComparedAndClassified (fm : Fmt) (a b : Nat) : Prop :=
  (∀ cc ≤ 7,
    (∀ x y, Stands fm a x → Stands fm b y → (condF cc (decodeF fm a) (decodeF fm b) = true ↔ holdsCond cc x y)) ∧
    (isNan (decodeF fm a) = true ∨ isNan (decodeF fm b) = true →
      condF cc (decodeF fm a) (decodeF fm b) = decide (cc = 1 ∨ cc = 7))) ∧
  (∀ n, decodeF fm a = .nan n → classBit fm a = if n then 0 else 1) ∧
  (∀ n, decodeF fm a = .inf n → classBit fm a = if n then 2 else 9) ∧
  (∀ x, Denotes fm a x → classBit fm a =
    if x = 0 then (if negative fm a then 5 else 6)
    else if |x| < 2 ^ (1 - (fm.bias : ℤ)) then (if negative fm a then 4 else 7) else (if negative fm a then 3 else 8))

/-- R55, R98, R99, R102, R116 to R119: a sum, difference, product or fused product of finite values is the exact result rounded once,
unless it overflows, and NX says whether it is exact; a NaN operand gives the quiet NaN of its format; so do the other floating
operations give their values, as the claims named say. Where it rests on the model's own choices, they are those of logs 11 and 23. -/
def Obligations.ArithmeticRoundsTheExactResult : Prop :=
  Sys2Proof.Claims.CodesStandForTheirValues ∧
  (∀ w ∈ wideFormats, ∀ rm ≤ 4, ∀ a b : Nat, Sys2Proof.Claims.TwoOperandsGiveTheirValue w.1 w.2 rm a b ∧
    Sys2Proof.Claims.OneOperandGivesItsValue w.1 w.2 rm a ∧ Sys2Proof.Claims.ValuesAreComparedAndClassified w.1 a b) ∧
  (∀ w ∈ wideFormats, ∀ rm ≤ 4, ∀ a b c : Nat,
    (isNan (decodeF w.1 c) = true → (valFfma w.1 rm a b c).1 = w.2) ∧
    (isNan (decodeF w.1 a) = true ∨ isNan (decodeF w.1 b) = true ∨ isNan (decodeF w.1 c) = true →
      (valFfma w.1 rm a b c).2 = signals w.1 [a, b, c]) ∧
    (isNan (decodeF w.1 c) = false → ((isInf (decodeF w.1 a) = true ∧ Denotes w.1 b 0) ∨ (Denotes w.1 a 0 ∧ isInf (decodeF w.1 b) = true)) →
      valFfma w.1 rm a b c = (w.2, 1))) ∧
  ∀ w ∈ wideFormats, ∀ rm ≤ 4, ∀ a b c : Nat,
    (∀ x y z, Denotes w.1 a x → Denotes w.1 b y → Denotes w.1 c z →
      Correct w.1 rm (x + y) (valFadd w.1 rm a b) ∧ Correct w.1 rm (x - y) (valFsub w.1 rm a b) ∧
      Correct w.1 rm (x * y) (valFmul w.1 rm a b) ∧ Correct w.1 rm (x * y + z) (valFfma w.1 rm a b c)) ∧
    (isNan (decodeF w.1 a) = true ∨ isNan (decodeF w.1 b) = true →
      (valFadd w.1 rm a b).1 = w.2 ∧ (valFsub w.1 rm a b).1 = w.2 ∧ (valFmul w.1 rm a b).1 = w.2 ∧
      (valFfma w.1 rm a b c).1 = w.2 ∧ (valFdiv w.1 rm a b).1 = w.2)

/-- R56, R116 to R119, R132: each floating instruction ORs the flags of its lanes' elements and writes their results, FCMP a mask, or
takes FP_TRAP where a flag raised is enabled; the long ones owe their results. -/
def Sys2Proof.Claims.FloatInstructionsWriteTheirResults : Prop :=
  ∀ (s : State) (f : LaneF),
    let rm := f.ctlN 13 3
    let fm := fmtOf f.ty.toNat
    let a l e := el f (opA s.me f l) e
    let b l e := el f (opB s.me f l) e
    (∀ r ∈ floatRows, Ready s f (useDAB f) [] → FloatDone s f (r.1 f) fun l e => r.2 fm rm (a l e) (b l e)) ∧
    (Ready s f (useDABC f) [] → FloatDone s f (.ffma f) fun l e =>
      valFfma fm rm (a l e) (el f (opReg s.me f l) e) (el f (opC s.me f l) e)) ∧
    (Ready s f (useDAB f) [] → FloatOwed s f (.fdiv f) 31 fun l e => valFdiv fm rm (a l e) (b l e)) ∧
    (∀ r ∈ floatLongRows, Ready s f (useDA f) [] → FloatOwed s f (r.1 f) r.2.1 fun l e => r.2.2 fm rm (a l e)) ∧
    (Ready s f (useDA f) [] →
      ∃ t val, exec (.fclass f) s = .next t ∧ LaneWrites s t (act s f) (isPair f.ty) f.vd.toNat val ∧
        ∀ l e, hasLane (act s f) l → e < elemCount f.ty.toNat → bitsOf (val l) (16 * e) 16 = 2 ^ classBit fm (a l e)) ∧
    (Ready s f (useAB f) (maskSet f.vd.toNat) →
      let fl := flagsOver (act s f) (elemCount f.ty.toNat) fun l e => nvOf [decodeF fm (a l e), decodeF fm (b l e)]
      (trapHit s.me.fptraps fl = false → ∃ t val, exec (.fcmp f) s = .next t ∧
        MaskWrites (withFp s fl) t (act s f) f.vd.toNat val ∧ ∀ l, hasLane (act s f) l →
          (val l = true ↔ ∀ e, e < elemCount f.ty.toNat → condF (f.ctlN 0 3) (decodeF fm (a l e)) (decodeF fm (b l e)) = true)) ∧
      (trapHit s.me.fptraps fl = true → exec (.fcmp f) s = .next ((withFp s fl).laneFault 0x08 0 0)))

/-- R120, R121, R125: FCVT converts each element of its source type, VROT turns a pair of coordinates by the angle of its
position, and VFT interpolates in the active bank of the function table its launch owns; each ORs its flags. -/
def Sys2Proof.Claims.ConversionsRotationsAndTables : Prop :=
  ∀ (s : State) (f : LaneF),
    (let src := f.ctl.extractLsb' 0 5
      let n := cvtBits f.ty.toNat
      let g (l e : Nat) := cvtElem f.ty.toNat src.toNat (f.ctlN 13 3)
        (bitsOf (readV s.me (isPair src) f.va.toNat l) (cvtBits src.toNat * e) (cvtBits src.toNat))
      let fl := flagsOver (act s f) (cvtCount src.toNat) fun l e => (g l e).2
      Ready s f (regsOf (isPair f.ty) f.vd ++ regsOf (isPair src) f.va) [] →
      (trapHit s.me.fptraps fl = false →
        ∃ t val, exec (.fcvt f) s = .next t ∧ LaneWrites (withFp s fl) t (act s f) (isPair f.ty) f.vd.toNat val ∧
          ∀ l, hasLane (act s f) l → val l < 2 ^ (n * cvtCount src.toNat) ∧
            ∀ e, e < cvtCount src.toNat → bitsOf (val l) (n * e) n = (g l e).1 % 2 ^ n) ∧
      (trapHit s.me.fptraps fl = true → exec (.fcvt f) s = .next ((withFp s fl).laneFault 0x08 0 0))) ∧
    (let wide := f.ty == 8
      let n := if wide then 32 else 16
      let turned (l : Nat) := valVrot (fmtOf f.ty.toNat) (f.ctlN 13 3)
        (bitsOf (readV s.me wide f.va.toNat l) 0 n) (bitsOf (readV s.me wide f.va.toNat l) n n)
        (if f.ab = 1 then (areg s.me f.vb.toNat).toNat % 2 ^ 32 else (vreg s.me f.vb.toNat l).toNat) (areg s.me (f.ctlN 0 3))
      let fl := flagsOver (act s f) 1 fun l _ => (turned l).2.2
      Ready s f (regsOf wide f.vd ++ regsOf wide f.va ++ (if f.ab = 1 then [] else [f.vb.toNat])) [] →
      (trapHit s.me.fptraps fl = false →
        ∃ t val, exec (.vrot f) s = .next t ∧ LaneWrites (withFp s fl) t (act s f) wide f.vd.toNat val ∧
          ∀ l, hasLane (act s f) l →
            val l = (turned l).1 % 2 ^ n + 2 ^ n * ((turned l).2.1 % 2 ^ n)) ∧
      (trapHit s.me.fptraps fl = true → exec (.vrot f) s = .next ((withFp s fl).laneFault 0x08 0 0))) ∧
    (let c := s.core s.myCore
      let bank := if c.activeBank = 0 then c.bank0 else c.bank1
      let found (l : Nat) := valVft bank (f.ctl.getLsbD 0) (vreg s.me f.va.toNat l).toNat
      let fl := flagsOver (act s f) 1 fun l _ => (found l).2
      Ready s f [f.vd.toNat, f.va.toNat] [] → c.owner = s.me.launch → s.me.launch ≠ 0 →
      (trapHit s.me.fptraps fl = false → ∃ t, exec (.vft f) s = .next t ∧
        LaneWrites (withFp s fl) t (act s f) false f.vd.toNat fun l => (found l).1) ∧
      (trapHit s.me.fptraps fl = true → exec (.vft f) s = .next ((withFp s fl).laneFault 0x08 0 0)))

/-- R105, R126 to R129, R132: the decimal instructions are long: each ORs its lanes' flags into $DFLAGS and owes the pairs, DCMP the
mask, of the active lanes. A finite sum, difference, product or fused product that raises no flag is exact. -/
def Sys2Proof.Claims.DecimalInstructionsOweTheirResults : Prop :=
  (∀ rm ≤ 4, ∀ (a b c : W64) (x y z : ℚ), DenotesD a x → DenotesD b y → DenotesD c z →
    let exact (r : W64 × Nat) (v : ℚ) : Prop := r.2 = 0 → DenotesD r.1 v
    exact (valDadd rm (decodeD a) (decodeD b)) (x + y) ∧ exact (valDsub rm (decodeD a) (decodeD b)) (x - y) ∧
    exact (valDmul rm (decodeD a) (decodeD b)) (x * y) ∧ exact (fmaD (decodeD a) (decodeD b) (decodeD c) rm) (x * y + z)) ∧
  (∀ (s : State) (f : LaneF) (r : _), r ∈ decimalRows →
    let g (l : Nat) := r.2.2.2 (f.ctlN 13 3) (dA s.me f l) (dB s.me f l) (dC s.me f l)
    let fl := flagsOver (act s f) 1 fun l _ => (g l).2
    Ready s f (r.2.1 f) [] →
    (trapHit s.me.dtraps fl = false → ∃ t, exec (r.1 f) s = .next t ∧
      LaneOwes (withDec s fl) t (owesIn s (lookahead s.me.dtraps r.2.2.1 f) f true fun l => (g l).1.toNat) ∧
      { t with warps := s.warps } = s) ∧
    (trapHit s.me.dtraps fl = true → exec (r.1 f) s = .next ((withDec s fl).laneFault 0x09 0 0))) ∧
  (∀ (s : State) (f : LaneF),
    let g (l : Nat) := valDcvt (f.ctlN 0 2) (f.ctl.getLsbD 2) (f.ctlN 13 3) (vpair s.me f.va.toNat l)
    let fl := flagsOver (act s f) 1 fun l _ => (g l).2
    Ready s f (useDA f) [] →
    (trapHit s.me.dtraps fl = false → ∃ t, exec (.dcvt f) s = .next t ∧
      LaneOwes (withDec s fl) t (owesIn s (lookahead s.me.dtraps 29 f) f true fun l => (g l).1.toNat) ∧
      { t with warps := s.warps } = s) ∧
    (trapHit s.me.dtraps fl = true → exec (.dcvt f) s = .next ((withDec s fl).laneFault 0x09 0 0))) ∧
  (∀ (s : State) (f : LaneF),
    let fl := flagsOver (act s f) 1 fun l _ => nvD [dA s.me f l, dB s.me f l]
    Ready s f (useAB f) (maskSet f.vd.toNat) →
    (trapHit s.me.dtraps fl = false → ∃ t, exec (.dcmp f) s = .next t ∧ { t with warps := s.warps } = s ∧
      LaneOwes (withDec s fl) t (outst (lookahead s.me.dtraps 1 f) [] (maskSet f.vd.toNat) []
        [⟨f.vd.toNat, act s f, maskOf ((lanesOf (act s f)).filter fun l => condD (f.ctlN 0 3) (dA s.me f l) (dB s.me f l))⟩])) ∧
    (trapHit s.me.dtraps fl = true → exec (.dcmp f) s = .next ((withDec s fl).laneFault 0x09 0 0)))

/-- R108, R110, R130, R131: BQNT makes of the lanes' codes a block of elements with one scale for each MX block of 32, or for
each native block of 8, and owes each active lane its element and scale; BDQ owes the products of element and scale. -/
def Sys2Proof.Claims.BlocksAreQuantisedAndExpanded : Prop :=
  ∀ (s : State) (f : LaneF),
    (let native := f.ctl.getLsbD 2
      let fm := bqntFmt (f.ctlN 0 2)
      let src := blockSrc fm ((List.range 32).map fun l =>
        if hasLane (act s f) l then (vreg s.me f.va.toNat l).toNat % 2 ^ (fm.w + fm.p + 1) else 0)
      let band (j : Nat) := decodeF fmtBF16
        ((if hasLane s.myPath.mask (8 * j) then (vreg s.me (f.va.toNat + 1) (8 * j)).toNat else 0) % 2 ^ 16)
      let block (l : Nat) := if native then quantNative ((src.drop (l / 8 * 8)).take 8) (band (l / 8)) else quantMx f.ty.toNat src
      let fl := (block 0).2.2 ||| (block 8).2.2 ||| (block 16).2.2 ||| (block 24).2.2
      Ready s f (regsOf true f.vd ++ regsOf native f.va) [] →
      (trapHit s.me.fptraps fl = true → exec (.bqnt f) s = .next ((withFp s fl).laneFault 0x08 0 0)) ∧
      (trapHit s.me.fptraps fl = false → ∃ t, exec (.bqnt f) s = .next t ∧ { t with warps := s.warps } = s ∧
        LaneOwes (withFp s fl) t (outst (lookahead s.me.fptraps 25 f) (regsOf true f.vd) [] ((lanesOf (act s f)).flatMap fun l =>
          [⟨f.vd.toNat, l, BitVec.ofNat 32 ((block l).1.getD (if native then l % 8 else l) 0)⟩,
           ⟨f.vd.toNat + 1, l, BitVec.ofNat 32 (block l).2.1⟩]) []))) ∧
    (let g (l : Nat) := valBdq f.ty.toNat (f.ctl.getLsbD 2) (vreg s.me f.va.toNat l).toNat (vreg s.me (f.va.toNat + 1) l).toNat
      let fl := flagsOver (act s f) 1 fun l _ => (g l).2
      Ready s f ([f.vd.toNat] ++ regsOf true f.va) [] →
      (trapHit s.me.fptraps fl = true → exec (.bdq f) s = .next ((withFp s fl).laneFault 0x08 0 0)) ∧
      (trapHit s.me.fptraps fl = false → ∃ t, exec (.bdq f) s = .next t ∧ { t with warps := s.warps } = s ∧
        LaneOwes (withFp s fl) t (owesIn s (lookahead s.me.fptraps 29 f) f false fun l => (g l).1)))

/-- R101, R102, R120: what an element converts to: an integer type takes the nearest integer in its range, a float format the
exact value rounded. -/
def Sys2Proof.Claims.ElementsConvert : Prop :=
  ∀ (src dst rm e : Nat), (src ≤ 5 ∨ 8 ≤ src ∧ src ≤ 0x12) → (dst ≤ 5 ∨ 8 ≤ dst ∧ dst ≤ 0x12) → rm ≤ 4 →
    let r := cvtElem dst src rm e
    let sf := fmtOf src
    let df := fmtOf dst
    (∀ x : ℚ, (if src ≤ 5 then x = readAs src e else Denotes sf e x) →
      (dst ≤ 5 → ToInteger dst rm x r) ∧
      (8 ≤ dst → Correct df rm x r ∧ (x = 0 → negative df r.1 = (decide (8 ≤ src) && negative sf e)))) ∧
    (8 ≤ src → ∀ n, decodeF sf e = .inf n →
      (dst ≤ 5 → r = (codeOf dst (if n then leastOf dst else greatestOf dst), 1)) ∧
      (∀ row ∈ formatRows, row.1 = dst →
        (row.2.2.2.2.1 = 0 → decodeF df r.1 = .inf n ∧ r.2 = 0) ∧
        (row.2.2.2.2.1 ≠ 0 → r.2.testBit 2 = true ∧ negative df r.1 = n ∧
          ∃ v, Denotes df r.1 v ∧ ∀ c' v', Denotes df c' v' → |v'| ≤ |v|))) ∧
    (8 ≤ src → ∀ sig, decodeF sf e = .nan sig → (dst ≤ 5 → r = (0, 1)) ∧
      ∀ row ∈ formatRows, row.1 = dst → r = (row.2.2.2.2.2, if sig = true ∨ row.2.2.2.2.1 = 2 then 1 else 0))

/-- R55, R121: VROT's two coordinates are the exact combinations of the coordinates with the cosine and the sine, rounded once; those
are FP32 roundings of values within 2^-150 of the exact ones, and exact at each quarter of a turn (log 11). -/
def Sys2Proof.Claims.RotationsTurnTheirPair : Prop :=
  ∀ ty ∈ [0x08, 0x0A, 0x0B], ∀ rm ≤ 4, ∀ (a b pos : Nat) (fr : W64),
    let fm := fmtOf ty
    let r := valVrot fm rm a b pos fr
    let t : Nat := pos * fr.toNat % 2 ^ 48
    let angle : ℝ := 2 * Real.pi * ((t : ℝ) / 2 ^ 48)
    (∀ x y, Denotes fm a x → Denotes fm b y → ∃ (zc zs : ℝ) (c s : Nat) (u v : ℚ),
      |zc - Real.cos angle| ≤ 1 / 2 ^ 150 ∧ |zs - Real.sin angle| ≤ 1 / 2 ^ 150 ∧
      (4 * t % 2 ^ 48 = 0 → zc = Real.cos angle ∧ zs = Real.sin angle) ∧
      RoundedTo fmtF32 0 zc c ∧ RoundedTo fmtF32 0 zs s ∧ Denotes fmtF32 c u ∧ Denotes fmtF32 s v ∧
      (r.2.2.testBit 2 = false → RoundedTo fm rm (x * u - y * v) r.1 ∧ RoundedTo fm rm (x * v + y * u) r.2.1)) ∧
    (∀ row ∈ formatRows, row.1 = ty → isNan (decodeF fm a) = true ∨ isNan (decodeF fm b) = true →
      r.1 = row.2.2.2.2.2 ∧ r.2.1 = row.2.2.2.2.2)

/-- R125: VFT's value: the difference of the two entries is rounded, then the fraction of it is added and rounded once. -/
def Sys2Proof.Claims.TablesInterpolate : Prop :=
  ∀ (bank : Sparse 32) (wrap : Bool) (a : Nat) (x y : ℚ), a < 2 ^ 32 →
    let i := a / 2 ^ 24
    let j := if i + 1 = 256 then (if wrap then 0 else 255) else i + 1
    let phi : ℚ := ((a % 2 ^ 24 : Nat) : ℚ) / 2 ^ 24
    Denotes fmtF32 (spGet bank i).toNat x → Denotes fmtF32 (spGet bank j).toNat y →
    ∃ d g h, Correct fmtF32 0 (y - x) (d, g) ∧ (valVft bank wrap a).2 = g ||| h ∧
      ∀ z, Denotes fmtF32 d z → Correct fmtF32 0 (phi * z + x) ((valVft bank wrap a).1, h)

/-- R105, R126 to R129: what the decimal operations give. -/
def Sys2Proof.Claims.DecimalsGiveTheirValue : Prop :=
  (∀ rm ≤ 4, ∀ (a b c : W64) (x y z : ℚ) (na nb nc : Bool) (ca cb cc : Nat) (qa qb qc : ℤ),
    decodeD a = .fin na ca qa → decodeD b = .fin nb cb qb → decodeD c = .fin nc cc qc → DenotesD a x → DenotesD b y → DenotesD c z →
    CorrectD rm (x + y) (min qa qb) (valDadd rm (decodeD a) (decodeD b)) ∧
    CorrectD rm (x - y) (min qa qb) (valDsub rm (decodeD a) (decodeD b)) ∧
    CorrectD rm (x * y) (qa + qb) (valDmul rm (decodeD a) (decodeD b)) ∧
    CorrectD rm (x * y + z) (min (qa + qb) qc) (fmaD (decodeD a) (decodeD b) (decodeD c) rm) ∧
    (∀ n : ℤ, IntRounded rm (x / (10 : ℚ) ^ qb) n →
      let r := quantD (decodeD a) (decodeD b) rm
      (9999999999999999 < n.natAbs → r = (0x7C00000000000000, 1)) ∧
      (n.natAbs ≤ 9999999999999999 → decodeD r.1 = .fin na n.natAbs qb ∧
        ((n : ℚ) * (10 : ℚ) ^ qb = x → r.2 = 0) ∧ ((n : ℚ) * (10 : ℚ) ^ qb ≠ x → r.2 = 16)))) ∧
  (∀ rm ≤ 4, ∀ a b : W64,
    (isNanD (decodeD a) = true ∨ isNanD (decodeD b) = true →
      ∀ r ∈ [valDadd rm (decodeD a) (decodeD b), valDsub rm (decodeD a) (decodeD b), valDmul rm (decodeD a) (decodeD b),
        quantD (decodeD a) (decodeD b) rm], r = (0x7C00000000000000, signalsD [a, b])) ∧
    (∀ n k, decodeD a = .inf n → decodeD b = .inf k → decodeD (quantD (decodeD a) (decodeD b) rm).1 = .inf n ∧
      (quantD (decodeD a) (decodeD b) rm).2 = 0 ∧
      (if n = k then decodeD (valDadd rm (decodeD a) (decodeD b)).1 = .inf n ∧ (valDadd rm (decodeD a) (decodeD b)).2 = 0
       else valDadd rm (decodeD a) (decodeD b) = (0x7C00000000000000, 1))) ∧
    (∀ n y, decodeD a = .inf n → DenotesD b y → quantD (decodeD a) (decodeD b) rm = (0x7C00000000000000, 1) ∧
      quantD (decodeD b) (decodeD a) rm = (0x7C00000000000000, 1) ∧
      (y = 0 → valDmul rm (decodeD a) (decodeD b) = (0x7C00000000000000, 1))) ∧
    (∀ cc ≤ 7,
      (∀ x y, StandsD a x → StandsD b y → (condD cc (decodeD a) (decodeD b) = true ↔ holdsCond cc x y)) ∧
      (isNanD (decodeD a) = true ∨ isNanD (decodeD b) = true → condD cc (decodeD a) (decodeD b) = decide (cc = 1 ∨ cc = 7)))) ∧
  (∀ rm ≤ 4, ∀ a : W64,
    (∀ x, Denotes fmtF64 a.toNat x → CorrectD rm x 0 (valDcvt 0 false rm a)) ∧
    CorrectD rm (readAs 2 a.toNat) 0 (valDcvt 1 false rm a) ∧ CorrectD rm (readAs 3 a.toNat) 0 (valDcvt 2 false rm a) ∧
    (∀ n, decodeF fmtF64 a.toNat = .inf n → decodeD (valDcvt 0 false rm a).1 = .inf n ∧ (valDcvt 0 false rm a).2 = 0) ∧
    (∀ n, decodeF fmtF64 a.toNat = .nan n → valDcvt 0 false rm a = (0x7C00000000000000, if n then 1 else 0)) ∧
    (∀ x, DenotesD a x →
      (let r := valDcvt 0 true rm a; Correct fmtF64 rm x (r.1.toNat, r.2)) ∧
      (let r := valDcvt 1 true rm a; ToInteger 2 rm x (r.1.toNat, r.2)) ∧
      (let r := valDcvt 2 true rm a; ToInteger 3 rm x (r.1.toNat, r.2))) ∧
    (∀ n, decodeD a = .inf n → decodeF fmtF64 (valDcvt 0 true rm a).1.toNat = .inf n ∧ (valDcvt 0 true rm a).2 = 0 ∧
      (valDcvt 1 true rm a).1.toNat = codeOf 2 (if n then leastOf 2 else greatestOf 2) ∧ (valDcvt 1 true rm a).2 = 1 ∧
      (valDcvt 2 true rm a).1.toNat = codeOf 3 (if n then leastOf 3 else greatestOf 3) ∧ (valDcvt 2 true rm a).2 = 1) ∧
    (isNanD (decodeD a) = true → (valDcvt 0 true rm a).1 = 0x7FF8000000000000 ∧ (valDcvt 0 true rm a).2 = signalsD [a] ∧
      valDcvt 1 true rm a = (0, 1) ∧ valDcvt 2 true rm a = (0, 1)))

namespace Sys2Proof.Claims

/-- The elements, scale and flags of a block that is not quantised: zeros with the signs of the sources. -/
def ZeroBlock (fm ef : Fmt) (cs : List Nat) (scale flags : Nat) (r : List Nat × Nat × Nat) : Prop :=
  r.2 = (scale, flags) ∧ r.1.length = cs.length ∧
    ∀ i, i < cs.length → Denotes ef (r.1.getD i 0) 0 ∧ negative ef (r.1.getD i 0) = negative fm (cs.getD i 0)

/-- The elements of a block are its sources divided by `by_`, each rounded to nearest and never beyond the largest, with the signs of
the sources; OF is never raised, and NX is where one is not exact. -/
def Divided (fm ef : Fmt) (cs : List Nat) (by_ : ℚ) (r : List Nat × Nat × Nat) : Prop :=
  r.1.length = cs.length ∧ r.2.2.testBit 2 = false ∧
    (∀ i x, i < cs.length → Denotes fm (cs.getD i 0) x →
      RoundedTo ef 0 ((x / by_ : ℚ) : ℝ) (r.1.getD i 0) ∧ negative ef (r.1.getD i 0) = negative fm (cs.getD i 0)) ∧
    (r.2.2.testBit 4 = true ↔ ∃ i x, i < cs.length ∧ Denotes fm (cs.getD i 0) x ∧ ¬ Denotes ef (r.1.getD i 0) (x / by_))

/-- The largest magnitude of a block's sources. -/
def Largest (fm : Fmt) (cs : List Nat) (amax : ℚ) : Prop :=
  (∀ c ∈ cs, ∃ x, Denotes fm c x ∧ |x| ≤ amax) ∧ ∃ c ∈ cs, ∃ x, Denotes fm c x ∧ |x| = amax

end Sys2Proof.Claims

/-- R103, R108, R110, R131: the elements and scales of MX and native blocks, and the values that they expand to. -/
def Sys2Proof.Claims.BlocksGiveTheirCodes : Prop :=
  (∀ fm ∈ [fmtF32, fmtF16, fmtBF16], ∀ cs : List Nat,
    let src := blockSrc fm cs
    (∀ row ∈ [(0x0E, 8), (0x0F, 15), (0x10, 2), (0x11, 4), (0x12, 2)],
      let ef := fmtOf row.1
      let r := quantMx row.1 src
      ((∃ c ∈ cs, ∀ x, ¬ Denotes fm c x) → ZeroBlock fm ef cs 0xFF 1 r) ∧
      ((∀ c ∈ cs, Denotes fm c 0) → ZeroBlock fm ef cs 0 0 r) ∧
      (∀ (amax : ℚ) (k : ℤ), Largest fm cs amax → (2 : ℚ) ^ k ≤ amax → amax < (2 : ℚ) ^ (k + 1) →
        let x : ℤ := max (-127) (min 127 (k - row.2))
        (r.2.1 : ℤ) = x + 127 ∧ Divided fm ef cs ((2 : ℚ) ^ x) r)) ∧
    (∀ band : Nat,
      let r := quantNative src (decodeF fmtBF16 band)
      ((∃ c ∈ cs, ∀ x, ¬ Denotes fm c x) ∨ (∀ b, ¬ Denotes fmtBF16 band b) ∨ (∃ b, Denotes fmtBF16 band b ∧ b < 0) →
        ZeroBlock fm fmtE2M1 cs 0xFF 1 r) ∧
      (∀ b, Denotes fmtBF16 band b → 0 ≤ b → (∀ c ∈ cs, Denotes fm c 0) → ZeroBlock fm fmtE2M1 cs 0 0 r) ∧
      (∀ amax, Denotes fmtBF16 band 0 → Largest fm cs amax → 0 < amax → ZeroBlock fm fmtE2M1 cs 0xFF 1 r) ∧
      (∀ b amax, Denotes fmtBF16 band b → 0 < b → Largest fm cs amax → 0 < amax →
        r.2.1 < 0xFF ∧ (∀ c, c < r.2.1 → scaleValue c < amax / (6 * b)) ∧ (amax / (6 * b) ≤ scaleValue r.2.1 ∨ r.2.1 = 0xFE) ∧
        Divided fm fmtE2M1 cs (b * scaleValue r.2.1) r))) ∧
  (∀ (ty a b : Nat) (x : ℚ), 0x0E ≤ ty → ty ≤ 0x12 →
    (b % 256 = 0xFF → ∀ native, valBdq ty native a b = (0x7FC00000, 0)) ∧
    (Denotes (fmtOf ty) a x → b % 256 ≠ 0xFF →
      Correct fmtF32 0 ((x * (2 : ℚ) ^ (((b % 256 : Nat) : ℤ) - 127) : ℚ) : ℝ) (valBdq ty false a b) ∧
      ∀ y, Denotes fmtBF16 (b / 2 ^ 16) y → Correct fmtF32 0 ((x * scaleValue (b % 256) * y : ℚ) : ℝ) (valBdq ty true a b)) ∧
    (isNan (decodeF (fmtOf ty) a) = true → (valBdq ty false a b).1 = 0x7FC00000))

namespace Sys2Proof.Claims

/-! ## Paths -/

/-- A path slot holds a live path of the mask, PC and reconvergence PC given (R32). -/
def PathIs (q : Path) (m : W32) (pc : Nat) (rpc : Option Nat) : Prop :=
  q.live = true ∧ q.mask = m ∧ q.pc = pc ∧ q.rpc = rpc

/-- What of a warp a branch or the end of a path leaves alone. -/
def pathsRest (x : Warp) : Warp :=
  { x with path0 := freePath, path1 := freePath, stack := [], lastPath := 0, issuedL := 0, startL := 0, running := none }

/-- A branch has changed paths and the stack of the current warp and nothing else. -/
def Branched (s t : State) : Prop :=
  OnlyWarp s.cur.warp s t ∧ pathsRest t.me = pathsRest s.me

/-- A join all of whose lanes have arrived. -/
def Complete (e : StackEntry) : Prop := e.isJoin = true ∧ e.arrived = e.mask

/-- R33: how a freed slot `q` and the stack `left` come of the stack `st`, after joins with no lane left are discarded: the most
recent complete join, else the most recent suspended entry, else nothing takes the slot. -/
def Settles (st : List StackEntry) (q : Path) (left : List StackEntry) : Prop :=
  let kept := st.filter fun e => !(e.isJoin && e.mask == 0)
  (∀ a e b, kept = a ++ e :: b → Complete e → (∀ x ∈ b, ¬ Complete x) → PathIs q e.mask e.pc e.rpc ∧ left = a ++ b) ∧
  (∀ a e b, kept = a ++ e :: b → (∀ x ∈ kept, ¬ Complete x) → e.isJoin = false → (∀ x ∈ b, x.isJoin = true) →
    PathIs q e.mask e.pc e.rpc ∧ left = a ++ b) ∧
  ((∀ x ∈ kept, ¬ Complete x ∧ x.isJoin = true) → q.live = false ∧ left = kept)

/-! ## Lane memory -/

/-- Register `i` of what a load of `bs` writes: bytes and halfwords extended, longer data word by word (R135, R136). -/
def loadedWord (sx : Bool) (bs : List Byte) (i : Nat) : W32 :=
  if bs.length < 4 then
    (if sx then (BitVec.ofNat (8 * bs.length) (ofBytes bs)).signExtend 32 else BitVec.ofNat 32 (ofBytes bs))
  else BitVec.ofNat 32 (ofBytes ((bs.drop (4 * i)).take 4))

/-- Byte `i` of what lane `l` stores: of its argument register, or of its data registers (R135). -/
def storedByte (s : State) (f : LaneF) (l i : Nat) : Byte :=
  if f.ab = 1 then BitVec.ofNat 8 ((areg s.me f.vb.toNat).toNat / 2 ^ (8 * i))
  else BitVec.ofNat 8 ((vreg s.me (f.vb.toNat + i / 4) l).toNat / 2 ^ (8 * (i % 4)))

/-- The registers of a data group of `n` bytes (R135). -/
def groupOf (n base : Nat) : List Nat := (List.range (max 1 (n / 4))).map fun i => base + i

/-- Lane `l`'s local offset names offset `off` of block `bk`, whose WINDOW line there, if any, is valid (R134, R149). -/
def LaneLocal (s : State) (f : LaneF) (l n bk off : Nat) : Prop :=
  let o := (vreg s.me f.va.toNat l + f.aux.signExtend 32).toNat
  o % n = 0 ∧ LocalAt s (if f.ctl.getLsbD 10 then 2 else 1) (BitVec.ofNat 64 o) bk off ∧ s.missOf l bk off = none

/-- R144: the word an atomic stores, by operation and type. -/
def atomNew (op ty o b : Nat) : Nat :=
  let flt := ty = 8 ∨ ty = 9
  match op with
  | 0 => b
  | 1 => if flt then (valFadd (fmtOf ty) 0 o b).1 else settled ty false (readAs ty o + readAs ty b)
  | 2 => o &&& b
  | 3 => o ||| b
  | 4 => o ^^^ b
  | 5 => if flt then (valFmax (fmtOf ty) o b).1 else settled ty false (max (readAs ty o) (readAs ty b))
  | _ => if flt then (valFmin (fmtOf ty) o b).1 else settled ty false (min (readAs ty o) (readAs ty b))

/-- Lanes' atomics one after the other over the words they name: what each reads, and the words afterwards. -/
def inTurn (next : Nat → Nat → Nat) : List (Nat × W64 × Nat × W64) → (Nat → Nat) → List (Nat × Nat) × (Nat → Nat)
  | [], w => ([], w)
  | h :: rest, w =>
    let r := inTurn next rest fun a => if a = h.2.2.1 then next h.1 (w h.2.2.1) else w a
    ((h.1, w h.2.2.1) :: r.1, r.2)

/-- An atomic of every active lane may be performed at once: the words lie where `here` says, aligned, on no SUMMARISED page, on
no gated line, and unpoisoned. -/
def AtomicReady (s : State) (f : LaneF) (n : Nat) (here : List (Nat × W64 × Nat × W64)) : Prop :=
  LanesHere s (laneAccs s.me s.cur.path f) n 2 here ∧ s.myPath.io = none ∧ memHeld s.myPath = false ∧
    (f.ctlN 4 2 < 2 ∨ s.stampsPending s.me = false) ∧
    ∀ h ∈ here, h.2.2.1 % n = 0 ∧ pteKind h.2.2.2 ≠ 2 ∧ s.gateOf s.myLaunch h.2.1 = none ∧ s.poisoned h.2.2.1 n = false

/-- The atomics have been performed in turn: `regs` take the old values, the words hold the new ones, no other byte differs. -/
def AtomicsDone (s t : State) (f : LaneF) (n : Nat) (ret : Bool) (next : Nat → Nat → Nat)
    (here : List (Nat × W64 × Nat × W64)) : Prop :=
  let word (u : State) (a : Nat) : Nat := ofBytes (readBytes u.mem a n)
  let r := inTurn next here (word s)
  LaneOwes s t (outst f.la.toNat (if ret then (if n = 8 then [f.vd.toNat, f.vd.toNat + 1] else [f.vd.toNat]) else []) []
    (if ret then r.1.flatMap fun e => ⟨f.vd.toNat, e.1, BitVec.ofNat 32 e.2⟩ ::
      (if n = 8 then [⟨f.vd.toNat + 1, e.1, BitVec.ofNat 32 (e.2 / 2 ^ 32)⟩] else []) else []) []) ∧
  (∀ h ∈ here, word t h.2.2.1 = r.2 h.2.2.1) ∧
  (∀ a, (∀ h ∈ here, a < h.2.2.1 ∨ h.2.2.1 + n ≤ a) → t.byteAt a = s.byteAt a) ∧ StoreFrame s t

end Sys2Proof.Claims

/-! ## Divergence -/

/-- R32, R91: VBR takes the guarded lanes that its mask marks to its target: none, and the path goes on; all, and the path goes
there; else a join is pushed and the taken lanes get the other slot, or are suspended; a full stack faults DIV_DEPTH. -/
def Sys2Proof.Claims.BranchesSplitTheirPath : Prop :=
  ∀ (s : State) (f : LaneF) (other : Path) (target join : Nat), s.cur.path ≤ 1 → s.myPath.live = true → s.myPath.outs = [] →
    other = warpPath s.me (1 - s.cur.path) →
    (target : Int) = s.myPath.pc + 12 + 12 * f.aux.toInt → target < s.myLaunch.record.lbytes →
    (join : Int) = s.myPath.pc + 12 + 12 * (f.ctl.extractLsb' 0 13).toInt → join < s.myLaunch.record.lbytes →
    let q := s.myPath
    let taken := act s f &&& mreg s.me s.cur.path f.va.toNat
    let kept := q.mask &&& ~~~taken
    (taken = 0 → ∃ t, exec (.vbr f) s = .next t ∧ Branched s t ∧ t.myPath = stepPath q ∧ t.me.running = s.me.running ∧
      warpPath t.me (1 - s.cur.path) = other ∧ t.me.stack = s.me.stack) ∧
    (taken ≠ 0 → kept = 0 → ∃ t, exec (.vbr f) s = .next t ∧ Branched s t ∧ PathIs t.myPath q.mask target q.rpc ∧
      t.me.running = s.me.running ∧ warpPath t.me (1 - s.cur.path) = other ∧ t.me.stack = s.me.stack) ∧
    (taken ≠ 0 → kept ≠ 0 → other.live = false → s.me.stack.length < 16 → ∃ t, exec (.vbr f) s = .next t ∧
      Branched s t ∧ PathIs t.myPath kept (q.pc + 12) (some join) ∧ t.me.running = s.me.running ∧
      PathIs (warpPath t.me (1 - s.cur.path)) taken target (some join) ∧
      t.me.stack = s.me.stack ++ [⟨true, q.mask, join, q.rpc, 0, q.pc⟩]) ∧
    (taken ≠ 0 → kept ≠ 0 → other.live = true → s.me.stack.length < 15 → ∃ t, exec (.vbr f) s = .next t ∧
      Branched s t ∧ PathIs t.myPath kept (q.pc + 12) (some join) ∧ t.me.running = s.me.running ∧
      warpPath t.me (1 - s.cur.path) = other ∧
      t.me.stack = s.me.stack ++ [⟨true, q.mask, join, q.rpc, 0, q.pc⟩, ⟨false, taken, target, some join, 0, q.pc⟩]) ∧
    (taken ≠ 0 → kept ≠ 0 → 16 < s.me.stack.length + (if other.live then 2 else 1) →
      exec (.vbr f) s = .next (s.laneFault 0x07 0 0))

/-- R30, R33, R92: the next queued block starts with all 32 lanes; a path that executes LEND leaves every join, one that reaches
its reconvergence PC arrives at its join; either slot is settled, and with the last path the block ends. -/
def Sys2Proof.Claims.BlocksStartAndPathsEnd : Prop :=
  (∀ (s : State) (w : Nat) (b : LaneBlock) (rest : List LaneBlock),
    let x := s.warp w
    x.running = none → x.queue = b :: rest → x.handler = false → x.pend = none → x.stopped = false →
    ∃ t, exec (.laneBlockStart w) s = .next t ∧ OnlyWarp w s t ∧ pathsRest { t.warp w with queue := x.queue } = pathsRest x ∧
      (t.warp w).running = some b ∧ (t.warp w).queue = rest ∧ (t.warp w).stack = [] ∧
      PathIs (t.warp w).path0 (BitVec.allOnes 32) b.pc none ∧ (t.warp w).path0.outs = [] ∧ (t.warp w).path1.live = false) ∧
  (∀ (s : State) (f : LaneF), s.cur.path ≤ 1 → s.myPath.outs = [] →
    let strip (e : StackEntry) : StackEntry := if e.isJoin then { e with mask := e.mask &&& ~~~s.myPath.mask } else e
    let other := warpPath s.me (1 - s.cur.path)
    ∃ t q left, exec (.lend f) s = .next t ∧ Branched s t ∧ Settles (s.me.stack.map strip) q left ∧
      warpPath t.me (1 - s.cur.path) = other ∧
      (q.live = true ∨ other.live = true → t.myPath = q ∧ t.me.stack = left ∧ t.me.running = s.me.running) ∧
      (q.live = false → other.live = false → t.myPath.live = false ∧ t.me.stack = [] ∧ t.me.running = none)) ∧
  (∀ (s : State) (w p : Nat) (a b : List StackEntry) (e : StackEntry),
    let x := s.warp w
    let q := warpPath x p
    p ≤ 1 → q.live = true → x.stopped = false → q.rpc = some q.pc → q.outs = [] → x.stack = a ++ e :: b → e.isJoin = true →
    e.pc = q.pc → (∀ y ∈ b, y.isJoin = true → y.pc ≠ q.pc) →
    ∃ t, exec (.pathReconvergence w p) s = .next t ∧ OnlyWarp w s t ∧ pathsRest (t.warp w) = pathsRest x ∧
      (t.warp w).running = x.running ∧ warpPath (t.warp w) (1 - p) = warpPath x (1 - p) ∧
      Settles (a ++ { e with arrived := e.arrived ||| q.mask } :: b) (warpPath (t.warp w) p) (t.warp w).stack)

/-! ## Lane memory -/

/-- R134 to R137, R142: a lane load owes each active lane the bytes at its address, extended; under .nr a lane whose page is not
resident gets zero and its bit of the mask. A lane store writes each lane's bytes; the highest lane's stand. -/
def Sys2Proof.Claims.LaneLoadsAndStoresMoveTheirBytes : Prop :=
  ∀ (s : State) (f : LaneF),
    let n := 2 ^ f.ctlN 0 3
    let nr := f.ctl.getLsbD 9
    let k := f.vc.toNat % 16
    f.ctlN 0 3 ≤ 4 → s.myPath.io = none → memHeld s.myPath = false →
    (∀ place : Nat → Option Nat, Ready s f (groupOf n f.vd.toNat ++ regsOf true f.va) (if nr then maskSet k else []) →
      (∀ e ∈ laneAccs s.me s.cur.path f, e.2.toNat % n = 0 ∧ match place e.1 with
        | some pa => (∃ pte, s.check s.myCtx e.2 0 = .here pa pte) ∧ s.poisoned pa n = false
        | none => nr = true ∧ s.check s.myCtx e.2 0 = .away) →
      ∃ t, exec (.vld f) s = .next t ∧ { t with warps := s.warps } = s ∧
        LaneOwes s t (outst f.la.toNat (groupOf n f.vd.toNat) (if nr then maskSet k else [])
          (((lanesOf (act s f)).flatMap fun l => match place l with
            | some pa => (List.range (max 1 (n / 4))).map fun i =>
              ⟨f.vd.toNat + i, l, loadedWord (f.ctl.getLsbD 3) (readBytes s.mem pa n) i⟩
            | none => []) ++
          (lanesOf (act s f)).flatMap fun l => match place l with
            | some _ => []
            | none => (groupOf n f.vd.toNat).map fun r => ⟨r, l, 0⟩)
          (if nr then [⟨k, act s f, maskOf ((lanesOf (act s f)).filter fun l => (place l).isNone)⟩] else []))) ∧
    (∀ here : List (Nat × W64 × Nat × W64),
      Ready s f ((if f.ab = 1 then [] else groupOf n f.vb.toNat) ++ regsOf true f.va) [] →
      (f.ctlN 4 2 < 2 ∨ s.stampsPending s.me = false) → LanesHere s (laneAccs s.me s.cur.path f) n 1 here →
      let stale (a : Nat) : Prop := ∃ h ∈ here, staleByte h.2.2.2 h.2.2.1 n a
      let covers (h : Nat × W64 × Nat × W64) (a : Nat) : Prop := h.2.2.1 ≤ a ∧ a < h.2.2.1 + n
      ∃ t, exec (.vst f) s = .next t ∧ LaneOwes s t (outst f.la.toNat [] [] [] []) ∧ StoreFrame s t ∧
        (∀ pre h post, here = pre ++ h :: post → ∀ a, covers h a → (∀ j ∈ post, ¬ covers j a) → ¬ stale a →
          t.byteAt a = storedByte s f h.1 (a - h.2.2.1)) ∧
        ∀ a, (∀ h ∈ here, ¬ covers h a) → ¬ stale a → t.byteAt a = s.byteAt a)

/-- R134, R136, R137, R149, R174: VLDS and VSTS do the same in the scratchpads of the gang, where a store makes a WINDOW line
dirty and none may touch an ARMED object. -/
def Sys2Proof.Claims.LaneScratchAccessesMoveTheirBytes : Prop :=
  ∀ (s : State) (f : LaneF) (place : Nat → Nat × Nat),
    let n := 2 ^ f.ctlN 0 3
    let lanes := lanesOf (act s f)
    f.ctlN 0 3 ≤ 4 → memHeld s.myPath = false → (∀ l ∈ lanes, LaneLocal s f l n (place l).1 (place l).2) →
    (let masks := if f.ctl.getLsbD 9 then maskSet (f.vc.toNat % 16) else [];
      Ready s f (groupOf n f.vd.toNat ++ [f.va.toNat]) masks →
      (∀ l ∈ lanes, damagedAt (s.block (place l).1) (place l).2 n = false) →
      ∃ t, exec (.vlds f) s = .next t ∧ { t with warps := s.warps } = s ∧
        LaneOwes s t (outst f.la.toNat (groupOf n f.vd.toNat) masks
          (lanes.flatMap fun l => (List.range (max 1 (n / 4))).map fun i => ⟨f.vd.toNat + i, l,
            loadedWord (f.ctl.getLsbD 3) (readBytes (s.block (place l).1).scratch (place l).2 n) i⟩)
          (if f.ctl.getLsbD 9 then [⟨f.vc.toNat % 16, act s f, 0⟩] else []))) ∧
    (Ready s f ((if f.ab = 1 then [] else groupOf n f.vb.toNat) ++ [f.va.toNat]) [] →
      (∀ l ∈ lanes, armedHit (s.block (place l).1) (place l).2 n = false) →
      let covers (l k a : Nat) : Prop := (place l).1 = k ∧ (place l).2 ≤ a ∧ a < (place l).2 + n
      ∃ t, exec (.vsts f) s = .next t ∧ LaneOwes s t (outst f.la.toNat [] [] [] []) ∧
        { t with warps := s.warps, blocks := s.blocks } = s ∧
        (∀ k, { t.block k with scratch := [], lines := [] } = { s.block k with scratch := [], lines := [] }) ∧
        (∀ l ∈ lanes, ∀ k a, covers l k a → (∀ j ∈ lanes, l < j → ¬ covers j k a) →
          spGet (t.block k).scratch a = storedByte s f l (a - (place l).2)) ∧
        (∀ k a, (∀ l ∈ lanes, ¬ covers l k a) → spGet (t.block k).scratch a = spGet (s.block k).scratch a) ∧
        ∀ k key,
          let touched := ∃ l ∈ lanes, (place l).1 = k ∧ ∃ g j, windowLine (s.block k) (place l).2 = some (key, g, j)
          (touched → kGet (t.block k).lines key = { kGet (s.block k).lines key with dirty := true }) ∧
          (¬ touched → kGet (t.block k).lines key = kGet (s.block k).lines key))

/-- R144 to R146: VATOM and VCAS perform one atomic for each active lane in rising order, on lines no gate of the launch governs,
and owe the old values where asked for.
Where it rests on the model's own choices, they are those of log 5. -/
def Obligations.LaneAtomicsRunInLaneOrder : Prop :=
  ∀ (s : State) (f : LaneF) (here : List (Nat × W64 × Nat × W64)),
    let ty := f.ty.toNat
    let n := rmwBytes ty
    let bits := 8 * n
    ty ∈ [0, 1, 2, 3, 8, 9] → AtomicReady s f n here →
    (f.ctlN 0 4 ≤ 6 → (8 ≤ ty → modeDet s.myMode = 0) →
      let ret := f.ctl.getLsbD 9
      Ready s f ((if ret then regsOf (isPair f.ty) f.vd else []) ++ regsB f ++ regsOf true f.va) [] →
      ∃ t, exec (.vatom f) s = .next t ∧ AtomicsDone s t f n ret
        (fun l o => atomNew (f.ctlN 0 4) ty o (opReg s.me f l % 2 ^ bits) % 2 ^ bits) here) ∧
    (ty ≤ 3 → Ready s f (regsOf (isPair f.ty) f.vd ++ regsOf (isPair f.ty) f.vb ++ regsOf (isPair f.ty) f.vc ++ regsOf true f.va) [] →
      ∃ t, exec (.vcas f) s = .next t ∧ AtomicsDone s t f n true
        (fun l o => if o = readV s.me (isPair f.ty) f.vc.toNat l then readV s.me (isPair f.ty) f.vb.toNat l else o) here)

namespace Sys2Proof.Claims

/-! ## The matrix instructions -/

/-- Element `k` of row or column `l` of an operand of 8 bits an element (R220). -/
def byteElem (r : Nat → Nat → Nat) (l k : Nat) : Nat := bitsOf (r l (k / 4)) (8 * (k % 4)) 8

/-- The exact integer sum of row `i` and column `j` of a step (R112). -/
def integerSum (t : Machine.Step) (i j : Nat) : Int :=
  ((List.range 32).map fun k => readAs t.afmt (byteElem t.a i k) * readAs t.bfmt (byteElem t.b j k)).sum

/-- What MMA, MMA.ns and SCACC give an element, with its flags, and the registers they read. -/
def matrixRows : List ((LaneF → Instr) × (State → LaneF → Nat → Nat → Nat × Nat) × (LaneF → List Nat) × (LaneF → Nat) × (LaneF → Bool)) :=
  [(.mma, fun s f => (mmaStep s.me f).mma, mmaSrcs, fieldClass, fun f => fragInt (f.aux.toNat % 32)),
   (.mmaNs, fun s f => (mmaStep s.me f).ns, mmaSrcs, fieldClass, fun f => fragInt (f.aux.toNat % 32)),
   (.scacc, fun s f => scaccElem s.me f, scaccSrcs, fun _ => 0, fun _ => false)]

/-- R112, R113, R223 to R225: an integer step adds the exact sum of its products to the accumulator, saturated, and MMA.ns wraps
it; an unscaled floating step whose products share a window of 80 bits adds their exact sum with one rounding; SCACC rounds its
product and sum once. -/
def StepsSumTheirProducts : Prop :=
  (∀ (t : Machine.Step) (i j : Nat), (t.afmt = 6 ∨ t.afmt = 7) → (t.bfmt = 6 ∨ t.bfmt = 7) →
    t.mma i j = (settled 0 true (readAs 0 (if t.z then 0 else t.d i j) + integerSum t i j), 0) ∧
    t.ns i j = (settled 0 false (integerSum t i j), 0)) ∧
  (∀ (t : Machine.Step) (i j : Nat) (x y : Nat → ℚ) (c : ℚ) (q : ℤ), fragInt t.afmt = false → t.mode = 0 →
    let kk := fragK t.afmt t.bfmt
    (∀ k, k < kk → Denotes (fmtOf t.afmt) (fragElem t.afmt kk (t.a i) k) (x k) ∧
      Denotes (fmtOf t.bfmt) (fragElem t.bfmt kk (t.b j) k) (y k) ∧
      |x k * y k| < 2 ^ (q + 80) ∧ ∃ n : ℤ, x k * y k = n * 2 ^ q) →
    let sum := ((List.range kk).map fun k => x k * y k).sum
    (Denotes fmtF32 (if t.z then 0 else t.d i j) c → Correct fmtF32 0 (c + sum) (t.mma i j)) ∧
    Correct fmtF32 0 sum (t.ns i j)) ∧
  (∀ (rm p r c d : Nat) (x y z w : ℚ), rm ≤ 4 → Denotes fmtF32 p x → Denotes fmtF32 r y → Denotes fmtF32 c z → Denotes fmtF32 d w →
    Correct fmtF32 rm (x * y * z + w) (scaleAcc (decodeF fmtF32 p) (decodeF fmtF32 r) (decodeF fmtF32 c) (decodeF fmtF32 d) rm))

/-- R221 to R226, R233: MMA, MMA.ns and SCACC on a full path, with sources apart from the destination group and a budget that
covers 2^class, debit it, OR their flags, and owe the 32 registers of the group. -/
def MatrixInstructionsOweTheirGroup : Prop :=
  ∀ (s : State) (f : LaneF) (r : _), r ∈ matrixRows →
    let d := f.vd.toNat
    let srcs := r.2.2.1 f
    let units := 2 ^ max (f.ctlN 11 2) (r.2.2.2.1 f)
    let g := r.2.1 s f
    let fl := ((List.range 1024).map fun e => (g (e / 32) (e % 32)).2).foldl (· ||| ·) 0
    s.lanePre ((List.range 32).map (d + ·) ++ srcs) [] = .go → s.myPath.mask = BitVec.allOnes 32 →
    (∀ n ∈ srcs, n < d ∨ d + 32 ≤ n) → units ≤ s.budget s.myDie s.myCtx → trapHit s.me.fptraps fl = false →
    let left := if r.2.2.2.2 f = false ∧ trapHit s.me.fptraps 0x1D = true then 0 else f.la.toNat
    ∃ t, exec (r.1 f) s = .next t ∧ { t with warps := s.warps, dies := s.dies } = s ∧
      (t.die s.myDie) = { s.die s.myDie with energy := kSet (s.die s.myDie).energy s.myCtx (s.budget s.myDie s.myCtx - units) } ∧
      (∀ k, k ≠ s.myDie → kGet? t.dies k = kGet? s.dies k) ∧
      ∃ o, t.myPath = { stepPath s.myPath with outs := steppedOuts s.myPath ++ [o] } ∧
        o = { outst left ((List.range 32).map (d + ·)) [] ((List.range 1024).map fun e =>
          ⟨d + e / 32, e % 32, BitVec.ofNat 32 (g (e / 32) (e % 32)).1⟩) [] with num := s.me.issuedL + 1 } ∧
        t.me.v = s.me.v ∧ t.me.m = s.me.m ∧ t.me.s = s.me.s ∧ t.me.fpflags = s.me.fpflags ||| BitVec.ofNat 64 fl ∧
        laneRest { t.me with fpflags := 0 } s.cur.path = laneRest { s.me with fpflags := 0 } s.cur.path ∧
        ∀ w, w ≠ s.cur.warp → kGet? t.warps w = kGet? s.warps w

/-- R234: once in every 100 ns each context of a die gains its share of the power above 1,000 W of its cap, clamped to 1,200 W
to 2,800 W, up to the full budget; a hot die gives every context the least cap. -/
def BudgetsAreRefilled : Prop :=
  ∀ (s : State) (die : Nat), die < 4 →
    let d := s.die die
    (d.count < d.refillAt → exec (.energyRefill die) s = .next s) ∧
    (d.refillAt ≤ d.count →
      (∀ c, 1200 ≤ s.refillCap die c ∧ s.refillCap die c ≤ 2800 ∧ (d.hot = true → s.refillCap die c = 1200)) ∧
      ∃ t, exec (.energyRefill die) s = .next t ∧ (t.die die).refillAt = d.refillAt + 100 ∧
        (∀ c, t.budget die c = if c ∈ s.dieCtxs die then
          min (2 ^ 20) (s.budget die c + 32000 * (s.refillCap die c - 1000) / 1800 / (s.dieCtxs die).length)
          else s.budget die c) ∧
        { t.die die with refillAt := 0, energy := [] } = { d with refillAt := 0, energy := [] } ∧
        (∀ k, k ≠ die → kGet? t.dies k = kGet? s.dies k) ∧ { t with dies := s.dies } = s)

/-! ## Bounded attention -/

/-- The registers an ATTB names (R258). -/
def attbRegs (s : State) (f : LaneF) : List Nat :=
  aGroup f (s.seq (aSlot f)).d ++ (aQuery f (s.seq (aSlot f)).d ++ aSingles f)

/-- An ATTB may begin: its slot is its context's and no KAPP has reserved positions on it, its operands are as R265 asks, no lane
of another path holds the return registers, nothing of its path waits in memory and no ATTB of it is outstanding, its candidates
resolve to `cs`, with `c` in the walker, and the budget covers its first visits. -/
def AttbReady (s : State) (f : LaneF) (len : Nat) (cs : List Cand) (c : List (Nat × W64)) : Prop :=
  s.seqMine (aSlot f) = true ∧ s.lanePre (attbRegs s f) [] = .go ∧ s.retHeld = false ∧ s.attbBad f = false ∧
    memHeld s.myPath = false ∧ attbOut s.myPath = false ∧ s.kappWaits s.myCore (aSlot f) = false ∧
    s.candidates f (aSlot f) (s.seq (aSlot f)) len = .ok cs c ∧ 2 ^ max (f.ctlN 11 2) 2 ≤ s.budget s.myDie s.myCtx

/-- The length an ATTB sees: the committed one, or with .tent the tentative one (R257). -/
def attbLen (s : State) (f : LaneF) : W32 := if f.ctl.getLsbD 10 then (s.seq (aSlot f)).t else (s.seq (aSlot f)).c

/-- What a finished ATTB says of its visits: results 0 to 5 are s56 to s61 (R266). -/
structure AttbSays (f : LaneF) (tau : FVal) (n v0 : Nat) (digest len gen : W32) (e : AttbEnd) : Prop where
  results : e.results.length = 6
  cursor : ∃ v, v0 ≤ v ∧ v ≤ n ∧ e.results.getD 2 0 = BitVec.ofNat 64 (n * 65536 + v) ∧
    bitsOf (e.results.getD 0 0).toNat 32 16 = (v - v0) % 65536 ∧
    (bitsOf (e.results.getD 0 0).toNat 0 8 = 0 ↔ v = n) ∧
    (v < n → bitsOf (e.results.getD 0 0).toNat 0 8 = 1 ∧ ltF tau (f32 (e.results.getD 1 0).toNat) = false)
  digest : e.results.getD 3 0 = digest.setWidth 64
  len : e.results.getD 4 0 = len.setWidth 64
  gen : e.results.getD 5 0 = gen.setWidth 64

/-- An ATTB on slot `k` has issued: it is outstanding with the record `o`; only its warp, its budget, the slot's walker, which
holds `c`, and the draw counter changed. -/
def AttbIssued (s t : State) (o : Outst) (k : Nat) (c : List (Nat × W64)) : Prop :=
  t.myPath = { stepPath s.myPath with outs := steppedOuts s.myPath ++ [o] } ∧
    t.me.v = s.me.v ∧ t.me.m = s.me.m ∧ t.me.s = s.me.s ∧ laneRest t.me s.cur.path = laneRest s.me s.cur.path ∧
    (∀ w, w ≠ s.cur.warp → kGet? t.warps w = kGet? s.warps w) ∧
    SlotNow s t k { s.seq k with cache := c } ∧
    { t with warps := s.warps, dies := s.dies, cores := s.cores, draws := s.draws } = s

end Sys2Proof.Claims

/-! ## Matrices and attention -/

/-- R112, R113, R221 to R226, R233, R234: what the matrix steps compute, what MMA, MMA.ns and SCACC owe, and how their budgets
are debited and refilled.
Where it rests on the model's own choices, they are those of log 34. -/
def Obligations.MatrixInstructionsSumAndOwe : Prop :=
  Claims.StepsSumTheirProducts ∧ Claims.MatrixInstructionsOweTheirGroup ∧ Claims.BudgetsAreRefilled

/-- R257 to R267: ATTB visits the candidates in an order whose digest it reports, until all are done or the worst error bound is
at most the tolerance. ATTB.resume goes on from its cursor, or reports ORDER_CHANGED with its group as it was. A path with K
set re-issues its ATTB as a resumption.
Where it rests on the model's own choices, they are those of logs 6, 22 and 35. -/
def Obligations.AttentionVisitsUntilItsTolerance : Prop :=
  (∀ (s : State) (f : LaneF) (cs : List Cand) (c : List (Nat × W64)), AttbReady s f (attbLen s f).toNat cs c →
    ∃ t o a order, exec (.attb f) s = .next t ∧ AttbIssued s t o (aSlot f) c ∧ o.left = f.la.toNat ∧ o.regs = attbRegs s f ∧
      o.attb = some a ∧ List.Perm order cs ∧
      (a.park = none → AttbSays f (aTau s.me f) cs.length 0 (orderDigest order) (attbLen s f) (s.seq (aSlot f)).gen a.full)) ∧
  (∀ (s : State) (f : LaneF) (cs : List Cand) (c : List (Nat × W64)),
    let q := s.seq (aSlot f)
    let cursor := readCursor s.me f q.d
    let v := (cursor.getD 0 0).toNat % 65536
    AttbReady s f (cursor.getD 2 0).toNat cs c →
    let order := visitOrder cs
    let same := (cursor.getD 2 0).toNat ≤ (attbLen s f).toNat ∧ cursor.getD 3 0 = q.gen ∧
      (cursor.getD 0 0).toNat / 65536 = cs.length ∧ cursor.getD 1 0 = orderDigest order ∧ v ≤ cs.length
    ∃ t o a, exec (.attbResume f) s = .next t ∧ AttbIssued s t o (aSlot f) c ∧ o.left = f.la.toNat ∧ o.attb = some a ∧
      (¬ same → a.park = none ∧ a.full.writes = [] ∧
        a.full.results = [2, 0x3F800000] ++ cursor.map (·.setWidth 64)) ∧
      (same → a.park = none → AttbSays f (aTau s.me f) cs.length v (orderDigest order) (cursor.getD 2 0) q.gen a.full)) ∧
  (∀ (s : State) (w p : Nat) (w0 w1 w2 : W32) (f : LaneF) (cs : List Cand) (c : List (Nat × W64)),
    let q := warpPath (s.warp w) p
    let u : State := { s with cur := ⟨w, p, w0, w1, w2⟩ }
    p ≤ 1 → q.live = true → q.cont = true → q.park = none → (s.warp w).handler = false →
    (match q.io with | some io => io.reqs = [] | none => (s.warp w).pend = none ∧ s.frozen w = false) →
    (s.warp w).stopped = false → s.laneWords w (issuePc q) = .words [w0, w1, w2] →
    (decodeLane w0 w1 w2 = some (.attb f) ∨ decodeLane w0 w1 w2 = some (.attbResume f)) →
    AttbReady u f ((readCursor u.me f (u.seq (aSlot f)).d).getD 2 0).toNat cs c →
    ∃ t o a, exec (.attbReissue w p) s = .next t ∧ o.left = f.la.toNat - q.visits ∧ o.attb = some a ∧
      warpPath (t.warp w) p =
        { q with
          outs := q.outs ++ [o], pc := q.pc + 12, cont := false, visits := 0, io := none, park := none, retWait := false
          lost := [] } ∧
      (∀ k, k ≠ w → kGet? t.warps k = kGet? s.warps k) ∧ (t.warp w).v = (s.warp w).v)

/-! ## Completions and waits -/

/-- R138, R141, R143, R266, R267: an outstanding lane instruction with nothing left to wait for completes and makes its writes;
an ATTB makes the charges of its further visits one by one, waiting where the budget is short, then writes its group and s56 to
s61; one with visits left that a cause interrupts at a block boundary leaves its path at its PC with K set.
A parked access goes on once its pages are resident or its sectors unpoisoned. -/
def Sys2Proof.Claims.LongInstructionsComplete : Prop :=
  (∀ (s : State) (w p k : Nat) (j : Outst), p ≤ 1 → (warpPath (s.warp w) p).outs[k]? = some j → outReady j = true →
    let x := s.warp w
    let q := warpPath x p
    let outs := q.outs.take k ++ q.outs.drop (k + 1)
    let wrote (y : Warp) (ws : List RegW) : Prop := ∀ r l, l < 32 →
      (∀ pre e post, ws = pre ++ e :: post → e.reg = r → e.lane = l → (∀ d ∈ post, ¬ (d.reg = r ∧ d.lane = l)) →
        vreg y r l = e.val) ∧ ((∀ e ∈ ws, ¬ (e.reg = r ∧ e.lane = l)) → vreg y r l = vreg x r l)
    (j.attb = none → (∀ e ∈ j.writes, e.lane < 32) →
      ∃ t, exec (.laneLongCompletion w p k) s = .next t ∧ OnlyWarp w s t ∧ wrote (t.warp w) j.writes ∧
        (∀ m l, m ≠ 0 → (∀ e ∈ j.maskWrites, e.mask = m → ¬ hasLane e.lanes l) →
          hasLane (spGet (t.warp w).m m) l = hasLane (spGet x.m m) l) ∧
        (∀ pre e post l, j.maskWrites = pre ++ e :: post → e.mask ≠ 0 → hasLane e.lanes l →
          (∀ d ∈ post, d.mask = e.mask → ¬ hasLane d.lanes l) → hasLane (spGet (t.warp w).m e.mask) l = hasLane e.bits l) ∧
        warpPath (t.warp w) p = { q with outs := outs } ∧ (t.warp w).s = x.s ∧
        laneRest (t.warp w) p = laneRest (fillQueue x true j.num (laneValues j.writes)) p) ∧
    (∀ a, j.attb = some a →
      let die := (s.block x.block).pcore / 44
      let ctx := (s.launch x.launch).ctx
      let due := a.units * (if x.mirror.isSome then 2 else 1)
      let short := decide (s.budget die ctx < due)
      let results (y : Warp) (e : AttbEnd) : Prop := ∀ i, i < 6 →
        spGet y.s (56 + i) = if i < e.results.length ∧ 56 + i ∉ a.lost then e.results.getD i 0 else spGet x.s (56 + i)
      ((s.attbCause w p = true → attbCut a short = none) →
        (a.paid < a.need → short = true → exec (.laneLongCompletion w p k) s = .next s) ∧
        (a.paid < a.need → short = false → ∃ t, exec (.laneLongCompletion w p k) s = .next t ∧
          t.budget die ctx = s.budget die ctx - due ∧ { t with warps := s.warps, dies := s.dies } = s ∧
          t.warp w = setPath x p { q with outs := q.outs.set k { j with attb := some { a with paid := a.paid + 1 } } }) ∧
        (a.need ≤ a.paid → a.park = none → (∀ e ∈ a.full.writes, e.lane < 32) → a.full.results.length ≤ 6 →
          ∃ t, exec (.laneLongCompletion w p k) s = .next t ∧ OnlyWarp w s t ∧ wrote (t.warp w) a.full.writes ∧
            warpPath (t.warp w) p = { q with outs := outs } ∧ results (t.warp w) a.full ∧
            ∀ i, i < 56 → spGet (t.warp w).s i = spGet x.s i)) ∧
      (∀ e, s.attbCause w p = true → attbCut a short = some e → (∀ d ∈ e.writes, d.lane < 32) → e.results.length ≤ 6 →
        ∃ t, exec (.laneLongCompletion w p k) s = .next t ∧ OnlyWarp w s t ∧ wrote (t.warp w) e.writes ∧
          warpPath (t.warp w) p = { q with
            outs := outs, pc := q.pc - 12, cont := true, visits := a.la - j.left, park := none, lost := a.lost } ∧
          results (t.warp w) e))) ∧
  (∀ (s : State) (w : Nat) (x : Warp) (park : Park), kGet? s.warps w = some x → x.stopped = false →
    let ctx := (s.launch x.launch).ctx
    let ready : Prop := park.kind ≠ .schedule ∧ ∀ a ∈ park.addrs, ∃ pa pte, s.check ctx a 0 = .here pa pte ∧
      (park.kind = .residency ∨ s.poisoned (pa / 32 * 32) 32 = false)
    ready →
    (x.wait = .parked park → ∃ t, exec (.parkReplay w 2) s = .next t ∧ OnlyWarp w s t ∧ t.warp w = { x with wait := .none }) ∧
    (∀ p, p ≤ 1 → (warpPath x p).park = some park → (∀ j ∈ (warpPath x p).outs, j.rereads = []) →
      ∃ t, exec (.parkReplay w p) s = .next t ∧ OnlyWarp w s t ∧
        t.warp w = setPath x p { warpPath x p with park := none }))

/-- R36, R201, R342 to R344: a stream ready for 2,000 ns becomes urgent; an absent register is fetched from the save area; and a
mirrored pair's effect goes ahead when its words and operands agree, else the pair is killed. -/
def Sys2Proof.Claims.StreamsRegistersAndMirrors : Prop :=
  (∀ (s : State) (w : Nat) (x : Warp) (since : Nat), kGet? s.warps w = some x →
    let now := (s.die ((s.block x.block).pcore / 44)).count
    (x.readyS = some since → since + 2000 ≤ now → ∃ t, exec (.streamUrgent w false) s = .next t ∧ OnlyWarp w s t ∧
      t.warp w = { x with urgentS := true }) ∧
    (x.readyL = some since → since + 2000 ≤ now → ∃ t, exec (.streamUrgent w true) s = .next t ∧ OnlyWarp w s t ∧
      t.warp w = { x with urgentL := true })) ∧
  (∀ (s : State) (w reg : Nat) (x : Warp) (bs : List Byte), kGet? s.warps w = some x → x.absent.contains reg = true →
    x.missed.contains reg = true →
    (bitN x.savedLive reg = 1 →
      s.readGot (s.launch x.launch).ctx (x.saveArea + BitVec.ofNat 64 (0x800 + 128 * reg)) 128 = .bytes bs) →
    ∃ t, exec (.registerMiss w reg) s = .next t ∧ (∀ v, v ≠ w → kGet? t.warps v = kGet? s.warps v) ∧
      noReads { t with warps := s.warps } = noReads s ∧
      (∀ r l, l < 32 → vreg (t.warp w) r l =
        if r = reg then (if bitN x.savedLive reg = 1 then BitVec.ofNat 32 (fieldN bs (4 * l) 4) else 0) else vreg x r l) ∧
      (∀ r, r ∈ (t.warp w).absent ↔ r ∈ x.absent ∧ r ≠ reg) ∧
      { t.warp w with v := [], absent := [] } =
        { x with v := [], absent := [], missed := x.missed.filter (· != reg) }) ∧
  (∀ (s : State) (w k : Nat) (x : Warp) (m : Mirror) (ws : List W32) (vs : List W64), kGet? s.warps w = some x →
    x.mirror = some m → x.pend = none → m.held = some k → k ≤ 2 → m.passed = false →
    (if k < 2 then m.lagL else m.lagS).isEmpty = true → s.heldEffect w k = some (ws, vs) →
    (∃ t, exec (.mirrorCompare w (decide (k < 2)) ws vs) s = .next t ∧ OnlyWarp w s t ∧
      t.warp w = { x with mirror := some { m with passed := true } }) ∧
    ∀ words operands, ¬ (words = ws ∧ operands = vs) →
      exec (.mirrorCompare w (decide (k < 2)) words operands) s = .next (s.killPair w 0x12 3))

namespace Sys2Proof.Claims

/-! ## Clocks over links -/

/-- Only the record of die `die` and the error banks have changed. -/
def DieOnly (s t : State) (die : Nat) : Prop :=
  (∀ k, k ≠ die → kGet? t.dies k = kGet? s.dies k) ∧ { t with dies := s.dies, banks := s.banks } = s

/-- What a die keeps of its partner over `link` (R298). -/
def endOf (d : Die) (link : Nat) : SyncEnd := (kGet? d.sync link).getD ⟨0, 0, [], none⟩

/-- An interval of `n` ns stretched and shortened by 20 ppm, in whole ns (R299). -/
def longer (n : Nat) : Nat := n + (n + 49999) / 50000
def shorter (n : Nat) : Nat := n - (n + 49999) / 50000

/-- The width limit of a die (R14, R300): the least $ILIM of the launches whose stores it has queued, else the present one. -/
def IsLimit (s : State) (d : Die) (n : Nat) : Prop :=
  if d.queue = [] then n = s.mgmt.settings.ilim
  else (∀ q ∈ d.queue, n ≤ (s.launch q.launch).ilim) ∧ ∃ q ∈ d.queue, n = (s.launch q.launch).ilim

/-- The record of a stamp unit's error bank with a syndrome of R300, written where `u` stood. -/
def stampRecord (u : State) (die syn : Nat) : State :=
  u.bankError (die * 256 + if die < 4 then 53 else 19) 4 syn 0

/-- R297: of two successive narrowings, newest first, as count, E and L, the true time between them may have run faster or slower
than the count by more than 20 ppm. -/
def RatesBeyond (ns : List (Nat × Nat × Nat)) : Prop :=
  ∃ c2 e2 l2 c1 e1 l1 : Nat, ns = [(c2, e2, l2), (c1, e1, l1)] ∧
    ((50001 : Int) * ((c2 - c1 : Nat) : Int) < 50000 * ((l2 : Int) - e1) ∨
      (50000 : Int) * ((e2 : Int) - l1) < 49999 * ((c2 - c1 : Nat) : Int))

/-- The die's record is `d` now but for its width, noted afresh; if it has become wide with stores queued, WIDE_PENDING is
recorded after what `u` recorded (R300). -/
def WidthNoted (s u t : State) (die : Nat) (d : Die) : Prop :=
  ∀ n, IsLimit s d n →
    t.die die = { d with wide := decide (n < dieL d - dieE d) } ∧
    t.banks = if n < dieL d - dieE d ∧ d.wide = false ∧ d.queue ≠ [] then
      (stampRecord (u.setDie die { d with wide := true }) die 0x12).banks else u.banks

/-! ## Links -/

/-- Only link `l` has changed, and it is `x` now. -/
def LinkNow (s t : State) (l : Nat) (x : Link) : Prop :=
  t.link l = x ∧ (∀ k, k ≠ l → kGet? t.fab.links k = kGet? s.fab.links k) ∧
    { t with fab := { t.fab with links := s.fab.links }, jobs := s.jobs } = s

/-- A flit on the wire (R308): 64 bytes of payload, the trailer, CRC-32C of all before it. -/
def wire (pay : List Byte) (seq ty ack : Nat) (valid nak : Bool) : List Byte :=
  let low := pay ++ toBytes 4 (seq + 4096 * ty + 65536 * ack + 2 ^ 28 * valid.toNat + 2 ^ 29 * nak.toNat)
  low ++ toBytes 4 (crc32c low).toNat

/-- What link record `x` puts on the wire (R308, R310): the flit with the NAK that is due, naming the number it expects, or the
acknowledgement that is due, of the number before, which an idle flit always carries. -/
def said (x : Link) (ty seq : Nat) (pay : List Byte) : List Byte :=
  let due := x.ackDue || ty == 0
  let ack := if x.nakDue then x.expected % 4096 else if due then (x.expected + 4095) % 4096 else 0
  wire (pay ++ List.replicate (64 - pay.length) 0) (seq % 4096) (ty % 16) ack (x.nakDue || due) x.nakDue

/-- An advance flit's payload (R312): version, then the dead link. -/
def advancePay (ver : Nat) (id : LinkId) : List Byte :=
  let h := toBytes 2 ver ++ toBytes 2 id.device ++ toBytes 1 id.io ++ toBytes 1 id.link
  h ++ List.replicate (64 - h.length) 0

/-- R313: router `r` has taken version `ver` and the dead link, is recomputing, has no table meanwhile, and has told every live peer link but the one it
lost, and the other router of the package. -/
def Adopts (s t : State) (r ver : Nat) (id : LinkId) (lost : Option Nat) : Prop :=
  (t.router r).version = ver ∧ (t.router r).recomputing = true ∧ (t.router r).table = [] ∧ (∀ i, i ∈ (t.router r).dead ↔ i ∈ (s.router r).dead ∨ i = id) ∧
    (t.router (1 - r)).advq = (s.router (1 - r)).advq ++ [(ver, id)] ∧
    ∀ l, 16 * r ≤ l → l < 16 * r + 6 → some l ≠ lost → (s.link l).dead = false →
      (t.link l).sendq = (s.link l).sendq ++ [⟨5, 0, advancePay ver id, 0⟩]

/-- R311: a link has died: it holds nothing any more, and the router of a peer link has advanced. -/
def LinkDied (s t : State) (l : Nat) : Prop :=
  (t.link l).dead = true ∧ (t.link l).retry = [] ∧ (t.link l).resend = [] ∧ (t.link l).retraining = false ∧
    (l = 6 → t.fab.routers = s.fab.routers) ∧
    (l ≠ 6 → Adopts s t (l / 16) (((s.router (l / 16)).version + 1) % 16) ⟨s.mgmt.settings.deviceId, l / 16, l % 16⟩ (some l))

/-- The links of this device: 0 to 5 and 16 to 21 to peers, 6 to the host (R308). -/
def linkNumber (l : Nat) : Prop := l ≤ 6 ∨ (16 ≤ l ∧ l < 22)

/-! ## Streams -/

/-- The packets to device `dst` that its router has in hand and has not seen acknowledged: those sent, and those that a full
retry buffer stalls. Their version is the one they are sent under, so it is left out. -/
def inHand (f : Fabric) (dst : Nat) : List Packet :=
  ((kGet f.outs dst).unacked.map (·.pkt) ++ (kGet f.routers (dst % 2)).waiting.filter (·.dst == dst)).map fun p => { p with ver := 0 }

/-- The streams are listed once each, the source retry buffer of I/O die `r` holds at most 3 MiB, and a packet waits only where
it does not fit (R314). -/
def BufferKept (f : Fabric) (r : Nat) : Prop :=
  (f.outs.map (·.1)).Pairwise (· < ·) ∧
  let held := ((f.outs.filter fun e => e.1 % 2 == r).map fun e => (e.2.unacked.map fun u => 72 * (1 + dataFlits u.pkt)).sum).sum
  held ≤ 3 * 2 ^ 20 ∧ ∀ p rest, (kGet f.routers r).waiting = p :: rest → 3 * 2 ^ 20 < held + 72 * (1 + dataFlits p)

/-- A packet of this device with the fields given: op, rseq, code and payload. -/
def IsPacket (s : State) (dst seq : Nat) (p : Packet) (x : Nat × Nat × Nat × List Byte) : Prop :=
  p.src = s.mgmt.settings.deviceId ∧ p.dst = dst ∧ p.sseq = seq ∧ p.op = x.1 ∧ p.rseq = x.2.1 ∧ p.code = x.2.2.1 ∧
    p.data = x.2.2.2 ∧ p.len = x.2.2.2.length

/-- The stream to device `dst` has gained the packets given, in their order, with its next numbers, and the buffer is kept as it
was (R314). `f` is the fabric they were added to. -/
def Injected (s : State) (f : Fabric) (t : State) (dst : Nat) (xs : List (Nat × Nat × Nat × List Byte)) : Prop :=
  (∃ ps, inHand t.fab dst = inHand f dst ++ ps ∧ ps.length = xs.length ∧
    ∀ i p x, ps[i]? = some p → xs[i]? = some x → IsPacket s dst (((kGet f.outs dst).next + i) % 2 ^ 32) p x) ∧
  (kGet t.fab.outs dst).next % 2 ^ 32 = ((kGet f.outs dst).next + xs.length) % 2 ^ 32 ∧
  (BufferKept f (dst % 2) → BufferKept t.fab (dst % 2))

/-- The lanes of its instruction that follow packet `p`, number `n` of a stream, on its location are held too (R144, log 27). -/
def LanesHeld (q : InStream) (n : Nat) (p : Packet) : Prop := ∀ i, i < p.more → ∃ h ∈ q.held, h.sseq = (n + 1 + i) % 2 ^ 32

/-- The packet at the base of the stream from `src` is `p`, once held. -/
def AtBase (s : State) (src : Nat) (q : InStream) (p : Packet) : Prop :=
  kGet? s.fab.ins src = some q ∧ q.held.find? (fun h => h.sseq == q.base) = some p ∧ LanesHeld q q.base p

/-- The base of the stream from `src` has moved on by one packet (R315). -/
def BaseMoved (t : State) (src : Nat) (q : InStream) : Prop :=
  (kGet t.fab.ins src).base = (q.base + 1) % 2 ^ 32 ∧ ∀ h, h ∈ (kGet t.fab.ins src).held ↔ h ∈ q.held ∧ h.sseq ≠ q.base

/-- The import entry that a request at the base of a stream is checked under: the one its address names, or what that one held
when the request was first checked and had to wait (R316, R318). -/
def entryFor (s : State) (q : InStream) (p : Packet) : Option Import :=
  match q.checked with
  | some (_, e) => some e
  | none => kGet? s.fab.imports (p.addr.toNat / 2 ^ 42 % 1024)

/-- R316, R317: the import entry of a request admits it at physical address `pa`. -/
def Admitted (s : State) (q : InStream) (p : Packet) (n access pa : Nat) (pte : W64) : Prop :=
  ∃ e, entryFor s q p = some e ∧ e.valid = true ∧ p.key = e.key ∧ e.key ≠ 0 ∧
    p.addr.toNat % 2 ^ 42 + n ≤ e.len ∧ (access = 0 → e.r = true) ∧ (access = 1 → e.w = true) ∧
    (access = 2 → e.r = true ∧ e.w = true ∧ e.a = true) ∧
    (e.base + BitVec.ofNat 64 (p.addr.toNat % 2 ^ 42)).toNat % 2 ^ p.size = 0 ∧
    s.check e.ctx (e.base + BitVec.ofNat 64 (p.addr.toNat % 2 ^ 42)) access = .here pa pte ∧
    (access ≠ 1 → s.poisoned pa n = false)

end Sys2Proof.Claims

/-! ## Stamp units and the fabric -/

/-- R297 to R300: every 10 µs a stamp unit sends its interval, a sequence number and an echo to each partner; a message raises E
to the sender's by the latency of the link, and an echo lowers L by the round trip less the hold; one that would cross them is
recorded and changes nothing, and a drift that two successive narrowings allow is recorded and resets the interval. A unit that becomes wide with stores queued records that. SYNC_SEND
completes on every partner that is up once its 10 µs have passed, SYNC_RECEIVE on every message that has come, DIE_WIDE on every
die. Where it rests on the model's own choices, they are those of log 26. -/
def Obligations.ClocksAreSynchronised : Prop :=
  (∀ (s : State) (die link : Nat) (d : Die), kGet? s.dies die = some d → (endOf d link).due ≤ d.count →
    let e := endOf d link
    let m : SyncMsg :=
      { e := BitVec.ofNat 64 (dieE d), l := BitVec.ofNat 64 (dieL d), seq := e.next
        echo := match e.last with | some (q, _) => BitVec.ofNat 16 q | none => 0xFFFF
        hold := match e.last with | some (_, c) => BitVec.ofNat 32 (d.count - c) | none => 0
        device := BitVec.ofNat 12 s.mgmt.settings.deviceId, die := BitVec.ofNat 3 die }
    let sent (t : State) : Prop := (endOf (t.die die) link).next = e.next + 1 ∧ (endOf (t.die die) link).due = d.count + 10000 ∧
      (endOf (t.die die) link).last = e.last ∧ (∀ q, q ∈ (endOf (t.die die) link).sent ↔
        q = (e.next.toNat, d.count) ∨ (q ∈ e.sent ∧ q.1 ≠ e.next.toNat)) ∧
      { t.die die with sync := [] } = { d with sync := [] } ∧
      ∀ k, k ≠ link → kGet? (t.die die).sync k = kGet? d.sync k
    (∀ peer, die < 6 → peer < 6 → peer ≠ die → link = 256 + peer →
      ∃ t, exec (.syncSend die link) s = .next t ∧ sent t ∧ (t.die peer).inbox = (s.die peer).inbox ++ [(256 + die, m)] ∧
        (∀ k, k ≠ die → k ≠ peer → kGet? t.dies k = kGet? s.dies k) ∧ { t with dies := s.dies } = s) ∧
    ((die = 4 ∧ link < 7) ∨ (die = 5 ∧ 16 ≤ link ∧ link < 22) → (s.link link).dead = false → (s.link link).retraining = false →
      ∃ t, exec (.syncSend die link) s = .next t ∧ sent t ∧
        (t.link link) = { s.link link with sendq := (s.link link).sendq ++
          [⟨3, 0, toBytes 8 m.e.toNat ++ toBytes 8 m.l.toNat ++ toBytes 2 m.seq.toNat ++ toBytes 2 m.echo.toNat ++
            toBytes 4 m.hold.toNat ++ toBytes 4 (m.device.toNat + 4096 * m.die.toNat) ++ List.replicate 36 0, 0⟩] } ∧
        (∀ k, k ≠ die → kGet? t.dies k = kGet? s.dies k))) ∧
  (∀ (s : State) (die link : Nat) (d : Die) (m : SyncMsg) (rest : List (Nat × SyncMsg)), kGet? s.dies die = some d →
    d.inbox = (link, m) :: rest →
    let lat := s.latencyOf die link
    let early := min (2 ^ 64 - 1) (max (rawE d) (m.e.toNat + lat))
    let noted : Die := { d with
      inbox := rest, sync := kSet d.sync link { endOf d link with last := some (m.seq.toNat, d.count) } }
    let ends (late : Nat) : Prop := ∀ drift, ∃ t, exec (.syncReceive die drift) s = .next t ∧ DieOnly s t die ∧
      let now : Die := { noted with
        e0 := early, l0 := late, c0 := d.count, narrows := (d.count, early, late) :: d.narrows.take 1 }
      (late < early → t.die die = noted ∧ t.banks = (stampRecord (s.setDie die noted) die 0x11).banks) ∧
      (early ≤ late → drift = false ∨ ¬ RatesBeyond now.narrows → WidthNoted s s t die now) ∧
      (early ≤ late → drift = true → RatesBeyond now.narrows → WidthNoted s (stampRecord (s.setDie die now) die 0x10) t die
        { now with e0 := 0, l0 := 2 ^ 64 - 1, narrows := [] })
    (m.echo = 0xFFFF ∨ (∀ q ∈ (endOf d link).sent, q.1 ≠ m.echo.toNat) → ends (dieL d)) ∧
    (∀ pre at_ post, (endOf d link).sent = pre ++ (m.echo.toNat, at_) :: post → (∀ q ∈ pre, q.1 ≠ m.echo.toNat) →
      m.echo ≠ 0xFFFF →
      let up := min (2 ^ 64 - 1) (longer (d.count - at_) - shorter m.hold.toNat - lat)
      ends (min (dieL d) (m.l.toNat + up)))) ∧
  (∀ (s : State) (die : Nat) (d : Die), kGet? s.dies die = some d →
    ∃ t, exec (.dieWide die) s = .next t ∧ DieOnly s t die ∧ WidthNoted s s t die d)

/-- R308, R310, R311: a link sends its next flit with the acknowledgement or NAK that is due, and keeps it until it is
acknowledged, takes a flit of the right CRC and
sequence number, answers a corrupt one with a NAK, replays from a NAKed flit after its backoff and everything after a retrain, which leaves it on the widest group of
working lanes, the lower of equals, and dies after three failed retrains, below its least width, or after 50 µs without an acceptance.
Where it rests on the model's own choices, they are those of logs 27 and 46. -/
def Obligations.LinksDeliverInOrder : Prop :=
  (∀ (s : State) (l : Nat) (x : Link), kGet? s.fab.links l = some x → x.dead = false → x.retraining = false →
    let sends (ty seq : Nat) (pay : List Byte) : Link := { x with ackDue := false, nakDue := false, wire := said x ty seq pay }
    let idles := sends 0 (x.next + 4095) []
    let now := (s.die (4 + l / 16)).count
    (x.resendAt = none → ∀ f rest, x.resend = f :: rest →
      ∃ t, exec (.linkFlitSend l) s = .next t ∧ LinkNow s t l { sends f.ty f.seq f.payload with resend := rest }) ∧
    (x.resendAt = none → ∀ f rest, x.resend = [] → x.sendq = f :: rest → x.retry.length < 2048 →
      ∃ t, exec (.linkFlitSend l) s = .next t ∧ LinkNow s t l { sends f.ty x.next f.payload with
        sendq := rest, next := (x.next + 1) % 4096, retry := x.retry ++ [{ f with seq := x.next }]
        lastAccept := if x.retry = [] then now else x.lastAccept }) ∧
    ((x.resendAt ≠ none ∨ (x.resend = [] ∧ (x.sendq = [] ∨ 2048 ≤ x.retry.length))) →
      ∃ t, exec (.linkFlitSend l) s = .next t ∧ LinkNow s t l idles) ∧
    (∀ pay seq ty full, pay.length = 64 → seq < 4096 → ty ≤ 5 →
      (ty ≠ 0 → ty ≠ 4 → seq = x.expected → full = false → ty = 5 → l ≠ 6 →
        ∃ t, exec (.linkFlitReceive l (wire pay seq ty 0 false false) full) s = .next t ∧
          t.link l = { x with expected := (x.expected + 1) % 4096, discarding := false, ackDue := true } ∧
          (t.router (l / 16)).advq = (s.router (l / 16)).advq ++
            [(fieldN pay 0 1 % 16, ⟨fieldN pay 2 2 % 4096, fieldN pay 4 1, fieldN pay 5 1⟩)]) ∧
      (seq = x.expected → full = false → ty = 1 → l ≠ 6 → headerOk pay = true → fieldN pay 5 1 = 0 →
        ∃ t, exec (.linkFlitReceive l (wire pay seq ty 0 false false) full) s = .next t ∧
          (t.link l).expected = (x.expected + 1) % 4096 ∧
          (t.router (l / 16)).inq = (s.router (l / 16)).inq ++ [parsePacket pay (l % 16)]) ∧
      (ty ≠ 0 → ty ≠ 4 → seq ≠ x.expected →
        ∃ t, exec (.linkFlitReceive l (wire pay seq ty 0 false false) full) s = .next t ∧ LinkNow s t l x) ∧
      ∀ pre f post, x.retry = pre ++ f :: post → (∀ g ∈ pre ++ post, g.seq ≠ f.seq) → f.seq < 4096 →
        (∃ t, exec (.linkFlitReceive l (wire pay seq 0 f.seq true false) full) s = .next t ∧
          (t.link l).retry = post ∧ (t.link l).backoff = 64 ∧ (t.link l).lastAccept = now) ∧
        (∃ t, exec (.linkFlitReceive l (wire pay seq 0 f.seq true true) full) s = .next t ∧
          (t.link l).retry = f :: post ∧ (t.link l).resend = f :: post ∧
          (t.link l).resendAt = some (now + if pre = [] then x.backoff else 64) ∧
          (t.link l).backoff = min 1000 (2 * if pre = [] then x.backoff else 64))) ∧
    (∀ bytes full, bytes.length = 72 → bitsOf (ofBytes (bytes.drop 68)) 0 32 ≠ (crc32c (bytes.take 68)).toNat →
      ∃ t, exec (.linkFlitReceive l bytes full) s = .next t ∧ LinkNow s t l { x with nakDue := true, discarding := true }) ∧
    (∀ u, x.resendAt = some u → u ≤ now → ∃ t, exec (.linkReplay l) s = .next t ∧ LinkNow s t l { x with resendAt := none }) ∧
    (∃ t, exec (.linkRetrain l) s = .next t ∧ LinkNow s t l { x with retraining := true, retrains := x.retrains + 1 }) ∧
    (linkNumber l → x.retry ≠ [] → x.lastAccept + 50000 ≤ now →
      ∃ t, exec (.linkDeadTimeout l) s = .next t ∧ LinkDied s t l)) ∧
  (∀ (s : State) (l : Nat) (x : Link) (working : Nat), kGet? s.fab.links l = some x → x.dead = false → x.retraining = true →
    linkNumber l →
    (x.failures < 2 → ∃ t, exec (.retrainComplete l working false) s = .next t ∧
      LinkNow s t l { x with failures := x.failures + 1 }) ∧
    (2 ≤ x.failures → ∃ t, exec (.retrainComplete l working false) s = .next t ∧ LinkDied s t l) ∧
    ∀ g n, n ≤ 4 → (g + 1) * 2 ^ n ≤ 16 → (∀ i, i < 2 ^ n → working.testBit (g * 2 ^ n + i) = true) →
      (∀ h k, (n < k ∧ k ≤ 4 ∨ k = n ∧ h < g) → (h + 1) * 2 ^ k ≤ 16 →
        ∃ i, i < 2 ^ k ∧ working.testBit (h * 2 ^ k + i) = false) →
      (s.minWidth ≤ 2 ^ n → ∃ t, exec (.retrainComplete l working true) s = .next t ∧ LinkNow s t l { x with
        width := 2 ^ n, lane := g * 2 ^ n, retraining := false, failures := 0, resend := x.retry, resendAt := none
        ackDue := true }) ∧
      (2 ^ n < s.minWidth →
        ∃ t, exec (.retrainComplete l working true) s = .next t ∧ LinkDied s t l))

/-- R144, R312 to R318: routers adopt a later routing version, or the news of a dead link they did not know, and replay their
streams once their table is recomputed from the routes that use no link known dead; packets of the present version go to their
stream or, unless the table is being recomputed, out by the table; a destination holds its window of 256, acknowledges duplicates
and drops them, and performs in order, acknowledging each packet; a request that its import entry admits is answered, another
refused; atomics of one stream on one address that follow each other are performed together; an acknowledgement frees the source's
packets, and one missing for 100 µs replays them; a source holds at most 3 MiB unacknowledged.
Where it rests on the model's own choices, they are those of logs 16 and 27. -/
def Obligations.StreamsCarryRequestsOnce : Prop :=
  (∀ (s : State) (r ver : Nat) (x : Router) (id : LinkId) (rest : List (Nat × LinkId)), r < 2 → kGet? s.fab.routers r = some x →
    x.version < 16 → ver < 16 → x.advq = (ver, id) :: rest →
    let u := s.setRouter r { x with advq := rest }
    let ahead := (ver + 16 - x.version) % 16
    (1 ≤ ahead → ahead ≤ 7 → ∃ t, exec (.advanceReceive r) s = .next t ∧ Adopts u t r ver id none) ∧
    (ahead = 0 ∨ 7 < ahead → id ∉ x.dead →
      ∃ t, exec (.advanceReceive r) s = .next t ∧ Adopts u t r ((x.version + 1) % 16) id none) ∧
    (ahead = 0 ∨ 7 < ahead → id ∈ x.dead → exec (.advanceReceive r) s = .next u)) ∧
  (∀ (s : State) (r : Nat) (x : Router) (routes : List (List (Nat × Nat × Nat))), kGet? s.fab.routers r = some x →
    x.recomputing = true →
    ∃ t, exec (.routeRecompute r routes) s = .next t ∧ (t.router r).recomputing = false ∧ (t.router r).version = x.version ∧
      (∀ d l, kGet? (t.router r).table d = some l ↔ d < 4096 ∧ ∃ io k rest, io < 2 ∧ k < 6 ∧ l = 16 * io + k ∧
        (d % 2 = r → io = r) ∧
        routes[d]? = some ((s.mgmt.settings.deviceId, io, k) :: rest) ∧
        ∀ e ∈ (s.mgmt.settings.deviceId, io, k) :: rest, (⟨e.1, e.2.1, e.2.2⟩ : LinkId) ∉ x.dead) ∧
      (∀ d o, d % 2 = r → kGet? s.fab.outs d = some o → (kGet t.fab.outs d).next = o.next ∧
        (kGet t.fab.outs d).unacked = o.unacked.map fun a =>
          { pkt := { a.pkt with ver := x.version }, sentAt := (s.die (4 + r)).count, fresh := false })) ∧
  (∀ (s : State) (r : Nat) (x : Router) (p : Packet) (rest : List Packet), kGet? s.fab.routers r = some x → x.inq = p :: rest →
    let u := s.setRouter r { x with inq := rest }
    (p.ver ≠ x.version → exec (.packetForward r) s = .next u) ∧
    (p.ver = x.version → p.dst = s.mgmt.settings.deviceId → ∃ t, exec (.packetForward r) s = .next t ∧
      (t.router (p.src % 2)).rxq = (s.router (p.src % 2)).rxq ++ [p] ∧ (t.router r).inq = rest) ∧
    (p.ver = x.version → p.dst ≠ s.mgmt.settings.deviceId → x.recomputing = true → ∃ t, exec (.packetForward r) s = .next t ∧
      t.router r = x ∧ (∀ k, k ≠ r → kGet? t.fab.routers k = kGet? s.fab.routers k) ∧
      { t with fab := { t.fab with routers := s.fab.routers } } = s) ∧
    (p.ver = x.version → p.dst ≠ s.mgmt.settings.deviceId → x.recomputing = false →
      ∀ l, kGet? x.table p.dst = some l → (s.link l).dead = false →
      ∃ t, exec (.packetForward r) s = .next t ∧ t.router r = { x with inq := rest } ∧
        (t.link l).sendq = (s.link l).sendq ++ packetFlits p)) ∧
  (∀ (s : State) (io : Nat) (x : Router) (p : Packet) (rest : List Packet) (q : InStream), io < 2 →
    kGet? s.fab.routers io = some x → x.rxq = p :: rest → p.ver = x.version → kGet? s.fab.ins p.src = some q →
    let d := (p.sseq + 2 ^ 32 - q.base) % 2 ^ 32
    let known := ∃ h ∈ q.held, h.sseq = p.sseq
    ∃ t, exec (.packetReceive io) s = .next t ∧ (t.router io).rxq = rest ∧
      (d < 256 → ¬ known → kGet? t.fab.ins p.src = some { q with held := q.held ++ [p] }) ∧
      (256 ≤ d ∨ known → kGet? t.fab.ins p.src = some q) ∧
      (2 ^ 31 ≤ d ∨ known → Injected s s.fab t p.src [(5, (q.base + 2 ^ 32 - 1) % 2 ^ 32, 0, [])])) ∧
  (∀ (s : State) (src : Nat) (q : InStream) (p : Packet), AtBase s src q p →
    let ack : Nat × Nat × Nat × List Byte := (5, q.base, 0, [])
    let rest : InStream := { q with held := q.held.filter (·.sseq != q.base) }
    let next (h : Packet) : Prop := q.held.find? (fun h => h.sseq == (q.base + 1) % 2 ^ 32) = some h ∧ h.op = 3 ∧ h.bad = false ∧
      h.addr = p.addr ∧ LanesHeld rest ((q.base + 1) % 2 ^ 32) h
    let together := ∃ h, next h
    (p.bad = true → p.src = src → ∃ t, exec (.requestPerform src) s = .next t ∧ BaseMoved t src q ∧
      Injected s s.fab t src [(6, p.sseq, cOPERAND, []), ack]) ∧
    (p.bad = false →
      (∀ pa pte, p.op = 0 → p.data.length = p.len → p.len ≠ 0 → Admitted s q p p.len 1 pa pte →
        ∃ t, exec (.requestPerform src) s = .next t ∧ BaseMoved t src q ∧ StoresAt s t pte pa p.data ∧ t.warps = s.warps ∧
          Injected s s.fab t src [ack]) ∧
      (∀ pa pte, p.op = 1 → Admitted s q p p.len 0 pa pte →
        ∃ t, exec (.requestPerform src) s = .next t ∧ BaseMoved t src q ∧ t.mem = s.mem ∧
          Injected s s.fab t src [(2, p.sseq, 0, readBytes s.mem pa p.len), ack]) ∧
      (∀ pa pte, p.op = 3 → Admitted s q p 8 2 pa pte → ¬ together →
        let k := rmwBytes (packetRmw p).ty
        let old := readBytes s.mem pa k
        ∃ t, exec (.requestPerform src) s = .next t ∧ BaseMoved t src q ∧ Injected s s.fab t src [(4, p.sseq, 0, old), ack] ∧
          match rmwNew (packetRmw p) (BitVec.ofNat 64 (ofBytes old)) with
            | some v => StoresAt s t pte pa (toBytes k v.toNat)
            | none => t.mem = s.mem) ∧
      (∀ h pa pte pb pte', p.op = 3 → Admitted s q p 8 2 pa pte → next h → Admitted (s.performBase src) { q with checked := none } h 8 2 pb pte' →
        ∃ t n, exec (.requestPerform src) s = .next t ∧ 2 ≤ n ∧ n ≤ 256 ∧ (kGet t.fab.ins src).base = (q.base + n) % 2 ^ 32) ∧
      (p.op ≤ 1 ∨ p.op = 3 → p.src = src → entryFor s q p = none → ¬ (p.op = 3 ∧ together) →
        ∃ t, exec (.requestPerform src) s = .next t ∧ BaseMoved t src q ∧ t.mem = s.mem ∧
          Injected s s.fab t src [(6, p.sseq, cIMPORT, []), ack]) ∧
      (∀ id a w x lane va, (p.op = 2 ∨ p.op = 4) → s.fab.requests = [(id, a)] → a.dst = src → a.sseq = p.rseq → a.answered = false →
        a.asker = .scalar w → kGet? s.warps w = some x → x.wait = .io { noIo with reqs := [(id, lane, va)] } →
        ∃ t, exec (.requestPerform src) s = .next t ∧ BaseMoved t src q ∧ Injected s s.fab t src [ack] ∧
          t.fab.requests = (if a.acked then [] else [(id, { a with answered := true })]) ∧
          OnlyWarp w { s with fab := t.fab } t ∧ t.warp w = { x with wait := .io { noIo with answers := [(lane, p.data)] } }))) ∧
  (∀ (s : State) (src : Nat) (q : InStream) (p : Packet) (o : OutStream), AtBase s src q p → p.op = 5 → p.bad = false →
    (∀ e ∈ s.fab.ins, e.1 % 2 = src % 2 → (∃ h, e.2.held.find? (fun h => h.sseq == e.2.base) = some h ∧ h.op = 5 ∧ h.bad = false) →
      e = (src, q)) → kGet? s.fab.outs src = some o →
    let left := o.unacked.filter fun a => (p.rseq + 2 ^ 32 - a.pkt.sseq) % 2 ^ 32 ≥ 2 ^ 31
    ∃ t, exec (.e2eAckReceive (src % 2)) s = .next t ∧ BaseMoved t src q ∧
      Injected s { s.fab with outs := kSet s.fab.outs src { o with unacked := left } } t src [(5, q.base, 0, [])] ∧
      (BufferKept s.fab (src % 2) → BufferKept t.fab (src % 2))) ∧
  (∀ (s : State) (dst : Nat) (o : OutStream) (a : Unacked), kGet? s.fab.outs dst = some o → a ∈ o.unacked →
    let now := (s.die (4 + dst % 2)).count
    let x := s.router (dst % 2)
    a.sentAt + 100000 ≤ now → x.recomputing = false →
    ∃ t, exec (.e2eReplayTimeout dst a.pkt.sseq) s = .next t ∧
      (let again := o.unacked.map fun b => ({ pkt := { b.pkt with ver := x.version }, sentAt := now, fresh := false } : Unacked);
        (kGet t.fab.outs dst).unacked = again ∧ (t.router (dst % 2)).inq = x.inq ++ again.map (·.pkt)))

namespace Sys2Proof.Claims

/-! ## Graphs, placement, completion -/

/-- Only the launch engine and, by stores, memory may have changed (with the frames unwritten since their fetch, R281). -/
def StoresOnly (s t : State) : Prop := { t with mem := s.mem, clean := s.clean, eng := s.eng } = s

/-- A block has been admitted on a core as spawn leaves it: an empty scratchpad, and its warps with s40 the launch's
argument pointer, every other register zero, at the entry PC (R29). -/
structure Spawned (t : State) (key num : Nat) (l : Launch) (index : W64) (gblock core : Nat) (slots : List Nat) : Prop where
  block : ∃ q, kGet? t.blocks key = some q ∧ q.launch = num ∧ q.index = index ∧ q.gblock = gblock ∧ q.pcore = core ∧
    q.scratch = [] ∧ q.completed = false ∧ q.conts = []
  warps : ∀ w, w < count1 l → ∃ x, kGet? t.warps (key + 1 + w) = some x ∧ x.launch = num ∧ x.block = key ∧ x.widx = w ∧
    x.slot = slots.getD w 0 ∧ x.pc = l.record.entry ∧ (∀ r, spGet x.s r = if r = 40 then l.record.args else 0) ∧ x.v = [] ∧
    x.m = [] ∧ x.stack = [] ∧ x.queue = [] ∧ x.running = none ∧ x.wait = .none ∧ x.pend = none ∧ x.handler = false

/-- A launch that is over, whose blocks have written back what they hold, whose accesses of other devices are acknowledged, and which
holds no gate, no pinned page and no sequence slot (R330). -/
structure EndsNow (s : State) (num : Nat) (l : Launch) : Prop where
  found : kGet? s.eng.launches num = some l
  live : l.complete = false ∧ l.written = 0
  over_ : s.launchOver num l = true
  plain : kGet? s.eng.graphs num = none ∧ l.gates = [] ∧ l.entries = []
  settled : ∀ e ∈ s.blocks, e.2.launch = num → (s.block e.1).completed = true
  acked : ∀ e ∈ s.fab.requests, e.2.launch ≠ num
  slots : ∀ e ∈ s.cores, ∀ q ∈ e.2.slots, q.2.loaded = true → q.2.owner ≠ num
  direct : ∀ k i, l.source ≠ .node k i

/-- A launch has completed: it holds nothing any more. Links that are narrow for the launches left may have died (R14, log 46). -/
structure HasEnded (s t : State) (num : Nat) : Prop where
  done : (t.launch num).complete = true
  blocks : ∀ e, e ∈ t.blocks ↔ e ∈ s.blocks ∧ e.2.launch ≠ num
  reserved : kGet? t.eng.reserved num = none
  preempts : ∀ e ∈ t.eng.preempts, e.2.victim ≠ num
  links : (∀ e ∈ s.fab.links, e.2.dead = false → e.2.retraining = false → t.minWidth ≤ e.2.width) →
    t.fab = s.fab ∧ t.jobs = s.jobs
  rest : { t with mem := s.mem, clean := s.clean, eng := s.eng, blocks := s.blocks, fab := s.fab, jobs := s.jobs } = s

end Sys2Proof.Claims

/-- R334: a graph takes the lowest free instance slot of its area, into which its table is copied as acceptance read it; a node
whose predecessors have all completed, none of them refused or force-reset, is accepted under the next launch number with the
record that the instance holds, refused with the code of the check that the record fails, or not; one with a refused, force-reset
or cancelled predecessor is cancelled. -/
def Sys2Proof.Claims.GraphsAreInstantiated : Prop :=
  (∀ (s : State) (k j : Nat) (g : Graph) (pa : Nat) (pte : W64), kGet? s.eng.graphs k = some g → g.slot = none →
    let l := s.launch g.launch
    let taken (j : Nat) : Prop := ∃ e ∈ s.eng.graphs, e.1 ≠ k ∧ e.2.slot = some j ∧ e.2.area = g.area ∧
      (s.launch e.2.launch).ctx = l.ctx
    let at_ := g.area + BitVec.ofNat 64 (j * (64 + 256 * g.nodes))
    l.tally.forced = false → l.complete = false → j < g.slots → ¬ taken j → (∀ i, i < j → taken i) →
    g.image.length = 64 + 256 * g.nodes → Writes s l.ctx at_ g.image.length pa pte →
    ∃ t, exec (.graphAccept k) s = .next t ∧ StoresAt s t pte pa g.image ∧ kGet? t.eng.graphs k = some { g with slot := some j } ∧
      (∀ i, i ≠ k → kGet? t.eng.graphs i = kGet? s.eng.graphs i) ∧ StoresOnly s t) ∧
  (∀ (s : State) (k i j : Nat) (g : Graph) (b : List Byte), kGet? s.eng.graphs k = some g → g.slot = some j → i < g.nodes →
    (kGet g.states i).state = 0 →
    let l := s.launch g.launch
    l.admissibleAt ≠ none → l.tally.forced = false → l.complete = false →
    ReadsLong s l.ctx (g.area + BitVec.ofNat 64 (j * (64 + 256 * g.nodes)) + BitVec.ofNat 64 (64 + 256 * i)) 256 b →
    let r := b.take 128
    let before (n : Nat) : Prop := ∃ m, m < 4 ∧ n = fieldN b (128 + 2 * m) 2 ∧ n ≠ 0xFFFF
    let dead (n : Nat) : Prop := (kGet g.states n).state = 3 ∨
      (kGet g.states n).state = 2 ∧ ((kGet g.states n).status = 2 ∨ (kGet g.states n).code = 0x1A)
    ((∃ n, before n ∧ dead n) → ∃ t, exec (.graphNodeAccept k i) s = .next t ∧ EngineOnly s t ∧
      kGet? t.eng.graphs k = some { g with states := kSet g.states i ⟨3, 0, 0, 0⟩ }) ∧
    ((∀ n, before n → (kGet g.states n).state = 2 ∧ ¬ dead n) → ∀ refused, (refused = none → ∃ p q h, s.recordGot324 l.ctx g.priv r (decodeRec r) = .ok p q h) →
      (∀ c, refused = some c → s.recordGot324 l.ctx g.priv r (decodeRec r) = .code c) →
      ∃ t, exec (.graphNodeAccept k i) s = .next t ∧ Accepted t s.nextNum l.ctx l.cls (.node k i) r refused ∧
        EngineOnly s t ∧ t.eng.lastNum = s.nextNum ∧
        kGet? t.eng.graphs k = some { g with states := kSet g.states i ⟨1, s.nextNum, 0, 0⟩ }))

/-- R25 to R29, R335, R336: the next gang of the launch first in the order of placement takes cores with room, each block a
core and each of its warps the slot given, and with its first gang its timetable entries start and links narrower than the width in force die (log 46); a launch whose gang is larger than any die is refused with 0x17; a block alone
goes to the core with room that has the fewest occupied slots, of equals the lowest in logical number. -/
def Sys2Proof.Claims.BlocksAreAdmitted : Prop :=
  (∀ (s : State) (num : Nat) (l : Launch) (slots : List (List Nat)) (cs : List Nat), kGet? s.eng.launches num = some l →
    placeable l = true → l.saved = [] → l.placed < tasksOf l →
    ¬ (l.placed = 0 ∧ confined l.record = true ∧ s.largestDie < count2 l) →
    s.pickCores num (nextOrdinals l, List.range (count2 l)) = some cs →
    let u := s.reserveFor num (nextOrdinals l)
    (∀ c ∈ cs, u.roomOn num c = true) → u.firstInOrder num = true →
    (∀ b, b < count2 l → u.slotsOk l.record (count1 l) (cs.getD b 0) (slots.getD b []) = true) →
    ∃ t, exec (.blockAdmission num slots) s = .next (if l.placed = 0 then (t.startEntries num).sweepLinks else t) ∧
      (∀ b, b < count2 l → Spawned t (s.nextId + b * (count1 l + 1)) num l (taskIndex l (l.placed + b)) b (cs.getD b 0)
        (slots.getD b [])) ∧
      (t.launch num).placed = l.placed + count2 l ∧ kGet? t.eng.reserved num = none ∧
      (t.launch num).map = (if l.map = [] then s.coreMap else l.map) ∧
      (l.placed = 0 → (t.launch num).minWidth = s.mgmt.settings.minWidth ∧ (t.launch num).d1 = s.mgmt.settings.d1 ∧
        (t.launch num).d2 = s.mgmt.settings.d2 ∧ (t.launch num).ilim = s.mgmt.settings.ilim) ∧
      kGet t.eng.rrNext l.effective = (s.queueOf l + 1) % 17 ∧ (∀ c, c ≠ l.effective → kGet? t.eng.rrNext c = kGet? s.eng.rrNext c) ∧
      { t with blocks := s.blocks, warps := s.warps, eng := s.eng, nextId := s.nextId } = s) ∧
  (∀ (s : State) (num : Nat) (l : Launch) (slots : List (List Nat)), kGet? s.eng.launches num = some l →
    placeable l = true → l.saved = [] → l.placed = 0 → 0 < tasksOf l → confined l.record = true → s.largestDie < count2 l →
    ∃ t, exec (.blockAdmission num slots) s = .next t ∧ t.launch num = { l with refused := some 0x17 } ∧
      { t with eng := s.eng } = s) ∧
  (∀ (s : State) (num c : Nat) (ts : List Nat), modeDet (s.launch num).record.mode = 0 →
    s.pickCores num (ts, [0]) = some [c] → c ∈ s.coreMap ∧ s.fitsOn num c = true ∧
    ∀ d ∈ s.coreMap, s.fitsOn num d = true → s.slotCount c < s.slotCount d ∨
      s.slotCount c = s.slotCount d ∧ s.coreMap.idxOf c ≤ s.coreMap.idxOf d)

/-- R327, R330: a launch that is over, with every access acknowledged, ends with its status and code; its completion record is written, or joins the ring of
the queue it came from; its pennants are raised, after the record, unless it was refused, force-reset, diverged or failed its
digest; and what it held is given back. A ring's next record goes into its slot once the host has set byte 0 there to 0, and
the raises of its launch follow. -/
def Sys2Proof.Claims.LaunchesEndAndReport : Prop :=
  (∀ (s : State) (num : Nat) (l : Launch), EndsNow s num l →
    let status := endStatus l (endCode l)
    let bs := completionBytes num l status (endCode l)
    bs.length = 64 ∧
    (∀ c, l.refused = some c → status = 2 ∧ endCode l = c) ∧
    (l.refused = none → l.tally.forced = true → status = 3 ∧ endCode l = 0x1A) ∧
    (l.refused = none → l.tally.forced = false → l.tally.diverged = true → status = 3 ∧ endCode l = 0x14) ∧
    (l.refused = none → l.tally.forced = false → l.tally.diverged = false → l.record.digc = true →
      l.tally.digest ≠ l.record.refDigest → status = 3 ∧ endCode l = 0x13) ∧
    (l.refused = none → l.tally.forced = false → l.tally.diverged = false →
      (l.record.digc = true → l.tally.digest = l.record.refDigest) → l.tally.killedCode = 0 → l.tally.copyCard = none →
      status = 1 ∧ endCode l = 0) ∧
    ofBytes (bs.take 1) = status ∧ (endCode l < 256 → ofBytes ((bs.drop 1).take 1) = endCode l) ∧
    (num < 2 ^ 32 → ofBytes ((bs.drop 4).take 4) = num) ∧ ofBytes ((bs.drop 8).take 8) = l.tally.killedWid.toNat ∧
    ofBytes ((bs.drop 16).take 8) = l.tally.killedPc.toNat ∧ ofBytes ((bs.drop 24).take 8) = l.tally.digest.toNat ∧
    (∀ pa pte, l.record.completion ≠ 0 → l.record.completion.toNat % 64 = 0 → (raiseHeld status (endCode l) = true ∨ l.raises = []) →
      (∀ r ∈ l.raises, ∀ a, s.check l.ctx r.1 a ≠ .away) → (∀ r ∈ l.raises, ∀ p q, s.check l.ctx r.1 2 = .here p q →
        s.poisoned p 8 = false) →
      s.check l.ctx l.record.completion 1 = .here pa pte →
      ∃ t, exec (.launchCompletion num) s = .next t ∧ StoresAt s t pte pa bs ∧ HasEnded s t num) ∧
    (∀ r pa pte, l.record.completion = 0 → raiseHeld status (endCode l) = false → l.raises = [r] →
      (∀ q, l.source = .host q → (s.queue q).ring = 0) →
      (∀ a, a = 1 ∨ a = 2 → s.check l.ctx r.1 a = .here pa pte) → s.poisoned pa 8 = false →
      ∃ t, exec (.launchCompletion num) s = .next t ∧ HasEnded s t num ∧
        StoresAt s t pte pa (toBytes 8 (if r.2.1 then BitVec.ofNat 64 (ofBytes (readBytes s.mem pa 8)) + r.2.2
          else r.2.2).toNat)) ∧
    (∀ q x, l.record.completion = 0 → l.source = .host q → kGet? s.eng.queues q = some x → x.ring ≠ 0 →
      ∃ t, exec (.launchCompletion num) s = .next t ∧ HasEnded s t num ∧ t.mem = s.mem ∧
        t.queue q = { x with pending := x.pending ++ [⟨l.ctx, bs, if raiseHeld status (endCode l) then [] else l.raises, 0⟩] })) ∧
  (∀ (s : State) (q : Nat) (x : HostQueue) (r : RingRec) (rest : List RingRec) (pa : Nat) (pte : W64),
    kGet? s.eng.queues q = some x → x.pending = r :: rest → r.written = 0 → x.ring.toNat % 64 = 0 →
    s.check r.ctx (x.ring + BitVec.ofNat 64 (64 * (x.completed % 2 ^ x.size))) 1 = .here pa pte →
    (s.byteAt pa = 0 → (∀ e ∈ r.raises, ∀ a, s.check r.ctx e.1 a ≠ .away) →
      (∀ e ∈ r.raises, ∀ p w, s.check r.ctx e.1 2 = .here p w → s.poisoned p 8 = false) →
      ∃ t, exec (.completionRingWrite q) s = .next (r.raises.foldl (fun u e => u.raisePennant r.ctx e) t) ∧
        StoresAt s t pte pa r.bytes ∧ t.queue q = { x with pending := rest, completed := x.completed + 1 } ∧
        StoresOnly s t) ∧
    (s.byteAt pa ≠ 0 → exec (.completionRingWrite q) s = .next s))

/-- R25 to R29, R327, R330, R334 to R336: graphs are copied and their nodes accepted in order; blocks are admitted with fresh
warps where there is room; launches that are over end with their status, report it, raise their pennants and give back what
they held.
Where it rests on the model's own choices, they are those of logs 9, 28, 46 and 47. -/
def Obligations.LaunchesArePlacedAndReported : Prop :=
  Sys2Proof.Claims.GraphsAreInstantiated ∧ Sys2Proof.Claims.BlocksAreAdmitted ∧ Sys2Proof.Claims.LaunchesEndAndReport

namespace Sys2Proof.Claims

/-! ## Pre-emption -/

/-- The warp at key `w` is marked as stopped if its block is being stopped and it is at a safe point, and is as before if
not (R195). -/
def StopsAtSafe (v t : State) (victim w : Nat) (x : Warp) : Prop :=
  t.warp w = if x.launch = victim ∧ v.stopping x.block = true ∧ v.atSafe w = true then { x with stopped := true } else x

/-- A block that can be saved now: every warp of its gang has stopped, its records, loops and stamped stores are at their
boundaries, its launch's slots on the core are written back, the absent registers it saves can be read, and its record fits the
save area (R194, R196, R240). -/
structure SavesNow (s : State) (bk : Nat) (b : Block) : Prop where
  block : kGet? s.blocks bk = some b
  live : b.completed = false ∧ b.unsavable = false
  stop : s.stopping bk = true ∧ s.gangStopped bk = true
  ready : s.saveReady bk = true
  fits : s.saveFits bk = true
  slots : ∀ e ∈ (s.core b.pcore).slots, e.2.loaded = true → e.2.owner ≠ b.launch
  regs : s.saveLacks bk = none
  launch : (kGet? s.eng.launches b.launch).isSome

/-- The gang of a launch's first saved block. -/
def gangSaved (l : Launch) : List Saved := l.saved.filter fun c => some c.block.gang == l.saved.head?.map (·.block.gang)

/-- A saved block can be put back: it is of this launch, has a warp that has not ended, no warp of it was killed since, no
MLOOP card of its record `b` is to be issued again, and no store of it is to be performed (R171, R200). -/
structure PutBack (s : State) (num : Nat) (l : Launch) (e : Saved) (core : Nat) (b : List Byte) : Prop where
  mine : e.block.launch = num ∧ e.kills = [] ∧ e.block.completed = false
  alive : ∃ w, w < count1 l ∧ goneWarp e.block w = false
  loops : ∀ i, i < e.warps.length →
    let q := blockFrom l e.block s.coreMap core e.warps.length b
    let r := (b.drop (scratchOff q + l.record.scratch + i * warpLen l.record)).take (warpLen l.record)
    fieldN r 0x260 8 = 0 ∧ (modeCtxf l.record.mode = false ∨ fieldN r (2048 + 128 * l.record.vregs) 8 = 0)

end Sys2Proof.Claims

/-- R193, R195, R338: a launch that is let pre-empt takes as victims the running launches of higher class number, the highest
first and of equals the most recently admitted, until its gang fits without them; rung 1 begins on the cores that lack room;
when D1 ends there rung 2 begins with the safe points of the victim's table, and its warps at safe points stop. A warp that waits at
BWAIT or YIELD.C is at one, its single-step trap to come (R203). -/
def Sys2Proof.Claims.VictimsAreStopped : Prop :=
  (∀ (s : State) (l : Launch), (s.eng.launches.map (·.1)).Nodup →
    (∀ v, v ∈ s.victims l ↔ ∃ e ∈ s.eng.launches, e.1 = v ∧ e.2.complete = false ∧ l.effective < e.2.effective ∧
      ∃ b ∈ s.blocks, b.2.launch = v ∧ b.2.completed = false) ∧
    (s.victims l).Pairwise fun u v => (s.launch v).effective < (s.launch u).effective ∨
      (s.launch v).effective = (s.launch u).effective ∧ (s.launch v).admitted ≤ (s.launch u).admitted) ∧
  (∀ (s : State) (num k : Nat) (l : Launch) (g : List Nat × List Nat) (cs : List Nat), kGet? s.eng.launches num = some l →
    waitingTasks l = some g → placeable l = true →
    l.effective ≤ (if l.placed = 0 then s.mgmt.settings.preCls else l.preCls) →
    (∀ e ∈ s.eng.preempts, e.2.by_ = num → s.blockOn e.2.victim e.2.core = false) →
    (∀ e ∈ l.saved, s.gangResident num e.block.gang = false) → s.canPlace num g = false →
    k < (s.victims l).length → s.coresWithout num g ((s.victims l).take (k + 1)) = some cs →
    (∀ j, j < k → s.coresWithout num g ((s.victims l).take (j + 1)) = none) →
    ∃ t, exec (.preemptStart num) s = .next t ∧
      (∀ v c, (∃ i, s.nextId ≤ i ∧ i < t.nextId ∧
          kGet? t.eng.preempts i = some ⟨v, c, 1, (s.die (c / 44)).count, num, []⟩) ↔
        c ∈ cs ∧ s.fitsOn num c = false ∧ v ∈ (s.victims l).take (k + 1) ∧ s.blockOn v c = true) ∧
      (∀ i, i < s.nextId → kGet? t.eng.preempts i = kGet? s.eng.preempts i) ∧
      (1 < l.cls → t.cores = s.cores ∧ t.dies = s.dies) ∧
      (∀ c q, l.cls ≤ 1 → kGet? s.cores c = some q → q.state = .scanning → (t.core c).signalled = true) ∧
      (∀ d q, l.cls ≤ 1 → d < 4 → kGet? s.dies d = some q → (t.die d).signals = q.signals ++ [q.count]) ∧
      { t with eng := s.eng, nextId := s.nextId, cores := s.cores, dies := s.dies } = s) ∧
  (∀ (s u : State) (victim : Nat) (ps : List SafePoint), s.safeGot victim = .points ps u →
    let due (e : Preempt) : Prop := e.victim = victim ∧ e.rung = 1 ∧ s.blockOn victim e.core = true ∧
      e.since + (s.launch victim).d1 ≤ (s.die (e.core / 44)).count
    (∃ e ∈ s.eng.preempts, due e.2) →
    ∃ t, exec (.rung2Stop victim) s = .next t ∧
      (∀ i e, kGet? s.eng.preempts i = some e →
        (due e → kGet? t.eng.preempts i = some { e with rung := 2, since := (s.die (e.core / 44)).count, safe := ps }) ∧
        (¬ due e → kGet? t.eng.preempts i = some e)) ∧
      (let v := { u with eng := t.eng };
        ∀ w x, kGet? s.warps w = some x → (∀ e ∈ s.warps, e.1 = w → e.2 = x) → StopsAtSafe v t victim w x) ∧
      t.mem = s.mem) ∧
  (∀ (s : State) (victim : Nat),
    (∀ e ∈ s.eng.preempts, ¬ (e.2.victim = victim ∧ e.2.rung = 1 ∧ s.blockOn victim e.2.core = true ∧
      e.2.since + (s.launch victim).d1 ≤ (s.die (e.2.core / 44)).count)) →
    ∃ t, exec (.rung2Stop victim) s = .next t ∧
      (∀ w x, kGet? s.warps w = some x → (∀ e ∈ s.warps, e.1 = w → e.2 = x) → StopsAtSafe s t victim w x) ∧
      { t with warps := s.warps } = s) ∧
  (∀ (s : State) (w : Nat), let x := s.warp w;
    x.running = none → x.queue = [] →
    (s.atSafe w = true ↔
      ((∃ o, x.wait = .bwait o) ∨ ∃ o p, x.wait = .yield o p) ∧ x.woken = false ∧ (∀ f, x.pend = some f → f.sstep = true) ∨
      x.pend = none ∧ ((∃ p, x.wait = .parked p) ∨
        (x.wait = .none ∧ x.kvDone = none ∧ ∃ p ∈ s.safeOf x.block, p.lane = false ∧
          p.pc = (x.pc - (s.launch x.launch).record.sbase).toNat))))

/-- R196 to R200, R212: a block all of whose gang has stopped is written to the next place of the save area and leaves its core;
a victim that D2 finds not stopped, or that its save area does not hold, has every launch of its context force-reset, those that
LAUNCH has read among them, its records that have not begun or wait for repair dropped; the saved
blocks of a gang take cores with room again, with their scalar registers, masks, PCs and scratchpads from their records and
their lane registers absent. -/
def Sys2Proof.Claims.BlocksAreSavedAndResumed : Prop :=
  (∀ (s : State) (bk pa : Nat) (pte : W64) (b : Block), SavesNow s bk b →
    let l := s.launch b.launch
    let bs := s.blockRecord bk
    let va := saveBase l.record + BitVec.ofNat 64 (s.saveAt b.launch)
    Writes s l.ctx va bs.length pa pte →
    ∃ t, exec (.blockSave bk) s = .next t ∧ StoresAt s t pte pa bs ∧ kGet? t.blocks bk = none ∧
      (∀ e, e ∈ t.warps ↔ e ∈ s.warps ∧ e.2.block ≠ bk) ∧ (∀ k, k ≠ bk → kGet? t.blocks k = kGet? s.blocks k) ∧
      (t.launch b.launch).saved = l.saved ++ [⟨bk, va, bs.length, b, s.warpsOf bk, []⟩] ∧
      (t.launch b.launch).tally.preempts = min 65535 (l.tally.preempts + 1) ∧
      noReads { t with mem := s.mem, clean := s.clean, eng := s.eng, warps := s.warps, jobs := s.jobs, blocks := s.blocks } =
        noReads s ∧
      ofBytes (bs.take 8) = b.index.toNat ∧
      (∀ a, a < l.record.scratch → bs[scratchOff b + a]? = some (spGet b.scratch a)) ∧
      (∀ w x rest, s.warpsOf bk = (w, x) :: rest →
        let r := bs.drop (scratchOff b + l.record.scratch)
        (∀ n, n < 64 → ofBytes ((r.drop (8 * n)).take 8) = (spGet x.s n).toNat) ∧
        (∀ n, n < 16 → ofBytes ((r.drop (0x200 + 4 * n)).take 4) = (spGet x.m n).toNat) ∧
        ofBytes ((r.drop 0x240).take 8) = x.pc.toNat ∧ ofBytes ((r.drop 0x648).take 8) = x.rep.fault.toNat ∧
        ofBytes ((r.drop 0x668).take 8) = x.rep.fw0.toNat ∧ ofBytes ((r.drop 0x670).take 8) = x.rep.fw1.toNat ∧
        ofBytes ((r.drop 0x678).take 8) = x.rep.fw2.toNat)) ∧
  (∀ (s : State) (victim : Nat) (l : Launch), kGet? s.eng.launches victim = some l →
    let late (bk : Nat) : Prop := ∃ e ∈ s.eng.preempts, e.2.victim = (s.block bk).launch ∧ e.2.rung = 2 ∧
      e.2.core ∈ s.gangCores bk ∧ e.2.since + l.d2 ≤ (s.die (e.2.core / 44)).count
    let stuck := ∃ b ∈ s.blocks, b.2.launch = victim ∧ b.2.completed = false ∧ late b.1 ∧
      (s.gangStopped b.1 = false ∨ s.saveFits b.1 = false ∨ b.2.unsavable = true)
    (stuck → ∃ t, exec (.forcedReset victim) s = .next t ∧
      (∀ n m, kGet? s.eng.launches n = some m → m.ctx = l.ctx → m.complete = false →
        (t.launch n).tally.forced = true ∧ (t.launch n).saved = []) ∧
      (∀ e, e ∈ t.warps ↔ e ∈ s.warps ∧ ¬ ((s.launch e.2.launch).ctx = l.ctx ∧ (s.launch e.2.launch).complete = false)) ∧
      (∀ e ∈ t.jobs, (s.launch e.2.launch).ctx = l.ctx → (s.launch e.2.launch).complete = false →
        (e.2.started = true ∨ e.2.mloop = true) ∧ poisonPark e.2.park = false) ∧
      (∀ q ∈ t.eng.accepted, q.ctx ≠ l.ctx) ∧ (∀ q ∈ t.eng.device, q.ctx = l.ctx → q.taken.forced = true) ∧
      ((∀ e ∈ s.eng.launches, e.2.entries = []) → t.mem = s.mem)) ∧
    (¬ stuck → exec (.forcedReset victim) s = .next s)) ∧
  (∀ (s : State) (num : Nat) (l : Launch) (g : List Nat × List Nat) (cs : List Nat) (slots : List (List Nat))
      (rec : Nat → List Byte), kGet? s.eng.launches num = some l → placeable l = true → waitingTasks l = some g →
    let mine := gangSaved l
    mine ≠ [] → (∀ e ∈ s.blocks, e.2.launch = num → some e.2.gang = l.saved.head?.map (·.block.gang) → e.2.completed = true) →
    s.pickCores num g = some cs → mine.length ≤ cs.length → mine.length ≤ slots.length →
    let u := s.reserveFor num g.1
    (∀ c ∈ cs, u.roomOn num c = true) → u.firstInOrder num = true →
    (∀ i e, mine[i]? = some e → u.slotsOk l.record e.warps.length (cs.getD i 0) (slots.getD i []) = true ∧
      u.coreConts (cs.getD i 0) + e.block.conts.length ≤ 1024 ∧ ReadsLong s l.ctx e.addr e.len (rec i) ∧ 
      PutBack s num l e (cs.getD i 0) (rec i)) →
    (mine.map (·.key)).Nodup → ((mine.flatMap (·.warps)).map (·.1)).Nodup →
    ∃ t, exec (.blockResume num slots) s = .next t ∧ t.mem = s.mem ∧
      (t.launch num).saved = l.saved.filter (fun c => some c.block.gang != l.saved.head?.map (·.block.gang)) ∧
      kGet? t.eng.reserved num = none ∧
      ∀ i e, mine[i]? = some e → ∃ q, kGet? t.blocks e.key = some q ∧ q.launch = num ∧ q.pcore = cs.getD i 0 ∧
        q.gang = e.block.gang ∧ q.index = e.block.index ∧
        let at_ := scratchOff q + l.record.scratch
        (∀ a, a < l.record.scratch → spGet q.scratch a = ((rec i).drop (scratchOff q)).getD a 0) ∧
        ∀ j w old, e.warps[j]? = some (w, old) → ∃ x, kGet? t.warps w = some x ∧
          let b := ((rec i).drop (at_ + j * warpLen l.record)).take (warpLen l.record)
          (∀ r, 1 ≤ r → r < 64 → spGet x.s r = BitVec.ofNat 64 (fieldN b (8 * r) 8)) ∧ spGet x.s 0 = 0 ∧
          (∀ m, 1 ≤ m → m < 16 → spGet x.m m = BitVec.ofNat 32 (fieldN b (0x200 + 4 * m) 4)) ∧
          x.pc = BitVec.ofNat 64 (fieldN b 0x240 8) ∧ x.v = [] ∧ x.absent = List.range l.record.vregs ∧
          x.slot = (slots.getD i []).getD j 0 ∧ x.widx = old.widx ∧ x.stopped = false)

/-- R193 to R200, R338: pre-emption chooses its victims, stops them at safe points, saves their blocks or force-resets their
context, and puts saved blocks back.
Where it rests on the model's own choices, they are those of logs 10, 17 and 30. -/
def Obligations.PreemptionSavesAndResumes : Prop :=
  Sys2Proof.Claims.VictimsAreStopped ∧ Sys2Proof.Claims.BlocksAreSavedAndResumed

namespace Sys2Proof.Claims

/-! ## The host and the steward -/

/-- Mailbox `mb` of a device that is up holds a command that has not been answered, with its 240 argument bytes (R389). -/
structure Told (s : State) (mb code : Nat) (a : List Byte) : Prop where
  rung : readBytes (s.mailbox mb) 0 4 ≠ readBytes (s.mailbox mb) 4 4
  code : ofBytes (readBytes (s.mailbox mb) 8 2) = code
  args : a = readBytes (s.mailbox mb) 16 240

/-- Every argument byte outside the ranges named is 0. -/
def Clean (a : List Byte) (named : List (Nat × Nat)) : Prop :=
  ∀ i, i < 240 → (∀ r ∈ named, i < r.1 ∨ r.1 + r.2 ≤ i) → a.getD i 0 = 0

/-- A command has ended in state `u`: status, result length, result and done are in its mailbox, the rest of the mailbox and of
the machine are as in `u` (R389). -/
structure Answered (mb : Nat) (u t : State) (status : Nat) (result : List Byte) : Prop where
  done : readBytes (t.mailbox mb) 4 4 = readBytes (u.mailbox mb) 0 4
  status : ofBytes (readBytes (t.mailbox mb) 10 2) = status
  len : ofBytes (readBytes (t.mailbox mb) 12 4) = result.length
  body : readBytes (t.mailbox mb) 256 result.length = result
  kept : ∀ i, i < 4 ∨ i = 8 ∨ i = 9 ∨ (16 ≤ i ∧ i < 256) ∨ 256 + result.length ≤ i →
    spGet (t.mailbox mb) i = spGet (u.mailbox mb) i
  rest : t.setMailbox mb (u.mailbox mb) = u

/-- The commands of mailbox 0 that name their argument bytes, with their codes (R390). -/
def commandRows : List (Instr × Nat × List (Nat × Nat)) :=
  [(.setting, 0x01, [(0, 16)]), (.queue, 0x02, [(0, 19), (24, 8)]), (.window, 0x04, [(0, 25)]),
   (.framePool, 0x05, [(0, 2), (8, 12)]), (.tagStore, 0x06, [(0, 1), (8, 16)]), (.tagRegister, 0x07, [(0, 1), (8, 72)]),
   (.debug, 0x08, [(0, 4), (8, 11)]), (.poisonRing, 0x09, [(0, 12)]), (.fuseAdvance, 0x0A, [(0, 4)])]

/-- The settings without an index: number, allowed values, the value that a change sets, and the change (R391). -/
def settingRows : List (Nat × (Nat → Prop) × (Settings → Nat) × (Settings → Nat → Settings)) :=
  [(1, (· ≤ 1), (·.nextEcc), fun t v => { t with nextEcc := v }),
   (2, (fun v => v = 16 ∨ v = 8 ∨ v = 4 ∨ v = 2 ∨ v = 1), (·.minWidth), fun t v => { t with minWidth := v }),
   (3, (fun v => 1200 ≤ v ∧ v ≤ 2800), (·.capW), fun t v => { t with capW := v }),
   (4, (fun v => 100 ≤ v ∧ v ≤ 1000000), (·.ilim), fun t v => { t with ilim := v }),
   (5, (fun v => 1000 ≤ v ∧ v ≤ 10000000), (·.d1), fun t v => { t with d1 := v }),
   (6, (fun v => 1000 ≤ v ∧ v ≤ 10000000), (·.d2), fun t v => { t with d2 := v }),
   (7, (· ≤ 6), (·.preCls), fun t v => { t with preCls := v }),
   (10, (· ≤ 0xFFE), (·.nextDeviceId), fun t v => { t with nextDeviceId := v })]

/-- The state with its settings changed. -/
def withSettings (s : State) (x : Settings) : State := { s with mgmt := { s.mgmt with settings := x } }

/-- Steps 1 to 4 of bring-up succeed: as the inputs say, and the image's security version is not below the fused counter
(R386). -/
def StepsPass (s : State) (verdicts : List Bool) : Prop :=
  (∀ i, i < 4 → verdicts.getD i false = true) ∧ s.mgmt.fuse.toNat ≤ s.mgmt.secVersion.toNat

/-- Bring-up succeeds: steps 1 to 4 do, and step 5 on at least one compute die (R386). -/
def BringsUp (s : State) (verdicts : List Bool) : Prop :=
  StepsPass s verdicts ∧ ∃ d, d < 4 ∧ verdicts.getD (4 + d) false = true

/-- The device is up with the dies that passed, and the least latency of every link is measured (R386, R391). -/
structure Up (t : State) (verdicts : List Bool) (map : List Nat) : Prop where
  booted : t.mgmt.booted = true ∧ t.mgmt.recovery = false
  measured : ∀ k, (k < 7 ∨ 16 ≤ k ∧ k < 22 ∨ ∃ a b, a < b ∧ b < 6 ∧ k = 0x100 + 8 * a + b) →
    ∃ v, kGet? t.mgmt.settings.latency k = some v ∧ 1 ≤ v ∧ v ≤ 100000
  cores : t.coreMap = map.filter fun c => decide (c / 44 < 4) && verdicts.getD (4 + c / 44) false

/-- The host link carries the host's accesses, and the device is not in recovery. -/
def HostUp (s : State) : Prop := (kGet s.fab.links 6).dead = false ∧ s.mgmt.recovery = false

end Sys2Proof.Claims

/-- R319, R328, R386, R388, R389: what the host's accesses do. A write to the register window reaches only producer fields,
one to a mailbox only its doorbell, command and argument bytes; a reserved offset leaves a violation record and is answered
XLATE; a read below 0x3000 is answered; a window that admits an access performs it, packet by packet, and a read's bytes are its
response; power-on brings the device up with the dies that pass, or leaves it in recovery. -/
def Sys2Proof.Claims.HostReachesTheDevice : Prop :=
  (∀ (s : State) (off : Nat) (bytes : List Byte), HostUp s → off + bytes.length ≤ 0x3000 →
    ∃ t, exec (.hostRegisterWrite off bytes) s = .next t ∧
      (∀ q x, q < 16 → kGet? s.eng.queues q = some x → (off + bytes.length ≤ 32 * q + 16 ∨ 32 * q + 20 ≤ off ∨ 0x1000 ≤ off) →
        t.queue q = x) ∧
      (∀ q x, kGet? s.eng.queues q = some x → q < 16 → off = 32 * q + 16 → bytes.length = 4 →
        (t.queue q).producer = BitVec.ofNat 32 (ofBytes bytes) ∧ (t.queue q).consumer = x.consumer ∧
        (t.queue q).enable = (x.enable && decide ((BitVec.ofNat 32 (ofBytes bytes) - x.consumer).toNat ≤ 2 ^ x.size))) ∧
      (∀ i, spGet t.mgmt.mailbox0 i = if 0x1000 ≤ off ∧ off < 0x2000 ∧ (i < 4 ∨ i = 8 ∨ i = 9 ∨ 16 ≤ i ∧ i < 256) ∧
        off - 0x1000 ≤ i ∧ i < off - 0x1000 + bytes.length then bytes.getD (i - (off - 0x1000)) 0 else spGet s.mgmt.mailbox0 i) ∧
      (∀ i, spGet t.mgmt.mailbox1 i = if 0x2000 ≤ off ∧ (i < 4 ∨ i = 8 ∨ i = 9 ∨ 16 ≤ i ∧ i < 256) ∧
        off - 0x2000 ≤ i ∧ i < off - 0x2000 + bytes.length then bytes.getD (i - (off - 0x2000)) 0 else spGet s.mgmt.mailbox1 i) ∧
      { t with
        eng := s.eng, banks := s.banks
        mgmt := { t.mgmt with mailbox0 := s.mgmt.mailbox0, mailbox1 := s.mgmt.mailbox1 } } = s) ∧
  (∀ (s : State) (off : Nat) (write : Bool) (len : Nat), HostUp s → off < 2 ^ 48 →
    (0x3000 ≤ off ∧ off < 2 ^ 40 ∨ 2 ^ 40 + 2 ^ 40 ≤ off) → (s.die 4).log.length < 256 →
    ∃ t, exec (.hostReservedAccess off write len) s = .next t ∧ t.mgmt.reply = some (cXLATE, []) ∧
      { t with dies := s.dies, mgmt := { t.mgmt with reply := s.mgmt.reply } } = s ∧
      t.die 4 = { s.die 4 with log := (s.die 4).log ++ [⟨BitVec.ofNat 64 off, 0xFFF, 6, cXLATE, 0xFFFFFFFF, 6,
        if write then 1 else 0, max 1 (min len 65535), BitVec.ofNat 64 (dieE (s.die 4))⟩] } ∧ ∀ d, d ≠ 4 → t.die d = s.die d) ∧
  (∀ (s : State) (off len : Nat), HostUp s → 0 < len → off + len ≤ 0x3000 →
    ∃ t bs, exec (.hostReservedAccess off false len) s = .next t ∧ t.mgmt.reply = some (0, bs) ∧ bs.length = len ∧
      { t with mgmt := { t.mgmt with reply := s.mgmt.reply } } = s ∧
      (∀ i, i < len → 0x200 ≤ off + i → off + i < 0x1000 → bs.getD i 0 = 0) ∧
      (∀ i, i < len → 0x1000 ≤ off + i → off + i < 0x2000 → bs.getD i 0 = spGet s.mgmt.mailbox0 (off + i - 0x1000)) ∧
      (∀ i, i < len → 0x2000 ≤ off + i → bs.getD i 0 = spGet s.mgmt.mailbox1 (off + i - 0x2000)) ∧
      (∀ q j, q < 16 → off = 32 * q + j → len = 4 →
        (j = 12 → ofBytes bs = (s.queue q).ctx % 2 ^ 32) ∧ (j = 16 → ofBytes bs = (s.queue q).producer.toNat) ∧
        (j = 20 → ofBytes bs = (s.queue q).consumer.toNat))) ∧
  (∀ (s : State) (win off : Nat) (data : List Byte) (w : Window) (pa : Nat) (pte : W64), HostUp s → win < 16 →
    kGet? s.mgmt.windows win = some w → w.valid = true → off + data.length ≤ w.len → off + data.length ≤ 2 ^ 36 →
    w.base.toNat % 65536 = 0 → s.mgmt.waits = [] → 0 < data.length →
    (w.w = true → Lies s w.ctx (w.base + BitVec.ofNat 64 off) data.length 1 pa pte →
      ∃ t, exec (.hostWindowAccess win off true data) s = .next t ∧ StoresAt s t pte pa data ∧ StoresOnly s t) ∧
    (w.r = true → Lies s w.ctx (w.base + BitVec.ofNat 64 off) data.length 0 pa pte → s.poisoned pa data.length = false →
      exec (.hostWindowAccess win off false data) s = .next { s with mgmt := { s.mgmt with
        reply := some (0, readBytes s.mem pa data.length) } })) ∧
  (∀ (s : State) (verdicts : List Bool), s.mgmt.booted = false → s.mgmt.recovery = false →
    (BringsUp s verdicts → ∃ t, exec (.powerOnBringUp verdicts) s = .next t ∧ Up t verdicts s.mgmt.map ∧ t.mem = s.mem ∧
      t.warps = s.warps ∧ ∀ d x, kGet? s.dies d = some x → (t.die d).released = (decide (4 ≤ d) || verdicts.getD (4 + d) false)) ∧
    (¬ StepsPass s verdicts → exec (.powerOnBringUp verdicts) s = .next { s with mgmt := { s.mgmt with recovery := true } }) ∧
    (StepsPass s verdicts → (∀ d, d < 4 → verdicts.getD (4 + d) false = false) →
      ∃ t, exec (.powerOnBringUp verdicts) s = .next t ∧ t.mgmt = { s.mgmt with recovery := true } ∧ t.coreMap = [] ∧
        (kGet t.banks 0x0414).severity ≠ 0 ∧ { t with mgmt := s.mgmt, coreMap := s.coreMap, banks := s.banks, draws := s.draws } = s))

/-- R389 to R391: a command of mailbox 0 whose unnamed argument bytes are not 0 ends BAD_ARGUMENT; each command otherwise does
what its row says and ends OK, with its result. FRAME_POOL ends BAD_ARGUMENT where the frames would exceed the memory that the error
code leaves usable, which is the model's choice (log 45). -/
def Sys2Proof.Claims.CommandsAreAnswered : Prop :=
  (∀ r ∈ commandRows, ∀ (s : State) (a : List Byte), s.mgmt.booted = true → Told s 0 r.2.1 a → ¬ Clean a r.2.2 →
    ∃ t, exec r.1 s = .next t ∧ Answered 0 s t 2 []) ∧
  (∀ (s : State) (a : List Byte), s.mgmt.booted = true → Told s 0 0x01 a → Clean a [(0, 16)] →
    let t := s.mgmt.settings
    let no := fieldN a 0 4
    let index := fieldN a 4 4
    let v := fieldN a 8 8
    (∀ r ∈ settingRows, no = r.1 → index = 0 →
      (r.2.1 v → ∃ u, exec .setting s = .next u ∧ Answered 0 (withSettings s (r.2.2.2 t v)) u 0 (toBytes 8 (r.2.2.1 t))) ∧
      (¬ r.2.1 v → ∃ u, exec .setting s = .next u ∧ Answered 0 s u 2 [])) ∧
    (no = 8 → 3 ≤ index → index ≤ 7 → 100 ≤ v → v ≤ 1000000 → ∃ u, exec .setting s = .next u ∧
      Answered 0 (withSettings s { t with ages := t.ages.set (index - 3) v }) u 0 (toBytes 8 (t.ages.getD (index - 3) 0))) ∧
    (no = 9 → index ≤ 6 → 1 ≤ v → v ≤ 100000 → ∃ u, exec .setting s = .next u ∧
      Answered 0 (withSettings s { t with latency := kSet t.latency index v }) u 0
        (toBytes 8 ((kGet? t.latency index).getD 1))) ∧
    (no = 0 ∨ 10 < no → ∃ u, exec .setting s = .next u ∧ Answered 0 s u 2 [])) ∧
  (∀ (s : State) (a : List Byte), s.mgmt.booted = true → Told s 0 0x02 a → Clean a [(0, 19), (24, 8)] →
    let q := fieldN a 0 4
    let ctx := fieldN a 4 4
    let cls := fieldN a 17 1
    ∀ x, kGet? s.eng.queues q = some x → q < 16 → kGet? s.mgmt.contexts ctx ≠ none → fieldN a 8 8 % 128 = 0 →
      4 ≤ fieldN a 16 1 → fieldN a 16 1 ≤ 16 → cls % 128 < 8 → fieldN a 18 1 ≤ 1 → fieldN a 24 8 % 64 = 0 →
      let ahead := fieldN a 18 1 = 1 ∧ 2 ^ fieldN a 16 1 < (x.producer - x.consumer).toNat
      let y : HostQueue := { x with
        ctx := ctx, base := BitVec.ofNat 64 (fieldN a 8 8), size := fieldN a 16 1, cls := cls % 8, priv := decide (128 ≤ cls)
        enable := decide (fieldN a 18 1 = 1), ring := BitVec.ofNat 64 (fieldN a 24 8) }
      (ctx = x.ctx ∨ x.enable = false ∧ x.producer = x.consumer →
        (¬ ahead → ∃ u, exec .queue s = .next u ∧ Answered 0 (s.setQueue q y) u 0 []) ∧
        (ahead → ∃ u v, exec .queue s = .next u ∧ Answered 0 v u 0 [] ∧ v.queue q = { y with enable := false } ∧
          (∀ p, p ≠ q → v.queue p = s.queue p) ∧ (kGet v.banks 0x0415).severity ≠ 0 ∧
          { v with eng := { v.eng with queues := s.eng.queues }, banks := s.banks } = s)) ∧
      (ctx ≠ x.ctx → (x.enable = true ∨ x.producer ≠ x.consumer) →
        ∃ u, exec .queue s = .next u ∧ Answered 0 s u 3 [])) ∧
  (∀ (s : State) (a : List Byte), s.mgmt.booted = true → Told s 0 0x03 a → Clean a [(0, 24)] → fieldN a 4 4 ≠ 0xFFFFFFFF →
    let ctx := fieldN a 4 4
    let busy := (∃ l ∈ s.eng.launches, l.2.ctx = ctx ∧ l.2.complete = false) ∨ 
      (∃ q ∈ s.eng.accepted ++ s.eng.device, q.ctx = ctx) ∨ ∃ q ∈ s.eng.queues, q.2.ctx = ctx ∧ q.2.enable = true
    (fieldN a 0 4 = 0 → ∃ u, exec .contextCreate s = .next u ∧ Answered 0 { s with mgmt := { s.mgmt with
      contexts := kSet s.mgmt.contexts ctx ⟨BitVec.ofNat 64 (fieldN a 8 8), BitVec.ofNat 64 (fieldN a 16 8)⟩ } } u 0 []) ∧
    (fieldN a 0 4 = 1 → kGet? s.mgmt.contexts ctx = none → ∃ u, exec .contextDestroy s = .next u ∧ Answered 0 s u 2 []) ∧
    (fieldN a 0 4 = 1 → kGet? s.mgmt.contexts ctx ≠ none → busy →
      ∃ u, exec .contextDestroy s = .next u ∧ Answered 0 s u 3 []) ∧
    (fieldN a 0 4 = 1 → kGet? s.mgmt.contexts ctx ≠ none → ¬ busy → ∃ u v, exec .contextDestroy s = .next u ∧
      Answered 0 v u 0 [] ∧ v.mgmt = { s.mgmt with contexts := v.mgmt.contexts } ∧
      (∀ c, kGet? v.mgmt.contexts c = if c = ctx then none else kGet? s.mgmt.contexts c) ∧
      (∀ d x, kGet? s.dies d = some x → v.die d = { x with energy := kErase x.energy ctx }) ∧
      { v with dies := s.dies, mgmt := s.mgmt } = s)) ∧
  (∀ (s : State) (a : List Byte), s.mgmt.booted = true → Told s 0 0x04 a → Clean a [(0, 25)] → fieldN a 0 4 < 16 →
    fieldN a 24 1 < 8 → fieldN a 8 8 % 65536 = 0 → fieldN a 16 8 ≤ 2 ^ 36 →
    let e : Window := ⟨fieldN a 4 4, BitVec.ofNat 64 (fieldN a 8 8), fieldN a 16 8, (fieldN a 24 1).testBit 0,
      (fieldN a 24 1).testBit 1, (fieldN a 24 1).testBit 2⟩
    (e.valid = true ∨ (∀ q ∈ s.mgmt.waits, q.win ≠ fieldN a 0 4) → ∃ u, exec .window s = .next u ∧
      Answered 0 { s with mgmt := { s.mgmt with windows := kSet s.mgmt.windows (fieldN a 0 4) e } } u 0 []) ∧
    (e.valid = false → (∃ q ∈ s.mgmt.waits, q.win = fieldN a 0 4) → exec .window s = .next s)) ∧
  (∀ (s : State) (a : List Byte), s.mgmt.booted = true → Told s 0 0x05 a → Clean a [(0, 2), (8, 12)] → fieldN a 0 1 < 4 →
    fieldN a 1 1 ≤ 1 →
    let new := (List.range (fieldN a 16 4)).map fun i => BitVec.ofNat 64 (ofBytes (readBytes s.host (fieldN a 8 8 + 8 * i) 8))
    let kept (d : Die) : Die := { d with frames := d.frames.filter fun f => decide (f ∉ new) }
    let D := fieldN a 0 1
    let d := kept (s.die D)
    let given := (s.dies.map fun e => (kept e.2).frames.length).sum + new.length
    let usable := (if s.mgmt.settings.ecc = 1 then 840 else 960) * 10 ^ 9
    (usable < 65536 * given → ∃ u, exec .framePool s = .next u ∧ Answered 0 s u 2 []) ∧
    (65536 * given ≤ usable → new.Nodup → (∀ f ∈ new, f.toNat % 65536 = 0 ∧ s.frameMapped f.toNat = false ∧
      ∀ e ∈ s.dies, f ∉ e.2.pool0 ∧ f ∉ e.2.pool1) →
      ∃ u v, exec .framePool s = .next u ∧ { v with dies := s.dies } = s ∧ (∀ x, x ≠ D → v.die x = kept (s.die x)) ∧
        (fieldN a 1 1 = 0 → Answered 0 v u 0 (toBytes 4 (d.pool0.length + new.length)) ∧
          v.die D = { d with pool0 := d.pool0 ++ new, frames := d.frames ++ new }) ∧
        (fieldN a 1 1 = 1 → Answered 0 v u 0 (toBytes 4 (d.pool1.length + new.length)) ∧
          v.die D = { d with pool1 := d.pool1 ++ new, frames := d.frames ++ new }))) ∧
  (∀ (s : State) (a : List Byte), s.mgmt.booted = true → Told s 0 0x06 a → Clean a [(0, 1), (8, 16)] → fieldN a 0 1 < 4 →
    fieldN a 16 8 % 64 = 0 →
    (s.tier2Move (fieldN a 0 1) = false → ∃ u, exec .tagStore s = .next u ∧ Answered 0 (s.setDie (fieldN a 0 1)
      { s.die (fieldN a 0 1) with tagBase := BitVec.ofNat 64 (fieldN a 8 8), tagLen := fieldN a 16 8, tags := [] }) u 0 []) ∧
    (s.tier2Move (fieldN a 0 1) = true → ∃ u, exec .tagStore s = .next u ∧ Answered 0 s u 3 [])) ∧
  (∀ (s : State) (a : List Byte), s.mgmt.booted = true → Told s 0 0x07 a → Clean a [(0, 1), (8, 72)] → fieldN a 0 1 < 4 →
    let d := s.die (fieldN a 0 1)
    let at_ := BitVec.ofNat 64 (fieldN a 8 8)
    (∀ e ∈ s.dies, ∀ g ∈ e.2.tags, g.1 ≠ at_) →
    (64 * (d.tags.length + 1) ≤ d.tagLen → ∃ u, exec .tagRegister s = .next u ∧ Answered 0 (s.setDie (fieldN a 0 1) { d with
      tags := d.tags ++ [(at_, (List.range 16).map fun i => BitVec.ofNat 32 (fieldN a (16 + 4 * i) 4))] }) u 0 []) ∧
    (d.tagLen < 64 * (d.tags.length + 1) → ∃ u, exec .tagRegister s = .next u ∧ Answered 0 s u 4 [])) ∧
  (∀ (s : State) (a : List Byte), s.mgmt.booted = true → Told s 0 0x08 a → Clean a [(0, 4), (8, 11)] → fieldN a 16 1 ≤ 1 →
    fieldN a 17 1 ≤ 1 → fieldN a 18 1 ≤ 3 →
    let found := s.warps.find? fun e => e.2.launch == fieldN a 0 4 &&
      warpWid (s.block e.2.block) e.2.widx == BitVec.ofNat 64 (fieldN a 8 8)
    (found = none → ∃ u, exec .debug s = .next u ∧ Answered 0 s u 4 []) ∧
    (∀ w x, found = some (w, x) → ∃ u, exec .debug s = .next u ∧ Answered 0 (s.setWarp w { x with
      sstep := if (fieldN a 18 1).testBit 0 then decide (fieldN a 16 1 = 1) else x.sstep
      freeze := if (fieldN a 18 1).testBit 1 then decide (fieldN a 17 1 = 1) else x.freeze }) u 0 [])) ∧
  (∀ (s : State) (a : List Byte), s.mgmt.booted = true → Told s 0 0x09 a → Clean a [(0, 12)] → fieldN a 0 8 % 32 = 0 →
    ∃ u, exec .poisonRing s = .next u ∧ Answered 0 { s with mgmt := { s.mgmt with
      ringBase := BitVec.ofNat 64 (fieldN a 0 8), ringCtx := fieldN a 8 4 } } u 0 []) ∧
  (∀ (s : State) (a : List Byte), s.mgmt.booted = true → Told s 0 0x0A a → Clean a [(0, 4)] →
    (fieldN a 0 4 = s.mgmt.secVersion.toNat → ∃ u, exec .fuseAdvance s = .next u ∧
      Answered 0 { s with mgmt := { s.mgmt with fuse := BitVec.ofNat 32 (max s.mgmt.fuse.toNat s.mgmt.secVersion.toNat) } } u 0 []) ∧
    (fieldN a 0 4 ≠ s.mgmt.secVersion.toNat → ∃ u, exec .fuseAdvance s = .next u ∧ Answered 0 s u 2 []))

/-- R386, R387, R389, R390, R392, R394: a code that a mailbox does not accept ends BAD_COMMAND; RESET resets the device, keeps
memory and the counts, and brings it up again; the state summary and the attestation report are written to the host's memory
and change nothing else; a hot die is throttled, cools down, and at the limit shuts every launch down. -/
def Sys2Proof.Claims.StewardKeepsTheDevice : Prop :=
  (∀ (s : State) (mb c : Nat) (a : List Byte), s.mgmt.booted = true → mb ≤ 1 → Told s mb c a →
    (mb = 0 → c = 0 ∨ 0x0A < c ∧ c ≠ 0x0D) → (mb = 1 → c ≠ 0x0B ∧ c ≠ 0x0C) →
    ∃ t, exec (.badCommand mb) s = .next t ∧ Answered mb s t 1 []) ∧
  (∀ (s : State) (a : List Byte) (verdicts : List Bool), s.mgmt.booted = true → Told s 0 0x0D a → Clean a [] →
    (BringsUp s verdicts → ∃ t, exec (.reset verdicts) s = .next t ∧ Up t verdicts s.mgmt.map ∧
      Answered 0 (s.deviceReset.bringUp verdicts) t 0 [] ∧ t.warps = [] ∧ t.blocks = [] ∧ t.jobs = [] ∧
      t.eng = LaunchEng.reset ∧ t.mem = s.mem ∧ t.host = s.host ∧ t.failed = s.failed ∧ t.mgmt.contexts = [] ∧
      t.mgmt.windows = [] ∧ t.mgmt.fuse = s.mgmt.fuse ∧ t.mgmt.settings.deviceId = s.mgmt.settings.nextDeviceId ∧
      t.mgmt.settings.ecc = s.mgmt.settings.nextEcc ∧ t.mgmt.shutdown = s.mgmt.shutdown ∧ ∀ d, d < 6 → (t.die d).count = (s.die d).count ∧ (t.die d).queue = [] ∧
        (t.die d).hot = (s.die d).hot ∧ (t.die d).warm = (s.die d).warm) ∧
    (¬ BringsUp s verdicts → ∃ t, exec (.reset verdicts) s = .next t ∧ t.mgmt.recovery = true ∧ t.mgmt.booted = false ∧
      t.mem = s.mem ∧ t.warps = [])) ∧
  (∀ (s : State) (a : List Byte), HostUp s → Told s 1 0x0B a → Clean a [(0, 16)] →
    let buf := fieldN a 0 8
    ∃ t h rest, exec (.stateSummary 1) s = .next t ∧ Answered 1 { s with host := t.host } t 0 h ∧ h.length = 64 ∧
      t.host = writeBytes s.host buf (h ++ rest) ∧ h.take 6 = toBytes 4 0x4D534541 ++ toBytes 2 1 ∧
      (fieldN a 8 8 < 64 → rest = [] ∧ (h.getD 12 0).getLsbD 0 = true) ∧
      (s.mgmt.booted = false → rest = [] ∧ (h.getD 12 0).getLsbD 1 = true ∧ ofBytes ((h.drop 6).take 2) = 0)) ∧
  (∀ (s : State) (a : List Byte), s.mgmt.booted = true → HostUp s → Told s 1 0x0C a → Clean a [(0, 40)] →
    let buf := fieldN a 32 8
    ∃ t, exec (.attest 1) s = .next t ∧ Answered 1 { s with host := t.host } t 0 [] ∧
      readBytes t.host buf 8 = toBytes 4 0x54414541 ++ toBytes 2 1 ++ toBytes 2 s.mgmt.settings.deviceId ∧
      readBytes t.host (buf + 24) 16 = toBytes 8 s.mgmt.firmware.toNat ++ toBytes 4 s.mgmt.fuse.toNat ++
        toBytes 4 s.coreMap.length ∧
      readBytes t.host (buf + 104) 32 = a.take 32 ∧
      readBytes t.host (buf + 3072) 64 = edSign identitySeed (sha512 (readBytes t.host buf 3072)) ∧
      ∀ i, (i < buf ∨ buf + 3136 ≤ i) → spGet t.host i = spGet s.host i) ∧
  (∀ (s : State) (d : Nat), d < 4 →
    (∃ t, exec (.thermalThrottle d) s = .next t ∧ t.die d = { s.die d with hot := true, warm := (s.die d).warm || s.mgmt.shutdown } ∧ { t with dies := s.dies } = s ∧
      ∀ e, e ≠ d → t.die e = s.die e)) ∧
  (∀ (s : State) (d : Nat), d < 6 →
    ∃ t, exec (.thermalRecover d) s = .next t ∧ t.die d = { s.die d with hot := false, warm := false } ∧
      ((∃ e ∈ t.dies, e.2.hot = true ∨ e.2.warm = true) → t.mgmt = s.mgmt) ∧
      ((∀ e ∈ t.dies, e.2.hot = false ∧ e.2.warm = false) → t.mgmt = { s.mgmt with shutdown := false }) ∧
      (∀ e, e ≠ d → t.die e = s.die e) ∧ { t with dies := s.dies, mgmt := s.mgmt } = s) ∧
  (∀ s : State, (∃ e ∈ s.dies, e.2.hot = true) → ∃ t, exec .thermalShutdown s = .next t ∧ t.mgmt.shutdown = true ∧
    (∀ e ∈ t.dies, e.2.warm = true) ∧ (kGet t.banks 0x0414).severity ≠ 0 ∧
    (∀ n l, kGet? s.eng.launches n = some l → l.complete = false → (t.launch n).tally.forced = true) ∧
    (∀ e ∈ t.warps, ∀ l, kGet? s.eng.launches e.2.launch = some l → l.complete = true))

/-- R319, R328, R386 to R394: the host's accesses, the steward's commands and what it keeps of the device.
Where it rests on the model's own choices, they are those of logs 2, 7, 8, 16, 33, 45 and 49. -/
def Obligations.StewardAnswersTheHost : Prop :=
  Sys2Proof.Claims.HostReachesTheDevice ∧ Sys2Proof.Claims.CommandsAreAnswered ∧ Sys2Proof.Claims.StewardKeepsTheDevice

namespace Sys2Proof.Claims

/-! ## The machine as a whole -/

/-- The state of a turn: the listed turn is taken and its time has passed. -/
def turnState (s : State) (t : Turn) (rest : List Turn) : State := ({ s with turns := rest }).passTime t.ticks

/-- The stream of a warp can take this turn: nothing holds it, its partition chooses it, and its warp does not stop at a
pre-emption's safe point instead (R35, R36, R195). -/
structure TakesTurn (u : State) (w which : Nat) : Prop where
  free : u.mayIssue w which = true ∧ u.chosen w which = true
  runs : ¬ (u.stopping (u.warp w).block = true ∧ u.atSafe w = true) ∧ u.mirrorHolds w which = none

/-- The word of code at an address of a warp's context: it passes the checks with execute permission and is not poisoned
(R54). -/
structure CodeWord (u : State) (w : Nat) (va : W64) (word : W32) : Prop where
  found : ∃ pa pte, u.check (u.launch (u.warp w).launch).ctx va 3 = .here pa pte ∧ u.poisoned pa 4 = false ∧
    ofBytes (readBytes u.mem pa 4) = word.toNat

end Sys2Proof.Claims

/-- R40, R43, R53, R54, R268: a turn runs the instruction that its stream's words decode to. With the turn taken and its time passed,
step is exec of the decoded instruction at that state, its words known to it, followed by what goes with an issue; a path whose
ATTB was interrupted re-issues that as its next instruction (R268); an engine's step is exec of it; and what goes with an issue of a warp without a mirror that is not single-stepped is that the stream's
ready time starts anew and a lane issue is remembered by its partition.
Where it rests on the model's own choices, they are those of logs 1 and 37. -/
def Obligations.StepRunsTheDecodedInstruction : Prop :=
  (∀ (s : State) (t : Turn) (rest : List Turn) (w : Nat) (word : W32) (i : Instr), s.turns = t :: rest → t.mover = .scalar w →
    let u := Sys2Proof.Claims.turnState s t rest
    let r := (u.launch (u.warp w).launch).record
    Sys2Proof.Claims.TakesTurn u w 2 → ((u.warp w).pc - r.sbase).toNat + 4 ≤ r.sbytes →
    Sys2Proof.Claims.CodeWord u w (u.warp w).pc word → decodeScalar word = some i →
    step s = Result.map (u.afterRun w 2) (exec i { u with cur := ⟨w, 0, word, 0, 0⟩ })) ∧
  (∀ (s : State) (t : Turn) (rest : List Turn) (w p : Nat) (w0 w1 w2 : W32) (i : Instr), s.turns = t :: rest →
    t.mover = .lane w p → p < 2 →
    let u := Sys2Proof.Claims.turnState s t rest
    let r := (u.launch (u.warp w).launch).record
    let pc := (warpPath (u.warp w) p).pc
    let at_ (k : Nat) : W64 := r.lbase + BitVec.ofNat 64 pc + BitVec.ofNat 64 (4 * k)
    Sys2Proof.Claims.TakesTurn u w p → (warpPath (u.warp w) p).cont = false → pc + 12 ≤ r.lbytes → Sys2Proof.Claims.CodeWord u w (at_ 0) w0 →
    Sys2Proof.Claims.CodeWord u w (at_ 1) w1 → Sys2Proof.Claims.CodeWord u w (at_ 2) w2 → decodeLane w0 w1 w2 = some i →
    step s = Result.map (u.afterRun w p) (exec i { u with cur := ⟨w, p, w0, w1, w2⟩ })) ∧
  (∀ (s : State) (t : Turn) (rest : List Turn) (i : Instr), s.turns = t :: rest → t.mover = .event i → isEvent i = true →
    (∀ w p, i ≠ .attbReissue w p) → step s = exec i (Sys2Proof.Claims.turnState s t rest)) ∧
  (∀ (s : State) (t : Turn) (rest : List Turn) (w p : Nat), s.turns = t :: rest →
    t.mover = .lane w p ∨ t.mover = .event (.attbReissue w p) → p < 2 →
    let u := Sys2Proof.Claims.turnState s t rest
    (warpPath (u.warp w) p).cont = true → Sys2Proof.Claims.TakesTurn u w p →
    step s = Result.map (u.afterRun w p) (exec (.attbReissue w p) u)) ∧
  (∀ (s after : State) (w which : Nat) (y : Warp), kGet? after.warps w = some y → y.mirror = none →
    (s.warp w).sstep = false →
    let c := (s.block (s.warp w).block).pcore
    (hasIssued s after w which = false → s.afterRun w which after = after) ∧
    (which = 2 → hasIssued s after w which = true →
      s.afterRun w which after = after.setWarp w { y with readyS := none, urgentS := false }) ∧
    (which < 2 → hasIssued s after w which = true → s.afterRun w which after =
      (after.setWarp w { y with readyL := none, urgentL := false }).setCore c { after.core c with
        lastLane := kSet (after.core c).lastLane (y.slot % 6) (w, false) }))

/-- R40 to R53: decoding the words of a well-formed instruction gives it back, with every operand at every value; and every
word that decodes is the encoding of what it decodes to, so no bit of a word is ignored. -/
def Obligations.WordsAndInstructionsCorrespond : Prop :=
  (∀ (i : Instr) (ws : List W32), i.wf = true → encode i = some ws → decodeWords ws = some i) ∧
  (∀ (w : W32) (i : Instr), decodeScalar w = some i → i.wf = true ∧ encode i = some [w]) ∧
  (∀ (w0 w1 w2 : W32) (i : Instr), decodeLane w0 w1 w2 = some i → i.wf = true ∧ encode i = some [w0, w1, w2])

/-- R51, R52: words written out from the opcode tables and the entries of the instructions decode to what they stand for; words
with an undefined opcode, a reserved field or a forbidden value do not decode (R53). -/
def Obligations.WordsDecodeAsTheTablesSay : Prop :=
  decodeScalar 0x44500FFC = some (.bcNe 5 0 0x7FC) ∧
  decodeScalar 0xC1400030 = some (.srr 20 0x30) ∧
  decodeScalar 0x8C018800 = some (.binit 6 8) ∧
  decodeScalar 0xC8000014 = some (.fence 2 4) ∧
  decodeScalar 0xB1410501 = some (.xlook 20 4 5) ∧
  decodeScalar 0xE8910002 = some (.errqRepair 9 4) ∧
  decodeLane 0 0x06070001 0x00001805 = some (.vadd ⟨0, 0, 0, 6, 0, 0, 5, 6, 7, 1, 0⟩) ∧
  decodeLane 2 0x01000003 0x48000000 = some (.vbr ⟨0, 0, 0, 0, 0, 0, 0, 1, 0, 3, 2⟩) ∧
  decodeLane 8 0x04060331 0x94000409 = some (.vatom ⟨0, 0, 0, 1, 0, 0, 9, 4, 6, 0x331, 8⟩) ∧
  decodeScalar 0x3C000000 = none ∧ decodeScalar 0x4C000001 = none ∧ decodeScalar 0x68000300 = none ∧
  decodeLane 0 0 0x15000000 = none ∧ decodeLane 0 0 0x00008000 = none

/-- R296, R328, R329, R360, R386, R391: the machine right after reset, in the values the manual gives: every setting is at
its default (the link latencies apart, which bring-up measures, log 49), no queue is enabled, the next launch number is 1, every core is ACTIVE, 40 of each die are
mapped, every interval is the reset interval, and bring-up has not run. The empty warps, launches, links' states and memory are
the model's (logs 2 and 3). -/
def Obligations.ResetLeavesTheDefaults : Prop :=
  let s := State.reset
  s.memForm ∧ s.nextNum = 1 ∧ s.mgmt.booted = false ∧ s.coreMap.length = 160 ∧
  (∀ d, d < 4 → (s.coreMap.filter fun c => c / 44 == d).length = 40) ∧ (∀ c, (s.core c).state = .active) ∧
  (∀ q, q < 16 → (s.queue q).enable = false) ∧
  (∀ d, d < 6 → dieE (s.die d) = 0 ∧ dieL (s.die d) = 2 ^ 64 - 1 ∧ (s.die d).log = []) ∧
  s.mgmt.settings.capW = 2800 ∧ s.mgmt.settings.ilim = 2000 ∧ s.mgmt.settings.d1 = 50000 ∧ s.mgmt.settings.d2 = 20000 ∧
  s.mgmt.settings.ages = [1000, 2000, 4000, 8000, 16000] ∧ s.mgmt.settings.ecc = 0 ∧ s.mgmt.settings.nextEcc = 0 ∧
  s.mgmt.settings.minWidth = 4 ∧ s.mgmt.settings.preCls = 1 ∧ s.mgmt.settings.deviceId = 0 ∧ s.mgmt.settings.nextDeviceId = 0

/-- The invariant of the byte memories: no step, whoever moves, leaves the memory of the device or of the host out of its
canonical form (log 3), from any state that has it. -/
def Obligations.StepsKeepTheMemoryForm : Prop :=
  ∀ s t : State, s.memForm → step s = .next t → t.memForm

/-! ## Claims of one kind taken together -/

/-- R47, R79, R84 to R87: the lane integer instructions, the bit-field instructions, selects, moves and VWID write
each active lane of vd, and nothing else. -/
def Obligations.LaneIntegersAndFieldsWriteTheirLanes : Prop :=
  Sys2Proof.Claims.LaneIntegersWriteTheirElements ∧ Sys2Proof.Claims.LaneFieldsAndMovesWriteTheirValue

/-- R80, R93, R96: VSHUF moves lanes; VSCAN and VREDX combine them. -/
def Obligations.LanesAreMovedAndCombined : Prop :=
  Sys2Proof.Claims.LanesAreMoved ∧ Sys2Proof.Claims.ScansAndReductionsCombineTheLanes

/-- R56, R116 to R121, R125: the float instructions, conversions, rotations and table functions write or owe the results of the
arithmetic, and the values of conversions, rotations and interpolations are those of R120, R121 and R125.
Where it rests on the model's own choices, they are those of logs 11, 13 and 23. -/
def Obligations.FloatsAndConversionsWriteTheirResults : Prop :=
  Sys2Proof.Claims.FloatInstructionsWriteTheirResults ∧ Sys2Proof.Claims.ConversionsRotationsAndTables ∧
  Sys2Proof.Claims.ElementsConvert ∧ Sys2Proof.Claims.RotationsTurnTheirPair ∧ Sys2Proof.Claims.TablesInterpolate

/-- R103, R105, R108, R110, R126 to R131: the decimal instructions and the block conversions owe their results, whose values are those
of the rules. -/
def Obligations.DecimalsAndBlocksOweTheirResults : Prop :=
  Sys2Proof.Claims.DecimalInstructionsOweTheirResults ∧ Sys2Proof.Claims.BlocksAreQuantisedAndExpanded ∧
  Sys2Proof.Claims.DecimalsGiveTheirValue ∧ Sys2Proof.Claims.BlocksGiveTheirCodes

/-- R30, R32, R33, R91, R92: VBR splits a path, blocks start, paths reconverge and end. -/
def Obligations.PathsSplitJoinAndEnd : Prop :=
  Sys2Proof.Claims.BranchesSplitTheirPath ∧ Sys2Proof.Claims.BlocksStartAndPathsEnd

/-- R134 to R137, R142, R149, R174: lane loads and stores move their bytes to and from memory and the scratchpad.
Where it rests on the model's own choices, they are those of log 5. -/
def Obligations.LaneAccessesMoveTheirBytes : Prop :=
  Sys2Proof.Claims.LaneLoadsAndStoresMoveTheirBytes ∧ Sys2Proof.Claims.LaneScratchAccessesMoveTheirBytes

/-- R58 to R60: the scalar arithmetic instructions, register and immediate forms, write their value to one register and
nothing else. -/
def Obligations.ScalarValuesAreComputed : Prop :=
  Sys2Proof.Claims.RegisterArithmeticWritesItsValue ∧ Sys2Proof.Claims.ImmediateFormsWriteTheirValue

/-- R62 to R64: scalar loads read, and scalar stores write, exactly their bytes.
Where it rests on the model's own choices, they are those of log 5. -/
def Obligations.ScalarLoadsAndStoresMoveTheirBytes : Prop :=
  Sys2Proof.Claims.ScalarLoadsReadTheirBytes ∧ Sys2Proof.Claims.ScalarStoresWriteTheirBytesOnly

/-- R176, R179, R180: BCONT leaves a continuation, which a completed object resumes; woken warps and continuations go on. -/
def Obligations.ContinuationsAreLeftAndResumed : Prop :=
  Sys2Proof.Claims.BcontLeavesAContinuation ∧ Sys2Proof.Claims.WokenWarpsAndContinuationsResume

/-- R36, R138, R141, R143, R201, R266, R267, R342 to R344: long instructions complete, parked ones are issued again, absent registers are fetched,
streams become urgent and mirrors compare.
Where it rests on the model's own choices, they are those of logs 22, 29 and 31. -/
def Obligations.StreamsCompleteAndWait : Prop :=
  Sys2Proof.Claims.LongInstructionsComplete ∧ Sys2Proof.Claims.StreamsRegistersAndMirrors
end

