-- ==== Sys2Proof/Laws/Store.lean ====
section
/-! SUPPORT. The laws of the containers: sparse stores, byte memories and maps from numbers to records. -/

namespace Sys2Proof.Machine

/-! ## Sparse stores -/

theorem spGet_spPut {w : Nat} (m : Sparse w) (k j : Nat) (v : BitVec w) :
    spGet (spPut m k v) j = if j = k then v else spGet m j := by
  induction m with
  | nil => simp only [spPut, spGet]; exact if_congr eq_comm rfl rfl
  | cons e t ih =>
    obtain ⟨a, x⟩ := e
    simp only [spPut]
    split
    · subst a; simp only [spGet]; by_cases h : j = k
      · simp [h]
      · simp [h, Ne.symm h]
    · split
      · simp only [spGet]; by_cases h : j = k
        · simp [h]
        · simp [h, Ne.symm h]
      · simp only [spGet, ih]
        by_cases h : j = k
        · subst j; simp_all
        · simp [h]

theorem spGet_filter {w : Nat} (m : Sparse w) (k j : Nat) :
    spGet (m.filter fun e => e.1 != k) j = if j = k then 0 else spGet m j := by
  induction m with
  | nil => simp [spGet]
  | cons e t ih =>
    obtain ⟨a, x⟩ := e
    by_cases h : a = k
    · subst a
      simp only [List.filter, bne_self_eq_false, ih, spGet]
      by_cases h : j = k
      · simp [h]
      · simp [h, Ne.symm h]
    · have h' : (a != k) = true := by simpa using h
      simp only [List.filter, h', spGet, ih]
      by_cases h2 : j = k
      · subst j; simp [h]
      · simp [h2]

/-- A store reads back what was written, and every other key as before. -/
@[simp] theorem spGet_spSet {w : Nat} (m : Sparse w) (k j : Nat) (v : BitVec w) :
    spGet (spSet m k v) j = if j = k then v else spGet m j := by
  unfold spSet
  split
  · subst v; exact spGet_filter m k j
  · exact spGet_spPut m k j v

theorem spPut_keys {w : Nat} (m : Sparse w) (k : Nat) (v : BitVec w) (e : Nat × BitVec w) (h : e ∈ spPut m k v) :
    e = (k, v) ∨ e ∈ m := by
  induction m with
  | nil => simpa [spPut] using h
  | cons c t ih =>
    obtain ⟨a, x⟩ := c
    simp only [spPut] at h
    split at h
    · rcases List.mem_cons.1 h with h | h
      · exact .inl h
      · exact .inr (List.mem_cons_of_mem _ h)
    · split at h
      · rcases List.mem_cons.1 h with h | h
        · exact .inl h
        · exact .inr h
      · rcases List.mem_cons.1 h with h | h
        · exact .inr (h ▸ List.mem_cons_self)
        · rcases ih h with h | h
          · exact .inl h
          · exact .inr (List.mem_cons_of_mem _ h)

theorem spPut_wf {w : Nat} (m : Sparse w) (k : Nat) (v : BitVec w) (hv : v ≠ 0) (h : spWf m) : spWf (spPut m k v) := by
  obtain ⟨hp, hz⟩ := h
  refine ⟨?_, fun e he => ?_⟩
  · induction m with
    | nil => simp [spPut]
    | cons c t ih =>
      obtain ⟨a, x⟩ := c
      rw [List.pairwise_cons] at hp
      simp only [spPut]
      split
      · subst a; exact List.pairwise_cons.2 ⟨hp.1, hp.2⟩
      · split
        next h1 h2 =>
          refine List.pairwise_cons.2 ⟨fun e he => ?_, List.pairwise_cons.2 hp⟩
          rcases List.mem_cons.1 he with he | he
          · exact he ▸ h2
          · exact Nat.lt_trans h2 (hp.1 e he)
        next h1 h2 =>
          refine List.pairwise_cons.2 ⟨fun e he => ?_, ih hp.2 fun e he => hz e (List.mem_cons_of_mem _ he)⟩
          rcases spPut_keys t k v e he with he | he
          · subst he; show a < k; omega
          · exact hp.1 e he
  · rcases spPut_keys m k v e he with he | he
    · subst he; exact hv
    · exact hz e he

/-- A write keeps the canonical form. -/
theorem spSet_wf {w : Nat} (m : Sparse w) (k : Nat) (v : BitVec w) (h : spWf m) : spWf (spSet m k v) := by
  unfold spSet
  split
  · exact ⟨h.1.filter _, fun e he => h.2 e (List.mem_of_mem_filter he)⟩
  · next hv => exact spPut_wf m k v hv h

theorem spWf_nil {w : Nat} : spWf ([] : Sparse w) := ⟨List.Pairwise.nil, by simp⟩

/-! ## Byte memories -/

theorem memWf_nil : Memory.wf [] := ⟨List.Pairwise.nil, by simp⟩

/-- Writing one byte keeps the canonical form. -/
theorem memSet_wf (m : Memory) (k : Nat) (v : Byte) (h : Memory.wf m) : Memory.wf (spSet m k v) := spSet_wf m k v h

/-- Writing bytes keeps the canonical form. -/
theorem writeBytes_wf (m : Memory) (a : Nat) (bs : List Byte) (h : Memory.wf m) : Memory.wf (writeBytes m a bs) := by
  induction bs generalizing m a with
  | nil => exact h
  | cons b t ih => exact ih _ _ (memSet_wf m a b h)

/-- A byte after a write: the byte written there, or the one that stood there. -/
theorem spGet_writeBytes (m : Memory) (a : Nat) (bs : List Byte) (j : Nat) :
    spGet (writeBytes m a bs) j = if a ≤ j ∧ j < a + bs.length then bs.getD (j - a) 0 else spGet m j := by
  induction bs generalizing m a with
  | nil => simp [writeBytes]
  | cons b t ih =>
    simp only [writeBytes, ih, spGet_spSet, List.length_cons]
    by_cases h : j = a
    · subst j; simp
    · by_cases h2 : a + 1 ≤ j ∧ j < a + 1 + t.length
      · have h3 : a ≤ j ∧ j < a + (t.length + 1) := by omega
        rw [if_pos h2, if_pos h3]
        obtain ⟨n, hn⟩ : ∃ n, j - a = n + 1 := ⟨j - a - 1, by omega⟩
        rw [hn, show j - (a + 1) = n by omega]
        rfl
      · have h3 : ¬(a ≤ j ∧ j < a + (t.length + 1)) := by omega
        rw [if_neg h2, if_neg h3, if_neg h]

/-- A byte outside the bytes written stands as before. -/
theorem spGet_writeBytes_out (m : Memory) (a : Nat) (bs : List Byte) (j : Nat) (h : j < a ∨ a + bs.length ≤ j) :
    spGet (writeBytes m a bs) j = spGet m j := by
  rw [spGet_writeBytes, if_neg (by omega)]

@[simp] theorem readBytes_length (m : Memory) (a n : Nat) : (readBytes m a n).length = n := by
  induction n generalizing a with
  | zero => rfl
  | succ n ih => simp [readBytes, ih]

theorem readBytes_getD (m : Memory) (a n i : Nat) (h : i < n) : (readBytes m a n).getD i 0 = spGet m (a + i) := by
  induction n generalizing a i with
  | zero => omega
  | succ n ih =>
    cases i with
    | zero => rfl
    | succ i =>
      have := ih (a + 1) i (by omega)
      simp only [readBytes, List.getD_cons_succ, this]
      congr 1; omega

/-- A read depends only on the bytes it reads. -/
theorem readBytes_congr (m k : Memory) (a n : Nat) (h : ∀ j, a ≤ j → j < a + n → spGet m j = spGet k j) :
    readBytes m a n = readBytes k a n := by
  induction n generalizing a with
  | zero => rfl
  | succ n ih =>
    rw [readBytes, readBytes, h a (by omega) (by omega), ih (a + 1) fun j h1 h2 => h j (by omega) (by omega)]

/-- A read of the bytes just written gives them back. -/
theorem readBytes_writeBytes (m : Memory) (a : Nat) (bs : List Byte) : readBytes (writeBytes m a bs) a bs.length = bs := by
  induction bs generalizing m a with
  | nil => rfl
  | cons b t ih =>
    simp only [writeBytes, List.length_cons, readBytes, ih]
    rw [spGet_writeBytes_out _ _ _ _ (by omega)]
    simp

/-- A read apart from a write is not changed by it. -/
theorem readBytes_writeBytes_out (m : Memory) (a b n : Nat) (bs : List Byte) (h : b + n ≤ a ∨ a + bs.length ≤ b) :
    readBytes (writeBytes m a bs) b n = readBytes m b n :=
  readBytes_congr _ _ _ _ fun j h1 h2 => spGet_writeBytes_out m a bs j (by omega)

@[simp] theorem toBytes_length (n v : Nat) : (toBytes n v).length = n := by
  induction n generalizing v with
  | zero => rfl
  | succ n ih => simp [toBytes, ih]

/-- Bytes and numbers agree: a number's low bytes give it back modulo their size. -/
@[simp] theorem ofBytes_toBytes (n v : Nat) : ofBytes (toBytes n v) = v % 256 ^ n := by
  induction n generalizing v with
  | zero => simp [toBytes, ofBytes, Nat.mod_one]
  | succ n ih =>
    simp only [toBytes, ofBytes, ih, BitVec.toNat_ofNat]
    have h : v % 256 ^ (n + 1) = v % 256 + 256 * (v / 256 % 256 ^ n) := by rw [Nat.pow_succ', Nat.mod_mul]
    omega

theorem ofBytes_lt (bs : List Byte) : ofBytes bs < 256 ^ bs.length := by
  induction bs with
  | nil => simp [ofBytes]
  | cons b t ih =>
    simp only [ofBytes, List.length_cons, Nat.pow_succ]
    have := b.isLt
    omega

/-! ## Maps -/

/-- A map gives back the record put at a key, and every other key's as before. -/
@[simp] theorem kGet?_kSet {α : Type} (m : KMap α) (k j : Nat) (v : α) :
    kGet? (kSet m k v) j = if j = k then some v else kGet? m j := by
  induction m with
  | nil => simp only [kSet, kGet?]; exact if_congr eq_comm rfl rfl
  | cons e t ih =>
    obtain ⟨a, x⟩ := e
    simp only [kSet]
    split
    · subst a; simp only [kGet?]; by_cases h : j = k
      · simp [h]
      · simp [h, Ne.symm h]
    · split
      · simp only [kGet?]; by_cases h : j = k
        · simp [h]
        · simp [h, Ne.symm h]
      · simp only [kGet?, ih]
        by_cases h : j = k
        · subst j; simp_all
        · simp [h]

@[simp] theorem kGet_kSet {α : Type} [Inhabited α] (m : KMap α) (k j : Nat) (v : α) :
    kGet (kSet m k v) j = if j = k then v else kGet m j := by
  unfold kGet
  rw [kGet?_kSet]
  split <;> rfl

@[simp] theorem kGet?_kErase {α : Type} (m : KMap α) (k j : Nat) :
    kGet? (kErase m k) j = if j = k then none else kGet? m j := by
  unfold kErase
  induction m with
  | nil => simp [kGet?]
  | cons e t ih =>
    obtain ⟨a, x⟩ := e
    by_cases h : a = k
    · subst a
      simp only [List.filter, bne_self_eq_false, ih, kGet?]
      by_cases h : j = k
      · simp [h]
      · simp [h, Ne.symm h]
    · have h' : (a != k) = true := by simpa using h
      simp only [List.filter, h', kGet?, ih]
      by_cases h2 : j = k
      · subst j; simp [h]
      · simp [h2]

/-- Changing the records of a map one by one changes what each key gives in the same way. -/
@[simp] theorem kGet?_kMap {α : Type} (f : Nat → α → α) (m : KMap α) (j : Nat) :
    kGet? (kMap f m) j = (kGet? m j).map (f j) := by
  unfold kMap
  induction m with
  | nil => rfl
  | cons e t ih =>
    obtain ⟨a, x⟩ := e
    simp only [List.map_cons, kGet?, ih]
    by_cases h : a = j
    · subst a; simp
    · simp [h]

/-- Putting the record of a key twice leaves the second. -/
@[simp] theorem kSet_kSet {α : Type} (m : KMap α) (k : Nat) (v u : α) : kSet (kSet m k v) k u = kSet m k u := by
  induction m with
  | nil => simp [kSet]
  | cons e t ih =>
    obtain ⟨a, x⟩ := e
    simp only [kSet]
    split
    · simp [kSet]
    · split
      · simp [kSet]
      · simp_all [kSet]

theorem setAt_length {α : Type} (l : List α) (i : Nat) (x : α) : (setAt l i x).length = l.length := by
  induction l generalizing i with
  | nil => rfl
  | cons y t ih => cases i <;> simp [setAt, ih]

end Sys2Proof.Machine
end

