-- ==== Sys2Proof/Laws/Access.lean ====
section
/-! SUPPORT. The laws of translation and of accesses whose checks pass: what a check reads, that it gives the same within a
page, and what a read of several units gives. -/

namespace Sys2Proof.Machine

/-! ## What a walk reads -/

/-- The addresses of the entries that a walk reads, the lower ones whether or not it comes to them. -/
def State.walkReads (s : State) (root va : W64) : List Nat :=
  let a := va.toNat
  let a1 := root.toNat + a / 2 ^ 46 % 1024 * 8
  let a2 := ptrAddr (s.phys64 a1) + a / 2 ^ 37 % 512 * 8
  let a3 := ptrAddr (s.phys64 a2) + a / 2 ^ 29 % 256 * 8
  let a4 := ptrAddr (s.phys64 a3) + a / 2 ^ 21 % 256 * 8
  [a1, a2, a3, a4, ptrAddr (s.phys64 a4) + a / 2 ^ 16 % 32 * 8]

/-- A walk finds the same in a memory that agrees on the entries it reads. -/
theorem walk_congr (s : State) (m : Memory) (root va : W64)
    (h : ∀ a ∈ s.walkReads root va, readBytes m a 8 = readBytes s.mem a 8) :
    State.walk { s with mem := m } root va = s.walk root va := by
  simp only [State.walkReads, List.mem_cons, List.not_mem_nil, or_false, forall_eq_or_imp, forall_eq] at h
  obtain ⟨h1, h2, h3, h4, h5⟩ := h
  have e1 : ∀ a, State.phys64 { s with mem := m } a = ofBytes (readBytes m a 8) := fun _ => rfl
  have f1 := congrArg ofBytes h1
  have f2 := congrArg ofBytes h2
  have f3 := congrArg ofBytes h3
  have f4 := congrArg ofBytes h4
  have f5 := congrArg ofBytes h5
  simp only [← e1] at f1 f2 f3 f4 f5
  change _ = s.phys64 _ at f1
  change _ = s.phys64 _ at f2
  change _ = s.phys64 _ at f3
  change _ = s.phys64 _ at f4
  change _ = s.phys64 _ at f5
  simp only [State.walk, f1, f2, f3, f4, f5]

/-- The addresses that the checks of an access read (R10). -/
def State.checkReads (s : State) (ctx : Nat) (va : W64) : List Nat :=
  match kGet? s.mgmt.contexts ctx with
  | some c => s.walkReads c.root va
  | none => []

/-- A check gives the same in a memory that agrees on the entries it reads. -/
theorem check_congr (s : State) (m : Memory) (ctx : Nat) (va : W64) (access : Nat)
    (h : ∀ a ∈ s.checkReads ctx va, readBytes m a 8 = readBytes s.mem a 8) :
    State.check { s with mem := m } ctx va access = s.check ctx va access := by
  have ht : State.translate { s with mem := m } ctx va = s.translate ctx va := by
    unfold State.translate State.checkReads at *
    split
    · rfl
    · cases hc : kGet? s.mgmt.contexts ctx with
      | none => rfl
      | some c => simp only [hc] at h ⊢; exact walk_congr s m c.root va h
  unfold State.check
  rw [ht]
  rfl

/-! ## Within a page -/

/-- The upper bits of an address do not change within its page. -/
theorem page_div (va : W64) (i k : Nat) (hk : 16 ≤ k) (h : va.toNat % 65536 + i < 65536) :
    (va + BitVec.ofNat 64 i).toNat / 2 ^ k = va.toNat / 2 ^ k ∧ (va + BitVec.ofNat 64 i).toNat = va.toNat + i := by
  have hlt := va.isLt
  have e : (va + BitVec.ofNat 64 i).toNat = va.toNat + i := by
    rw [BitVec.toNat_add, BitVec.toNat_ofNat]
    omega
  refine ⟨?_, e⟩
  rw [e]
  obtain ⟨j, rfl⟩ : ∃ j, k = 16 + j := ⟨k - 16, by omega⟩
  rw [Nat.pow_add, ← Nat.div_div_eq_div_mul, ← Nat.div_div_eq_div_mul]
  congr 1
  omega

/-- A walk of another address of the page finds the same entry. -/
theorem walk_page (s : State) (root va : W64) (i : Nat) (h : va.toNat % 65536 + i < 65536) :
    s.walk root (va + BitVec.ofNat 64 i) = s.walk root va := by
  have d (k : Nat) (hk : 16 ≤ k) := (page_div va i k hk h).1
  simp only [State.walk, d 46 (by omega), d 37 (by omega), d 29 (by omega), d 21 (by omega), d 16 (by omega)]

/-- The checks give the same for every byte of a page, place by place (R10, R275). -/
theorem check_page (s : State) (ctx : Nat) (va : W64) (access i pa : Nat) (pte : W64)
    (hc : s.check ctx va access = .here pa pte) (h : va.toNat % 65536 + i < 65536) :
    s.check ctx (va + BitVec.ofNat 64 i) access = .here (pa + i) pte := by
  have e := (page_div va i 16 (by omega) h).2
  have d := (page_div va i 16 (by omega) h).1
  have d21 := (page_div va i 21 (by omega) h).1
  have hcan : canonVa (va + BitVec.ofNat 64 i) = canonVa va := by
    have := (page_div va i 56 (by omega) h).1
    simp only [canonVa, decide_eq_decide]
    omega
  have ht : s.translate ctx (va + BitVec.ofNat 64 i) = s.translate ctx va := by
    unfold State.translate
    rw [hcan]
    split
    · rfl
    · split
      · rfl
      · exact walk_page s _ va i h
  have hm : s.moving ctx (va + BitVec.ofNat 64 i) = s.moving ctx va := by
    unfold State.moving
    have d' : (va + BitVec.ofNat 64 i).toNat / 65536 = va.toNat / 65536 := d
    rw [d']
  unfold State.check at hc ⊢
  rw [ht, hm]
  split at hc
  · exact absurd hc nofun
  · next wk hw =>
    split at hc
    · exact absurd hc nofun
    · next hp =>
      rw [if_neg hp]
      split at hc
      · exact absurd hc nofun
      · next hk =>
        rw [if_neg hk]
        split at hc
        · exact absurd hc nofun
        · next hn =>
          rw [if_neg hn]
          obtain ⟨rfl, rfl⟩ := Verdict.here.inj hc
          congr 1
          unfold walkPa
          split
          · have : (va + BitVec.ofNat 64 i).toNat % 2 ^ 21 = va.toNat % 2 ^ 21 + i := by omega
            omega
          · omega

end Sys2Proof.Machine
end

