-- ==== Sys2Proof/Laws/State.lean ====
section
/-! SUPPORT. What each named update of the state does to each of its fields, and what the reads give after it. -/

namespace Sys2Proof.Machine

/-! ## State.setWarp -/

@[simp] theorem State.setWarp_turns (s : State) (w : Nat) (x : Warp) : (s.setWarp w x).turns = s.turns := rfl
@[simp] theorem State.setWarp_draws (s : State) (w : Nat) (x : Warp) : (s.setWarp w x).draws = s.draws := rfl
@[simp] theorem State.setWarp_cur (s : State) (w : Nat) (x : Warp) : (s.setWarp w x).cur = s.cur := rfl
@[simp] theorem State.setWarp_nextId (s : State) (w : Nat) (x : Warp) : (s.setWarp w x).nextId = s.nextId := rfl
@[simp] theorem State.setWarp_mem (s : State) (w : Nat) (x : Warp) : (s.setWarp w x).mem = s.mem := rfl
@[simp] theorem State.setWarp_host (s : State) (w : Nat) (x : Warp) : (s.setWarp w x).host = s.host := rfl
@[simp] theorem State.setWarp_poison (s : State) (w : Nat) (x : Warp) : (s.setWarp w x).poison = s.poison := rfl
@[simp] theorem State.setWarp_warps (s : State) (w : Nat) (x : Warp) : (s.setWarp w x).warps = kSet s.warps w x := rfl
@[simp] theorem State.setWarp_blocks (s : State) (w : Nat) (x : Warp) : (s.setWarp w x).blocks = s.blocks := rfl
@[simp] theorem State.setWarp_jobs (s : State) (w : Nat) (x : Warp) : (s.setWarp w x).jobs = s.jobs := rfl
@[simp] theorem State.setWarp_moves (s : State) (w : Nat) (x : Warp) : (s.setWarp w x).moves = s.moves := rfl
@[simp] theorem State.setWarp_backing (s : State) (w : Nat) (x : Warp) : (s.setWarp w x).backing = s.backing := rfl
@[simp] theorem State.setWarp_clean (s : State) (w : Nat) (x : Warp) : (s.setWarp w x).clean = s.clean := rfl
@[simp] theorem State.setWarp_cores (s : State) (w : Nat) (x : Warp) : (s.setWarp w x).cores = s.cores := rfl
@[simp] theorem State.setWarp_dies (s : State) (w : Nat) (x : Warp) : (s.setWarp w x).dies = s.dies := rfl
@[simp] theorem State.setWarp_coreMap (s : State) (w : Nat) (x : Warp) : (s.setWarp w x).coreMap = s.coreMap := rfl
@[simp] theorem State.setWarp_failed (s : State) (w : Nat) (x : Warp) : (s.setWarp w x).failed = s.failed := rfl
@[simp] theorem State.setWarp_banks (s : State) (w : Nat) (x : Warp) : (s.setWarp w x).banks = s.banks := rfl
@[simp] theorem State.setWarp_fab (s : State) (w : Nat) (x : Warp) : (s.setWarp w x).fab = s.fab := rfl
@[simp] theorem State.setWarp_eng (s : State) (w : Nat) (x : Warp) : (s.setWarp w x).eng = s.eng := rfl
@[simp] theorem State.setWarp_mgmt (s : State) (w : Nat) (x : Warp) : (s.setWarp w x).mgmt = s.mgmt := rfl

/-! ## State.modWarp -/

@[simp] theorem State.modWarp_turns (s : State) (w : Nat) (f : Warp → Warp) : (s.modWarp w f).turns = s.turns := rfl
@[simp] theorem State.modWarp_draws (s : State) (w : Nat) (f : Warp → Warp) : (s.modWarp w f).draws = s.draws := rfl
@[simp] theorem State.modWarp_cur (s : State) (w : Nat) (f : Warp → Warp) : (s.modWarp w f).cur = s.cur := rfl
@[simp] theorem State.modWarp_nextId (s : State) (w : Nat) (f : Warp → Warp) : (s.modWarp w f).nextId = s.nextId := rfl
@[simp] theorem State.modWarp_mem (s : State) (w : Nat) (f : Warp → Warp) : (s.modWarp w f).mem = s.mem := rfl
@[simp] theorem State.modWarp_host (s : State) (w : Nat) (f : Warp → Warp) : (s.modWarp w f).host = s.host := rfl
@[simp] theorem State.modWarp_poison (s : State) (w : Nat) (f : Warp → Warp) : (s.modWarp w f).poison = s.poison := rfl
@[simp] theorem State.modWarp_warps (s : State) (w : Nat) (f : Warp → Warp) : (s.modWarp w f).warps = kSet s.warps w (f (s.warp w)) := rfl
@[simp] theorem State.modWarp_blocks (s : State) (w : Nat) (f : Warp → Warp) : (s.modWarp w f).blocks = s.blocks := rfl
@[simp] theorem State.modWarp_jobs (s : State) (w : Nat) (f : Warp → Warp) : (s.modWarp w f).jobs = s.jobs := rfl
@[simp] theorem State.modWarp_moves (s : State) (w : Nat) (f : Warp → Warp) : (s.modWarp w f).moves = s.moves := rfl
@[simp] theorem State.modWarp_backing (s : State) (w : Nat) (f : Warp → Warp) : (s.modWarp w f).backing = s.backing := rfl
@[simp] theorem State.modWarp_clean (s : State) (w : Nat) (f : Warp → Warp) : (s.modWarp w f).clean = s.clean := rfl
@[simp] theorem State.modWarp_cores (s : State) (w : Nat) (f : Warp → Warp) : (s.modWarp w f).cores = s.cores := rfl
@[simp] theorem State.modWarp_dies (s : State) (w : Nat) (f : Warp → Warp) : (s.modWarp w f).dies = s.dies := rfl
@[simp] theorem State.modWarp_coreMap (s : State) (w : Nat) (f : Warp → Warp) : (s.modWarp w f).coreMap = s.coreMap := rfl
@[simp] theorem State.modWarp_failed (s : State) (w : Nat) (f : Warp → Warp) : (s.modWarp w f).failed = s.failed := rfl
@[simp] theorem State.modWarp_banks (s : State) (w : Nat) (f : Warp → Warp) : (s.modWarp w f).banks = s.banks := rfl
@[simp] theorem State.modWarp_fab (s : State) (w : Nat) (f : Warp → Warp) : (s.modWarp w f).fab = s.fab := rfl
@[simp] theorem State.modWarp_eng (s : State) (w : Nat) (f : Warp → Warp) : (s.modWarp w f).eng = s.eng := rfl
@[simp] theorem State.modWarp_mgmt (s : State) (w : Nat) (f : Warp → Warp) : (s.modWarp w f).mgmt = s.mgmt := rfl

/-! ## State.setMe -/

@[simp] theorem State.setMe_turns (s : State) (x : Warp) : (s.setMe x).turns = s.turns := rfl
@[simp] theorem State.setMe_draws (s : State) (x : Warp) : (s.setMe x).draws = s.draws := rfl
@[simp] theorem State.setMe_cur (s : State) (x : Warp) : (s.setMe x).cur = s.cur := rfl
@[simp] theorem State.setMe_nextId (s : State) (x : Warp) : (s.setMe x).nextId = s.nextId := rfl
@[simp] theorem State.setMe_mem (s : State) (x : Warp) : (s.setMe x).mem = s.mem := rfl
@[simp] theorem State.setMe_host (s : State) (x : Warp) : (s.setMe x).host = s.host := rfl
@[simp] theorem State.setMe_poison (s : State) (x : Warp) : (s.setMe x).poison = s.poison := rfl
@[simp] theorem State.setMe_warps (s : State) (x : Warp) : (s.setMe x).warps = kSet s.warps s.cur.warp x := rfl
@[simp] theorem State.setMe_blocks (s : State) (x : Warp) : (s.setMe x).blocks = s.blocks := rfl
@[simp] theorem State.setMe_jobs (s : State) (x : Warp) : (s.setMe x).jobs = s.jobs := rfl
@[simp] theorem State.setMe_moves (s : State) (x : Warp) : (s.setMe x).moves = s.moves := rfl
@[simp] theorem State.setMe_backing (s : State) (x : Warp) : (s.setMe x).backing = s.backing := rfl
@[simp] theorem State.setMe_clean (s : State) (x : Warp) : (s.setMe x).clean = s.clean := rfl
@[simp] theorem State.setMe_cores (s : State) (x : Warp) : (s.setMe x).cores = s.cores := rfl
@[simp] theorem State.setMe_dies (s : State) (x : Warp) : (s.setMe x).dies = s.dies := rfl
@[simp] theorem State.setMe_coreMap (s : State) (x : Warp) : (s.setMe x).coreMap = s.coreMap := rfl
@[simp] theorem State.setMe_failed (s : State) (x : Warp) : (s.setMe x).failed = s.failed := rfl
@[simp] theorem State.setMe_banks (s : State) (x : Warp) : (s.setMe x).banks = s.banks := rfl
@[simp] theorem State.setMe_fab (s : State) (x : Warp) : (s.setMe x).fab = s.fab := rfl
@[simp] theorem State.setMe_eng (s : State) (x : Warp) : (s.setMe x).eng = s.eng := rfl
@[simp] theorem State.setMe_mgmt (s : State) (x : Warp) : (s.setMe x).mgmt = s.mgmt := rfl

/-! ## State.setMyPath -/

@[simp] theorem State.setMyPath_turns (s : State) (q : Path) : (s.setMyPath q).turns = s.turns := rfl
@[simp] theorem State.setMyPath_draws (s : State) (q : Path) : (s.setMyPath q).draws = s.draws := rfl
@[simp] theorem State.setMyPath_cur (s : State) (q : Path) : (s.setMyPath q).cur = s.cur := rfl
@[simp] theorem State.setMyPath_nextId (s : State) (q : Path) : (s.setMyPath q).nextId = s.nextId := rfl
@[simp] theorem State.setMyPath_mem (s : State) (q : Path) : (s.setMyPath q).mem = s.mem := rfl
@[simp] theorem State.setMyPath_host (s : State) (q : Path) : (s.setMyPath q).host = s.host := rfl
@[simp] theorem State.setMyPath_poison (s : State) (q : Path) : (s.setMyPath q).poison = s.poison := rfl
@[simp] theorem State.setMyPath_warps (s : State) (q : Path) : (s.setMyPath q).warps = kSet s.warps s.cur.warp (setPath s.me s.cur.path q) := rfl
@[simp] theorem State.setMyPath_blocks (s : State) (q : Path) : (s.setMyPath q).blocks = s.blocks := rfl
@[simp] theorem State.setMyPath_jobs (s : State) (q : Path) : (s.setMyPath q).jobs = s.jobs := rfl
@[simp] theorem State.setMyPath_moves (s : State) (q : Path) : (s.setMyPath q).moves = s.moves := rfl
@[simp] theorem State.setMyPath_backing (s : State) (q : Path) : (s.setMyPath q).backing = s.backing := rfl
@[simp] theorem State.setMyPath_clean (s : State) (q : Path) : (s.setMyPath q).clean = s.clean := rfl
@[simp] theorem State.setMyPath_cores (s : State) (q : Path) : (s.setMyPath q).cores = s.cores := rfl
@[simp] theorem State.setMyPath_dies (s : State) (q : Path) : (s.setMyPath q).dies = s.dies := rfl
@[simp] theorem State.setMyPath_coreMap (s : State) (q : Path) : (s.setMyPath q).coreMap = s.coreMap := rfl
@[simp] theorem State.setMyPath_failed (s : State) (q : Path) : (s.setMyPath q).failed = s.failed := rfl
@[simp] theorem State.setMyPath_banks (s : State) (q : Path) : (s.setMyPath q).banks = s.banks := rfl
@[simp] theorem State.setMyPath_fab (s : State) (q : Path) : (s.setMyPath q).fab = s.fab := rfl
@[simp] theorem State.setMyPath_eng (s : State) (q : Path) : (s.setMyPath q).eng = s.eng := rfl
@[simp] theorem State.setMyPath_mgmt (s : State) (q : Path) : (s.setMyPath q).mgmt = s.mgmt := rfl

/-! ## State.setBlock -/

@[simp] theorem State.setBlock_turns (s : State) (b : Nat) (x : Block) : (s.setBlock b x).turns = s.turns := rfl
@[simp] theorem State.setBlock_draws (s : State) (b : Nat) (x : Block) : (s.setBlock b x).draws = s.draws := rfl
@[simp] theorem State.setBlock_cur (s : State) (b : Nat) (x : Block) : (s.setBlock b x).cur = s.cur := rfl
@[simp] theorem State.setBlock_nextId (s : State) (b : Nat) (x : Block) : (s.setBlock b x).nextId = s.nextId := rfl
@[simp] theorem State.setBlock_mem (s : State) (b : Nat) (x : Block) : (s.setBlock b x).mem = s.mem := rfl
@[simp] theorem State.setBlock_host (s : State) (b : Nat) (x : Block) : (s.setBlock b x).host = s.host := rfl
@[simp] theorem State.setBlock_poison (s : State) (b : Nat) (x : Block) : (s.setBlock b x).poison = s.poison := rfl
@[simp] theorem State.setBlock_warps (s : State) (b : Nat) (x : Block) : (s.setBlock b x).warps = s.warps := rfl
@[simp] theorem State.setBlock_blocks (s : State) (b : Nat) (x : Block) : (s.setBlock b x).blocks = kSet s.blocks b x := rfl
@[simp] theorem State.setBlock_jobs (s : State) (b : Nat) (x : Block) : (s.setBlock b x).jobs = s.jobs := rfl
@[simp] theorem State.setBlock_moves (s : State) (b : Nat) (x : Block) : (s.setBlock b x).moves = s.moves := rfl
@[simp] theorem State.setBlock_backing (s : State) (b : Nat) (x : Block) : (s.setBlock b x).backing = s.backing := rfl
@[simp] theorem State.setBlock_clean (s : State) (b : Nat) (x : Block) : (s.setBlock b x).clean = s.clean := rfl
@[simp] theorem State.setBlock_cores (s : State) (b : Nat) (x : Block) : (s.setBlock b x).cores = s.cores := rfl
@[simp] theorem State.setBlock_dies (s : State) (b : Nat) (x : Block) : (s.setBlock b x).dies = s.dies := rfl
@[simp] theorem State.setBlock_coreMap (s : State) (b : Nat) (x : Block) : (s.setBlock b x).coreMap = s.coreMap := rfl
@[simp] theorem State.setBlock_failed (s : State) (b : Nat) (x : Block) : (s.setBlock b x).failed = s.failed := rfl
@[simp] theorem State.setBlock_banks (s : State) (b : Nat) (x : Block) : (s.setBlock b x).banks = s.banks := rfl
@[simp] theorem State.setBlock_fab (s : State) (b : Nat) (x : Block) : (s.setBlock b x).fab = s.fab := rfl
@[simp] theorem State.setBlock_eng (s : State) (b : Nat) (x : Block) : (s.setBlock b x).eng = s.eng := rfl
@[simp] theorem State.setBlock_mgmt (s : State) (b : Nat) (x : Block) : (s.setBlock b x).mgmt = s.mgmt := rfl

/-! ## State.modBlock -/

@[simp] theorem State.modBlock_turns (s : State) (b : Nat) (f : Block → Block) : (s.modBlock b f).turns = s.turns := rfl
@[simp] theorem State.modBlock_draws (s : State) (b : Nat) (f : Block → Block) : (s.modBlock b f).draws = s.draws := rfl
@[simp] theorem State.modBlock_cur (s : State) (b : Nat) (f : Block → Block) : (s.modBlock b f).cur = s.cur := rfl
@[simp] theorem State.modBlock_nextId (s : State) (b : Nat) (f : Block → Block) : (s.modBlock b f).nextId = s.nextId := rfl
@[simp] theorem State.modBlock_mem (s : State) (b : Nat) (f : Block → Block) : (s.modBlock b f).mem = s.mem := rfl
@[simp] theorem State.modBlock_host (s : State) (b : Nat) (f : Block → Block) : (s.modBlock b f).host = s.host := rfl
@[simp] theorem State.modBlock_poison (s : State) (b : Nat) (f : Block → Block) : (s.modBlock b f).poison = s.poison := rfl
@[simp] theorem State.modBlock_warps (s : State) (b : Nat) (f : Block → Block) : (s.modBlock b f).warps = s.warps := rfl
@[simp] theorem State.modBlock_blocks (s : State) (b : Nat) (f : Block → Block) : (s.modBlock b f).blocks = kSet s.blocks b (f (s.block b)) := rfl
@[simp] theorem State.modBlock_jobs (s : State) (b : Nat) (f : Block → Block) : (s.modBlock b f).jobs = s.jobs := rfl
@[simp] theorem State.modBlock_moves (s : State) (b : Nat) (f : Block → Block) : (s.modBlock b f).moves = s.moves := rfl
@[simp] theorem State.modBlock_backing (s : State) (b : Nat) (f : Block → Block) : (s.modBlock b f).backing = s.backing := rfl
@[simp] theorem State.modBlock_clean (s : State) (b : Nat) (f : Block → Block) : (s.modBlock b f).clean = s.clean := rfl
@[simp] theorem State.modBlock_cores (s : State) (b : Nat) (f : Block → Block) : (s.modBlock b f).cores = s.cores := rfl
@[simp] theorem State.modBlock_dies (s : State) (b : Nat) (f : Block → Block) : (s.modBlock b f).dies = s.dies := rfl
@[simp] theorem State.modBlock_coreMap (s : State) (b : Nat) (f : Block → Block) : (s.modBlock b f).coreMap = s.coreMap := rfl
@[simp] theorem State.modBlock_failed (s : State) (b : Nat) (f : Block → Block) : (s.modBlock b f).failed = s.failed := rfl
@[simp] theorem State.modBlock_banks (s : State) (b : Nat) (f : Block → Block) : (s.modBlock b f).banks = s.banks := rfl
@[simp] theorem State.modBlock_fab (s : State) (b : Nat) (f : Block → Block) : (s.modBlock b f).fab = s.fab := rfl
@[simp] theorem State.modBlock_eng (s : State) (b : Nat) (f : Block → Block) : (s.modBlock b f).eng = s.eng := rfl
@[simp] theorem State.modBlock_mgmt (s : State) (b : Nat) (f : Block → Block) : (s.modBlock b f).mgmt = s.mgmt := rfl

/-! ## State.setCore -/

@[simp] theorem State.setCore_turns (s : State) (c : Nat) (x : Core) : (s.setCore c x).turns = s.turns := rfl
@[simp] theorem State.setCore_draws (s : State) (c : Nat) (x : Core) : (s.setCore c x).draws = s.draws := rfl
@[simp] theorem State.setCore_cur (s : State) (c : Nat) (x : Core) : (s.setCore c x).cur = s.cur := rfl
@[simp] theorem State.setCore_nextId (s : State) (c : Nat) (x : Core) : (s.setCore c x).nextId = s.nextId := rfl
@[simp] theorem State.setCore_mem (s : State) (c : Nat) (x : Core) : (s.setCore c x).mem = s.mem := rfl
@[simp] theorem State.setCore_host (s : State) (c : Nat) (x : Core) : (s.setCore c x).host = s.host := rfl
@[simp] theorem State.setCore_poison (s : State) (c : Nat) (x : Core) : (s.setCore c x).poison = s.poison := rfl
@[simp] theorem State.setCore_warps (s : State) (c : Nat) (x : Core) : (s.setCore c x).warps = s.warps := rfl
@[simp] theorem State.setCore_blocks (s : State) (c : Nat) (x : Core) : (s.setCore c x).blocks = s.blocks := rfl
@[simp] theorem State.setCore_jobs (s : State) (c : Nat) (x : Core) : (s.setCore c x).jobs = s.jobs := rfl
@[simp] theorem State.setCore_moves (s : State) (c : Nat) (x : Core) : (s.setCore c x).moves = s.moves := rfl
@[simp] theorem State.setCore_backing (s : State) (c : Nat) (x : Core) : (s.setCore c x).backing = s.backing := rfl
@[simp] theorem State.setCore_clean (s : State) (c : Nat) (x : Core) : (s.setCore c x).clean = s.clean := rfl
@[simp] theorem State.setCore_cores (s : State) (c : Nat) (x : Core) : (s.setCore c x).cores = kSet s.cores c x := rfl
@[simp] theorem State.setCore_dies (s : State) (c : Nat) (x : Core) : (s.setCore c x).dies = s.dies := rfl
@[simp] theorem State.setCore_coreMap (s : State) (c : Nat) (x : Core) : (s.setCore c x).coreMap = s.coreMap := rfl
@[simp] theorem State.setCore_failed (s : State) (c : Nat) (x : Core) : (s.setCore c x).failed = s.failed := rfl
@[simp] theorem State.setCore_banks (s : State) (c : Nat) (x : Core) : (s.setCore c x).banks = s.banks := rfl
@[simp] theorem State.setCore_fab (s : State) (c : Nat) (x : Core) : (s.setCore c x).fab = s.fab := rfl
@[simp] theorem State.setCore_eng (s : State) (c : Nat) (x : Core) : (s.setCore c x).eng = s.eng := rfl
@[simp] theorem State.setCore_mgmt (s : State) (c : Nat) (x : Core) : (s.setCore c x).mgmt = s.mgmt := rfl

/-! ## State.setDie -/

@[simp] theorem State.setDie_turns (s : State) (d : Nat) (x : Die) : (s.setDie d x).turns = s.turns := rfl
@[simp] theorem State.setDie_draws (s : State) (d : Nat) (x : Die) : (s.setDie d x).draws = s.draws := rfl
@[simp] theorem State.setDie_cur (s : State) (d : Nat) (x : Die) : (s.setDie d x).cur = s.cur := rfl
@[simp] theorem State.setDie_nextId (s : State) (d : Nat) (x : Die) : (s.setDie d x).nextId = s.nextId := rfl
@[simp] theorem State.setDie_mem (s : State) (d : Nat) (x : Die) : (s.setDie d x).mem = s.mem := rfl
@[simp] theorem State.setDie_host (s : State) (d : Nat) (x : Die) : (s.setDie d x).host = s.host := rfl
@[simp] theorem State.setDie_poison (s : State) (d : Nat) (x : Die) : (s.setDie d x).poison = s.poison := rfl
@[simp] theorem State.setDie_warps (s : State) (d : Nat) (x : Die) : (s.setDie d x).warps = s.warps := rfl
@[simp] theorem State.setDie_blocks (s : State) (d : Nat) (x : Die) : (s.setDie d x).blocks = s.blocks := rfl
@[simp] theorem State.setDie_jobs (s : State) (d : Nat) (x : Die) : (s.setDie d x).jobs = s.jobs := rfl
@[simp] theorem State.setDie_moves (s : State) (d : Nat) (x : Die) : (s.setDie d x).moves = s.moves := rfl
@[simp] theorem State.setDie_backing (s : State) (d : Nat) (x : Die) : (s.setDie d x).backing = s.backing := rfl
@[simp] theorem State.setDie_clean (s : State) (d : Nat) (x : Die) : (s.setDie d x).clean = s.clean := rfl
@[simp] theorem State.setDie_cores (s : State) (d : Nat) (x : Die) : (s.setDie d x).cores = s.cores := rfl
@[simp] theorem State.setDie_dies (s : State) (d : Nat) (x : Die) : (s.setDie d x).dies = kSet s.dies d x := rfl
@[simp] theorem State.setDie_coreMap (s : State) (d : Nat) (x : Die) : (s.setDie d x).coreMap = s.coreMap := rfl
@[simp] theorem State.setDie_failed (s : State) (d : Nat) (x : Die) : (s.setDie d x).failed = s.failed := rfl
@[simp] theorem State.setDie_banks (s : State) (d : Nat) (x : Die) : (s.setDie d x).banks = s.banks := rfl
@[simp] theorem State.setDie_fab (s : State) (d : Nat) (x : Die) : (s.setDie d x).fab = s.fab := rfl
@[simp] theorem State.setDie_eng (s : State) (d : Nat) (x : Die) : (s.setDie d x).eng = s.eng := rfl
@[simp] theorem State.setDie_mgmt (s : State) (d : Nat) (x : Die) : (s.setDie d x).mgmt = s.mgmt := rfl

/-! ## State.setJob -/

@[simp] theorem State.setJob_turns (s : State) (j : Nat) (x : Job) : (s.setJob j x).turns = s.turns := rfl
@[simp] theorem State.setJob_draws (s : State) (j : Nat) (x : Job) : (s.setJob j x).draws = s.draws := rfl
@[simp] theorem State.setJob_cur (s : State) (j : Nat) (x : Job) : (s.setJob j x).cur = s.cur := rfl
@[simp] theorem State.setJob_nextId (s : State) (j : Nat) (x : Job) : (s.setJob j x).nextId = s.nextId := rfl
@[simp] theorem State.setJob_mem (s : State) (j : Nat) (x : Job) : (s.setJob j x).mem = s.mem := rfl
@[simp] theorem State.setJob_host (s : State) (j : Nat) (x : Job) : (s.setJob j x).host = s.host := rfl
@[simp] theorem State.setJob_poison (s : State) (j : Nat) (x : Job) : (s.setJob j x).poison = s.poison := rfl
@[simp] theorem State.setJob_warps (s : State) (j : Nat) (x : Job) : (s.setJob j x).warps = s.warps := rfl
@[simp] theorem State.setJob_blocks (s : State) (j : Nat) (x : Job) : (s.setJob j x).blocks = s.blocks := rfl
@[simp] theorem State.setJob_jobs (s : State) (j : Nat) (x : Job) : (s.setJob j x).jobs = kSet s.jobs j x := rfl
@[simp] theorem State.setJob_moves (s : State) (j : Nat) (x : Job) : (s.setJob j x).moves = s.moves := rfl
@[simp] theorem State.setJob_backing (s : State) (j : Nat) (x : Job) : (s.setJob j x).backing = s.backing := rfl
@[simp] theorem State.setJob_clean (s : State) (j : Nat) (x : Job) : (s.setJob j x).clean = s.clean := rfl
@[simp] theorem State.setJob_cores (s : State) (j : Nat) (x : Job) : (s.setJob j x).cores = s.cores := rfl
@[simp] theorem State.setJob_dies (s : State) (j : Nat) (x : Job) : (s.setJob j x).dies = s.dies := rfl
@[simp] theorem State.setJob_coreMap (s : State) (j : Nat) (x : Job) : (s.setJob j x).coreMap = s.coreMap := rfl
@[simp] theorem State.setJob_failed (s : State) (j : Nat) (x : Job) : (s.setJob j x).failed = s.failed := rfl
@[simp] theorem State.setJob_banks (s : State) (j : Nat) (x : Job) : (s.setJob j x).banks = s.banks := rfl
@[simp] theorem State.setJob_fab (s : State) (j : Nat) (x : Job) : (s.setJob j x).fab = s.fab := rfl
@[simp] theorem State.setJob_eng (s : State) (j : Nat) (x : Job) : (s.setJob j x).eng = s.eng := rfl
@[simp] theorem State.setJob_mgmt (s : State) (j : Nat) (x : Job) : (s.setJob j x).mgmt = s.mgmt := rfl

/-! ## State.setLaunch -/

@[simp] theorem State.setLaunch_turns (s : State) (l : Nat) (x : Launch) : (s.setLaunch l x).turns = s.turns := rfl
@[simp] theorem State.setLaunch_draws (s : State) (l : Nat) (x : Launch) : (s.setLaunch l x).draws = s.draws := rfl
@[simp] theorem State.setLaunch_cur (s : State) (l : Nat) (x : Launch) : (s.setLaunch l x).cur = s.cur := rfl
@[simp] theorem State.setLaunch_nextId (s : State) (l : Nat) (x : Launch) : (s.setLaunch l x).nextId = s.nextId := rfl
@[simp] theorem State.setLaunch_mem (s : State) (l : Nat) (x : Launch) : (s.setLaunch l x).mem = s.mem := rfl
@[simp] theorem State.setLaunch_host (s : State) (l : Nat) (x : Launch) : (s.setLaunch l x).host = s.host := rfl
@[simp] theorem State.setLaunch_poison (s : State) (l : Nat) (x : Launch) : (s.setLaunch l x).poison = s.poison := rfl
@[simp] theorem State.setLaunch_warps (s : State) (l : Nat) (x : Launch) : (s.setLaunch l x).warps = s.warps := rfl
@[simp] theorem State.setLaunch_blocks (s : State) (l : Nat) (x : Launch) : (s.setLaunch l x).blocks = s.blocks := rfl
@[simp] theorem State.setLaunch_jobs (s : State) (l : Nat) (x : Launch) : (s.setLaunch l x).jobs = s.jobs := rfl
@[simp] theorem State.setLaunch_moves (s : State) (l : Nat) (x : Launch) : (s.setLaunch l x).moves = s.moves := rfl
@[simp] theorem State.setLaunch_backing (s : State) (l : Nat) (x : Launch) : (s.setLaunch l x).backing = s.backing := rfl
@[simp] theorem State.setLaunch_clean (s : State) (l : Nat) (x : Launch) : (s.setLaunch l x).clean = s.clean := rfl
@[simp] theorem State.setLaunch_cores (s : State) (l : Nat) (x : Launch) : (s.setLaunch l x).cores = s.cores := rfl
@[simp] theorem State.setLaunch_dies (s : State) (l : Nat) (x : Launch) : (s.setLaunch l x).dies = s.dies := rfl
@[simp] theorem State.setLaunch_coreMap (s : State) (l : Nat) (x : Launch) : (s.setLaunch l x).coreMap = s.coreMap := rfl
@[simp] theorem State.setLaunch_failed (s : State) (l : Nat) (x : Launch) : (s.setLaunch l x).failed = s.failed := rfl
@[simp] theorem State.setLaunch_banks (s : State) (l : Nat) (x : Launch) : (s.setLaunch l x).banks = s.banks := rfl
@[simp] theorem State.setLaunch_fab (s : State) (l : Nat) (x : Launch) : (s.setLaunch l x).fab = s.fab := rfl
@[simp] theorem State.setLaunch_eng (s : State) (l : Nat) (x : Launch) : (s.setLaunch l x).eng = { s.eng with launches := kSet s.eng.launches l x } := rfl
@[simp] theorem State.setLaunch_mgmt (s : State) (l : Nat) (x : Launch) : (s.setLaunch l x).mgmt = s.mgmt := rfl

/-! ## State.modLaunch -/

@[simp] theorem State.modLaunch_turns (s : State) (l : Nat) (f : Launch → Launch) : (s.modLaunch l f).turns = s.turns := rfl
@[simp] theorem State.modLaunch_draws (s : State) (l : Nat) (f : Launch → Launch) : (s.modLaunch l f).draws = s.draws := rfl
@[simp] theorem State.modLaunch_cur (s : State) (l : Nat) (f : Launch → Launch) : (s.modLaunch l f).cur = s.cur := rfl
@[simp] theorem State.modLaunch_nextId (s : State) (l : Nat) (f : Launch → Launch) : (s.modLaunch l f).nextId = s.nextId := rfl
@[simp] theorem State.modLaunch_mem (s : State) (l : Nat) (f : Launch → Launch) : (s.modLaunch l f).mem = s.mem := rfl
@[simp] theorem State.modLaunch_host (s : State) (l : Nat) (f : Launch → Launch) : (s.modLaunch l f).host = s.host := rfl
@[simp] theorem State.modLaunch_poison (s : State) (l : Nat) (f : Launch → Launch) : (s.modLaunch l f).poison = s.poison := rfl
@[simp] theorem State.modLaunch_warps (s : State) (l : Nat) (f : Launch → Launch) : (s.modLaunch l f).warps = s.warps := rfl
@[simp] theorem State.modLaunch_blocks (s : State) (l : Nat) (f : Launch → Launch) : (s.modLaunch l f).blocks = s.blocks := rfl
@[simp] theorem State.modLaunch_jobs (s : State) (l : Nat) (f : Launch → Launch) : (s.modLaunch l f).jobs = s.jobs := rfl
@[simp] theorem State.modLaunch_moves (s : State) (l : Nat) (f : Launch → Launch) : (s.modLaunch l f).moves = s.moves := rfl
@[simp] theorem State.modLaunch_backing (s : State) (l : Nat) (f : Launch → Launch) : (s.modLaunch l f).backing = s.backing := rfl
@[simp] theorem State.modLaunch_clean (s : State) (l : Nat) (f : Launch → Launch) : (s.modLaunch l f).clean = s.clean := rfl
@[simp] theorem State.modLaunch_cores (s : State) (l : Nat) (f : Launch → Launch) : (s.modLaunch l f).cores = s.cores := rfl
@[simp] theorem State.modLaunch_dies (s : State) (l : Nat) (f : Launch → Launch) : (s.modLaunch l f).dies = s.dies := rfl
@[simp] theorem State.modLaunch_coreMap (s : State) (l : Nat) (f : Launch → Launch) : (s.modLaunch l f).coreMap = s.coreMap := rfl
@[simp] theorem State.modLaunch_failed (s : State) (l : Nat) (f : Launch → Launch) : (s.modLaunch l f).failed = s.failed := rfl
@[simp] theorem State.modLaunch_banks (s : State) (l : Nat) (f : Launch → Launch) : (s.modLaunch l f).banks = s.banks := rfl
@[simp] theorem State.modLaunch_fab (s : State) (l : Nat) (f : Launch → Launch) : (s.modLaunch l f).fab = s.fab := rfl
@[simp] theorem State.modLaunch_eng (s : State) (l : Nat) (f : Launch → Launch) : (s.modLaunch l f).eng = { s.eng with launches := kSet s.eng.launches l (f (s.launch l)) } := rfl
@[simp] theorem State.modLaunch_mgmt (s : State) (l : Nat) (f : Launch → Launch) : (s.modLaunch l f).mgmt = s.mgmt := rfl

/-! ## State.scalarDone -/

@[simp] theorem State.scalarDone_turns (s : State) (d : BitVec 6) (v : W64) : (s.scalarDone d v).turns = s.turns := rfl
@[simp] theorem State.scalarDone_draws (s : State) (d : BitVec 6) (v : W64) : (s.scalarDone d v).draws = s.draws := rfl
@[simp] theorem State.scalarDone_cur (s : State) (d : BitVec 6) (v : W64) : (s.scalarDone d v).cur = s.cur := rfl
@[simp] theorem State.scalarDone_nextId (s : State) (d : BitVec 6) (v : W64) : (s.scalarDone d v).nextId = s.nextId := rfl
@[simp] theorem State.scalarDone_mem (s : State) (d : BitVec 6) (v : W64) : (s.scalarDone d v).mem = s.mem := rfl
@[simp] theorem State.scalarDone_host (s : State) (d : BitVec 6) (v : W64) : (s.scalarDone d v).host = s.host := rfl
@[simp] theorem State.scalarDone_poison (s : State) (d : BitVec 6) (v : W64) : (s.scalarDone d v).poison = s.poison := rfl
@[simp] theorem State.scalarDone_warps (s : State) (d : BitVec 6) (v : W64) : (s.scalarDone d v).warps = kSet s.warps s.cur.warp (nextPc (setSreg s.me d v)) := rfl
@[simp] theorem State.scalarDone_blocks (s : State) (d : BitVec 6) (v : W64) : (s.scalarDone d v).blocks = s.blocks := rfl
@[simp] theorem State.scalarDone_jobs (s : State) (d : BitVec 6) (v : W64) : (s.scalarDone d v).jobs = s.jobs := rfl
@[simp] theorem State.scalarDone_moves (s : State) (d : BitVec 6) (v : W64) : (s.scalarDone d v).moves = s.moves := rfl
@[simp] theorem State.scalarDone_backing (s : State) (d : BitVec 6) (v : W64) : (s.scalarDone d v).backing = s.backing := rfl
@[simp] theorem State.scalarDone_clean (s : State) (d : BitVec 6) (v : W64) : (s.scalarDone d v).clean = s.clean := rfl
@[simp] theorem State.scalarDone_cores (s : State) (d : BitVec 6) (v : W64) : (s.scalarDone d v).cores = s.cores := rfl
@[simp] theorem State.scalarDone_dies (s : State) (d : BitVec 6) (v : W64) : (s.scalarDone d v).dies = s.dies := rfl
@[simp] theorem State.scalarDone_coreMap (s : State) (d : BitVec 6) (v : W64) : (s.scalarDone d v).coreMap = s.coreMap := rfl
@[simp] theorem State.scalarDone_failed (s : State) (d : BitVec 6) (v : W64) : (s.scalarDone d v).failed = s.failed := rfl
@[simp] theorem State.scalarDone_banks (s : State) (d : BitVec 6) (v : W64) : (s.scalarDone d v).banks = s.banks := rfl
@[simp] theorem State.scalarDone_fab (s : State) (d : BitVec 6) (v : W64) : (s.scalarDone d v).fab = s.fab := rfl
@[simp] theorem State.scalarDone_eng (s : State) (d : BitVec 6) (v : W64) : (s.scalarDone d v).eng = s.eng := rfl
@[simp] theorem State.scalarDone_mgmt (s : State) (d : BitVec 6) (v : W64) : (s.scalarDone d v).mgmt = s.mgmt := rfl

/-! ## State.scalarNext -/

@[simp] theorem State.scalarNext_turns (s : State)  : (s.scalarNext ).turns = s.turns := rfl
@[simp] theorem State.scalarNext_draws (s : State)  : (s.scalarNext ).draws = s.draws := rfl
@[simp] theorem State.scalarNext_cur (s : State)  : (s.scalarNext ).cur = s.cur := rfl
@[simp] theorem State.scalarNext_nextId (s : State)  : (s.scalarNext ).nextId = s.nextId := rfl
@[simp] theorem State.scalarNext_mem (s : State)  : (s.scalarNext ).mem = s.mem := rfl
@[simp] theorem State.scalarNext_host (s : State)  : (s.scalarNext ).host = s.host := rfl
@[simp] theorem State.scalarNext_poison (s : State)  : (s.scalarNext ).poison = s.poison := rfl
@[simp] theorem State.scalarNext_warps (s : State)  : (s.scalarNext ).warps = kSet s.warps s.cur.warp (nextPc s.me) := rfl
@[simp] theorem State.scalarNext_blocks (s : State)  : (s.scalarNext ).blocks = s.blocks := rfl
@[simp] theorem State.scalarNext_jobs (s : State)  : (s.scalarNext ).jobs = s.jobs := rfl
@[simp] theorem State.scalarNext_moves (s : State)  : (s.scalarNext ).moves = s.moves := rfl
@[simp] theorem State.scalarNext_backing (s : State)  : (s.scalarNext ).backing = s.backing := rfl
@[simp] theorem State.scalarNext_clean (s : State)  : (s.scalarNext ).clean = s.clean := rfl
@[simp] theorem State.scalarNext_cores (s : State)  : (s.scalarNext ).cores = s.cores := rfl
@[simp] theorem State.scalarNext_dies (s : State)  : (s.scalarNext ).dies = s.dies := rfl
@[simp] theorem State.scalarNext_coreMap (s : State)  : (s.scalarNext ).coreMap = s.coreMap := rfl
@[simp] theorem State.scalarNext_failed (s : State)  : (s.scalarNext ).failed = s.failed := rfl
@[simp] theorem State.scalarNext_banks (s : State)  : (s.scalarNext ).banks = s.banks := rfl
@[simp] theorem State.scalarNext_fab (s : State)  : (s.scalarNext ).fab = s.fab := rfl
@[simp] theorem State.scalarNext_eng (s : State)  : (s.scalarNext ).eng = s.eng := rfl
@[simp] theorem State.scalarNext_mgmt (s : State)  : (s.scalarNext ).mgmt = s.mgmt := rfl

/-! ## Reads after updates -/

@[simp] theorem State.warp_setWarp (s : State) (w k : Nat) (x : Warp) :
    (s.setWarp w x).warp k = if k = w then x else s.warp k := kGet_kSet _ _ _ _
@[simp] theorem State.block_setBlock (s : State) (b k : Nat) (x : Block) :
    (s.setBlock b x).block k = if k = b then x else s.block k := kGet_kSet _ _ _ _
@[simp] theorem State.core_setCore (s : State) (c k : Nat) (x : Core) :
    (s.setCore c x).core k = if k = c then x else s.core k := kGet_kSet _ _ _ _
@[simp] theorem State.die_setDie (s : State) (d k : Nat) (x : Die) :
    (s.setDie d x).die k = if k = d then x else s.die k := kGet_kSet _ _ _ _
@[simp] theorem State.job_setJob (s : State) (j k : Nat) (x : Job) :
    (s.setJob j x).job k = if k = j then x else s.job k := kGet_kSet _ _ _ _
@[simp] theorem State.launch_setLaunch (s : State) (l k : Nat) (x : Launch) :
    (s.setLaunch l x).launch k = if k = l then x else s.launch k := kGet_kSet _ _ _ _
@[simp] theorem State.setWarp_block (s : State) (w : Nat) (x : Warp) (k : Nat) : (s.setWarp w x).block k = s.block k := rfl
@[simp] theorem State.setWarp_core (s : State) (w : Nat) (x : Warp) (k : Nat) : (s.setWarp w x).core k = s.core k := rfl
@[simp] theorem State.setWarp_die (s : State) (w : Nat) (x : Warp) (k : Nat) : (s.setWarp w x).die k = s.die k := rfl
@[simp] theorem State.setWarp_job (s : State) (w : Nat) (x : Warp) (k : Nat) : (s.setWarp w x).job k = s.job k := rfl
@[simp] theorem State.setWarp_launch (s : State) (w : Nat) (x : Warp) (k : Nat) : (s.setWarp w x).launch k = s.launch k := rfl
@[simp] theorem State.setMe_block (s : State) (x : Warp) (k : Nat) : (s.setMe x).block k = s.block k := rfl
@[simp] theorem State.setMe_core (s : State) (x : Warp) (k : Nat) : (s.setMe x).core k = s.core k := rfl
@[simp] theorem State.setMe_die (s : State) (x : Warp) (k : Nat) : (s.setMe x).die k = s.die k := rfl
@[simp] theorem State.setMe_job (s : State) (x : Warp) (k : Nat) : (s.setMe x).job k = s.job k := rfl
@[simp] theorem State.setMe_launch (s : State) (x : Warp) (k : Nat) : (s.setMe x).launch k = s.launch k := rfl
@[simp] theorem State.setBlock_warp (s : State) (b : Nat) (x : Block) (k : Nat) : (s.setBlock b x).warp k = s.warp k := rfl
@[simp] theorem State.setBlock_core (s : State) (b : Nat) (x : Block) (k : Nat) : (s.setBlock b x).core k = s.core k := rfl
@[simp] theorem State.setBlock_die (s : State) (b : Nat) (x : Block) (k : Nat) : (s.setBlock b x).die k = s.die k := rfl
@[simp] theorem State.setBlock_job (s : State) (b : Nat) (x : Block) (k : Nat) : (s.setBlock b x).job k = s.job k := rfl
@[simp] theorem State.setBlock_launch (s : State) (b : Nat) (x : Block) (k : Nat) : (s.setBlock b x).launch k = s.launch k := rfl
@[simp] theorem State.setBlock_me (s : State) (b : Nat) (x : Block) : (s.setBlock b x).me = s.me := rfl
@[simp] theorem State.setBlock_myPath (s : State) (b : Nat) (x : Block) : (s.setBlock b x).myPath = s.myPath := rfl
@[simp] theorem State.setCore_warp (s : State) (c : Nat) (x : Core) (k : Nat) : (s.setCore c x).warp k = s.warp k := rfl
@[simp] theorem State.setCore_block (s : State) (c : Nat) (x : Core) (k : Nat) : (s.setCore c x).block k = s.block k := rfl
@[simp] theorem State.setCore_die (s : State) (c : Nat) (x : Core) (k : Nat) : (s.setCore c x).die k = s.die k := rfl
@[simp] theorem State.setCore_job (s : State) (c : Nat) (x : Core) (k : Nat) : (s.setCore c x).job k = s.job k := rfl
@[simp] theorem State.setCore_launch (s : State) (c : Nat) (x : Core) (k : Nat) : (s.setCore c x).launch k = s.launch k := rfl
@[simp] theorem State.setCore_me (s : State) (c : Nat) (x : Core) : (s.setCore c x).me = s.me := rfl
@[simp] theorem State.setCore_myPath (s : State) (c : Nat) (x : Core) : (s.setCore c x).myPath = s.myPath := rfl
@[simp] theorem State.setDie_warp (s : State) (d : Nat) (x : Die) (k : Nat) : (s.setDie d x).warp k = s.warp k := rfl
@[simp] theorem State.setDie_block (s : State) (d : Nat) (x : Die) (k : Nat) : (s.setDie d x).block k = s.block k := rfl
@[simp] theorem State.setDie_core (s : State) (d : Nat) (x : Die) (k : Nat) : (s.setDie d x).core k = s.core k := rfl
@[simp] theorem State.setDie_job (s : State) (d : Nat) (x : Die) (k : Nat) : (s.setDie d x).job k = s.job k := rfl
@[simp] theorem State.setDie_launch (s : State) (d : Nat) (x : Die) (k : Nat) : (s.setDie d x).launch k = s.launch k := rfl
@[simp] theorem State.setDie_me (s : State) (d : Nat) (x : Die) : (s.setDie d x).me = s.me := rfl
@[simp] theorem State.setDie_myPath (s : State) (d : Nat) (x : Die) : (s.setDie d x).myPath = s.myPath := rfl
@[simp] theorem State.setJob_warp (s : State) (j : Nat) (x : Job) (k : Nat) : (s.setJob j x).warp k = s.warp k := rfl
@[simp] theorem State.setJob_block (s : State) (j : Nat) (x : Job) (k : Nat) : (s.setJob j x).block k = s.block k := rfl
@[simp] theorem State.setJob_core (s : State) (j : Nat) (x : Job) (k : Nat) : (s.setJob j x).core k = s.core k := rfl
@[simp] theorem State.setJob_die (s : State) (j : Nat) (x : Job) (k : Nat) : (s.setJob j x).die k = s.die k := rfl
@[simp] theorem State.setJob_launch (s : State) (j : Nat) (x : Job) (k : Nat) : (s.setJob j x).launch k = s.launch k := rfl
@[simp] theorem State.setJob_me (s : State) (j : Nat) (x : Job) : (s.setJob j x).me = s.me := rfl
@[simp] theorem State.setJob_myPath (s : State) (j : Nat) (x : Job) : (s.setJob j x).myPath = s.myPath := rfl
@[simp] theorem State.setLaunch_warp (s : State) (l : Nat) (x : Launch) (k : Nat) : (s.setLaunch l x).warp k = s.warp k := rfl
@[simp] theorem State.setLaunch_block (s : State) (l : Nat) (x : Launch) (k : Nat) : (s.setLaunch l x).block k = s.block k := rfl
@[simp] theorem State.setLaunch_core (s : State) (l : Nat) (x : Launch) (k : Nat) : (s.setLaunch l x).core k = s.core k := rfl
@[simp] theorem State.setLaunch_die (s : State) (l : Nat) (x : Launch) (k : Nat) : (s.setLaunch l x).die k = s.die k := rfl
@[simp] theorem State.setLaunch_job (s : State) (l : Nat) (x : Launch) (k : Nat) : (s.setLaunch l x).job k = s.job k := rfl
@[simp] theorem State.setLaunch_me (s : State) (l : Nat) (x : Launch) : (s.setLaunch l x).me = s.me := rfl
@[simp] theorem State.setLaunch_myPath (s : State) (l : Nat) (x : Launch) : (s.setLaunch l x).myPath = s.myPath := rfl
@[simp] theorem State.modBlock_warp (s : State) (b : Nat) (f : Block → Block) (k : Nat) : (s.modBlock b f).warp k = s.warp k := rfl
@[simp] theorem State.modBlock_core (s : State) (b : Nat) (f : Block → Block) (k : Nat) : (s.modBlock b f).core k = s.core k := rfl
@[simp] theorem State.modBlock_die (s : State) (b : Nat) (f : Block → Block) (k : Nat) : (s.modBlock b f).die k = s.die k := rfl
@[simp] theorem State.modBlock_job (s : State) (b : Nat) (f : Block → Block) (k : Nat) : (s.modBlock b f).job k = s.job k := rfl
@[simp] theorem State.modBlock_launch (s : State) (b : Nat) (f : Block → Block) (k : Nat) : (s.modBlock b f).launch k = s.launch k := rfl
@[simp] theorem State.modBlock_me (s : State) (b : Nat) (f : Block → Block) : (s.modBlock b f).me = s.me := rfl
@[simp] theorem State.modBlock_myPath (s : State) (b : Nat) (f : Block → Block) : (s.modBlock b f).myPath = s.myPath := rfl
@[simp] theorem State.modLaunch_warp (s : State) (l : Nat) (f : Launch → Launch) (k : Nat) : (s.modLaunch l f).warp k = s.warp k := rfl
@[simp] theorem State.modLaunch_block (s : State) (l : Nat) (f : Launch → Launch) (k : Nat) : (s.modLaunch l f).block k = s.block k := rfl
@[simp] theorem State.modLaunch_core (s : State) (l : Nat) (f : Launch → Launch) (k : Nat) : (s.modLaunch l f).core k = s.core k := rfl
@[simp] theorem State.modLaunch_die (s : State) (l : Nat) (f : Launch → Launch) (k : Nat) : (s.modLaunch l f).die k = s.die k := rfl
@[simp] theorem State.modLaunch_job (s : State) (l : Nat) (f : Launch → Launch) (k : Nat) : (s.modLaunch l f).job k = s.job k := rfl
@[simp] theorem State.modLaunch_me (s : State) (l : Nat) (f : Launch → Launch) : (s.modLaunch l f).me = s.me := rfl
@[simp] theorem State.modLaunch_myPath (s : State) (l : Nat) (f : Launch → Launch) : (s.modLaunch l f).myPath = s.myPath := rfl

/-- The current warp after it has been replaced. -/
@[simp] theorem State.setMe_me (s : State) (x : Warp) : (s.setMe x).me = x := by
  simp [State.me, State.setMe]

@[simp] theorem State.setMe_warp (s : State) (x : Warp) (k : Nat) :
    (s.setMe x).warp k = if k = s.cur.warp then x else s.warp k := by
  simp [State.setMe]

/-- Replacing the current warp twice leaves the second. -/
@[simp] theorem State.setMe_setMe (s : State) (x y : Warp) : (s.setMe x).setMe y = s.setMe y := by
  simp [State.setMe, State.setWarp]

@[simp] theorem State.setMe_myPath (s : State) (x : Warp) : (s.setMe x).myPath = warpPath x s.cur.path := by
  simp [State.myPath]

end Sys2Proof.Machine
end

