-- ==== Sys2Proof/Laws/Scalar.lean ====
section
/-! SUPPORT. What the shared scalar operations do: registers, the end of a scalar instruction, its waits. -/

namespace Sys2Proof.Machine

/-! ## Scalar registers -/

/-- s0 reads zero (R29). -/
@[simp] theorem sreg_zero (x : Warp) : sreg x 0#6 = 0#64 := rfl

/-- A register after a write: s0 stays zero, the register written has the value, the others what they had (R57). -/
@[simp] theorem sreg_setSreg (x : Warp) (d r : BitVec 6) (v : W64) :
    sreg (setSreg x d v) r = if r = 0#6 then 0#64 else if r = d then v else sreg x r := by
  have key : r ≠ d → r.toNat ≠ d.toNat := fun h e => h (BitVec.eq_of_toNat_eq e)
  unfold sreg setSreg
  split_ifs <;> simp_all

theorem setSreg_rest (x : Warp) (d : BitVec 6) (v : W64) : scalarRest (setSreg x d v) = scalarRest x := by
  unfold setSreg scalarRest; split <;> rfl

@[simp] theorem sreg_nextPc (x : Warp) (r : BitVec 6) : sreg (nextPc x) r = sreg x r := rfl
@[simp] theorem sreg_jumpPc (x : Warp) (t : W64) (r : BitVec 6) : sreg (jumpPc x t) r = sreg x r := rfl
@[simp] theorem nextPc_pc (x : Warp) : (nextPc x).pc = x.pc + 4 := rfl
@[simp] theorem jumpPc_pc (x : Warp) (t : W64) : (jumpPc x t).pc = t := rfl
@[simp] theorem setSreg_pc (x : Warp) (d : BitVec 6) (v : W64) : (setSreg x d v).pc = x.pc := by
  unfold setSreg; split <;> rfl

/-! ## Replacing the current warp -/

/-- Replacing the current warp changes nothing else. -/
theorem OnlyWarp.setMe (s : State) (x : Warp) : OnlyWarp s.cur.warp s (s.setMe x) :=
  ⟨fun v hv => by simp [hv], rfl⟩

/-- The same for any warp. -/
theorem OnlyWarp.setWarp (s : State) (w : Nat) (x : Warp) : OnlyWarp w s (s.setWarp w x) :=
  ⟨fun v hv => by simp [hv], rfl⟩

/-- Memory, blocks, launches: all but the warps stand as before. -/
theorem OnlyWarp.mem {w : Nat} {s t : State} (h : OnlyWarp w s t) : t.mem = s.mem :=
  (congrArg State.mem h.rest :)

/-! ## The end of a scalar instruction -/

/-- `scalarDone` writes its register and goes to the next instruction. -/
theorem scalarDone_writes (s : State) (d : BitVec 6) (v : W64) :
    ScalarWrites s (s.scalarDone d v) d v (s.me.pc + 4) where
  warps v hv := by simp [hv, State.scalarDone]
  value := by simp [State.scalarDone]
  others r hr := by simp only [State.scalarDone, State.setMe_me, sreg_nextPc, sreg_setSreg, if_neg hr]; split <;> simp_all
  next := by simp [State.scalarDone]
  free := by simp [State.scalarDone, nextPc]
  kept := by simpa [State.scalarDone, nextPc, scalarRest] using setSreg_rest s.me d v
  rest := rfl

/-- `scalarNext` goes to the next instruction. -/
theorem scalarNext_goes (s : State) : ScalarGoes s s.scalarNext (s.me.pc + 4) where
  warps v hv := by simp [hv, State.scalarNext]
  value := sreg_zero _
  others r _ := by simp [State.scalarNext]
  next := by simp [State.scalarNext]
  free := by simp [State.scalarNext, nextPc]
  kept := by simp [State.scalarNext, scalarRest, nextPc]
  rest := rfl

/-- A jump goes to its target. -/
theorem jump_goes (s : State) (t : W64) : ScalarGoes s (s.setMe (jumpPc s.me t)) t where
  warps v hv := by simp [hv]
  value := sreg_zero _
  others r _ := by simp
  next := by simp
  free := by simp [jumpPc]
  kept := by simp [scalarRest, jumpPc]
  rest := rfl

/-- A two-source arithmetic instruction that need not wait writes its value. -/
theorem aluRR_writes (s : State) (d a b : BitVec 6) (f : W64 → W64 → W64) (h : sregWait s.me [d, a, b] = false) :
    ScalarWrites s (s.aluRR d a b f) d (f (sreg s.me a) (sreg s.me b)) (s.me.pc + 4) := by
  simpa [State.aluRR, h] using scalarDone_writes s d _

/-- The same with an immediate. -/
theorem aluRI_writes (s : State) (d a : BitVec 6) (f : W64 → W64) (h : sregWait s.me [d, a] = false) :
    ScalarWrites s (s.aluRI d a f) d (f (sreg s.me a)) (s.me.pc + 4) := by
  simpa [State.aluRI, h] using scalarDone_writes s d _

/-- While an instruction waits for lane blocks, an arithmetic attempt changes nothing (R31). -/
theorem aluRR_waits (s : State) (d a b : BitVec 6) (f : W64 → W64 → W64) (h : sregWait s.me [d, a, b] = true) :
    s.aluRR d a b f = s := by simp [State.aluRR, h]

/-- A conditional branch that need not wait goes to its target or on. -/
theorem branchC_goes (s : State) (cc : Nat) (a b : BitVec 6) (o : BitVec 11) (h : sregWait s.me [a, b] = false) :
    ScalarGoes s (s.branchC cc a b o)
      (if condS cc (sreg s.me a) (sreg s.me b) then target s.me o else s.me.pc + 4) := by
  unfold State.branchC
  simp only [h, Bool.false_eq_true, if_false]
  split
  · exact jump_goes s _
  · exact scalarNext_goes s

/-- A jump through a register whose target is aligned goes there. -/
theorem jumpReg_goes (s : State) (a : BitVec 6) (h : sregWait s.me [a] = false) (ha : (sreg s.me a).toNat % 4 = 0) :
    ScalarGoes s (s.jumpReg a) (sreg s.me a) := by
  simpa [State.jumpReg, h, ha] using jump_goes s _

end Sys2Proof.Machine
end

