-- ==== Sys2Proof/Laws/Memory.lean ====
section
/-! SUPPORT. What the shared memory operations do: stores, the gates and pennants they meet, the digest, the checks. -/

namespace Sys2Proof.Machine

/-! ## Stores (R166, R326, R350) -/

/-- Testing the watched pennant words changes only the launch engine. -/
theorem watchStore_rest (s : State) (pa n : Nat) : { s.watchStore pa n with eng := s.eng } = s := rfl

@[simp] theorem watchStore_mem (s : State) (pa n : Nat) : (s.watchStore pa n).mem = s.mem := rfl

/-- A store changes only memory, the clean frames and the pennant waits. -/
theorem storeAt_rest (s : State) (pte : W64) (pa : Nat) (bs : List Byte) :
    { s.storeAt pte pa bs with mem := s.mem, clean := s.clean, eng := s.eng } = s := by
  unfold State.storeAt
  split <;> rfl

@[simp] theorem storeAt_warps (s : State) (pte : W64) (pa : Nat) (bs : List Byte) :
    (s.storeAt pte pa bs).warps = s.warps := by
  unfold State.storeAt; split <;> rfl

@[simp] theorem storeAt_cur (s : State) (pte : W64) (pa : Nat) (bs : List Byte) : (s.storeAt pte pa bs).cur = s.cur := by
  unfold State.storeAt; split <;> rfl

@[simp] theorem storeAt_blocks (s : State) (pte : W64) (pa : Nat) (bs : List Byte) :
    (s.storeAt pte pa bs).blocks = s.blocks := by
  unfold State.storeAt; split <;> rfl

@[simp] theorem storeAt_host (s : State) (pte : W64) (pa : Nat) (bs : List Byte) :
    (s.storeAt pte pa bs).host = s.host := by
  unfold State.storeAt; split <;> rfl

/-- The memory a store leaves. -/
theorem storeAt_mem (s : State) (pte : W64) (pa : Nat) (bs : List Byte) :
    (s.storeAt pte pa bs).mem =
      if pteKind pte = 2 then markStale (writeBytes s.mem pa bs) (staleFlags pte pa bs.length)
      else writeBytes s.mem pa bs := by
  unfold State.storeAt; split <;> rfl

/-- Setting STALE flags keeps the canonical form. -/
theorem markStale_wf (fs : List Nat) (m : Memory) (h : Memory.wf m) : Memory.wf (markStale m fs) := by
  induction fs generalizing m with
  | nil => exact h
  | cons f t ih => exact ih _ (memSet_wf _ _ _ h)

/-- Setting STALE flags leaves every other byte alone. -/
theorem spGet_markStale_out (fs : List Nat) (m : Memory) (a : Nat) (h : a ∉ fs) : spGet (markStale m fs) a = spGet m a := by
  induction fs generalizing m with
  | nil => rfl
  | cons f t ih =>
    simp only [List.mem_cons, not_or] at h
    exact (ih _ h.2).trans (by rw [spGet_spSet, if_neg h.1])

/-- A STALE flag once set stays set. -/
theorem markStale_keeps (fs : List Nat) (m : Memory) (a : Nat) (h : (spGet m a).getLsbD 0 = true) :
    (spGet (markStale m fs) a).getLsbD 0 = true := by
  induction fs generalizing m with
  | nil => exact h
  | cons f t ih =>
    refine ih _ ?_
    rw [spGet_spSet]
    split
    · next e => subst e; simp
    · exact h

/-- Setting STALE flags sets each. -/
theorem markStale_bit (fs : List Nat) (m : Memory) (a : Nat) (h : a ∈ fs) :
    (spGet (markStale m fs) a).getLsbD 0 = true := by
  induction fs generalizing m with
  | nil => cases h
  | cons f t ih =>
    by_cases hf : a ∈ t
    · exact ih _ hf
    · have : a = f := by simpa [hf] using h
      subst this
      exact markStale_keeps t _ a (by simp [spGet_spSet])

/-- The STALE bytes of a store are the flag bytes its frames have. -/
theorem staleByte_iff {pte : W64} {pa n a : Nat} (hk : pteKind pte = 2) :
    staleByte pte pa n a ↔ a ∈ staleFlags pte pa n := by
  unfold staleByte staleFlags
  have hz : 4 < 2 ^ (pteFsz pte + 8) := by
    have : 2 ^ 8 ≤ 2 ^ (pteFsz pte + 8) := Nat.pow_le_pow_right (by omega) (by omega)
    omega
  generalize 2 ^ (pteFsz pte + 8) = z at hz
  simp only [hk, true_and, List.mem_map, List.mem_range]
  constructor
  · rintro ⟨h1, h2, h3⟩
    refine ⟨a / z - pa / z, by omega, ?_⟩
    have := Nat.div_add_mod a z
    rw [Nat.mul_comm] at this
    rw [show pa / z + (a / z - pa / z) = a / z by omega]
    omega
  · rintro ⟨i, hi, rfl⟩
    have h1 : ((pa / z + i) * z + 4) % z = 4 := by
      rw [Nat.add_comm, Nat.add_mul_mod_self_right, Nat.mod_eq_of_lt hz]
    have h2 : ((pa / z + i) * z + 4) / z = pa / z + i := by
      rw [Nat.add_comm, Nat.add_mul_div_right _ _ (by omega), Nat.div_eq_of_lt hz]; omega
    omega

/-- A store keeps the canonical form of memory. -/
theorem storeAt_form (s : State) (pte : W64) (pa : Nat) (bs : List Byte) (h : s.memForm) :
    (s.storeAt pte pa bs).memForm := by
  refine ⟨?_, by simpa using h.2⟩
  rw [storeAt_mem]
  split
  · exact markStale_wf _ _ (writeBytes_wf _ _ _ h.1)
  · exact writeBytes_wf _ _ _ h.1

/-- A store leaves exactly its bytes, and the STALE flags of the SUMMARISED frames it meets. -/
theorem storeAt_stores (s : State) (pte : W64) (pa : Nat) (bs : List Byte) : StoresAt s (s.storeAt pte pa bs) pte pa bs where
  stored i hi hs := by
    unfold State.byteAt
    rw [storeAt_mem]
    split
    next hk =>
      rw [spGet_markStale_out _ _ _ fun e => hs ((staleByte_iff hk).2 e), spGet_writeBytes, if_pos (by omega)]
      congr 1; omega
    next => rw [spGet_writeBytes, if_pos (by omega)]; congr 1; omega
  stale a ha := by
    unfold State.byteAt
    rw [storeAt_mem, if_pos ha.1]
    exact markStale_bit _ _ _ ((staleByte_iff ha.1).1 ha)
  kept a ha hs := by
    unfold State.byteAt
    rw [storeAt_mem]
    split
    next hk =>
      rw [spGet_markStale_out _ _ _ fun e => hs ((staleByte_iff hk).2 e), spGet_writeBytes_out _ _ _ _ ha]
    next => rw [spGet_writeBytes_out _ _ _ _ ha]

/-! ## Gates and the digest -/

/-- Setting NONDET changes only the launch engine. -/
theorem setNondet_rest (s : State) (l : Nat) : { s.setNondet l with eng := s.eng } = s := rfl

/-- Noting a store to gated lines changes only the launch engine. -/
theorem noteGated_rest (s : State) (agent : Option Nat) (atomic : Bool) (pa n : Nat) :
    { s.noteGated agent atomic pa n with eng := s.eng } = s := by
  unfold State.noteGated
  generalize s.gateOwners false pa n = ls
  induction ls generalizing s with
  | nil => rfl
  | cons l t ih =>
    rw [List.foldl_cons]
    by_cases h : (atomic && agent == some l) = true
    · rw [if_pos h]; exact ih s
    · rw [if_neg h]
      have := ih (s.setNondet l)
      have h2 : ∀ u : State, { u with eng := (s.setNondet l).eng } = s.setNondet l → { u with eng := s.eng } = s := fun u hu => by
        have := congrArg (fun v : State => { v with eng := s.eng }) hu
        exact this
      exact h2 _ this

/-- A state equal to another but for its launch engine has the other's fields. -/
theorem noteGated_keeps {α : Type} (f : State → α) (hf : ∀ (s : State) (e : LaunchEng), f { s with eng := e } = f s)
    (s : State) (agent : Option Nat) (atomic : Bool) (pa n : Nat) : f (s.noteGated agent atomic pa n) = f s := by
  rw [← hf (s.noteGated agent atomic pa n) s.eng, noteGated_rest]

@[simp] theorem noteGated_mem (s : State) (agent : Option Nat) (atomic : Bool) (pa n : Nat) :
    (s.noteGated agent atomic pa n).mem = s.mem := noteGated_keeps State.mem (fun _ _ => rfl) ..
@[simp] theorem noteGated_warps (s : State) (agent : Option Nat) (atomic : Bool) (pa n : Nat) :
    (s.noteGated agent atomic pa n).warps = s.warps := noteGated_keeps State.warps (fun _ _ => rfl) ..
@[simp] theorem noteGated_cur (s : State) (agent : Option Nat) (atomic : Bool) (pa n : Nat) :
    (s.noteGated agent atomic pa n).cur = s.cur := noteGated_keeps State.cur (fun _ _ => rfl) ..
@[simp] theorem noteGated_host (s : State) (agent : Option Nat) (atomic : Bool) (pa n : Nat) :
    (s.noteGated agent atomic pa n).host = s.host := noteGated_keeps State.host (fun _ _ => rfl) ..
@[simp] theorem noteGated_blocks (s : State) (agent : Option Nat) (atomic : Bool) (pa n : Nat) :
    (s.noteGated agent atomic pa n).blocks = s.blocks := noteGated_keeps State.blocks (fun _ _ => rfl) ..

/-- The digest terms of a store change only a block. -/
theorem digest_rest (s : State) (id : Nat) (ea : W64) (bs : List Byte) : { s.digest id ea bs with blocks := s.blocks } = s := rfl
@[simp] theorem digest_mem (s : State) (id : Nat) (ea : W64) (bs : List Byte) : (s.digest id ea bs).mem = s.mem := rfl
@[simp] theorem digest_warps (s : State) (id : Nat) (ea : W64) (bs : List Byte) : (s.digest id ea bs).warps = s.warps := rfl
@[simp] theorem digest_cur (s : State) (id : Nat) (ea : W64) (bs : List Byte) : (s.digest id ea bs).cur = s.cur := rfl
@[simp] theorem digest_host (s : State) (id : Nat) (ea : W64) (bs : List Byte) : (s.digest id ea bs).host = s.host := rfl

/-- A warp's store changes no warp, and memory as the store does. -/
@[simp] theorem warpStore_warps (s : State) (pte : W64) (pa : Nat) (bs : List Byte) :
    (s.warpStore pte pa bs).warps = s.warps := by simp [State.warpStore]
@[simp] theorem warpStore_cur (s : State) (pte : W64) (pa : Nat) (bs : List Byte) :
    (s.warpStore pte pa bs).cur = s.cur := by simp [State.warpStore]
@[simp] theorem warpStore_blocks (s : State) (pte : W64) (pa : Nat) (bs : List Byte) :
    (s.warpStore pte pa bs).blocks = s.blocks := by simp [State.warpStore]
theorem warpStore_mem (s : State) (pte : W64) (pa : Nat) (bs : List Byte) :
    (s.warpStore pte pa bs).mem = (s.storeAt pte pa bs).mem := by simp [State.warpStore]

/-- A state whose memory is that a store leaves has the store's bytes. -/
theorem StoresAt.of_mem {s t : State} {pte : W64} {pa : Nat} {bs : List Byte} (h : t.mem = (s.storeAt pte pa bs).mem) :
    StoresAt s t pte pa bs := by
  have hs := storeAt_stores s pte pa bs
  have hb : ∀ a, t.byteAt a = (s.storeAt pte pa bs).byteAt a := fun a => by unfold State.byteAt; rw [h]
  exact ⟨fun i hi hq => (hb _).trans (hs.stored i hi hq), fun a ha => by rw [hb]; exact hs.stale a ha,
    fun a ha hq => (hb a).trans (hs.kept a ha hq)⟩

/-! ## Checks (R10, R139) -/

/-- The current warp and its launch are those of any state with the same cursor, warps and launches. -/
theorem me_congr {s t : State} (hc : t.cur = s.cur) (hw : t.warps = s.warps) : t.me = s.me := by
  simp [State.me, State.warp, hc, hw]

end Sys2Proof.Machine
end

