-- ==== Sys2Proof/Laws/PerInstr.lean ====
section
/-! SUPPORT. Families of statements made of every instruction, one lemma each: WordCount says how many words an encoding
has. -/

namespace Sys2Proof.Laws.WordCount

/-- An instruction that has an encoding has one word or three (R40, R43). -/
def Statement (i : Instr) : Prop := ∀ ws, encode i = some ws → ws.length = 1 ∨ ws.length = 3

/-- One word, from `encodeScalar`. -/
theorem oneWord {base d a low : Nat} {ws : List W32} (h : encodeScalar base d a low = some ws) :
    ws.length = 1 ∨ ws.length = 3 := .inl (Option.some.inj h ▸ rfl)

/-- Three words, from `encodeLane`. -/
theorem threeWords {op : Nat} {f : LaneF} {ws : List W32} (h : some (encodeLane op f) = some ws) :
    ws.length = 1 ∨ ws.length = 3 := .inr (Option.some.inj h ▸ rfl)

/-- No words. -/
theorem noWords {ws : List W32} (h : (none : Option (List W32)) = some ws) : ws.length = 1 ∨ ws.length = 3 :=
  absurd h nofun

theorem add (d : BitVec 6) (a : BitVec 6) (b : BitVec 6) : Statement (.add d a b) :=
  fun _ h => oneWord h
theorem sub (d : BitVec 6) (a : BitVec 6) (b : BitVec 6) : Statement (.sub d a b) :=
  fun _ h => oneWord h
theorem mul (d : BitVec 6) (a : BitVec 6) (b : BitVec 6) : Statement (.mul d a b) :=
  fun _ h => oneWord h
theorem mulh (d : BitVec 6) (a : BitVec 6) (b : BitVec 6) : Statement (.mulh d a b) :=
  fun _ h => oneWord h
theorem mulhn (d : BitVec 6) (a : BitVec 6) (b : BitVec 6) : Statement (.mulhn d a b) :=
  fun _ h => oneWord h
theorem div (d : BitVec 6) (a : BitVec 6) (b : BitVec 6) : Statement (.div d a b) :=
  fun _ h => oneWord h
theorem divn (d : BitVec 6) (a : BitVec 6) (b : BitVec 6) : Statement (.divn d a b) :=
  fun _ h => oneWord h
theorem rem (d : BitVec 6) (a : BitVec 6) (b : BitVec 6) : Statement (.rem d a b) :=
  fun _ h => oneWord h
theorem remn (d : BitVec 6) (a : BitVec 6) (b : BitVec 6) : Statement (.remn d a b) :=
  fun _ h => oneWord h
theorem and (d : BitVec 6) (a : BitVec 6) (b : BitVec 6) : Statement (.and d a b) :=
  fun _ h => oneWord h
theorem or (d : BitVec 6) (a : BitVec 6) (b : BitVec 6) : Statement (.or d a b) :=
  fun _ h => oneWord h
theorem xor (d : BitVec 6) (a : BitVec 6) (b : BitVec 6) : Statement (.xor d a b) :=
  fun _ h => oneWord h
theorem shl (d : BitVec 6) (a : BitVec 6) (b : BitVec 6) : Statement (.shl d a b) :=
  fun _ h => oneWord h
theorem shr (d : BitVec 6) (a : BitVec 6) (b : BitVec 6) : Statement (.shr d a b) :=
  fun _ h => oneWord h
theorem sar (d : BitVec 6) (a : BitVec 6) (b : BitVec 6) : Statement (.sar d a b) :=
  fun _ h => oneWord h
theorem min (d : BitVec 6) (a : BitVec 6) (b : BitVec 6) : Statement (.min d a b) :=
  fun _ h => oneWord h
theorem max (d : BitVec 6) (a : BitVec 6) (b : BitVec 6) : Statement (.max d a b) :=
  fun _ h => oneWord h
theorem minn (d : BitVec 6) (a : BitVec 6) (b : BitVec 6) : Statement (.minn d a b) :=
  fun _ h => oneWord h
theorem maxn (d : BitVec 6) (a : BitVec 6) (b : BitVec 6) : Statement (.maxn d a b) :=
  fun _ h => oneWord h
theorem setcEq (d : BitVec 6) (a : BitVec 6) (b : BitVec 6) : Statement (.setcEq d a b) :=
  fun _ h => oneWord h
theorem setcNe (d : BitVec 6) (a : BitVec 6) (b : BitVec 6) : Statement (.setcNe d a b) :=
  fun _ h => oneWord h
theorem setcLt (d : BitVec 6) (a : BitVec 6) (b : BitVec 6) : Statement (.setcLt d a b) :=
  fun _ h => oneWord h
theorem setcGe (d : BitVec 6) (a : BitVec 6) (b : BitVec 6) : Statement (.setcGe d a b) :=
  fun _ h => oneWord h
theorem setcLtn (d : BitVec 6) (a : BitVec 6) (b : BitVec 6) : Statement (.setcLtn d a b) :=
  fun _ h => oneWord h
theorem setcGen (d : BitVec 6) (a : BitVec 6) (b : BitVec 6) : Statement (.setcGen d a b) :=
  fun _ h => oneWord h
theorem addi (d : BitVec 6) (a : BitVec 6) (i : BitVec 14) : Statement (.addi d a i) :=
  fun _ h => oneWord h
theorem andi (d : BitVec 6) (a : BitVec 6) (i : BitVec 14) : Statement (.andi d a i) :=
  fun _ h => oneWord h
theorem ori (d : BitVec 6) (a : BitVec 6) (i : BitVec 14) : Statement (.ori d a i) :=
  fun _ h => oneWord h
theorem xori (d : BitVec 6) (a : BitVec 6) (i : BitVec 14) : Statement (.xori d a i) :=
  fun _ h => oneWord h
theorem shli (d : BitVec 6) (a : BitVec 6) (i : BitVec 6) : Statement (.shli d a i) :=
  fun _ h => oneWord h
theorem shri (d : BitVec 6) (a : BitVec 6) (i : BitVec 6) : Statement (.shri d a i) :=
  fun _ h => oneWord h
theorem sari (d : BitVec 6) (a : BitVec 6) (i : BitVec 6) : Statement (.sari d a i) :=
  fun _ h => oneWord h
theorem li (d : BitVec 6) (i : BitVec 14) : Statement (.li d i) :=
  fun _ h => oneWord h
theorem lih (d : BitVec 6) (i : BitVec 20) : Statement (.lih d i) :=
  fun _ h => oneWord h
theorem orl (d : BitVec 6) (i : BitVec 20) : Statement (.orl d i) :=
  fun _ h => oneWord h
theorem b (o : BitVec 26) : Statement (.b o) :=
  fun _ h => oneWord h
theorem call (o : BitVec 26) : Statement (.call o) :=
  fun _ h => oneWord h
theorem bcEq (a : BitVec 6) (b : BitVec 6) (o : BitVec 11) : Statement (.bcEq a b o) :=
  fun _ h => oneWord h
theorem bcNe (a : BitVec 6) (b : BitVec 6) (o : BitVec 11) : Statement (.bcNe a b o) :=
  fun _ h => oneWord h
theorem bcLt (a : BitVec 6) (b : BitVec 6) (o : BitVec 11) : Statement (.bcLt a b o) :=
  fun _ h => oneWord h
theorem bcGe (a : BitVec 6) (b : BitVec 6) (o : BitVec 11) : Statement (.bcGe a b o) :=
  fun _ h => oneWord h
theorem bcLtn (a : BitVec 6) (b : BitVec 6) (o : BitVec 11) : Statement (.bcLtn a b o) :=
  fun _ h => oneWord h
theorem bcGen (a : BitVec 6) (b : BitVec 6) (o : BitVec 11) : Statement (.bcGen a b o) :=
  fun _ h => oneWord h
theorem bcBs (a : BitVec 6) (b : BitVec 6) (o : BitVec 11) : Statement (.bcBs a b o) :=
  fun _ h => oneWord h
theorem bcBc (a : BitVec 6) (b : BitVec 6) (o : BitVec 11) : Statement (.bcBc a b o) :=
  fun _ h => oneWord h
theorem ret : Statement (.ret) :=
  fun _ h => oneWord h
theorem jmpr (a : BitVec 6) : Statement (.jmpr a) :=
  fun _ h => oneWord h
theorem sld (d : BitVec 6) (b : BitVec 6) (z : BitVec 2) (s : BitVec 2) (o : BitVec 10) : Statement (.sld d b z s o) :=
  fun _ h => oneWord h
theorem sst (d : BitVec 6) (b : BitVec 6) (z : BitVec 2) (s : BitVec 2) (o : BitVec 10) : Statement (.sst d b z s o) :=
  fun _ h => oneWord h
theorem sldAcq (d : BitVec 6) (b : BitVec 6) (z : BitVec 2) (s : BitVec 2) (p : BitVec 3) (o : BitVec 7) : Statement (.sldAcq d b z s p o) :=
  fun _ h => oneWord h
theorem sstRel (d : BitVec 6) (b : BitVec 6) (z : BitVec 2) (s : BitVec 2) (p : BitVec 3) (o : BitVec 7) : Statement (.sstRel d b z s p o) :=
  fun _ h => oneWord h
theorem satom (d : BitVec 6) (a : BitVec 6) (b : BitVec 6) (o : BitVec 3) (k : BitVec 2) (p : BitVec 3) : Statement (.satom d a b o k p) :=
  fun _ h => oneWord h
theorem lrun (i : BitVec 26) : Statement (.lrun i) :=
  fun _ h => oneWord h
theorem lsync : Statement (.lsync) :=
  fun _ h => oneWord h
theorem barBk (d : BitVec 6) : Statement (.barBk d) :=
  fun _ h => oneWord h
theorem barGg (d : BitVec 6) : Statement (.barGg d) :=
  fun _ h => oneWord h
theorem bareBk (d : BitVec 6) : Statement (.bareBk d) :=
  fun _ h => oneWord h
theorem bareGg (d : BitVec 6) : Statement (.bareGg d) :=
  fun _ h => oneWord h
theorem binit (a : BitVec 6) (b : BitVec 6) : Statement (.binit a b) :=
  fun _ h => oneWord h
theorem barrive (a : BitVec 6) (b : BitVec 6) : Statement (.barrive a b) :=
  fun _ h => oneWord h
theorem bwait (a : BitVec 6) : Statement (.bwait a) :=
  fun _ h => oneWord h
theorem bcont (a : BitVec 6) (i : BitVec 14) : Statement (.bcont a i) :=
  fun _ h => oneWord h
theorem yieldC (a : BitVec 6) (i : BitVec 14) : Statement (.yieldC a i) :=
  fun _ h => oneWord h
theorem copy (a : BitVec 6) (c : BitVec 3) : Statement (.copy a c) :=
  fun _ h => oneWord h
theorem mloop (a : BitVec 6) : Statement (.mloop a) :=
  fun _ h => oneWord h
theorem kseqLd (s : BitVec 6) (a : BitVec 6) : Statement (.kseqLd s a) :=
  fun _ h => oneWord h
theorem kseqSt (s : BitVec 6) (a : BitVec 6) : Statement (.kseqSt s a) :=
  fun _ h => oneWord h
theorem klenCommit (s : BitVec 6) (a : BitVec 6) : Statement (.klenCommit s a) :=
  fun _ h => oneWord h
theorem klenReject (s : BitVec 6) : Statement (.klenReject s) :=
  fun _ h => oneWord h
theorem krot (s : BitVec 6) (a : BitVec 6) (b : BitVec 6) : Statement (.krot s a b) :=
  fun _ h => oneWord h
theorem kreq (s : BitVec 6) (a : BitVec 6) (b : BitVec 6) : Statement (.kreq s a b) :=
  fun _ h => oneWord h
theorem ksum (s : BitVec 6) (a : BitVec 6) : Statement (.ksum s a) :=
  fun _ h => oneWord h
theorem pmark (n : BitVec 16) : Statement (.pmark n) :=
  fun _ h => oneWord h
theorem xmap (a : BitVec 6) (b : BitVec 6) : Statement (.xmap a b) :=
  fun _ h => oneWord h
theorem xlook (d : BitVec 6) (a : BitVec 6) (b : BitVec 6) : Statement (.xlook d a b) :=
  fun _ h => oneWord h
theorem xfill (a : BitVec 6) (b : BitVec 6) : Statement (.xfill a b) :=
  fun _ h => oneWord h
theorem xevict (a : BitVec 6) (b : BitVec 6) : Statement (.xevict a b) :=
  fun _ h => oneWord h
theorem xflush (b : BitVec 6) : Statement (.xflush b) :=
  fun _ h => oneWord h
theorem xfillX24 (a : BitVec 6) (b : BitVec 6) : Statement (.xfillX24 a b) :=
  fun _ h => oneWord h
theorem clk (d : BitVec 5) : Statement (.clk d) :=
  fun _ h => oneWord h
theorem cwait (a : BitVec 6) : Statement (.cwait a) :=
  fun _ h => oneWord h
theorem ftld (a : BitVec 6) : Statement (.ftld a) :=
  fun _ h => oneWord h
theorem ftsw : Statement (.ftsw) :=
  fun _ h => oneWord h
theorem srr (d : BitVec 6) (r : BitVec 14) : Statement (.srr d r) :=
  fun _ h => oneWord h
theorem srw (a : BitVec 6) (r : BitVec 14) : Statement (.srw a r) :=
  fun _ h => oneWord h
theorem fence (k : BitVec 2) (p : BitVec 3) : Statement (.fence k p) :=
  fun _ h => oneWord h
theorem trap (n : BitVec 8) : Statement (.trap n) :=
  fun _ h => oneWord h
theorem eret : Statement (.eret) :=
  fun _ h => oneWord h
theorem nop : Statement (.nop) :=
  fun _ h => oneWord h
theorem launch (d : BitVec 6) (a : BitVec 6) : Statement (.launch d a) :=
  fun _ h => oneWord h
theorem exit : Statement (.exit) :=
  fun _ h => oneWord h
theorem grant (d : BitVec 6) (a : BitVec 6) (b : BitVec 6) : Statement (.grant d a b) :=
  fun _ h => oneWord h
theorem gate (a : BitVec 6) (b : BitVec 6) : Statement (.gate a b) :=
  fun _ h => oneWord h
theorem digr (d : BitVec 6) (a : BitVec 6) (b : BitVec 6) : Statement (.digr d a b) :=
  fun _ h => oneWord h
theorem errqRead (d : BitVec 6) (a : BitVec 6) (b : BitVec 6) : Statement (.errqRead d a b) :=
  fun _ h => oneWord h
theorem errqRepair (d : BitVec 6) (a : BitVec 6) : Statement (.errqRepair d a) :=
  fun _ h => oneWord h
theorem errqLog (d : BitVec 6) (a : BitVec 6) (b : BitVec 6) : Statement (.errqLog d a b) :=
  fun _ h => oneWord h
theorem corectlDrain (d : BitVec 6) (a : BitVec 6) : Statement (.corectlDrain d a) :=
  fun _ h => oneWord h
theorem corectlIsolate (a : BitVec 6) : Statement (.corectlIsolate a) :=
  fun _ h => oneWord h
theorem corectlRelease (a : BitVec 6) : Statement (.corectlRelease a) :=
  fun _ h => oneWord h
theorem scan (a : BitVec 6) (b : BitVec 6) : Statement (.scan a b) :=
  fun _ h => oneWord h
theorem scanwt (d : BitVec 6) (a : BitVec 6) : Statement (.scanwt d a) :=
  fun _ h => oneWord h
theorem lcmap (d : BitVec 6) (a : BitVec 6) (b : BitVec 6) : Statement (.lcmap d a b) :=
  fun _ h => oneWord h
theorem wkill (d : BitVec 6) (a : BitVec 6) (b : BitVec 6) : Statement (.wkill d a b) :=
  fun _ h => oneWord h
theorem vadd (f : LaneF) : Statement (.vadd f) :=
  fun _ h => threeWords h
theorem vsub (f : LaneF) : Statement (.vsub f) :=
  fun _ h => threeWords h
theorem vmul (f : LaneF) : Statement (.vmul f) :=
  fun _ h => threeWords h
theorem vmulh (f : LaneF) : Statement (.vmulh f) :=
  fun _ h => threeWords h
theorem vmad (f : LaneF) : Statement (.vmad f) :=
  fun _ h => threeWords h
theorem vand (f : LaneF) : Statement (.vand f) :=
  fun _ h => threeWords h
theorem vor (f : LaneF) : Statement (.vor f) :=
  fun _ h => threeWords h
theorem vxor (f : LaneF) : Statement (.vxor f) :=
  fun _ h => threeWords h
theorem vshl (f : LaneF) : Statement (.vshl f) :=
  fun _ h => threeWords h
theorem vshr (f : LaneF) : Statement (.vshr f) :=
  fun _ h => threeWords h
theorem vsar (f : LaneF) : Statement (.vsar f) :=
  fun _ h => threeWords h
theorem vmin (f : LaneF) : Statement (.vmin f) :=
  fun _ h => threeWords h
theorem vmax (f : LaneF) : Statement (.vmax f) :=
  fun _ h => threeWords h
theorem vabs (f : LaneF) : Statement (.vabs f) :=
  fun _ h => threeWords h
theorem vcnt (f : LaneF) : Statement (.vcnt f) :=
  fun _ h => threeWords h
theorem vclz (f : LaneF) : Statement (.vclz f) :=
  fun _ h => threeWords h
theorem vbfx (f : LaneF) : Statement (.vbfx f) :=
  fun _ h => threeWords h
theorem vbfi (f : LaneF) : Statement (.vbfi f) :=
  fun _ h => threeWords h
theorem vsel (f : LaneF) : Statement (.vsel f) :=
  fun _ h => threeWords h
theorem vmov (f : LaneF) : Statement (.vmov f) :=
  fun _ h => threeWords h
theorem vwid (f : LaneF) : Statement (.vwid f) :=
  fun _ h => threeWords h
theorem vcmp (f : LaneF) : Statement (.vcmp f) :=
  fun _ h => threeWords h
theorem mlog (f : LaneF) : Statement (.mlog f) :=
  fun _ h => threeWords h
theorem mcnt (f : LaneF) : Statement (.mcnt f) :=
  fun _ h => threeWords h
theorem vbr (f : LaneF) : Statement (.vbr f) :=
  fun _ h => threeWords h
theorem lend (f : LaneF) : Statement (.lend f) :=
  fun _ h => threeWords h
theorem vshuf (f : LaneF) : Statement (.vshuf f) :=
  fun _ h => threeWords h
theorem vbcast (f : LaneF) : Statement (.vbcast f) :=
  fun _ h => threeWords h
theorem vvote (f : LaneF) : Statement (.vvote f) :=
  fun _ h => threeWords h
theorem vrdl (f : LaneF) : Statement (.vrdl f) :=
  fun _ h => threeWords h
theorem vscan (f : LaneF) : Statement (.vscan f) :=
  fun _ h => threeWords h
theorem vredx (f : LaneF) : Statement (.vredx f) :=
  fun _ h => threeWords h
theorem fadd (f : LaneF) : Statement (.fadd f) :=
  fun _ h => threeWords h
theorem fsub (f : LaneF) : Statement (.fsub f) :=
  fun _ h => threeWords h
theorem fmul (f : LaneF) : Statement (.fmul f) :=
  fun _ h => threeWords h
theorem ffma (f : LaneF) : Statement (.ffma f) :=
  fun _ h => threeWords h
theorem fmin (f : LaneF) : Statement (.fmin f) :=
  fun _ h => threeWords h
theorem fmax (f : LaneF) : Statement (.fmax f) :=
  fun _ h => threeWords h
theorem fdiv (f : LaneF) : Statement (.fdiv f) :=
  fun _ h => threeWords h
theorem fsqrt (f : LaneF) : Statement (.fsqrt f) :=
  fun _ h => threeWords h
theorem frcp (f : LaneF) : Statement (.frcp f) :=
  fun _ h => threeWords h
theorem frsq (f : LaneF) : Statement (.frsq f) :=
  fun _ h => threeWords h
theorem fexp2 (f : LaneF) : Statement (.fexp2 f) :=
  fun _ h => threeWords h
theorem flog2 (f : LaneF) : Statement (.flog2 f) :=
  fun _ h => threeWords h
theorem fcmp (f : LaneF) : Statement (.fcmp f) :=
  fun _ h => threeWords h
theorem fclass (f : LaneF) : Statement (.fclass f) :=
  fun _ h => threeWords h
theorem fcvt (f : LaneF) : Statement (.fcvt f) :=
  fun _ h => threeWords h
theorem vrot (f : LaneF) : Statement (.vrot f) :=
  fun _ h => threeWords h
theorem vft (f : LaneF) : Statement (.vft f) :=
  fun _ h => threeWords h
theorem dadd (f : LaneF) : Statement (.dadd f) :=
  fun _ h => threeWords h
theorem dsub (f : LaneF) : Statement (.dsub f) :=
  fun _ h => threeWords h
theorem dmul (f : LaneF) : Statement (.dmul f) :=
  fun _ h => threeWords h
theorem dfma (f : LaneF) : Statement (.dfma f) :=
  fun _ h => threeWords h
theorem dqtz (f : LaneF) : Statement (.dqtz f) :=
  fun _ h => threeWords h
theorem dcmp (f : LaneF) : Statement (.dcmp f) :=
  fun _ h => threeWords h
theorem dcvt (f : LaneF) : Statement (.dcvt f) :=
  fun _ h => threeWords h
theorem bqnt (f : LaneF) : Statement (.bqnt f) :=
  fun _ h => threeWords h
theorem bdq (f : LaneF) : Statement (.bdq f) :=
  fun _ h => threeWords h
theorem vld (f : LaneF) : Statement (.vld f) :=
  fun _ h => threeWords h
theorem vst (f : LaneF) : Statement (.vst f) :=
  fun _ h => threeWords h
theorem vlds (f : LaneF) : Statement (.vlds f) :=
  fun _ h => threeWords h
theorem vsts (f : LaneF) : Statement (.vsts f) :=
  fun _ h => threeWords h
theorem vatom (f : LaneF) : Statement (.vatom f) :=
  fun _ h => threeWords h
theorem vcas (f : LaneF) : Statement (.vcas f) :=
  fun _ h => threeWords h
theorem mma (f : LaneF) : Statement (.mma f) :=
  fun _ h => threeWords h
theorem mmaNs (f : LaneF) : Statement (.mmaNs f) :=
  fun _ h => threeWords h
theorem scacc (f : LaneF) : Statement (.scacc f) :=
  fun _ h => threeWords h
theorem attb (f : LaneF) : Statement (.attb f) :=
  fun _ h => threeWords h
theorem attbResume (f : LaneF) : Statement (.attbResume f) :=
  fun _ h => threeWords h
theorem kapp (f : LaneF) : Statement (.kapp f) :=
  fun _ h => threeWords h
theorem treq (f : LaneF) : Statement (.treq f) :=
  fun _ h => threeWords h
theorem vstc (f : LaneF) : Statement (.vstc f) :=
  fun _ h => threeWords h
theorem vlda (f : LaneF) : Statement (.vlda f) :=
  fun _ h => threeWords h
theorem laneBlockStart (w : Nat) : Statement (.laneBlockStart w) :=
  fun _ h => noWords h
theorem pathReconvergence (w : Nat) (p : Nat) : Statement (.pathReconvergence w p) :=
  fun _ h => noWords h
theorem laneLongCompletion (w : Nat) (p : Nat) (k : Nat) : Statement (.laneLongCompletion w p k) :=
  fun _ h => noWords h
theorem streamUrgent (w : Nat) (lane : Bool) : Statement (.streamUrgent w lane) :=
  fun _ h => noWords h
theorem faultDelivery (w : Nat) : Statement (.faultDelivery w) :=
  fun _ h => noWords h
theorem parkReplay (w : Nat) (which : Nat) : Statement (.parkReplay w which) :=
  fun _ h => noWords h
theorem warpWake (w : Nat) : Statement (.warpWake w) :=
  fun _ h => noWords h
theorem continuationSpawn (b : Nat) (k : Nat) (slot : Nat) : Statement (.continuationSpawn b k slot) :=
  fun _ h => noWords h
theorem registerMiss (w : Nat) (reg : Nat) : Statement (.registerMiss w reg) :=
  fun _ h => noWords h
theorem mirrorCompare (w : Nat) (lane : Bool) (words : List W32) (operands : List W64) : Statement (.mirrorCompare w lane words operands) :=
  fun _ h => noWords h
theorem chainCardRead (b : Nat) (ch : Nat) : Statement (.chainCardRead b ch) :=
  fun _ h => noWords h
theorem copyJobStart (job : Nat) : Statement (.copyJobStart job) :=
  fun _ h => noWords h
theorem copyChunk (job : Nat) : Statement (.copyChunk job) :=
  fun _ h => noWords h
theorem copyJobFinish (job : Nat) : Statement (.copyJobFinish job) :=
  fun _ h => noWords h
theorem ringReport (job : Nat) : Statement (.ringReport job) :=
  fun _ h => noWords h
theorem poisonReport (k : Nat) : Statement (.poisonReport k) :=
  fun _ h => noWords h
theorem mloopStep (job : Nat) : Statement (.mloopStep job) :=
  fun _ h => noWords h
theorem energyRefill (die : Nat) : Statement (.energyRefill die) :=
  fun _ h => noWords h
theorem attbReissue (w : Nat) (p : Nat) : Statement (.attbReissue w p) :=
  fun _ h => noWords h
theorem timetableEntryStart (launch : Nat) (entry : Nat) : Statement (.timetableEntryStart launch entry) :=
  fun _ h => noWords h
theorem pageMove (move : Nat) (damage1 : List Nat) (damage2 : List Nat) : Statement (.pageMove move damage1 damage2) :=
  fun _ h => noWords h
theorem syncSend (die : Nat) (link : Nat) : Statement (.syncSend die link) :=
  fun _ h => noWords h
theorem syncReceive (die : Nat) (drift : Bool) : Statement (.syncReceive die drift) :=
  fun _ h => noWords h
theorem stampedCommit (die : Nat) : Statement (.stampedCommit die) :=
  fun _ h => noWords h
theorem dieWide (die : Nat) : Statement (.dieWide die) :=
  fun _ h => noWords h
theorem linkFlitSend (link : Nat) : Statement (.linkFlitSend link) :=
  fun _ h => noWords h
theorem linkFlitReceive (link : Nat) (bytes : List Byte) (bufferFull : Bool) : Statement (.linkFlitReceive link bytes bufferFull) :=
  fun _ h => noWords h
theorem linkReplay (link : Nat) : Statement (.linkReplay link) :=
  fun _ h => noWords h
theorem linkRetrain (link : Nat) : Statement (.linkRetrain link) :=
  fun _ h => noWords h
theorem retrainComplete (link : Nat) (working : Nat) (ok : Bool) : Statement (.retrainComplete link working ok) :=
  fun _ h => noWords h
theorem linkDeadTimeout (link : Nat) : Statement (.linkDeadTimeout link) :=
  fun _ h => noWords h
theorem advanceReceive (router : Nat) : Statement (.advanceReceive router) :=
  fun _ h => noWords h
theorem routeRecompute (router : Nat) (routes : List (List (Nat × Nat × Nat))) : Statement (.routeRecompute router routes) :=
  fun _ h => noWords h
theorem packetForward (router : Nat) : Statement (.packetForward router) :=
  fun _ h => noWords h
theorem packetReceive (io : Nat) : Statement (.packetReceive io) :=
  fun _ h => noWords h
theorem requestPerform (stream : Nat) : Statement (.requestPerform stream) :=
  fun _ h => noWords h
theorem e2eAckReceive (io : Nat) : Statement (.e2eAckReceive io) :=
  fun _ h => noWords h
theorem e2eReplayTimeout (dst : Nat) (sseq : Nat) : Statement (.e2eReplayTimeout dst sseq) :=
  fun _ h => noWords h
theorem gatePass (w : Nat) (which : Nat) : Statement (.gatePass w which) :=
  fun _ h => noWords h
theorem errorBankUpdate (bank : Nat) (sev : Nat) (syndrome : Nat) (addr : Nat) (victim : Nat) : Statement (.errorBankUpdate bank sev syndrome addr victim) :=
  fun _ h => noWords h
theorem scanComplete (core : Nat) (lo : W64) (hi : W64) : Statement (.scanComplete core lo hi) :=
  fun _ h => noWords h
theorem scanAbort (die : Nat) : Statement (.scanAbort die) :=
  fun _ h => noWords h
theorem hostProducerWrite (q : Nat) (v : W64) : Statement (.hostProducerWrite q v) :=
  fun _ h => noWords h
theorem hostRegisterWrite (off : Nat) (bytes : List Byte) : Statement (.hostRegisterWrite off bytes) :=
  fun _ h => noWords h
theorem hostReservedAccess (off : Nat) (write : Bool) (len : Nat) : Statement (.hostReservedAccess off write len) :=
  fun _ h => noWords h
theorem hostWindowAccess (win : Nat) (off : Nat) (write : Bool) (data : List Byte) : Statement (.hostWindowAccess win off write data) :=
  fun _ h => noWords h
theorem hostQueueAccept (q : Nat) : Statement (.hostQueueAccept q) :=
  fun _ h => noWords h
theorem deviceQueueAccept : Statement (.deviceQueueAccept) :=
  fun _ h => noWords h
theorem pennantRetest (launch : Nat) : Statement (.pennantRetest launch) :=
  fun _ h => noWords h
theorem graphAccept (graph : Nat) : Statement (.graphAccept graph) :=
  fun _ h => noWords h
theorem graphNodeAccept (graph : Nat) (node : Nat) : Statement (.graphNodeAccept graph node) :=
  fun _ h => noWords h
theorem blockAdmission (launch : Nat) (slots : List (List Nat)) : Statement (.blockAdmission launch slots) :=
  fun _ h => noWords h
theorem agePromotion (launch : Nat) : Statement (.agePromotion launch) :=
  fun _ h => noWords h
theorem preemptStart (launch : Nat) : Statement (.preemptStart launch) :=
  fun _ h => noWords h
theorem rung2Stop (launch : Nat) : Statement (.rung2Stop launch) :=
  fun _ h => noWords h
theorem blockSave (b : Nat) : Statement (.blockSave b) :=
  fun _ h => noWords h
theorem forcedReset (launch : Nat) : Statement (.forcedReset launch) :=
  fun _ h => noWords h
theorem blockResume (launch : Nat) (slots : List (List Nat)) : Statement (.blockResume launch slots) :=
  fun _ h => noWords h
theorem launchCompletion (launch : Nat) : Statement (.launchCompletion launch) :=
  fun _ h => noWords h
theorem completionRingWrite (q : Nat) : Statement (.completionRingWrite q) :=
  fun _ h => noWords h
theorem powerOnBringUp (verdicts : List Bool) : Statement (.powerOnBringUp verdicts) :=
  fun _ h => noWords h
theorem setting : Statement (.setting) :=
  fun _ h => noWords h
theorem queue : Statement (.queue) :=
  fun _ h => noWords h
theorem contextCreate : Statement (.contextCreate) :=
  fun _ h => noWords h
theorem contextDestroy : Statement (.contextDestroy) :=
  fun _ h => noWords h
theorem window : Statement (.window) :=
  fun _ h => noWords h
theorem framePool : Statement (.framePool) :=
  fun _ h => noWords h
theorem tagStore : Statement (.tagStore) :=
  fun _ h => noWords h
theorem tagRegister : Statement (.tagRegister) :=
  fun _ h => noWords h
theorem debug : Statement (.debug) :=
  fun _ h => noWords h
theorem poisonRing : Statement (.poisonRing) :=
  fun _ h => noWords h
theorem fuseAdvance : Statement (.fuseAdvance) :=
  fun _ h => noWords h
theorem stateSummary (mb : Nat) : Statement (.stateSummary mb) :=
  fun _ h => noWords h
theorem attest (mb : Nat) : Statement (.attest mb) :=
  fun _ h => noWords h
theorem reset (verdicts : List Bool) : Statement (.reset verdicts) :=
  fun _ h => noWords h
theorem thermalThrottle (die : Nat) : Statement (.thermalThrottle die) :=
  fun _ h => noWords h
theorem thermalRecover (die : Nat) : Statement (.thermalRecover die) :=
  fun _ h => noWords h
theorem thermalShutdown : Statement (.thermalShutdown) :=
  fun _ h => noWords h
theorem illegalOp (w : Nat) (lane : Bool) (w0 : W32) (w1 : W32) (w2 : W32) : Statement (.illegalOp w lane w0 w1 w2) :=
  fun _ h => noWords h
theorem badCommand (mb : Nat) : Statement (.badCommand mb) :=
  fun _ h => noWords h
theorem cwaitReturn (w : Nat) : Statement (.cwaitReturn w) :=
  fun _ h => noWords h
theorem asOfWaitEnd (w : Nat) (p : Nat) (k : Nat) : Statement (.asOfWaitEnd w p k) :=
  fun _ h => noWords h

end Sys2Proof.Laws.WordCount
end

