-- ==== Sys2Proof/Laws/Reads.lean ====
section
/-! SUPPORT. When the accesses that the statements speak of can be made: bytes of one page that passes its check. -/

namespace Sys2Proof.Claims

open Sys2Proof.Machine

/-- Bytes of one page lie where its first one does. -/
theorem lies_of {s : State} {ctx n access pa : Nat} {va pte : W64} (hc : s.check ctx va access = .here pa pte)
    (hp : va.toNat % 65536 + n ≤ 65536) : Lies s ctx va n access pa pte :=
  fun i hi => check_page s ctx va access i pa pte hc (by omega)

/-- Bytes of a page that is not SUMMARISED are writable if they are no entry of their own walk. -/
theorem writes_of {s : State} {ctx n pa : Nat} {va pte : W64} (hc : s.check ctx va 1 = .here pa pte)
    (hp : va.toNat % 65536 + n ≤ 65536) (hk : pteKind pte ≠ 2)
    (ho : ∀ a ∈ s.checkReads ctx va, a + 8 ≤ pa ∨ pa + n ≤ a) : Writes s ctx va n pa pte := by
  intro m hm
  refine lies_of ?_ hp
  rw [check_congr, hc]
  intro a ha
  refine readBytes_congr _ _ _ _ fun j h1 h2 => hm j ?_ fun h => hk h.1
  rcases ho a ha with h | h <;> omega

/-- Bytes of one page read as they stand. -/
theorem reads_of {s : State} {ctx n access pa : Nat} {va pte : W64} (hc : s.check ctx va access = .here pa pte)
    (hp : va.toNat % 65536 + n ≤ 65536) (hq : s.poisoned pa n = false) :
    ReadsAs s ctx va n access (readBytes s.mem pa n) := ⟨pa, pte, lies_of hc hp, hq, rfl⟩

theorem poisoned_part {s : State} {pa n i k : Nat} (h : s.poisoned pa n = false) (hi : i + k ≤ n) :
    s.poisoned (pa + i) k = false := by
  simp only [State.poisoned, List.any_eq_false, Bool.and_eq_true, decide_eq_true_eq, not_and] at h ⊢
  intro q hq h1
  have := h q hq
  omega

theorem readBytes_drop (m : Memory) (pa n i : Nat) : (readBytes m pa n).drop i = readBytes m (pa + i) (n - i) := by
  induction i generalizing pa n with
  | zero => rfl
  | succ i ih =>
    cases n with
    | zero => simp [readBytes]
    | succ n =>
      simp only [readBytes, List.drop_succ_cons, ih]
      rw [show pa + 1 + i = pa + (i + 1) by omega, show n + 1 - (i + 1) = n - i by omega]

theorem readBytes_take (m : Memory) (pa n k : Nat) : (readBytes m pa n).take k = readBytes m pa (min k n) := by
  induction k generalizing pa n with
  | zero => simp [readBytes]
  | succ k ih =>
    cases n with
    | zero => simp [readBytes]
    | succ n =>
      rw [show min (k + 1) (n + 1) = min k n + 1 by omega]
      simp only [readBytes, List.take_succ_cons, ih]

/-- Bytes of one page, in units of 8. -/
theorem readsLong_of {s : State} {ctx n pa : Nat} {va pte : W64} (hc : s.check ctx va 0 = .here pa pte)
    (ha : va.toNat % 8 = 0) (hn : n % 8 = 0) (hp : va.toNat % 65536 + n ≤ 65536) (hq : s.poisoned pa n = false) :
    ReadsLong s ctx va n (readBytes s.mem pa n) := by
  refine ⟨ha, readBytes_length .., fun i hi => ?_⟩
  rw [readBytes_drop, readBytes_take, show min 8 (n - 8 * i) = 8 by omega]
  have h8 := check_page s ctx va 0 (8 * i) pa pte hc (by omega)
  have e := (page_div va (8 * i) 16 (by omega) (by omega)).2
  exact reads_of h8 (by omega) (poisoned_part hq (by omega))

end Sys2Proof.Claims
end

