-- ==== Sys2Proof/Tests/Slice0.lean ====
section
/-! SUPPORT. The tests of the model: words written out from the manual, ill-formed words that every check refuses, single steps
with results worked out from the manual, and states that meet the hypotheses of each statement. -/

namespace Sys2Proof.Tests

set_option Elab.async false

open Sys2Proof Sys2Proof.Machine Sys2Proof.Claims

/-! ## Small states -/

/-- A privileged warp (key 2) of the one block (key 1) of launch 1 stands at scalar PC 0 of context 0, whose addresses 0 to
2 MiB are physical 0x200000 on. -/
def base : State := { State.reset.placeWord 32 0 with cur := ⟨2, 0, 0, 0, 0⟩, turns := [] }
/-- The same with lane path 0 at lane PC 0 and all lanes active. -/
def lane : State := { State.reset.placeWord 96 0 with cur := ⟨2, 0, 0, 0, 0⟩, turns := [] }

/-- Change the warp, the block, the launch, a die, memory. -/
def onWarp (s : State) (f : Warp → Warp) : State := s.setWarp 2 (f (s.warp 2))
def onBlock (s : State) (f : Block → Block) : State := s.setBlock 1 (f (s.block 1))
def onLaunch (s : State) (f : Launch → Launch) : State := s.setLaunch 1 (f (s.launch 1))
def onRecord (s : State) (f : LaunchRec → LaunchRec) : State := onLaunch s fun l => { l with record := f l.record }
def onDie (s : State) (d : Nat) (f : Die → Die) : State := s.setDie d (f (s.die d))
def withRegs (s : State) (rs : List (Nat × W64)) : State := onWarp s fun x => { x with s := rs }
def withBytes (s : State) (pa : Nat) (bs : List Byte) : State := { s with mem := writeBytes s.mem pa bs }
def userOf (s : State) : State := onRecord s fun r => { r with priv := false }
/-- The state after an instruction. -/
def after (i : Instr) (s : State) : State := Result.stateOr s (exec i s)
/-- A lane block waits in the queue: the scalar stream waits where R31 says so. -/
def busy (s : State) : State := onWarp s fun x => { x with queue := [⟨0, []⟩] }

/-! ## Scalar arithmetic and branches -/

theorem wit_scalar_values : sregWait base.me [63, 56, 0] = false ∧ sregWait (busy base).me [55, 0, 55] = false ∧
    sregWait (busy base).me [0, 56, 1] = true := by decide +kernel
theorem wit_division_by_zero : (1 : BitVec 6) ≠ 0 ∧ sregWait base.me [1, 2, 3] = false ∧ sreg base.me 3 = 0 := by
  decide +kernel
theorem wit_division_least : let s := withRegs base [(2, 0x8000000000000000), (3, 0xFFFFFFFFFFFFFFFF)]
    sregWait s.me [63, 2, 3] = false ∧ sreg s.me 3 ≠ 0 := by decide +kernel
theorem wit_branches : let s := withRegs base [(62, 0x7FFC)]
    sregWait s.me [62, 0] = false ∧ laneWait s.me = false ∧ (sreg s.me 62).toNat % 4 = 0 := by decide +kernel
/-- R59: −2^63 divided by −1. -/
theorem test_div_least : let s := withRegs base [(2, 0x8000000000000000), (3, 0xFFFFFFFFFFFFFFFF)]
    sreg (after (.div 1 2 3) s).me 1 = 0x8000000000000000 ∧ sreg (after (.rem 1 2 3) s).me 1 = 0 := by decide +kernel
/-- R58: the high half of (2^64 − 1)². -/
theorem test_mulhn : let s := withRegs base [(2, 0xFFFFFFFFFFFFFFFF)]
    sreg (after (.mulhn 2 2 2) s).me 2 = 0xFFFFFFFFFFFFFFFE ∧ sreg (after (.mulh 2 2 2) s).me 2 = 0 := by decide +kernel
/-- R61: BC with offset −1 at PC 0 goes back to 0; CALL leaves 4 in s62. -/
theorem test_branch_back : (after (.bcEq 0 0 0x7FF) base).me.pc = 0 ∧ sreg (after (.call 2) base).me 62 = 4 ∧
    (after (.call 2) base).me.pc = 12 := by decide +kernel
/-- R60: LIH and ORL place their 20 bits at 44 and 24. -/
theorem test_lih_orl : sreg (after (.lih 1 0xFFFFF) base).me 1 = 0xFFFFF00000000000 ∧
    sreg (after (.orl 1 1) base).me 1 = 0x1000000 := by decide +kernel

/-! ## Scalar accesses -/

theorem wit_scalar_load_global : let s := withRegs base [(4, 0xFFF8)]
    LoadForm (.sld 5 4 3 0 0) s.me 5 4 3 0 0xFFF8 ∧ sregWait s.me [5, 4] = false ∧ s.me.wait = .none ∧
    (0xFFF8 : W64).toNat % 2 ^ (3 : BitVec 2).toNat = 0 ∧ s.check s.myCtx 0xFFF8 0 = .here 0x20FFF8 0x20040F ∧
    s.poisoned 0x20FFF8 8 = false :=
  ⟨.inl ⟨0, rfl, by decide +kernel⟩, by decide +kernel⟩
theorem wit_scalar_load_scratch : let s := withRegs base [(4, 0xFFFF)]
    LoadForm (.sldAcq 5 4 0 1 0 0) s.me 5 4 0 1 0xFFFF ∧ LocalAt s 1 0xFFFF 1 0xFFFF :=
  ⟨.inr ⟨0, 0, rfl, by decide +kernel⟩, .inl (by decide +kernel)⟩
theorem wit_scalar_load_gang : LocalAt base 2 0xFFFF 1 0xFFFF := .inr (by decide +kernel)
theorem wit_scalar_load_const : let s := onRecord base fun r => { r with args := 0x1000 }
    s.check s.myCtx (s.myLaunch.record.args + 8) 0 = .here 0x201008 0x20040F := by decide +kernel
theorem wit_scalar_store_global : let s := withRegs base [(4, 0xFFF8)]
    StoreForm (.sstRel 5 4 3 0 5 0) s 5 4 3 0 0xFFF8 ∧ s.check s.myCtx 0xFFF8 1 = .here 0x20FFF8 0x20040F :=
  ⟨.inr ⟨5, 0, rfl, by decide +kernel⟩, by decide +kernel⟩
theorem wit_scalar_store_scratch : let s := withRegs base [(4, 0xFFFF)]
    StoreForm (.sst 5 4 0 1 0) s 5 4 0 1 0xFFFF ∧ LocalAt s 1 0xFFFF 1 0xFFFF ∧ armedHit (s.block 1) 0xFFFF 1 = false :=
  ⟨.inl ⟨0, rfl, by decide +kernel⟩, .inl (by decide +kernel), by decide +kernel⟩
theorem wit_satom : let s := withRegs base [(4, 0xFFF8)]
    sregWait s.me [5, 4, 6] = false ∧ s.me.wait = .none ∧ (sreg s.me 4).toNat % 8 = 0 ∧ s.stampsPending s.me = false ∧
    s.check s.myCtx (sreg s.me 4) 2 = .here 0x20FFF8 0x20040F ∧ s.poisoned 0x20FFF8 8 = false ∧
    s.gateOf s.myLaunch (sreg s.me 4) = none ∧ (6 : BitVec 3).toNat ≤ 6 := by decide +kernel
/-- R62, R64: a store of 4 bytes, little-endian, and the load of the last of them. -/
theorem test_store_load : let s := withRegs base [(4, 0x1000), (5, 0x11223344)]
    let t := after (.sst 5 4 2 0 1) s
    readBytes t.mem 0x201003 6 = [0, 0x44, 0x33, 0x22, 0x11, 0] ∧ sreg (after (.sld 6 4 0 0 7) t).me 6 = 0x11 := by
  decide +kernel
/-- R65: an add returns the old value; a cas that does not compare equal stores nothing. -/
theorem test_satom : let s := withBytes (withRegs base [(4, 0x1000), (5, 7)]) 0x201000 [9]
    let t := after (.satom 6 4 5 1 0 0) s
    sreg t.me 6 = 9 ∧ readBytes t.mem 0x201000 2 = [16, 0] ∧ (after (.satom 6 4 5 6 0 0) s).mem = s.mem := by decide +kernel

/-! ## Lane control and special registers -/

theorem wit_lrun : base.me.handler = false ∧ 12 * (0x7FF : BitVec 26).toNat < base.myLaunch.record.lbytes ∧
    base.me.queue.length < 8 ∧ (∃ ws, base.laneWords base.cur.warp (12 * (0x7FF : BitVec 26).toNat) = .words ws) :=
  ⟨by decide +kernel, by decide +kernel, by decide +kernel, _, rfl⟩
theorem wit_lsync_fence_exit : base.me.handler = false ∧ laneBusy base.me = false ∧ base.me.held = [] ∧
    laneWait base.me = false ∧ base.stampsQueued base.me = false := by decide +kernel
theorem wit_srr : ∀ k ∈ specialRows.map (·.1), sregWait base.me [63] = false ∧ SpecialReady base k := by
  unfold SpecialReady; decide +kernel
theorem wit_srr_redrawn : let s := onBlock (onRecord base fun r => { r with mode := 2 }) fun b => { b with redrawn := true };
    s.myBlock.redrawn = true ∧ modeDet s.myMode ≠ 0 := by decide +kernel
theorem wit_srw : let s := withRegs base [(4, 0x11F), (5, 0x1F), (6, 1)]
    sregWait s.me [4] = false ∧ sregWait s.me [5] = false ∧ sregWait s.me [6] = false ∧ laneWait s.me = false ∧
    s.me.held = [] ∧ sreg s.me 4 &&& ~~~0x11F = 0 ∧ sreg s.me 5 &&& ~~~0x1F = 0 ∧ s.privileged = true ∧
    sreg s.me 6 &&& ~~~1 = 0 := by decide +kernel
/-- R67: LRUN takes s40 to s47 as a0 to a7. -/
theorem test_lrun : let t := after (.lrun 3) (withRegs base [(40, 5), (47, 9)])
    t.me.queue = [⟨36, [5, 0, 0, 0, 0, 0, 0, 9]⟩] ∧ t.me.pc = 4 := by decide +kernel
/-- R72: EXIT ends the warp, and with it the block. -/
theorem test_exit : kGet? (after .exit base).warps 2 = none ∧ ((after .exit base).block 1).completed = true := by
  decide +kernel
/-- R74: a write of a reserved bit faults OPERAND; R75: $PCORE of core 0, with NONDET. -/
theorem test_special : let s := withRegs base [(4, 0x20)]
    ((after (.srw 4 0x022) s).me.rep.fault.toNat % 256 = 0x0A ∨ kGet? (after (.srw 4 0x022) s).warps 2 = none) ∧
    ((after (.srr 6 0x002) s).launch 1).tally.nondet = true := by decide +kernel

/-! ## Barrier objects -/

/-- The last object of the scratchpad, at s4, in a state, with a count; s5 is an arrival's number. -/
def atObject (state : Nat) (count n : W64) : State :=
  onBlock (withRegs base [(4, 0xFFE0), (5, n)]) fun b => writeObj b 0xFFE0 ⟨count, 0, 0, 7, state, true⟩

theorem wit_binit : (∀ st, st < 3 → ObjectReady (atObject st 0 0) 4 0xFFE0 ⟨0, 0, 0, 7, st, true⟩) ∧
    sregWait (atObject 1 0 0).me [4, 5] = false := by unfold ObjectReady; decide +kernel
theorem wit_binit_armed : ObjectReady (atObject 1 3 1) 4 0xFFE0 ⟨3, 0, 0, 7, 1, true⟩ ∧ sreg (atObject 1 3 1).me 5 ≠ 0 := by
  unfold ObjectReady; decide +kernel
theorem wit_arrival_below : ObjectReady (atObject 1 3 2) 4 0xFFE0 ⟨3, 0, 0, 7, 1, true⟩ ∧
    sregWait (atObject 1 3 2).me [4, 5] = false ∧ (atObject 1 3 2).stampsPending (atObject 1 3 2).me = false ∧
    (2 : W64).toNat < (3 : W64).toNat := by unfold ObjectReady; decide +kernel
theorem wit_arrival_completes : ObjectReady (atObject 1 3 3) 4 0xFFE0 ⟨3, 0, 0, 7, 1, true⟩ ∧
    (3 : W64).toNat ≤ (sreg (atObject 1 3 3).me 5).toNat := by unfold ObjectReady; decide +kernel
theorem wit_arrival_done : ObjectReady (atObject 2 0 1) 4 0xFFE0 ⟨0, 0, 0, 7, 2, true⟩ := by unfold ObjectReady; decide +kernel
theorem wit_waits : (∀ st, st = 1 ∨ st = 2 → ObjectReady (atObject st 1 0) 4 0xFFE0 ⟨1, 0, 0, 7, st, true⟩) ∧
    sregWait base.me [4] = false ∧ base.me.handler = false ∧ InCode base (labelOf base.me 0x1FFE) := by
  unfold ObjectReady InCode; exact ⟨by rintro st (rfl | rfl) <;> decide +kernel, by decide +kernel⟩
theorem wit_bcont : laneBusy base.me = false ∧ base.me.held = [] ∧ base.stampsPending base.me = false ∧
    base.coreConts base.myBlock.pcore < 1024 ∧ InCode base (labelOf base.me 0) := by unfold InCode; decide +kernel
theorem wit_barriers : base.me.handler = false ∧ laneBusy base.me = false ∧ base.stampsPending base.me = false ∧
    kGet? base.blocks base.me.block = some base.myBlock ∧ base.myBlock.launch = base.me.launch := by decide +kernel
/-- A block of two warps: the arrival of warp 0 leaves warp 1 to come; and with warp 1 exited it completes the episode. -/
theorem wit_barrier_waits : let s := onRecord base fun r => { r with counts := [2, 1, 1, 1, 1] }
    bkEpisodeDone s.myLaunch { s.myBlock with episode := s.myBlock.episode ++ [⟨0, 0, false⟩] } = false := by decide +kernel
theorem wit_barrier_completes :
    let s := onBlock (onRecord base fun r => { r with counts := [2, 1, 1, 1, 1] }) fun b => { b with exited := [1] };
    bkEpisodeDone s.myLaunch { s.myBlock with episode := s.myBlock.episode ++ [⟨0, 0, true⟩] } = true := by decide +kernel
/-- A gang of one block: with two warps, the arrival of warp 0 leaves warp 1 to come; with one it completes at once. -/
theorem wit_barrier_gang_waits : let s := onRecord base fun r => { r with counts := [2, 1, 1, 1, 1] }
    (joinsGang s true).ggEpisodeDone s.me.launch s.myBlock.gang = false := by decide +kernel
theorem wit_barrier_gang_completes : (joinsGang base true).ggEpisodeDone base.me.launch base.myBlock.gang = true ∧
    (joinsGang base false).ggEpisodeDone base.me.launch base.myBlock.gang = true := by decide +kernel
theorem wit_barrier_roles : TakesRole 0 [⟨0, 1, true⟩, ⟨0, 0, true⟩] (fun _ => True) ⟨0, 0, true⟩ ∧
    TakesRole 1 [⟨0, 1, true⟩, ⟨0, 0, true⟩] (fun _ => True) ⟨0, 0, true⟩ ∧
    ¬ TakesRole 0 [⟨0, 0, false⟩] (fun _ => True) ⟨0, 0, false⟩ := by
  refine ⟨⟨rfl, trivial, ?_⟩, ⟨rfl, trivial, ?_⟩, fun h => by cases h.1⟩
  · exact ⟨[⟨0, 1, true⟩], [], rfl, by simp⟩
  · simp
/-- Another warp of the block waits in the episode that this one's arrival completes. -/
theorem wit_barrier_other : let s := base.setWarp 9 { base.me with widx := 1, wait := .barrier false 3 }
    (9 : Nat) ≠ s.cur.warp ∧ (∃ x, kGet? s.warps 9 = some x ∧ x.block = s.me.block ∧ x.wait = .barrier false 3) :=
  ⟨by decide +kernel, _, rfl, by decide +kernel, by decide +kernel⟩
theorem wit_barrier_other_gang : let s := base.setWarp 9 { base.me with wait := .barrier true 3 }
    s.me.block ∈ s.gangKeys s.me.launch s.myBlock.gang ∧ (s.warp 9).wait = .barrier true 3 := by decide +kernel
theorem wit_wake : let s := onWarp base fun x => { x with woken := true, wait := .bwait 0 }
    let t := onWarp base fun x => { x with woken := true, wait := .yield 0 8 }
    (s.warp 2).woken = true ∧ (s.warp 2).stopped = false ∧ (s.warp 2).wait = .bwait 0 ∧ (t.warp 2).wait = .yield 0 8 := by
  decide +kernel
theorem wit_spawn : let c : Cont := ⟨[1, 2, 3, 4, 5, 6, 7, 8], 16, 0, 1, true⟩
    let s := onBlock base fun b => { b with conts := [c] }
    (s.block 1).conts[0]? = some c ∧ s.stopping 1 = false ∧ s.slotUsed (s.block 1).pcore 511 = false ∧
    s.partUse (s.block 1).pcore (511 % 6) + blockNeed s 1 ≤ partSlots (511 % 6) ∧
    s.vregUse (s.block 1).pcore + (s.launch (s.block 1).launch).record.vregs * 128 * blockNeed s 1 ≤ 3072 * 1024 := by
  decide +kernel
/-- R176: the arrival that completes an object puts it DONE in the next generation and wakes its waiter. -/
theorem test_arrival : let s := atObject 1 1 1
    let s := onBlock s fun b => writeObj b 0xFFE0 ⟨1, 0, 0, 7, 1, true⟩
    readObj ((after (.barrive 4 5) s).block 1) 0xFFE0 = ⟨0, 0, 0, 8, 2, true⟩ ∧ (after (.barrive 4 5) s).me.pc = 4 := by
  decide +kernel
/-- R179: BWAIT at an ARMED object records warp 0 and waits. -/
theorem test_bwait : let t := after (.bwait 4) (atObject 1 1 0)
    t.me.wait = .bwait 0xFFE0 ∧ (readObj (t.block 1) 0xFFE0).waiters = 1 := by decide +kernel
/-- R185: the only warp of a block passes BAR.bk at once with status 0, and BARE.gg with the epilogue role. -/
theorem test_bar : let t := after (.barBk 6) (withRegs base [(6, 9)])
    t.me.wait = .none ∧ sreg t.me 6 = 0 ∧ t.me.pc = 4 ∧
    sreg (after (.bareGg 6) base).me 6 = 2 := by decide +kernel

/-! ## Regions -/

/-- A CACHE region 15 of two slots of 256 bytes at 0x400, and a WINDOW region 0 of one line at 0 onto address 0x2000. -/
def regioned : State :=
  onBlock base fun b => { b with regions := [(0, ⟨0, 256, 3, 8, 0, 0x2000⟩), (15, ⟨0x400, 512, 2, 8, 0, 0⟩)] }
/-- The same with a line of the CACHE region that holds address 0x1100, and the WINDOW's line dirty. -/
def lined : State := onBlock regioned fun b => { b with lines := [(0, ⟨true, true, 0x2000⟩), (lineKey 15 1, ⟨true, false, 0x1100⟩)] }
/-- The descriptor of a CACHE region of 256 lines. -/
def descriptor : List Byte := toBytes 4 0x1000 ++ toBytes 4 0xF000 ++ [2, 8, 0, 0] ++ toBytes 20 0

theorem wit_xmap : let s := withBytes (withRegs base [(4, 0xFFE0), (5, 15)]) 0x20FFE0 descriptor;
    let g : Region := ⟨0x1000, 0xF000, 2, 8, 0, 0⟩;
    Free s ∧ sreg s.me 5 = BitVec.ofNat 64 15 ∧ (sreg s.me 4).toNat % 32 = 0 ∧
    Reads s s.myCtx (sreg s.me 4) 32 descriptor ∧ regionDesc descriptor = some g ∧
    regionFits s.myLaunch.record.scratch ((kErase s.myBlock.regions 15).map (·.2)) g = true ∧
    s.coreSlots s.myBlock.pcore s.me.block 15 + slotsOf g ≤ 8192 ∧ s.stampsPending s.me = false ∧ (s.myRegion 15).mode ≠ 3 :=
  ⟨⟨by decide +kernel, by decide +kernel⟩, by decide +kernel, by decide +kernel,
    ⟨0x20FFE0, 0x20040F, lies_of (by decide +kernel) (by decide +kernel), by decide +kernel, by decide +kernel⟩,
    by decide +kernel⟩
theorem wit_xmap_window : (regioned.myRegion 0).mode = 3 ∧ dirtyLines regioned.myBlock 0 (regioned.myRegion 0) = [] ∧
    regioned.stampsPending regioned.me = false := by decide +kernel
theorem wit_xlook : let s := withRegs lined [(4, 0x11FF), (5, 15)];
    laneWait s.me = false ∧ sreg s.me 5 = BitVec.ofNat 64 15 ∧ (s.myRegion 15).mode = 2 ∧
    (lineOf s.myBlock 15 1).valid = true ∧ (lineOf s.myBlock 15 1).tag = 0x1100 ∧ inSet (s.myRegion 15) 0x1100 1 ∧
    ¬ inSet (s.myRegion 15) 0x1100 0 := by unfold inSet; decide +kernel
theorem wit_fill : let s := withRegs regioned [(4, 0x1000), (5, refOf 15 1 0)];
    Free s ∧ sreg s.me 5 = refOf 15 1 0 ∧ FillReady s 15 0 0x1000 := by
  refine ⟨⟨by decide +kernel, by decide +kernel⟩, by decide +kernel, by decide +kernel, by decide +kernel, by decide +kernel,
    by decide +kernel, by decide +kernel, by decide +kernel, by unfold inSet; decide +kernel, fun j _ h => ?_, by decide +kernel,
    by decide +kernel⟩
  have hl : (withRegs regioned [(4, 0x1000), (5, refOf 15 1 0)]).myBlock.lines = [] := by decide +kernel
  simp only [lineOf, hl] at h
  exact absurd h.1 nofun
theorem wit_fill_source : Reads base base.myCtx 0x1000 256 (readBytes base.mem 0x201000 256) ∧
    Reads base base.myCtx 0x1000 (256 / 2 + 256 / (8 * (1 + 1))) (readBytes base.mem 0x201000 144) :=
  ⟨reads_of (pte := 0x20040F) (by decide +kernel) (by decide +kernel) (by decide +kernel),
    reads_of (pte := 0x20040F) (by decide +kernel) (by decide +kernel) (by decide +kernel)⟩
theorem wit_fill_indices : indicesRise 2 256 (List.replicate 128 0 ++ List.replicate 16 0x44) ∧
    indicesRise 1 256 (List.replicate 128 0 ++ List.replicate 32 0x44) := by unfold indicesRise; decide +kernel
theorem wit_evict : let s := withRegs lined [(4, 1), (5, refOf 15 0 1), (6, refOf 15 0 0)];
    Free s ∧ (s.myRegion 15).mode = 2 ∧ (lineOf s.myBlock 15 0).valid = false ∧ (lineOf s.myBlock 15 1).valid = true ∧
    sreg s.me 5 = refOf 15 0 1 ∧ sreg s.me 6 = refOf 15 0 0 ∧ 8 ≤ (s.myRegion 15).line ∧ s.stampsPending s.me = false ∧
    Writes s s.myCtx (lineOf s.myBlock 15 1).tag 256 0x201100 0x20040F :=
  ⟨⟨by decide +kernel, by decide +kernel⟩, by decide +kernel, by decide +kernel, by decide +kernel, by decide +kernel,
    by decide +kernel, by decide +kernel, by decide +kernel,
    writes_of (by decide +kernel) (by decide +kernel) (by decide +kernel) (by decide +kernel)⟩
theorem wit_flush : let s := withRegs lined [(5, 0)];
    Free s ∧ (s.myRegion 0).mode = 3 ∧ sreg s.me 5 = BitVec.ofNat 64 0 ∧ s.stampsPending s.me = false ∧
    dirtyLines s.myBlock 0 (s.myRegion 0) = [0] ∧ dirtyLines regioned.myBlock 0 (regioned.myRegion 0) = [] ∧
    Writes s s.myCtx ((s.myRegion 0).gbase + BitVec.ofNat 64 (0 * 256)) 256 0x202000 0x20040F :=
  ⟨⟨by decide +kernel, by decide +kernel⟩, by decide +kernel, by decide +kernel, by decide +kernel, by decide +kernel,
    by decide +kernel, writes_of (by decide +kernel) (by decide +kernel) (by decide +kernel) (by decide +kernel)⟩
/-- R152: the line is found in slot 1, and another is not. -/
theorem test_xlook : let s := withRegs lined [(4, 0x11FF), (5, 15)];
    sreg (after (.xlook 6 4 5) s).me 6 = 1 ∧ sreg (after (.xlook 6 5 5) s).me 6 = 0xFFFF := by decide +kernel
/-- R155, R156: a dirty line is stored to its address and is clean. -/
theorem test_xflush : let s := onBlock (withRegs lined [(5, 0)]) fun b => { b with scratch := writeBytes [] 0xFF [7] };
    (after (.xflush 5) s).byteAt 0x2020FF = 7 ∧ (lineOf ((after (.xflush 5) s).block 1) 0 0).dirty = false := by decide +kernel

/-! ## Copies and matrix loops -/

/-- A card (R208): its scope is wp and both its footprints are the whole scratchpad. -/
def card (next src dst len op ctl elem aux obj ring : Nat) : List Byte :=
  toBytes 8 next ++ toBytes 8 src ++ toBytes 8 dst ++ toBytes 4 len ++ toBytes 1 op ++ toBytes 1 ctl ++ toBytes 1 0 ++
    toBytes 1 elem ++ toBytes 8 aux ++ toBytes 4 obj ++ toBytes 4 0 ++ toBytes 8 ring ++ toBytes 4 0x8000000 ++ toBytes 4 0x8000000
/-- A started job of the block's channel 0 from the card at 0x1000. -/
def job (c : List Byte) : Job where
  block := 1
  launch := 1
  warp := 2
  mloop := false
  chan := 0
  addr := 0x1000
  card := c
  edges := []
  started := true
  pos := 0
  source := BitVec.ofNat 64 (cSrc c)
  pin := []
  park := none
  io := none
  err := none
  finished := false
  stage := 0
  ringSlot := 0
  version := 0
  replays := 0
  retrains := 0
  advances := 0
  traps := 0
  flags := 0
  z := false
  word0 := 0
  kept := []
  advSeen := []
  entry := none
  sent := []
/-- The machine with job 9. -/
def withJob (s : State) (j : Job) : State := { s with jobs := [(9, j)] }

theorem jobAt (j : Job) (h : j.block = 1) (hl : j.launch = 1) (hi : j.io = none) : JobAt (withJob base j) 9 j where
  job := rfl
  launch := by
    have e : ((withJob base j).block j.block).launch = 1 := by rw [h]; exact (by decide +kernel : (base.block 1).launch = 1)
    rw [e, hl]
  quiet := hi

theorem wit_copy_start : let s := withRegs base [(4, 0xFFC0)];
    sregWait s.me [4] = false ∧ s.stampsPending s.me = false ∧ (sreg s.me 4).toNat % 64 = 0 ∧ (sreg s.me 4).toNat < 2 ^ 56 ∧
    (kGet s.myBlock.chans (7 : BitVec 3).toNat).walking = false := by decide +kernel
theorem wit_copy_walking : let s := onBlock base fun b => { b with chans := [(7, ⟨true, 0x1000, none, none, 0, false⟩)] };
    (kGet s.myBlock.chans (7 : BitVec 3).toNat).walking = true ∧ sreg s.me 4 = 0 := by decide +kernel
/-- The state in which channel 7 reads a card at 0x1000. -/
def walking (c : List Byte) : State :=
  withBytes (onBlock base fun b => { b with chans := [(7, ⟨true, 0x1000, none, none, 0, false⟩)] }) 0x201000 c
/-- R216: a head that is not aligned (log 40) is reported as ENTRY_FETCH. -/
theorem wit_card_misaligned : let s := onBlock base fun b => { b with chans := [(7, ⟨true, 0x1001, none, none, 0, false⟩)] };
    ChanReady s 1 7 ∧ (kGet (s.block 1).chans 7).head.toNat % 64 ≠ 0 ∧
    ((after (.chainCardRead 1 7) s).launch 1).tally.copyCode = 0x1C :=
  ⟨⟨by decide +kernel, by decide +kernel, by decide +kernel, by decide +kernel, by decide +kernel, by decide +kernel⟩,
    by decide +kernel, by decide +kernel⟩
theorem wit_card_read : let s := walking (card 0 0x2000 0 100 0 0x05 0 0 0 0);
    ChanReady s 1 7 ∧ (kGet (s.block 1).chans 7).io = none ∧ (kGet (s.block 1).chans 7).head.toNat % 64 = 0 ∧
    Reads s (s.launch (s.block 1).launch).ctx (kGet (s.block 1).chans 7).head 64 (card 0 0x2000 0 100 0 0x05 0 0 0 0) :=
  ⟨⟨by decide +kernel, by decide +kernel, by decide +kernel, by decide +kernel, by decide +kernel, by decide +kernel⟩,
    by decide +kernel, by decide +kernel, ⟨0x201000, 0x20040F, lies_of (by decide +kernel) (by decide +kernel), by decide +kernel, by decide +kernel⟩⟩
theorem wit_card_kinds : cBit (card 0 0 0 0 0 0 0 0 0 0) 0 = false ∧ cBit (card 0 0x2000 0 100 0 0x05 0 0 0 0) 0 = true ∧
    cardCode (card 0 0x2000 0 100 0 0x05 0 0 0 0) = 0 ∧ cardCode (card 0 0x2000 0 100 6 0x05 0 0 0 0) ≠ 0 := by decide +kernel
theorem wit_job_start : let c := card 0 0x2000 0 100 0 0x05 0 0 0 0;
    JobAt (withJob base { job c with started := false }) 9 { job c with started := false } ∧ cOp c ≠ 5 ∧ (job c).pin = [] ∧
    EdgesOver (withJob base (job c)) (job c) := ⟨jobAt _ rfl rfl rfl, by decide +kernel, rfl, nofun⟩
/-- A job with an edge from one that has finished, and waits for its ring. -/
theorem wit_job_edge : EdgesOver { withJob base (job []) with jobs := [(8, { job [] with stage := 1 })] } { job [] with edges := [8] } := by
  intro i hi e he
  obtain rfl : i = 8 := by simpa using hi
  cases he
  decide +kernel
theorem wit_job_pointer : let c := card 0 0 0 100 5 0x05 0 0x3000 0 0;
    JobAt (withJob base { job c with started := false }) 9 { job c with started := false } ∧ cOp c = 5 ∧ cAux c % 8 = 0 ∧
    Reads (withJob base (job c)) (jobCtx (withJob base (job c)) (job c)) 0x3000 8 (readBytes base.mem 0x203000 8) ∧
    cBit c 2 = true :=
  ⟨jobAt _ rfl rfl rfl, by decide +kernel, by decide +kernel,
    reads_of (pte := 0x20040F) (by decide +kernel) (by decide +kernel) (by decide +kernel), by decide +kernel⟩

/-- Bytes of the scratchpad within the footprints. -/
theorem fromScratch (c : List Byte) (a n : Nat)
    (h : scratchCode (base.block 1) (base.launch 1).record.scratch (cRfp c) a n false = 0) :
    TakesFrom (withJob base (job c)) (job c) true a n (readBytes (base.block 1).scratch a n) := ⟨h, rfl⟩
/-- Bytes of the first page. -/
theorem fromPage (c : List Byte) (a n : Nat) (h : 0 < n) (ha : a + n ≤ 65536) :
    TakesFrom (withJob base (job c)) (job c) false a n (readBytes base.mem (0x200000 + a) n) := by
  have hc : base.check 0 0 0 = .here 0x200000 0x20040F := by decide +kernel
  have e0 : (0 : W64) + BitVec.ofNat 64 a = BitVec.ofNat 64 a := by simp
  have h0 := check_page base 0 0 0 a _ _ hc (by show 0 % 65536 + a < 65536; omega)
  refine ⟨h, by omega, 0x200000 + a, 0x20040F, ?_, rfl, rfl⟩
  rw [e0] at h0
  have e : (BitVec.ofNat 64 a).toNat = a := by rw [BitVec.toNat_ofNat]; omega
  exact lies_of (s := withJob base (job c)) h0 (by rw [e]; omega)
theorem toScratch (c : List Byte) (a n : Nat) (h : cBit c 2 = true)
    (hs : scratchCode (base.block 1) (base.launch 1).record.scratch (cWfp c) a n true = 0) :
    GoesTo (withJob base (job c)) (job c) a n none := ⟨h, hs⟩
theorem toPage (c : List Byte) (a n : Nat) (h : cBit c 2 = false) (hn : 0 < n) (ha : a + n ≤ 65536) :
    GoesTo (withJob base (job c)) (job c) a n (some (0x200000 + a, 0x20040F)) := by
  have hc : base.check 0 0 1 = .here 0x200000 0x20040F := by decide +kernel
  have e0 : (0 : W64) + BitVec.ofNat 64 a = BitVec.ofNat 64 a := by simp
  have h0 := check_page base 0 0 1 a _ _ hc (by show 0 % 65536 + a < 65536; omega)
  rw [e0] at h0
  have e : (BitVec.ofNat 64 a).toNat = a := by rw [BitVec.toNat_ofNat]; omega
  exact ⟨h, hn, by omega, lies_of (s := withJob base (job c)) h0 (by rw [e]; omega)⟩

theorem wit_chunk_copy_in : let c := card 0 0x2000 0 100 0 0x05 0 0 0 0;
    Chunk (withJob base (job c)) (job c) 0 (readBytes base.mem 0x202000 100) ∧ GoesTo (withJob base (job c)) (job c) 0 100 none :=
  ⟨⟨rfl, fromPage _ 0x2000 100 (by decide) (by decide)⟩, toScratch _ _ _ (by decide +kernel) (by decide +kernel)⟩
theorem wit_chunk_copy_out : let c := card 0 0 0xFFFF 1 0 0x03 0 0 0 0;
    Chunk (withJob base (job c)) (job c) 0xFFFF (readBytes (base.block 1).scratch 0 1) ∧
    GoesTo (withJob base (job c)) (job c) 0xFFFF 1 (some (0x20FFFF, 0x20040F)) :=
  ⟨⟨rfl, fromScratch _ 0 1 (by decide +kernel)⟩, toPage _ _ _ (by decide +kernel) (by decide) (by decide)⟩
theorem wit_chunk_fill : let c := card 0 0 0 16 1 0x05 0 0x0807060504030201 0 0;
    Chunk (withJob base (job c)) (job c) 0 [1, 2, 3, 4, 5, 6, 7, 8, 1, 2, 3, 4, 5, 6, 7, 8] ∧
    GoesTo (withJob base (job c)) (job c) 0 16 none :=
  ⟨⟨rfl, by decide +kernel⟩, toScratch _ _ _ (by decide +kernel) (by decide +kernel)⟩
theorem wit_chunk_gather : let c := card 0 0x2000 0 16 2 0x05 3 0x3000 0 0;
    Chunk (withJob base (job c)) (job c) 0 (readBytes base.mem 0x202000 8) :=
  ⟨readBytes base.mem 0x203000 4, by decide +kernel, ⟨0x203000, 0x20040F, lies_of (by decide +kernel) (by decide +kernel),
    by decide +kernel, rfl⟩, by decide +kernel, fromPage _ 0x2000 8 (by decide) (by decide)⟩
theorem wit_chunk_scatter : let c := card 0 0 0x2000 16 3 0x03 3 0x3000 0 0;
    Chunk (withJob base (job c)) (job c) 0x2000 (readBytes (base.block 1).scratch 0 8) :=
  ⟨readBytes base.mem 0x203000 4, by decide +kernel, ⟨0x203000, 0x20040F, lies_of (by decide +kernel) (by decide +kernel),
    by decide +kernel, rfl⟩, by decide +kernel, fromScratch _ 0 8 (by decide +kernel)⟩
/-- An expand of one-byte elements: 128 kept values, then nibbles that all name elements 0 and 1. -/
theorem wit_chunk_expand : let c := card 0 0x2000 0 256 4 0x05 0 0 0 0;
    let s := withBytes (withJob base (job c)) 0x202080 (List.replicate 32 0x44);
    Chunk s (job c) 0 ((List.range 256).map (expandedByte 1 256 (List.replicate 128 0 ++ List.replicate 32 0x44))) :=
  ⟨List.replicate 128 0, List.replicate 32 0x44, rfl,
    ⟨by decide +kernel, by decide +kernel, 0x202000, 0x20040F, lies_of (by decide +kernel) (by decide +kernel),
      by decide +kernel, by decide +kernel⟩,
    ⟨by decide +kernel, by decide +kernel, 0x202080, 0x20040F, lies_of (by decide +kernel) (by decide +kernel),
      by decide +kernel, by decide +kernel⟩,
    by unfold indicesRise; decide +kernel, by decide +kernel, rfl⟩
theorem wit_chunk_pointer : let c := card 0 0 0 100 5 0x05 0 0x3000 0 0;
    Chunk (withJob base { job c with source := 0x2000 }) { job c with source := 0x2000 } 0 (readBytes base.mem 0x202000 100) :=
  ⟨rfl, fromPage _ 0x2000 100 (by decide) (by decide)⟩
theorem wit_chunk_bounds : let c := card 0 0x2000 0 100 0 0x05 0 0 0 0;
    JobAt (withJob base (job c)) 9 (job c) ∧ (job c).started = true ∧ (job c).err = none ∧ (job c).stage = 0 ∧
    (job c).pos < cLen c ∧ cOp c ≤ 5 ∧ (job c).entry = none := ⟨jobAt _ rfl rfl rfl, by decide +kernel⟩

/-- A finished job with a ring at 0x4000 of 4 slots. -/
def ringCard : List Byte := card 0 0x2000 0 100 0 0x15 0 0 0 0x4000
def ringed (stage : Nat) : Job := { job ringCard with pos := 100, stage := stage, ringSlot := 3 }
theorem wit_job_finish : JobAt (withJob base (ringed 0)) 9 (ringed 0) ∧ (ringed 0).started = true ∧
    cLen ringCard ≤ (ringed 0).pos ∧ cBit ringCard 3 = false ∧ cBit ringCard 4 = true ∧
    cBit (card 0 0 0 100 0 5 0 0 0 0) 4 = false ∧ (ringed 0).sent = [] ∧
    Writes (withJob base (ringed 0)) 0 ((ringed 0).addr + 29) 1 0x20101D 0x20040F :=
  ⟨jobAt _ rfl rfl rfl, rfl, by decide +kernel, by decide +kernel, by decide +kernel, by decide +kernel, rfl,
    writes_of (by decide +kernel) (by decide +kernel) (by decide +kernel) (by decide +kernel)⟩
theorem wit_ring_take : let s := withBytes (withJob base (ringed 1)) 0x204000 [3, 0, 0, 0, 2];
    let h : List Byte := [3, 0, 0, 0, 2] ++ List.replicate 27 0;
    JobAt s 9 (ringed 1) ∧ (cRing ringCard).toNat % 32 = 0 ∧ Reads s (jobCtx s (ringed 1)) (cRing ringCard) 32 h ∧
    2 ≤ fieldN h 4 1 ∧ fieldN h 4 1 ≤ 16 ∧ fieldN h 5 27 = 0 ∧
    s.check (jobCtx s (ringed 1)) (cRing ringCard) 2 = .here 0x204000 0x20040F ∧
    Writes s (jobCtx s (ringed 1)) (cRing ringCard) 4 0x204000 0x20040F :=
  ⟨⟨rfl, by decide +kernel, rfl⟩, by decide +kernel,
    ⟨0x204000, 0x20040F, lies_of (by decide +kernel) (by decide +kernel), by decide +kernel, by decide +kernel⟩,
    by decide +kernel, by decide +kernel, by decide +kernel, by decide +kernel,
    writes_of (by decide +kernel) (by decide +kernel) (by decide +kernel) (by decide +kernel)⟩
theorem wit_ring_write : let s := withJob base (ringed 2);
    let slot := cRing ringCard + BitVec.ofNat 64 (32 + 32 * (ringed 2).ringSlot);
    JobAt s 9 (ringed 2) ∧ Reads s (jobCtx s (ringed 2)) slot 1 [0] ∧
    Writes s (jobCtx s (ringed 2)) slot 32 0x204080 0x20040F :=
  ⟨jobAt _ rfl rfl rfl,
    ⟨0x204080, 0x20040F, lies_of (by decide +kernel) (by decide +kernel), by decide +kernel, by decide +kernel⟩,
    writes_of (by decide +kernel) (by decide +kernel) (by decide +kernel) (by decide +kernel)⟩

/-- A job whose card names the last object of the scratchpad, which still waits for 101 bytes. -/
def objCard : List Byte := card 0 0x2000 0 100 0 0x1D 0 0 0xFFE0 0x4000
def arriving : State :=
  onBlock (withJob base { job objCard with pos := 100, stage := 2 }) fun b => writeObj b 0xFFE0 ⟨101, 0, 0, 7, 1, true⟩
theorem wit_job_arrives : let j := { job objCard with pos := 100, stage := 2 };
    JobAt arriving 9 j ∧ objFault (arriving.block 1) (arriving.launch 1).record.scratch (BitVec.ofNat 64 0xFFE0) = none ∧
    readObj (arriving.block 1) 0xFFE0 = ⟨101, 0, 0, 7, 1, true⟩ ∧ cBit j.card 3 = true ∧ cObj j.card = 0xFFE0 ∧
    cLen j.card < (101 : W64).toNat ∧ Reads arriving (jobCtx arriving j) 0x4020 1 [0] ∧
    Writes arriving (jobCtx arriving j) 0x4020 32 0x204020 0x20040F :=
  ⟨⟨rfl, by decide +kernel, rfl⟩, by decide +kernel, by decide +kernel, by decide +kernel, by decide +kernel,
    by decide +kernel,
    ⟨0x204020, 0x20040F, lies_of (by decide +kernel) (by decide +kernel), by decide +kernel, by decide +kernel⟩,
    writes_of (by decide +kernel) (by decide +kernel) (by decide +kernel) (by decide +kernel)⟩

/-- A loop card (R228): i8 images at 0 and 0x1000, `steps` steps, group v0 on, naming an object or none. -/
def loopCard (steps obj flags : Nat) : List Byte :=
  toBytes 4 0 ++ toBytes 4 0x1000 ++ toBytes 8 0 ++ toBytes 4 128 ++ toBytes 4 128 ++ toBytes 4 0 ++ toBytes 4 steps ++
    toBytes 2 (6 + 32 * 6) ++ toBytes 1 0 ++ toBytes 1 0 ++ toBytes 4 obj ++ toBytes 1 flags ++ toBytes 15 0 ++
    toBytes 4 0x8000000 ++ toBytes 4 0
def loopJob (steps stage flags : Nat) : Job :=
  { job (loopCard steps (0xFFE0 * flags) flags) with mloop := true, stage := stage }
theorem wit_loop_card : let s := withRegs base [(4, 0x1000)];
    let s := withBytes s 0x201000 (loopCard 2 0 0);
    sregWait s.me [4] = false ∧ s.me.wait = .none ∧ s.stampsPending s.me = false ∧ (sreg s.me 4).toNat % 64 = 0 ∧
    ReadsAs s s.myCtx (sreg s.me 4) 64 2 (loopCard 2 0 0) ∧ LoopCard s (loopCard 2 0 0) ∧ s.coreJobs s.myBlock.pcore < 64 ∧
    fragInt (lAfmt (loopCard 2 0 0)) = true :=
  ⟨by decide +kernel, by decide +kernel, by decide +kernel, by decide +kernel,
    ⟨0x201000, 0x20040F, lies_of (by decide +kernel) (by decide +kernel), by decide +kernel, by decide +kernel⟩,
    ⟨by decide +kernel, by decide +kernel, by decide +kernel, by decide +kernel, by decide +kernel⟩, by decide +kernel,
    by decide +kernel⟩
theorem wit_loop_step : let j := loopJob 2 0 0;
    JobAt (withJob base j) 9 j ∧ j.mloop = true ∧ kGet? (withJob base j).warps j.warp = some base.me ∧ lSteps j.card ≠ 0 ∧
    (withJob base j).blockStopping 1 = false ∧ j.traps = 0 ∧
    (∀ e ∈ loopImages j.card, damagedAt ((withJob base j).block 1) e.1 e.2.2.1 = false) ∧ (∀ i, i < 32 → base.me.absent.contains (lAcc j.card + i) = false) ∧
    2 ^ max (lClass j.card) (mmaClass (lAfmt j.card) (lBfmt j.card)) ≤ (withJob base j).budget 0 0 :=
  ⟨jobAt _ rfl rfl rfl, by decide +kernel⟩
theorem wit_loop_end : let j := { loopJob 0 0 0 with pin := (base.pinOf 0 0x1000).toList };
    JobAt (withJob base j) 9 j ∧ lSteps j.card = 0 ∧ j.card.length = 64 ∧
    j.pin = ((withJob base j).pinOf (jobCtx (withJob base j) j) j.addr).toList ∧
    Lies (withJob base j) (jobCtx (withJob base j) j) j.addr 64 1 0x201000 0x20040F :=
  ⟨jobAt _ rfl rfl rfl, by decide +kernel, by decide +kernel, by decide +kernel, lies_of (by decide +kernel) (by decide +kernel)⟩
theorem wit_loop_gone : JobAt (withJob base (loopJob 0 2 0)) 9 (loopJob 0 2 0) ∧ lFlags (loopJob 0 2 0).card = 0 :=
  ⟨jobAt _ rfl rfl rfl, by decide +kernel⟩
theorem wit_loop_arrives : let j := loopJob 0 2 1;
    let s := onBlock (withJob base j) fun b => writeObj b 0xFFE0 ⟨2, 0, 0, 7, 1, true⟩;
    JobAt s 9 j ∧ lFlags j.card = 1 ∧ lObj j.card = 0xFFE0 ∧ 1 < (2 : W64).toNat ∧ j.edges = [] ∧ j.finished = false ∧
    kGet? s.warps j.warp = some s.me ∧ objFault (s.block 1) (s.launch 1).record.scratch 0xFFE0 = none ∧
    readObj (s.block 1) 0xFFE0 = ⟨2, 0, 0, 7, 1, true⟩ := ⟨⟨rfl, by decide +kernel, rfl⟩, by decide +kernel⟩
/-- R208, R211: a fill of 16 bytes of the scratchpad repeats the eight bytes of AUX. -/
theorem test_fill : let c := card 0 0 0 16 1 0x05 0 0x0807060504030201 0 0;
    readBytes ((after (.copyChunk 9) (withJob base (job c))).block 1).scratch 7 3 = [8, 1, 2] := by decide +kernel
/-- R210: a card without OWN stops its channel, one with it is entered as a job. -/
theorem test_card_read : ((after (.chainCardRead 1 7) (walking (card 0 0 0 0 0 0 0 0 0 0))).block 1).chans =
      [(7, ⟨false, 0x1000, none, none, 0, false⟩)] ∧
    ((after (.chainCardRead 1 7) (walking (card 0x80 0x2000 0 100 0 5 0 0 0 0))).jobs.map (·.2.addr)) = [0x1000] := by
  decide +kernel
/-- R215: the first free slot of a ring takes the entry of a job that ended OK after 100 bytes. -/
theorem test_ring : let t := after (.ringReport 9) (withJob base (ringed 2));
    readBytes t.mem 0x204080 8 = [1, 0, 0, 0, 100, 0, 0, 0] ∧ t.jobs = [] := by decide +kernel

/-! ## Sequences -/

/-- Page 1 of the big ones holds key frames of 256 bytes from physical 0x400000 on; a tree at 0x3000 resolves positions 0 and
1 to the rows of the frame at 0x200000, of format F16 and two dimensions, with values at 0x4000; row 0 is stored. -/
def rooted (s : State) : State :=
  let s := withBytes s 0x104008 (toBytes 8 0x400607)
  let s := withBytes s 0x203000 ([1] ++ List.replicate 15 0 ++ toBytes 4 0 ++ toBytes 4 2 ++ toBytes 8 0x3101)
  let s := withBytes s 0x203100 (toBytes 8 0x200000 ++ toBytes 8 0x4000)
  let s := withBytes s 0x400000 (toBytes 4 7 ++ [0, 0x0C] ++ toBytes 2 1)
  withBytes s 0x400080 (toBytes 2 0x3C00 ++ toBytes 2 0xC000)
/-- The slot. -/
def slot (c t : W32) : Seq where
  loaded := true
  owner := 1
  home := 0x5000
  ctx := 0
  root := 0x3000
  c := c
  t := t
  bslog := 1
  kfmt := 0x0C
  vfmt := 0x0C
  d := 2
  gen := 9
  freq := 0x6000
  cache := []
def sequenced (s : State) (c t : W32) : State := (rooted s).setSeq 63 (slot c t)
/-- The descriptor of the slot. -/
def seqBytes : List Byte :=
  toBytes 8 0x3000 ++ toBytes 4 1 ++ toBytes 4 1 ++ [1, 0x0C] ++ toBytes 2 2 ++ [0x0C, 0, 0, 0] ++ toBytes 4 9 ++ toBytes 4 0 ++
    toBytes 8 0x6000 ++ toBytes 24 0

theorem wit_slot_loads : let s := withBytes (withRegs (sequenced base 1 1) [(4, 0x5000)]) 0x205000 seqBytes;
    Free s ∧ ((s.seq 63).loaded = true → (s.seq 63).owner = s.me.launch) ∧ (sreg s.me 4).toNat % 64 = 0 ∧
    Reads s s.myCtx (sreg s.me 4) 64 seqBytes ∧ seqOk seqBytes = true :=
  ⟨⟨by decide +kernel, by decide +kernel⟩, by decide +kernel, by decide +kernel,
    ⟨0x205000, 0x20040F, lies_of (by decide +kernel) (by decide +kernel), by decide +kernel, by decide +kernel⟩,
    by decide +kernel⟩
theorem wit_slot_mine : let s := withRegs (sequenced base 1 2) [(4, 0x5000)];
    SlotFree s 63 (slot 1 2) ∧ sregWait s.me [4] = false ∧ (sreg s.me 4).toNat % 64 = 0 ∧ (slot 1 2).c.toNat < (slot 1 2).t.toNat ∧
    Writes s s.myCtx (sreg s.me 4) 32 0x205000 0x20040F :=
  ⟨⟨⟨by decide +kernel, by decide +kernel, by decide +kernel⟩, by decide +kernel⟩, by decide +kernel, by decide +kernel,
    by decide +kernel, writes_of (by decide +kernel) (by decide +kernel) (by decide +kernel) (by decide +kernel)⟩
/-- What a listing and a choice of blocks give. -/
def listed {α : Type} : Listed α → Option (List α)
  | .ok l _ => some l
  | .stop _ => none
def cached {α : Type} : Listed α → List (Nat × W64)
  | .ok _ c => c
  | .stop _ => []
def chosen : Todo → Option (List (KBlock × Nat × Nat))
  | .ok l none => some l
  | _ => none
theorem listed_eq {α : Type} {r : Listed α} {l : List α} (h : listed r = some l) : r = .ok l (cached r) := by
  cases r with
  | ok m c => rw [Option.some.inj h]; rfl
  | stop s => exact absurd h nofun
theorem chosen_eq {r : Todo} {l : List (KBlock × Nat × Nat)} (h : chosen r = some l) : r = .ok l none := by
  cases r with
  | ok m b => cases b with
    | none => rw [Option.some.inj h]
    | some _ => exact absurd h nofun
  | illegal => exact absurd h nofun
  | stop s => exact absurd h nofun
/-- The block of the tree below position 1. -/
def blockOne : KBlock := ⟨0x200000, 0, [(0, 0, 0x4000)]⟩
/-- What the walker of slot 63 then holds. -/
def walked : List (Nat × W64) := cached ((sequenced base 1 1).blocksBelow false 63 (slot 1 1) 1)
theorem wit_one_block (e : RowEffect) (h : effectOk e 0x0C = true)
    (ht : chosen ((sequenced base 1 1).todoBlocks (slot 1 1) e [blockOne]) = some [(blockOne, 0x400000, 0x0C)]) :
    Finds (sequenced base 1 1) 63 (slot 1 1) 0x100000000 e [(blockOne, 0x400000, 0x0C)] walked where
  count := by decide +kernel
  found := ⟨[blockOne], listed_eq (by decide +kernel), chosen_eq ht⟩
  free := by decide +kernel
  rows := by decide +kernel
  size := by decide +kernel
  format := by
    intro b hb
    obtain rfl := List.mem_singleton.mp hb
    exact ⟨by decide +kernel, by decide +kernel, h⟩
  apart := by decide +kernel
/-- A tree of two list entries: positions 0 and 1 lie in the frame at 0x200000, position 2 in the one at 0x200100. -/
def twoTree (s : State) : State :=
  let s := withBytes s 0x203000 ([1] ++ List.replicate 15 0 ++ toBytes 4 0 ++ toBytes 4 3 ++ toBytes 8 0x3101)
  let s := withBytes s 0x203110 (toBytes 8 0x200100 ++ toBytes 8 0x4080)
  withBytes s 0x400100 (toBytes 4 1 ++ [0, 0x0C] ++ toBytes 2 0)
def twoBlocks : State := twoTree (sequenced base 3 3)
def blocksTwo : List KBlock := [⟨0x200000, 0, [(0, 0, 0x4000), (1, 1, 0x4000)]⟩, ⟨0x200100, 2, [(2, 0, 0x4080)]⟩]
def theBlocks : List (KBlock × Nat × Nat) := blocksTwo.zip [(0x400000, 0x0C), (0x400100, 0x0C)]
theorem wit_two_blocks : Finds twoBlocks 63 (slot 3 3) 0x200000000 .sum theBlocks (cached (twoBlocks.blocksBelow false 63 (slot 3 3) 3)) where
  count := by decide +kernel
  found := ⟨blocksTwo, listed_eq (by decide +kernel), chosen_eq (by decide +kernel)⟩
  free := by decide +kernel
  rows := by decide +kernel
  size := by decide +kernel
  format := by decide +kernel
  apart := by decide +kernel
theorem wit_ksum : let s := withRegs (sequenced base 1 1) [(4, 0x100000000), (5, 0x0F)];
    Free s ∧ SlotFree s 63 (slot 1 1) ∧ sregWait s.me [4, 5] = false ∧ sreg s.me 4 = 0x100000000 ∧ sreg s.me 5 = 0x0F :=
  ⟨⟨by decide +kernel, by decide +kernel⟩, ⟨⟨by decide +kernel, by decide +kernel, by decide +kernel⟩, by decide +kernel⟩,
    by decide +kernel⟩
theorem wit_ksum_block : Finds (sequenced base 1 1) 63 (slot 1 1) 0x100000000 .sum [(blockOne, 0x400000, 0x0C)] walked :=
  wit_one_block _ (by decide +kernel) (by decide +kernel)
theorem wit_kreq_block :
    Finds (sequenced base 1 1) 63 (slot 1 1) 0x100000000 (.req 0x0F) [(blockOne, 0x400000, 0x0C)] walked :=
  wit_one_block _ (by decide +kernel) (by decide +kernel)
theorem wit_krot_block : (slot 1 1).freq ≠ 0 ∧ 2 ≤ (slot 1 1).d ∧
    Finds (sequenced base 1 1) 63 (slot 1 1) 0x100000000 (.rot (rotTable 1 (toBytes 8 0x400000000000) 2))
      [(blockOne, 0x400000, 0x0C)] walked ∧
    ReadsLong base base.myCtx 0x6000 8 (readBytes base.mem 0x206000 8) :=
  ⟨by decide +kernel, by decide +kernel, wit_one_block _ (by decide +kernel) (by decide +kernel),
    readsLong_of (pte := 0x20040F) (by decide +kernel) (by decide +kernel) (by decide +kernel) (by decide +kernel)
      (by decide +kernel)⟩
/-- A KAPP word of keys at v4 and values at v5 that appends tentatively to slot 63. -/
def appender : LaneF where
  la := 3
  g := 0
  gn := 0
  ty := 0
  lc := 0
  ab := 0
  vd := 0
  va := 4
  vb := 5
  ctl := 0
  c := 63
/-- One lane is active, position 1 is free, and TACC is on. -/
def appending : State :=
  onWarp (sequenced (onRecord lane fun r => { r with mode := 0x80 }) 1 1) fun x => { x with path0 := { x.path0 with mask := 1 } }
/-- Two lanes are active, and positions 1 and 2 of two blocks are free; another slot has filled the walker. -/
def appendingTwo : State :=
  onWarp ((twoTree (sequenced (onRecord lane fun r => { r with mode := 0x80 }) 1 1)).setSeq 62 { slot 1 1 with
    cache := List.replicate 4096 (0, 0) }) fun x => { x with path0 := { x.path0 with mask := 3 } }
theorem wit_kapp : let s := appendingTwo;
    SlotMine s 63 (slot 1 1) ∧ s.lanePre (kappRegs appender (slot 1 1)) (guardMask appender) = .go ∧ s.retHeld = false ∧
    memHeld s.myPath = false ∧ s.myPath.reserved = none ∧ modeTacc s.myMode = true ∧ appender.vc = 0 ∧ appender.aux.toNat / 128 % 8 = 0 ∧ appender.aux.getLsbD 6 = false ∧
    lanesOf (active s.me s.cur.path appender) = [0, 1] ∧
    2 ^ max (appender.ctlN 11 2) 0 ≤ s.budget s.myDie s.myCtx :=
  ⟨⟨by decide +kernel, by decide +kernel, by decide +kernel⟩, by decide +kernel⟩
/-- What the targets of an append give. -/
def targets : Targets → Option (List (Nat × Nat × W64 × Nat))
  | .ok l _ => some l
  | _ => none
def targetsCache : Targets → List (Nat × W64)
  | .ok _ c => c
  | _ => []
theorem targets_eq {r : Targets} {l : List (Nat × Nat × W64 × Nat)} (h : targets r = some l) : r = .ok l (targetsCache r) := by
  cases r with
  | ok m c => rw [Option.some.inj h]; rfl
  | bad _ => exact absurd h nofun
  | stop s => exact absurd h nofun
/-- The targets of the two lanes. -/
def theTargets : List (Nat × Nat × W64 × Nat) := [(0, 0x400000, 0x4000, 1), (1, 0x400100, 0x4080, 0)]
theorem wit_kapp_target : appendingTwo.kappTargets 63 (slot 1 1) 1 [0, 1] =
    .ok theTargets (targetsCache (appendingTwo.kappTargets 63 (slot 1 1) 1 [0, 1])) :=
  targets_eq (by decide +kernel)
/-- The place of a value block. -/
def valuePlace (v : W64) : Nat := 0x200000 + v.toNat
theorem wit_kapp_apart :
    (∀ τ ∈ theTargets, τ.2.2.2 < 2 ^ 1 ∧ fieldN (readBytes appendingTwo.mem τ.2.1 8) 4 1 &&& fBUSY = 0 ∧ pteKind 0x20040F = 0 ∧
      τ.2.2.1.toNat + 8 ≤ 2 ^ 56) ∧
    (∀ τ ∈ theTargets, ∀ σ ∈ theTargets, (τ.2.1 = σ.2.1 ∨ τ.2.1 + 136 ≤ σ.2.1 ∨ σ.2.1 + 136 ≤ τ.2.1) ∧
      (τ.2.2.1 = σ.2.2.1 ∨ valuePlace τ.2.2.1 + 8 ≤ valuePlace σ.2.2.1 ∨ valuePlace σ.2.2.1 + 8 ≤ valuePlace τ.2.2.1) ∧
      (τ.2.1 + 136 ≤ valuePlace σ.2.2.1 ∨ valuePlace σ.2.2.1 + 8 ≤ τ.2.1)) ∧
    theTargets.Pairwise (fun τ σ => (τ.2.1 = σ.2.1 ∨ τ.2.2.1 = σ.2.2.1) → τ.2.2.2 ≠ σ.2.2.2) ∧
    rowStart 2 + rowSpan 0x0C 2 2 = 136 ∧ rowSpan 0x0C 2 2 = 8 := by decide +kernel
theorem wit_kapp_value (m : Memory)
    (h : ∀ a, (∀ τ ∈ theTargets, (a < τ.2.1 ∨ τ.2.1 + 136 ≤ a) ∧ (a < valuePlace τ.2.2.1 ∨ valuePlace τ.2.2.1 + 8 ≤ a)) →
      spGet m a = spGet appendingTwo.mem a) :
    ∀ τ ∈ theTargets, Writes { appendingTwo with mem := m } 0 τ.2.2.1 8 (valuePlace τ.2.2.1) 0x20040F := by
  have hl : ∀ j, j < 0x204000 → spGet m j = spGet appendingTwo.mem j := fun j hj => h j (by
    intro τ hτ
    have : ∀ τ ∈ theTargets, 0x204000 ≤ τ.2.1 ∧ 0x204000 ≤ valuePlace τ.2.2.1 := by decide +kernel
    exact ⟨.inl (by have := this τ hτ; omega), .inl (by have := this τ hτ; omega)⟩)
  have hk : (kGet? appendingTwo.mgmt.contexts 0) = some ⟨0x100000, 0⟩ := by decide +kernel
  have g : ∀ a, a + 8 ≤ 0x204000 → ofBytes (readBytes m a 8) = ofBytes (readBytes appendingTwo.mem a 8) := fun a ha =>
    congrArg ofBytes (readBytes_congr _ _ _ _ fun j h1 h2 => hl j (by omega))
  have one (v : W64) (hc : appendingTwo.check 0 v 1 = .here (valuePlace v) 0x20040F) (hb : v.toNat % 65536 + 8 ≤ 65536)
      (hv : v.toNat < 2 ^ 56) (hr : ∀ a ∈ appendingTwo.checkReads 0 v, a + 8 ≤ 0x204000) (hp : 0x204000 ≤ valuePlace v)
      (hr2 : State.checkReads { appendingTwo with mem := m } 0 v = appendingTwo.checkReads 0 v) :
      Writes { appendingTwo with mem := m } 0 v 8 (valuePlace v) 0x20040F := by
    have e : ∀ a ∈ appendingTwo.checkReads 0 v, readBytes m a 8 = readBytes appendingTwo.mem a 8 := fun a ha =>
      readBytes_congr _ _ _ _ fun j h1 h2 => hl j (by have := hr a ha; omega)
    refine writes_of ?_ hb (by decide +kernel) fun a ha => .inl (by have := hr a (hr2 ▸ ha); omega)
    rw [check_congr _ _ _ _ _ e, hc]
  intro τ hτ
  simp only [theTargets, List.mem_cons, List.not_mem_nil, or_false] at hτ
  rcases hτ with rfl | rfl <;>
  · refine one _ (by decide +kernel) (by decide +kernel) (by decide +kernel) (by decide +kernel) (by decide +kernel) ?_
    simp only [State.checkReads, hk, State.walkReads, State.phys64]
    rw [g _ (by decide +kernel), g _ (by decide +kernel), g _ (by decide +kernel), g _ (by decide +kernel)]
/-- R251: a commit of more than there is stops at T; R241: a slot of another launch faults OPERAND. -/
theorem test_klen : let s := withRegs (sequenced base 1 3) [(4, 0xFFFFFFFFFFFFFFFF)];
    ((after (.klenCommit 63 4) s).seq 63).c = 3 ∧ ((after (.klenReject 63) s).seq 63).t = 1 ∧
    ((after (.klenReject 63) s).seq 63).gen = 10 := by decide +kernel
/-- R253, R254: KREQ to 8 bits of the row 1.0, −2.0; the summary is in generation 8 and holds one row. -/
theorem test_kreq : let s := withRegs (sequenced base 1 1) [(4, 0x100000000), (5, 0x0E)];
    let t := after (.kreq 63 4 5) s;
    readBytes t.mem 0x400000 8 = [8, 0, 0, 0, 0, 0x0E, 1, 0] ∧ readBytes t.mem 0x400080 2 = [0x38, 0xC0] ∧
    readBytes t.mem 0x400020 8 = [0x80, 0x3F, 0x00, 0xC0, 0x80, 0x3F, 0x00, 0xC0] := by decide +kernel
/-- R249, R250: KAPP gives position 1 to s63 and stores the row at its place. -/
theorem test_kapp : let s := onWarp appending fun x => { x with v := spSet x.v (4 * 32) 0x3C003C00 };
    let t := after (.kapp appender) s;
    sreg t.me 63 = 1 ∧ (t.seq 63).t = 2 ∧ readBytes t.mem 0x400000 8 = [8, 0, 0, 0, 0, 0x0C, 2, 0] := by decide +kernel


/-! ## Function tables, clocks, stamped stores -/

/-- The second 2 MiB in pages: a STAMPED one at 0x200000, one of tier 1, one of tier 2, one of tier 0, and one that nobody may
read. -/
def paged (s : State) : State :=
  let s := withBytes s 0x104008 (toBytes 8 0x105001)
  withBytes s 0x105000 (toBytes 8 0x600107 ++ toBytes 8 0x1000047 ++ toBytes 8 0x2000087 ++ toBytes 8 0x640007 ++ toBytes 8 0x650001)
/-- The die of the warp has counted from 1,000,000. -/
def ticking (s : State) : State := onDie s 0 fun d => { d with count := 1000000, c0 := 0, e0 := 0, l0 := 0 }

theorem wit_ftld : let s := withRegs base [(4, 0x2000)];
    Free s ∧ (sreg s.me 4).toNat % 64 = 0 ∧ (sreg s.me 4).toNat < 2 ^ 56 ∧
    ReadsLong s s.myCtx (sreg s.me 4) 1024 (readBytes s.mem 0x202000 1024) :=
  ⟨⟨by decide +kernel, by decide +kernel⟩, by decide +kernel, by decide +kernel,
    readsLong_of (pte := 0x20040F) (by decide +kernel) (by decide +kernel) (by decide +kernel) (by decide +kernel)
      (by decide +kernel)⟩
theorem wit_ftsw : (base.setCore 0 { base.core 0 with pending := true }).core base.myCore =
    { base.core 0 with pending := true } ∧ (base.core base.myCore).pending = false := by decide +kernel
theorem wit_cwait : let s := withRegs (ticking base) [(4, 0), (5, 1000020)];
    (sreg s.me 4).toNat < dieE (s.die s.myDie) ∧
    dieE (s.die s.myDie) ≤ (sreg s.me 5).toNat ∧ (sreg s.me 5).toNat ≤ dieL (s.die s.myDie) + 1000000 ∧
    sregWait s.me [4] = false ∧ sregWait s.me [BitVec.ofNat 6 (2 * (31 : BitVec 5).toNat), BitVec.ofNat 6 (2 * (31 : BitVec 5).toNat) + 1] = false := by
  decide +kernel
theorem wit_cwait_ends : let s := onWarp (ticking base) fun x => { x with wait := .cwait 999979 };
    (s.warp 2).wait = .cwait 999979 ∧ (999979 : W64).toNat < dieE (s.die ((s.block (s.warp 2).block).pcore / 44)) := by
  decide +kernel
/-- A word on lane 0 alone, with addresses in v4 and data in v6, guarded by nothing. -/
def word (va vb vd : BitVec 8) (ctl : BitVec 16) (c : BitVec 32) : LaneF := ⟨3, 0, 0, 0, 0, 0, vd, va, vb, ctl, c⟩
/-- Lane 0 alone is active; v4 of it is an address, v6 and v7 are data, a0 is 5. -/
def stamping : State :=
  onRecord (onWarp (ticking (paged lane)) fun x => { x with
    v := spSet (spSet x.v (32 * 4) 0x200008) (32 * 6) 77
    running := some ⟨0, [5, 0, 0, 0, 0, 0, 0, 0]⟩
    path0 := { x.path0 with mask := 1 } }) fun r => r
theorem wit_stamped (vd : BitVec 8) (ctl : BitVec 16) : laneAccs stamping.me stamping.cur.path (word 4 6 vd ctl 0) = [(0, 0x200008)] := by
  have e : laneAccs stamping.me stamping.cur.path (word 4 6 vd ctl 0) = laneAccs stamping.me stamping.cur.path (word 4 6 0 0 0) := rfl
  rw [e]; decide +kernel
theorem wit_vstc : let s := onLaunch stamping fun l => { l with ilim := 40 };
    let f := word 4 6 0 0 0;
    s.lanePre (regsOf true f.va ++ regsOf true f.vb) (guardMask f) = .go ∧ s.myPath.io = none ∧
    memHeld s.myPath = false ∧
    areg s.me (f.ctlN 0 3) = 5 ∧ (s.die s.myDie).queue.length + 1 ≤ 4096 ∧ s.stampsWait s.myDie = false ∧
    LanesHere s (laneAccs s.me s.cur.path f) 8 4 [(0, 0x200008, 0x600008, 0x600107)] ∧ StampReady s 5 := by
  refine ⟨by decide +kernel, by decide +kernel, by decide +kernel, by decide +kernel, by decide +kernel, by decide +kernel,
    by unfold LanesHere; decide +kernel, ?_⟩
  refine ⟨999980, 1000020, ⟨by decide +kernel, by decide +kernel, by decide +kernel, .inl (by decide +kernel)⟩,
    by decide +kernel, by decide +kernel⟩
/-- A store of stamp 5 is in the queue, before one of stamp 6 and after one of stamp 7. -/
def pendingStore (t : W64) : Stamped := ⟨1, 1, 0, 0, 0x200008, 0x600008, 77, t, 0, 0⟩
/-- Stores of path 1 of the warp wait for room. -/
theorem wit_vstc_waits : (onWarp stamping fun x => { x with path1 := { x.path1 with
    outs := [{ outst 3 [] [] [] [] with stamps := [pendingStore 7] }] } }).stampsWait stamping.myDie = true := by decide +kernel
def committing : State := onDie stamping 0 fun d => { d with queue := [pendingStore 7, pendingStore 5, pendingStore 6] }
theorem wit_commit : kGet? committing.dies 0 = some (committing.die 0) ∧
    (committing.die 0).queue = [pendingStore 7] ++ pendingStore 5 :: [pendingStore 6] ∧
    (∀ e ∈ [pendingStore 7], (pendingStore 5).stamp.toNat < e.stamp.toNat) ∧
    (∀ e ∈ [pendingStore 6], (pendingStore 5).stamp.toNat ≤ e.stamp.toNat) ∧
    (pendingStore 5).stamp.toNat < rawE (committing.die 0) ∧ (pendingStore 5).pa % 8 = 0 ∧
    committing.stampsWait 0 = false := by decide +kernel
/-- The stamp of the line for each clause: an equal stamp, a later one without, with an earlier, with a later previous one. -/
theorem wit_commit_cases :
    let lines (a b : Nat) := lineWords (withBytes committing 0x610018 (toBytes 8 a ++ toBytes 8 b)) 0x600008;
    (lines 5 0).stamp = 5 ∧ (lines 6 (2 ^ 64 - 1)).prevStamp = BitVec.allOnes 64 ∧ (lines 6 5).prevStamp = 5 ∧
    (lines 7 6).prevStamp = 6 := by decide +kernel
theorem wit_vlda : let s := onLaunch stamping fun l => { l with ilim := 40 };
    ∀ m : Fin 2, let f := word 4 0 8 (BitVec.ofNat 16 (8 * m)) 0;
    s.lanePre (regsOf true f.vd ++ regsOf true f.va) (guardMask f ++ (if f.ctlN 3 4 = 0 then [] else [f.ctlN 3 4])) = .go ∧
    memHeld s.myPath = false ∧
    s.myPath.io = none ∧ LanesHere s (laneAccs s.me s.cur.path f) 8 5 [(0, 0x200008, 0x600008, 0x600107)] := by
  intro s m f
  refine ⟨?_, ?_, ?_, ?_⟩
  · revert m; decide +kernel
  · decide +kernel
  · decide +kernel
  · unfold LanesHere; revert m; decide +kernel
/-- A load as of 5 is outstanding on path 1. -/
def reading : State := onWarp stamping fun x => { x with path1 := { x.path1 with
  outs := [{ outst 3 [8, 9] [1] [] [] with asOf := some ⟨5, [(0, 0x200008)], 8, 1⟩ }] } }
theorem wit_as_of : (warpPath (reading.warp 2) 1).outs[0]? =
      some { outst 3 [8, 9] [1] [] [] with asOf := some ⟨5, [(0, 0x200008)], 8, 1⟩ } ∧
    (5 : W64).toNat + (reading.launch (reading.warp 2).launch).ilim < dieE (reading.die 0) ∧
    (reading.block (reading.warp 2).block).pcore / 44 = 0 ∧
    reading.check (reading.launch (reading.warp 2).launch).ctx 0x200008 5 = .here 0x600008 0x600107 ∧
    reading.linePoisoned 0x600008 = false := by decide +kernel
/-- R302, R303: the store of stamp 5 commits onto a line of stamp 4, whose value becomes its previous one. -/
theorem test_commit : let t := after (.stampedCommit 0) (withBytes (withBytes committing 0x610018 (toBytes 8 4)) 0x600008 [9]);
    lineWords t 0x600008 = ⟨77, 5, 4, 9⟩ ∧ (t.die 0).queue = [pendingStore 7, pendingStore 6] := by decide +kernel
/-- R305: as of 5, a line whose two versions are later sets the lane's bit of the mask. -/
theorem test_as_of : let s := withBytes reading 0x610018 (toBytes 8 7 ++ toBytes 8 6);
    ((warpPath ((after (.asOfWaitEnd 2 1 0) s).warp 2) 1).outs.map (·.maskWrites)) = [[⟨1, 1, 1⟩]] := by decide +kernel

/-! ## Page moves -/

/-- The timetable at 0x8000: an entry that fetches the page at 0x210000, due at 2. -/
def timetable (flags : Nat) : List Byte :=
  toBytes 8 0x210000 ++ toBytes 8 65536 ++ toBytes 2 1 ++ toBytes 2 2 ++ [1, 0] ++ toBytes 2 flags ++ toBytes 8 0
def scheduled (flags : Nat) : State :=
  onLaunch (withBytes (paged base) 0x208000 (timetable flags)) fun l =>
    { l with marker := 1, record := { l.record with timetable := 0x8000, entries := 1 } }
/-- The state in which PMARK has raised the marker and started its entries. -/
def marked (s : State) (n : Nat) : State := (s.setLaunch 1 { s.myLaunch with marker := max s.myLaunch.marker n }).startEntries 1
theorem wit_pmark : base.me.launch = 1 ∧ base.me.wait = .none ∧ TableReads (marked base 0xFFFF) ((marked base 0xFFFF).launch 1) 0xFFFF [] ∧
    (scheduled 0).me.wait = .none ∧ TableReads (marked (scheduled 0) 2) ((marked (scheduled 0) 2).launch 1) 2 [0] ∧
    TableReads (marked (scheduled 1) 2) ((marked (scheduled 1) 2).launch 1) 2 [] ∧ modeSm (scheduled 0).myMode = false := by
  refine ⟨by decide +kernel, ?_⟩
  refine ⟨by decide +kernel, ⟨fun _ => [], ?_, by decide +kernel⟩, by decide +kernel, ⟨fun _ => timetable 0, ?_, by decide +kernel⟩,
    ⟨fun _ => timetable 1, ?_, by decide +kernel⟩, by decide +kernel⟩ <;> decide +kernel
theorem wit_entry_start : let s := scheduled 0;
    kGet? s.eng.launches 1 = some s.myLaunch ∧ s.myLaunch.complete = false ∧ s.myLaunch.tally.forced = false ∧ 0 < s.myLaunch.record.entries ∧
    (kGet s.myLaunch.entries 0).started = false ∧ (kGet s.myLaunch.entries 0).ended = false ∧ s.myLaunch.home = some 0 ∧
    s.entryGot s.myLaunch 0 = .bytes (timetable 0) ∧ entryOk (timetable 0) = true ∧ tStart (timetable 0) ≤ s.myLaunch.marker ∧
    s.earlierWaits s.myLaunch 0 = false ∧ s.inFlight (s.entryDie 1 (timetable 0)) < 16 := by decide +kernel
/-- Lane 0 of mask 1 asks for an address. -/
def asking (va : Nat) : State :=
  onWarp (paged lane) fun x => { x with
    v := spSet x.v (32 * 4) (BitVec.ofNat 32 va)
    m := spSet x.m 1 1 }
theorem wit_treq : let f := word 4 0 0 1 0;
    let accs (s : State) := (lanesOf (active s.me s.cur.path f &&& mreg s.me s.cur.path 1)).map fun l => (l, laneVa s.me f l);
    (asking 0x210008).lanePre (regsOf true f.va) (guardMask f ++ [1]) = .go ∧ (∀ e ∈ (asking 0x210008).moves, e.1 < (asking 0x210008).nextId) ∧
    accs (asking 0x210008) = [(0, 0x210008)] ∧ (asking 0x210008).check 0 0x210008 0 = .away ∧
    LanesHere (asking 0x230001) (accs (asking 0x230001)) 1 0 [(0, 0x230001, 0x640001, 0x640007)] := by
  unfold LanesHere; decide +kernel

/-- A move of the page at `va`. -/
def moveOf (va : W64) (act tier : Nat) (marked : Bool) (pte : W64) : Move := ⟨0, va, tier, act, 0, 1, none, marked, pte, none⟩
def withMove (m : Move) : State :=
  { (onDie (paged base) 0 fun d => { d with pool0 := [0x800000] }) with moves := [(7, m)], backing := [⟨0, 0x230000, 0x3000000, false, 0⟩, ⟨0, 0x220000, 0x2000000, false, 22⟩] }
theorem moveReady (m : Move) (wk : Walk) (he : m.entry = none) (hp : (withMove m).translate m.ctx m.va = some wk)
    (hk : wk.big = false ∧ pteKind wk.pte = 0) : MoveReady (withMove m) 7 m wk where
  move := rfl
  alone := he
  first := by intro e h hl; simp [withMove] at h; subst h; exact absurd hl (Nat.lt_irrefl 7)
  page := hp
  kind := hk
theorem wit_move_marks : let m := moveOf 0x210000 1 0 false 0;
    let n := moveOf 0x230000 2 1 false 0;
    EngineRoom (withMove m) m ∧ EngineRoom (withMove n) n ∧
    MoveReady (withMove m) 7 m ⟨0x1000047, 0x105008, false⟩ ∧ m.tier < pteTier 0x1000047 ∧
    MoveReady (withMove n) 7 n ⟨0x640007, 0x105018, false⟩ ∧ ptePin 0x640007 = false ∧ pteTier 0x640007 < n.tier :=
  ⟨by unfold EngineRoom; decide +kernel, by unfold EngineRoom; decide +kernel,
    moveReady _ _ rfl (by decide +kernel) (by decide +kernel), by decide +kernel,
    moveReady _ _ rfl (by decide +kernel) (by decide +kernel), by decide +kernel⟩
theorem wit_promotion_1 : let m := moveOf 0x210000 1 0 true 0x1000047;
    MoveFinishes (withMove m) 7 m ⟨0x1000047, 0x105008, false⟩ ∧ pteTier 0x1000047 = 1 ∧
    takeFrame ((withMove m).die m.die).pool0 1 = some (0x800000, []) ∧ (withMove m).backingOf m.ctx m.va = none ∧
    (0x105008 + 8 ≤ (0x800000 : W64).toNat) :=
  ⟨⟨moveReady _ _ rfl (by decide +kernel) (by decide +kernel), ⟨rfl, rfl⟩, by decide +kernel⟩, by decide +kernel⟩
theorem wit_promotion_2 : let m := moveOf 0x220000 1 0 true 0x2000087;
    MoveFinishes (withMove m) 7 m ⟨0x2000087, 0x105010, false⟩ ∧ pteTier 0x2000087 = 2 ∧ pteTagd 0x2000087 = false ∧
    (withMove m).backingPlace m = 22 ∧ (withMove m).backingGone 22 = false ∧ takeFrame ((withMove m).die m.die).pool0 1 = some (0x800000, []) :=
  ⟨⟨moveReady _ _ rfl (by decide +kernel) (by decide +kernel), ⟨rfl, rfl⟩, by decide +kernel⟩, by decide +kernel⟩
/-- The page's backing stands in host memory; or in a peer, which has answered every read of it. -/
theorem wit_promotion_host : let m := moveOf 0x230000 1 0 true 0x3000087;
    let s := withBytes (withMove m) 0x105018 (toBytes 8 0x3000087);
    s.backingPlace m = 0 ∧ m.io = none ∧ s.backingGone 0 = false ∧ s.translate m.ctx m.va = some ⟨0x3000087, 0x105018, false⟩ ∧
    pteTier 0x3000087 = 2 ∧ pteTagd 0x3000087 = false := by decide +kernel
theorem wit_promotion_peer : let io : IoWait := { noIo with answers := (List.range 256).map fun k => (k, List.replicate 256 1) };
    let m := { moveOf 0x220000 1 0 true 0x2000087 with io := some io };
    (withMove m).backingPlace m ≠ 0 ∧ m.io = some io ∧ io.reqs = [] ∧ io.refused = [] ∧
    (∀ k, k < 256 → ((kGet? io.answers k).getD []).length = 256) ∧ MoveFinishes (withMove m) 7 m ⟨0x2000087, 0x105010, false⟩ :=
  ⟨by decide +kernel, rfl, rfl, rfl, by decide +kernel, ⟨moveReady _ _ rfl (by decide +kernel) (by decide +kernel), ⟨rfl, rfl⟩, by decide +kernel⟩⟩
theorem wit_write_back : let m := moveOf 0x230000 2 2 true 0x640007;
    MoveFinishes (withMove m) 7 m ⟨0x640007, 0x105018, false⟩ ∧ pteTier 0x640007 = 0 ∧
    (withMove m).backingOf m.ctx m.va = some ⟨0, 0x230000, 0x3000000, false, 0⟩ ∧
    (withMove m).backingPlace m = 0 ∧ (withMove m).backingGone 0 = false ∧ (withMove m).clean.contains (pteAddr 0x640007) = false :=
  ⟨⟨moveReady _ _ rfl (by decide +kernel) (by decide +kernel), ⟨rfl, rfl⟩, by decide +kernel⟩, by decide +kernel⟩
/-- R283, R284: PMARK 2 waits for the entry due at 2, and raises the marker. -/
theorem test_pmark : let t := after (.pmark 2) (scheduled 0);
    t.me.pc = 0 ∧ t.me.wait = .parked ⟨.schedule, [0], 0⟩ ∧ (t.launch 1).marker = 2 := by decide +kernel

/-! ## Taking a fault -/

/-- The launch has a handler at 0x40, and is of user mode. -/
def handled : State := userOf (onRecord base fun r => { r with handler := 0x40, sbase := 0x1000 })
/-- The warp is in its handler. -/
def inHandler : State := onWarp handled fun x => { x with handler := true }
theorem wit_can_take : CanTake handled 2 ∧ CanTake handled handled.cur.warp ∧ handled.privileged = false ∧
    kGet? handled.warps 2 = some handled.me :=
  ⟨⟨by decide +kernel, by decide +kernel, by decide +kernel, by decide +kernel, by decide +kernel, by decide +kernel⟩,
    ⟨by decide +kernel, by decide +kernel, by decide +kernel, by decide +kernel, by decide +kernel, by decide +kernel⟩,
    by decide +kernel⟩
theorem wit_pending (lane : Bool) : let f : Pending := ⟨0x19, ⟨if lane then 0x119 else 0x19, 0, 8, 0, 0, 0, 0⟩, false⟩;
    let s := onWarp handled fun x => { x with pend := some f };
    kGet? s.warps 2 = some s.me ∧ s.me.pend = some f ∧ drained s.me = true ∧ s.me.mirror = none ∧ f.sstep = false ∧
    s.me.stopped = false ∧ s.me.handler = false ∧ (s.launch s.me.launch).record.handler ≠ 0 ∧
    f.rep.fault.getLsbD 8 = lane := by cases lane <;> decide +kernel
theorem wit_pending_halts : let f : Pending := ⟨0x19, ⟨0x19, 0, 8, 0, 0, 0, 0⟩, false⟩;
    let s := onWarp base fun x => { x with pend := some f };
    kGet? s.warps 2 = some s.me ∧ s.me.pend = some f ∧ drained s.me = true ∧ (s.launch s.me.launch).record.handler = 0 := by
  decide +kernel
theorem wit_eret : inHandler.me.handler = true ∧ inHandler.me.savedWait = .none ∧
    (onWarp inHandler fun x => { x with savedWait := .barrierDone 63 1 }).me.savedWait = .barrierDone 63 1 := by decide +kernel
theorem wit_handler_halts : inHandler.me.pend = none ∧ drained { inHandler.me with wait := .none } = true ∧
    inHandler.me.mirror = none := by decide +kernel
/-- Addresses: one byte past an aligned one, one that no entry maps, and one that no permission admits. -/
theorem wit_refused : let s := withRegs (paged handled) [(4, 0x2001), (5, 0x400000), (6, 0x240000)];
    (scalarEa s.me 4 1 0 (0 : BitVec 10)).toNat % 2 ^ (1 : BitVec 2).toNat ≠ 0 ∧ s.translate s.myCtx (scalarEa s.me 5 3 0 (0 : BitVec 10)) = none ∧
    s.translate s.myCtx (scalarEa s.me 6 3 0 (0 : BitVec 10)) = some ⟨0x650001, 0x105020, false⟩ ∧ pteR 0x650001 = false ∧
    pteW 0x650001 = false ∧ (s.die s.myDie).log.length < 256 ∧ sregWait s.me [7, 4] = false := by decide +kernel
/-- R190, R192: a trap enters the handler at its offset from the code base; ERET goes on after it. -/
theorem test_trap : let t := after (.trap 5) handled;
    t.me.pc = 0x1040 ∧ t.me.rep.fault = 0x50019 ∧ t.me.rep.fspc = 4 ∧ t.me.handler = true ∧
    (after .eret t).me.pc = 4 ∧ (after .eret t).me.handler = false := by decide +kernel
/-- R51: GATE in user mode. -/
theorem test_priv : (after (.gate 4 5) handled).me.rep.fault = 2 ∧ (after (.gate 4 5) handled).me.rep.fspc = 0 := by
  decide +kernel

/-! ## Launches -/

/-- A launch record of one task and one warp (R323). -/
def recordBytes (cls : Nat) : List Byte :=
  toBytes 16 0 ++ toBytes 8 0x10000 ++ toBytes 4 0x8000 ++ toBytes 4 0x6000 ++ toBytes 8 31 ++ toBytes 6 0 ++ toBytes 1 cls ++
    toBytes 81 0
/-- A queue of 4 slots at 0x3000, with one record to be taken from its last slot. -/
def hostQueue : HostQueue := { HostQueue.reset with
  base := 0x3000
  size := 2
  enable := true
  ctx := 0
  producer := 0
  consumer := 0xFFFFFFFF }
def queued (cls : Nat) : State :=
  let s := withBytes base 0x203180 (recordBytes cls)
  { s with eng := { s.eng with queues := [(3, hostQueue)], device := [⟨⟨recordBytes cls, [], [], [], none, 2, [], false⟩, 9, 0, false⟩] } }
theorem takenAs {s : State} {num ctx : Nat} {priv : Bool} {b p r h : List Byte}
    (hg : s.recordGot324 ctx priv b (decodeRec b) = .ok p r h) : TakenAs s num ctx priv b ⟨b, p, r, h, none, num, s.waitsNow ctx p, false⟩ := by
  unfold TakenAs; rw [hg]

theorem wit_launch (raised : Bool) : let cls := if raised then 2 else 7;
    let s := userOf (onLaunch (withRegs (queued cls) [(4, 0x3180)]) fun l => { l with effective := 5 });
    sregWait s.me [63, 4] = false ∧ s.me.wait = .none ∧ s.stampsPending s.me = false ∧ (sreg s.me 4).toNat % 128 = 0 ∧
    ReadsLong s s.myCtx (sreg s.me 4) 128 (recordBytes cls) ∧ s.eng.device.length < 256 ∧
    TakenAs s 2 s.myCtx s.privileged (recordBytes cls) ⟨recordBytes cls, [], [], [], none, 2, s.waitsNow s.myCtx [], false⟩ ∧
    (raised = true ↔ s.privileged = false ∧ fieldN (recordBytes cls) 46 1 % 8 < s.myLaunch.effective) := by
  have h (s : State) (bs : List Byte) (hc : s.check 0 0x3180 0 = .here 0x203180 0x20040F) (hp : s.poisoned 0x203180 128 = false)
      (hb : readBytes s.mem 0x203180 128 = bs) : ReadsLong s 0 0x3180 128 bs := hb ▸
    readsLong_of hc (by decide +kernel) (by decide +kernel) (by decide +kernel) hp
  cases raised
  · exact ⟨by decide +kernel, by decide +kernel, by decide +kernel, by decide +kernel,
      h _ _ (by decide +kernel) (by decide +kernel) (by decide +kernel), by decide +kernel, takenAs (by decide +kernel),
      by decide +kernel⟩
  · exact ⟨by decide +kernel, by decide +kernel, by decide +kernel, by decide +kernel,
      h _ _ (by decide +kernel) (by decide +kernel) (by decide +kernel), by decide +kernel, takenAs (by decide +kernel),
      by decide +kernel⟩
theorem wit_producer : kGet? (queued 0).eng.queues 3 = some hostQueue ∧ (kGet (queued 0).fab.links 6).dead = false ∧
    (queued 0).mgmt.recovery = false ∧ (((3 : W64).setWidth 32 : W32) - hostQueue.consumer).toNat ≤ 2 ^ hostQueue.size ∧
    ¬ (((4 : W64).setWidth 32 : W32) - hostQueue.consumer).toNat ≤ 2 ^ hostQueue.size := by decide +kernel
theorem wit_accept : hostQueue.enable = true ∧ hostQueue.producer ≠ hostQueue.consumer ∧
    (hostQueue.producer - hostQueue.consumer).toNat ≤ 2 ^ hostQueue.size ∧ (queued 0).graphWaits (.host 3) = false ∧
    ReadsLong (queued 0) hostQueue.ctx (hostQueue.base + BitVec.ofNat 64 (128 * (hostQueue.consumer.toNat % 2 ^ hostQueue.size)))
      128 (readBytes (queued 0).mem 0x203180 128) ∧
    (queued 0).recordGot324 0 false (recordBytes 0) (decodeRec (recordBytes 0)) = .ok [] [] [] ∧
    (queued 8).recordGot324 0 false (recordBytes 8) (decodeRec (recordBytes 8)) = .code 0x0A :=
  ⟨by decide +kernel, by decide +kernel, by decide +kernel, by decide +kernel,
    readsLong_of (pte := 0x20040F) (by decide +kernel) (by decide +kernel) (by decide +kernel) (by decide +kernel)
      (by decide +kernel), by decide +kernel⟩
theorem wit_device_accept : (queued 0).eng.device = [⟨⟨recordBytes 0, [], [], [], none, 2, [], false⟩, 9, 0, false⟩] ∧ (queued 0).graphWaits .device = false := by
  decide +kernel
/-- Launch 1 waits for the word at 0x7FF8, which holds 7, to be 7, and is of class 7. -/
def waiting : State := onDie (onLaunch (withBytes base 0x207FF8 [7]) fun l =>
  { l with waits := [(0x7FF8, 7, false)], admissibleAt := none, cls := 7, placed := 0 }) 4 fun d => { d with count := 10 ^ 12 }
theorem wit_pennant : kGet? waiting.eng.launches 1 = some waiting.myLaunch ∧ waiting.myLaunch.complete = false ∧
    waiting.myLaunch.refused = none ∧ waiting.myLaunch.waits = [(0x7FF8, 7, false)] ∧ waiting.check waiting.myLaunch.ctx 0x7FF8 0 = .here 0x207FF8 0x20040F ∧
    waiting.farPasses 0 0x7FF8 7 = false ∧ waiting.waitPasses 0 0x7FF8 7 = true ∧ waiting.waitPasses 0 0x7FF8 8 = false := by decide +kernel
/-- The record of number 9 waits in the queue for the word at 0x7FF8; no record has launch 1's number. -/
theorem wit_pennant_queued : let q : QueuedRec := ⟨⟨recordBytes 0, [], [], [], none, 2, [(0x7FF8, 7, false)], false⟩, 9, 0, false⟩;
    let s := { waiting with eng := { waiting.eng with device := [q] } };
    (s.eng.accepted ++ s.eng.device).find? (fun q => q.num == 9) = some q ∧
    (∀ w ∈ q.taken.waits, ∃ pa pte, s.check q.ctx w.1 0 = .here pa pte) ∧ (∀ q ∈ s.eng.accepted ++ s.eng.device, q.num ≠ 1) := by
  refine ⟨by decide +kernel, ?_, by decide +kernel⟩
  intro w hw
  obtain rfl := List.mem_singleton.mp hw
  exact ⟨0x207FF8, 0x20040F, by decide +kernel⟩
theorem wit_ages : let s := onLaunch waiting fun l => { l with admissibleAt := some 5 };
    let l := s.myLaunch;
    kGet? s.eng.launches 1 = some l ∧ l.admissibleAt = some 5 ∧ placeable l = true ∧ 3 ≤ l.cls ∧ l.placed < tasksOf l ∧
    max 5 l.movedAt + 1000 * (if l.placed = 0 then s.mgmt.settings.ages else l.ages).getD (l.cls - 3) 0 ≤ (s.die 4).count := by
  decide +kernel
/-- R332, R326: a launch of class 7 moves to 6; a passed wait makes it admissible. -/
theorem test_ages : (((after (.agePromotion 1) (onLaunch waiting fun l => { l with admissibleAt := some 5 })).launch 1).cls = 6) ∧
    (((after (.pennantRetest 1) waiting).launch 1).admissibleAt = some (10 ^ 12)) := by decide +kernel
/-- R328, R324: the record's last class is 7; class 8 is refused with OPERAND. -/
theorem test_accept : (((after (.hostQueueAccept 3) (queued 7)).launch 2).cls = 7) ∧
    (((after (.hostQueueAccept 3) (queued 8)).launch 2).refused = some 0x0A) ∧
    ((after (.hostQueueAccept 3) (queued 7)).queue 3).consumer = 0 := by decide +kernel

/-! ## Imports and gates -/

/-- An image of an import (R318). -/
def image : List Byte := toBytes 8 0x100 ++ toBytes 8 0x1000 ++ toBytes 8 0x55 ++ toBytes 4 0 ++ [0x0F] ++ toBytes 3 0
def granting (b : W64) : State := withBytes (withRegs base [(4, 0x2000), (5, b)]) 0x202000 image
theorem wit_grant (named : Bool) : let s := granting (if named then 1023 else 0xFFFFFFFFFFFFFFFF);
    PrivReady s [63, 4, 5] ∧ (sreg s.me 4).toNat % 32 = 0 ∧ ReadsLong s s.myCtx (sreg s.me 4) 32 image ∧ fieldN image 24 4 = 0 ∧
    fieldN image 28 1 < 16 ∧ fieldN image 29 3 = 0 ∧ fieldN image 0 8 % 256 = 0 ∧ fieldN image 0 8 < 2 ^ 56 ∧
    1 ≤ fieldN image 8 8 ∧ fieldN image 8 8 ≤ 2 ^ 42 ∧ (kGet s.fab.imports 0).valid = false ∧
    s.fab.ins = [] ∧ sreg s.me 5 = (if named then BitVec.ofNat 64 1023 else BitVec.allOnes 64) := by
  have h (s : State) (bs : List Byte) (hc : s.check 0 0x2000 0 = .here 0x202000 0x20040F) (hp : s.poisoned 0x202000 32 = false)
      (hb : readBytes s.mem 0x202000 32 = bs) : ReadsLong s 0 0x2000 32 bs := hb ▸
    readsLong_of hc (by decide +kernel) (by decide +kernel) (by decide +kernel) hp
  cases named
  · exact ⟨by unfold PrivReady; decide +kernel, by decide +kernel,
      h _ _ (by decide +kernel) (by decide +kernel) (by decide +kernel), by decide +kernel⟩
  · exact ⟨by unfold PrivReady; decide +kernel, by decide +kernel,
      h _ _ (by decide +kernel) (by decide +kernel) (by decide +kernel), by decide +kernel⟩
/-- A request waits that was checked under what entry 1023 held before: GRANT of the entry waits for it, until it has gone. -/
def waitingRequest (s : State) (e : Import) : State :=
  { s with fab := { s.fab with ins := [(5, ⟨0, [], some (1023, e), 0⟩)] } }
theorem wit_grant_waits : let s := waitingRequest (granting 1023) ⟨0, 1, 7, 0, true, true, true, true⟩;
    ∃ q ∈ s.fab.ins, ∃ c, q.2.checked = some (1023, c) ∧ ¬ s.nextId < q.2.since :=
  ⟨_, List.mem_singleton.mpr rfl, _, rfl, by decide +kernel⟩
theorem wit_grant_ends : let s := onWarp (granting 1023) fun x => { x with wait := .grant 1023 0 };
    s.me.wait = .grant 1023 0 ∧ s.fab.ins = [] := by decide +kernel
/-- All import entries are used. -/
def usedImports : KMap Import := (List.range 1024).map fun k => (k, ⟨0, 1, 0, 0, true, false, false, false⟩)
def withImports (s : State) (m : KMap Import) : State := { s with fab := { s.fab with imports := m } }
def full : State := withImports (granting 0xFFFFFFFFFFFFFFFF) usedImports
theorem wit_grant_full : sreg full.me 5 = BitVec.allOnes 64 ∧ ∀ j, j < 1024 → (kGet full.fab.imports j).valid = true := by
  refine ⟨by decide +kernel, ?_⟩
  have e (s : State) (m : KMap Import) : (withImports s m).fab.imports = m := rfl
  rw [full, e, usedImports]
  intro j hj
  have h (l : List Nat) (hm : j ∈ l) :
      (kGet (l.map fun k => (k, (⟨0, 1, 0, 0, true, false, false, false⟩ : Import))) j).valid = true := by
    induction l with
    | nil => exact absurd hm nofun
    | cons a t ih =>
      by_cases ha : a = j
      · simp [kGet, kGet?, ha]
      · have := ih (by simpa [Ne.symm ha] using hm)
        simpa [kGet, kGet?, ha] using this
  exact h _ (List.mem_range.mpr hj)
/-- A gate descriptor of the line at 0x7000 with a log of `cap` bytes at 0x8000 (R350). -/
def gateBytes (used : Nat) : List Byte := toBytes 8 0x7000 ++ toBytes 8 0x8000 ++ toBytes 4 0x100 ++ toBytes 4 used ++ [3] ++ toBytes 7 0
/-- A launch that records (DET 2) or replays (DET 3), in bits 2:1 of the mode. -/
def gating (det : W32) (a : W64) : State :=
  onRecord (withBytes (withRegs base [(4, a), (5, 63)]) 0x206000 (gateBytes 0x100)) fun r => { r with mode := det }
/-- A slot on the line at 0x7000. -/
def gateAt (wid run : Nat) (open_ : Bool) : Gate := ⟨0x7000, 0x6000, 0x8000, 0x100, 8, 3, 0, 0, wid, run, open_, true⟩
theorem wit_gate (rec : Bool) : let s := gating (if rec then 4 else 6) 0x6000;
    PrivReady s [4, 5] ∧ 2 ≤ modeDet s.myMode ∧ sreg s.me 5 = BitVec.ofNat 64 63 ∧ sreg s.me 4 ≠ 0 ∧
    (sreg s.me 4).toNat % 32 = 0 ∧ ReadsLong s s.myCtx (sreg s.me 4) 32 (gateBytes 0x100) ∧
    gateOk (gateBytes 0x100) (modeDet s.myMode == 3) = true ∧ kGet? s.myLaunch.gates 63 = none ∧
    s.myLaunch.gates = [] ∧ s.lineInFlight s.me.launch (BitVec.ofNat 64 (fieldN (gateBytes 0x100) 0 8)) = false := by
  have h (s : State) (bs : List Byte) (hc : s.check 0 0x6000 0 = .here 0x206000 0x20040F) (hp : s.poisoned 0x206000 32 = false)
      (hb : readBytes s.mem 0x206000 32 = bs) : ReadsLong s 0 0x6000 32 bs := hb ▸
    readsLong_of hc (by decide +kernel) (by decide +kernel) (by decide +kernel) hp
  cases rec
  · exact ⟨by unfold PrivReady; decide +kernel, by decide +kernel, by decide +kernel, by decide +kernel, by decide +kernel,
      h _ _ (by decide +kernel) (by decide +kernel) (by decide +kernel), by decide +kernel⟩
  · exact ⟨by unfold PrivReady; decide +kernel, by decide +kernel, by decide +kernel, by decide +kernel, by decide +kernel,
      h _ _ (by decide +kernel) (by decide +kernel) (by decide +kernel), by decide +kernel⟩
theorem wit_gate_clears : let s := onLaunch (gating 4 0) fun l => { l with gates := [(63, gateAt 0 4 true)] };
    sreg s.me 4 = 0 ∧ kGet? s.myLaunch.gates 63 = some (gateAt 0 4 true) ∧ kGet? (gating 4 0).myLaunch.gates 63 = none ∧
    s.clearNeeds s.myLaunch (gateAt 0 4 true) = none := by decide +kernel
/-- A scalar atomic add of 5 waits at its gate. -/
def gateLane : GateLane := ⟨0, 0x7008, ⟨1, 3, 5, 0⟩, none⟩
def passing (det : W32) (g : Gate) : State :=
  onLaunch (onWarp (gating det 0) fun x => { x with wait := .gate gateLane }) fun l => { l with gates := [(0, g)] }
theorem passReady (det : W32) (g : Gate) (hp : (passing det g).check 0 0x7008 2 = .here 0x207008 0x20040F)
    (hc : (passing det g).poisoned 0x207008 8 = false) (hw : (kGet? (passing det g).warps 2).isSome)
    (hx : ((passing det g).launch ((passing det g).warp 2).launch).ctx = 0)
    (hg : (passing det g).gateOf ((passing det g).launch ((passing det g).warp 2).launch) 0x7008 = some 0 ∧
      g = kGet ((passing det g).launch ((passing det g).warp 2).launch).gates 0 ∧ g.live = true)
    (hl : (passing det g).logNeeds ((passing det g).launch ((passing det g).warp 2).launch) g = none) :
    PassReady (passing det g) 2 gateLane 0x207008 0x20040F 0 g where
  warp := hw
  page := by rw [hx]; exact hp
  clean := hc
  gate := hg
  log := hl
theorem wit_pass_recording : ∀ o : Bool, let g := gateAt 0 253 o;
    PassReady (passing 4 g) 2 gateLane 0x207008 0x20040F 0 g ∧ PassesNow (passing 4 g) 2 g ∧
    ((passing 4 g).warp 2).wait = .gate gateLane := by
  intro o g
  refine ⟨passReady _ _ ?_ ?_ ?_ ?_ ?_ ?_, ?_, ?_⟩
  all_goals first
    | (unfold PassesNow; simp only []; cases o <;> decide +kernel)
    | (cases o <;> decide +kernel)
theorem wit_pass_replay : let g := gateAt 0 2 false;
    PassReady (passing 6 g) 2 gateLane 0x207008 0x20040F 0 g ∧ PassesNow (passing 6 g) 2 g :=
  ⟨passReady _ _ (by decide +kernel) (by decide +kernel) (by decide +kernel) (by decide +kernel) (by decide +kernel)
    (by decide +kernel), by unfold PassesNow; decide +kernel⟩
theorem wit_pass_lanes : let s := onWarp (passing 4 (gateAt 0 253 true)) fun x =>
      { x with path1 := { x.path1 with outs := [{ outst 3 [8, 9] [] [] [] with gates := [{ gateLane with ret := some 8 }] }] } };
    (warpPath (s.warp 2) 1).outs = [{ outst 3 [8, 9] [] [] [] with gates := [{ gateLane with ret := some 8 }] }] ∧
    (∀ q ∈ [{ gateLane with lane := 1, va := 0x7010 }], s.samePlace (s.launch (s.warp 2).launch).ctx q.va gateLane.va = false) := by
  decide +kernel
/-- R352: the recorded atomic adds 5 to the line and its run is one longer. -/
theorem test_gate_pass : let t := after (.gatePass 2 2) (withBytes (passing 4 (gateAt 0 253 true)) 0x207008 [9]);
    t.byteAt 0x207008 = 14 ∧ t.me.wait = .gated 9 ∧ (kGet (t.launch 1).gates 0).run = 254 := by decide +kernel
/-- R365: a run that reaches 255 closes its chunk, which is written to the log at once. -/
theorem test_gate_run_closes : let t := after (.gatePass 2 2) (passing 4 (gateAt 0 254 true));
    readBytes t.mem 0x208008 4 = [0xFF, 0, 0, 0] ∧ (kGet (t.launch 1).gates 0).open_ = false ∧
    (kGet (t.launch 1).gates 0).used = 12 := by decide +kernel
/-- R318: the lowest free import takes the image, and its number goes to the destination. -/
theorem test_grant : let t := after (.grant 6 4 5) (granting 0xFFFFFFFFFFFFFFFF);
    kGet? t.fab.imports 0 = some ⟨0x100, 0x1000, 0x55, 0, true, true, true, true⟩ ∧ sreg t.me 6 = 0 := by decide +kernel

/-! ## Banks, reports, cores -/

/-- s4 to s6 hold the values given. -/
def operands (a b c : W64) : State := withRegs base [(4, a), (5, b), (6, c)]
theorem wit_digr : let s := { operands 9 3 0 with eng := { base.eng with retained := [⟨9, [(3, 0x77)], 1⟩] } };
    PrivReady s [63, 4, 5] ∧ s.eng.retained.find? (fun q => q.launch == (sreg s.me 4).toNat) = some ⟨9, [(3, 0x77)], 1⟩ ∧
    [(3, (0x77 : W64))].find? (fun e => e.1 == (sreg s.me 5).toNat) = some ((sreg s.me 5).toNat, 0x77) := by
  unfold PrivReady; decide +kernel
theorem wit_errq : let s := operands 0x515 0x2000 0;
    PrivReady s [63, 4, 5] ∧ (sreg s.me 5).toNat % 32 = 0 ∧ bankOk (sreg s.me 4).toNat = true ∧
    Writes s s.myCtx (sreg s.me 5) 32 0x202000 0x20040F :=
  ⟨by unfold PrivReady; decide +kernel, by decide +kernel, by decide +kernel,
    writes_of (by decide +kernel) (by decide +kernel) (by decide +kernel) (by decide +kernel)⟩
theorem wit_errq_log : let s := operands 5 0x2000 0;
    PrivReady s [63, 4, 5] ∧ (sreg s.me 4).toNat ≤ 5 ∧ (s.die (sreg s.me 4).toNat).log.length ≤ 256 ∧
    Writes s s.myCtx (sreg s.me 5) 8224 0x202000 0x20040F :=
  ⟨by unfold PrivReady; decide +kernel, by decide +kernel, by decide +kernel,
    writes_of (by decide +kernel) (by decide +kernel) (by decide +kernel) (by decide +kernel)⟩
theorem wit_errq_repair : let s := operands 0x2FE0 0 0;
    let p := { s with poison := [0x202FE0 / 32] };
    PrivReady s [63, 4] ∧ laneWait s.me = false ∧ s.me.held = [] ∧ (sreg s.me 4).toNat % 32 = 0 ∧
    s.check s.myCtx (sreg s.me 4) 0 = .here 0x202FE0 0x20040F ∧ 0x202FE0 % 32 = 0 ∧ s.poisoned 0x202FE0 32 = false ∧
    p.poisoned 0x202FE0 32 = true := by unfold PrivReady; decide +kernel
theorem wit_bank_update : bankOk 0 = true ∧ bankOk (5 * 256 + 21) = true ∧ bankOk 44 = false ∧ kGet? base.warps 77 = none ∧
    (4 = 4 ↔ 0x10 ≤ 0x10) ∧ ((1 : Nat) = 4 ↔ 0x10 ≤ 0x0F) ∧ bankOk (3 * 256 + 51) = true ∧
    kGet? base.blocks 1 = some (base.block 1) ∧ (base.block 1).pcore = 0 / 256 * 44 + 0 % 256 := by decide +kernel
/-- The reporting ring stands at 0x9000 with two slots. -/
def ringing (slot : Option Nat) : State :=
  let s := withBytes base 0x209000 [1, 0, 0, 0, 1]
  { s with mgmt := { s.mgmt with ringBase := 0x9000, ringCtx := 0, reports := [⟨0, 0, 1, 0x2000, 5, slot, false, false⟩] } }
theorem wit_ring_report : (ringing none).mgmt.ringBase ≠ 0 ∧
    (ringing none).check (ringing none).mgmt.ringCtx (ringing none).mgmt.ringBase 2 = .here 0x209000 0x20040F ∧
    (ringing (some 1)).check (ringing (some 1)).mgmt.ringCtx ((ringing (some 1)).mgmt.ringBase + BitVec.ofNat 64 (32 + 32 * 1)) 2 =
      .here 0x209040 0x20040F ∧ (ringing (some 1)).byteAt 0x209040 = 0 ∧
    ((ringing none).mgmt.reports[0]?).map (·.slot) = some none ∧
    ((ringing (some 1)).mgmt.reports[0]?).map (·.slot) = some (some 1) := by decide +kernel

/-- Logical core 39 of die 0 in a state, at s4; s5 is an address, s6 a core. -/
def coreIn (st : CoreState) (b : W64) : State := (operands 39 b 40).setCore 39 { base.core 39 with state := st }
theorem wit_core (st : CoreState) : let s := coreIn st 0x2000;
    PrivReady s [63, 4] ∧ OtherCore s 4 39 ∧ (s.core 39).state = st ∧ blocksOn s 39 = 0 ∧ sregWait s.me [4, 5] = false ∧
    (sreg s.me 5).toNat % 16 = 0 ∧ Lies s s.myCtx (sreg s.me 5) 16 1 0x202000 0x20040F := by
  cases st <;>
  exact ⟨by unfold PrivReady; decide +kernel, ⟨by decide +kernel, by decide +kernel⟩, by decide +kernel, by decide +kernel,
    by decide +kernel, by decide +kernel, lies_of (by decide +kernel) (by decide +kernel)⟩
theorem wit_scanwt : let s := (operands 39 0 0).setCore 39 { base.core 39 with state := .isolated, scanned := true, aborted := true };
    (s.core 39).scanned = true ∧ (s.core 39).state ≠ .scanning ∧ (s.core 39).aborted = true := by decide +kernel
theorem wit_lcmap : let s := coreIn .isolated 0xFFFFFFFFFFFFFFFF;
    (s.core 39).state = .isolated ∧ 40 / 44 = 39 / 44 ∧ 40 ∉ s.coreMap ∧ 40 ∉ s.failed ∧ sreg s.me 6 = BitVec.ofNat 64 40 ∧
    sreg s.me 5 = BitVec.allOnes 64 ∧ (∀ j, j < 40 → j ∈ s.coreMap ∨ j ∈ s.failed) ∧ OtherCore s 4 39 := by
  exact ⟨by decide +kernel, by decide +kernel, by decide +kernel, by decide +kernel, by decide +kernel, by decide +kernel,
    by decide +kernel, ⟨by decide +kernel, by decide +kernel⟩⟩
/-- Core 39 scans with its buffer at 0x2000. -/
def scanning (sig : Bool) : State := base.setCore 39 { base.core 39 with
  state := .scanning
  scanned := true
  signalled := sig
  scanEnd := 0
  scanBuf := 0x2000
  scanCtx := 0 }
theorem wit_scan_completes : let s := scanning false;
    (s.core 39).state = .scanning ∧ (s.core 39).scanEnd ≤ (s.die (39 / 44)).count ∧ s.mustAbort 39 = false ∧
    s.requestsOf (fun q => q.asker == .scan 39) = false ∧
    s.check (s.core 39).scanCtx (s.core 39).scanBuf 1 = .here 0x202000 0x20040F := by decide +kernel
/-- A signal that reaches the core 100,000 ns before its pattern ends. -/
theorem wit_scan_aborts : let s := (scanning true).setCore 39 { (scanning true).core 39 with scanEnd := (base.die 0).count + 100000 };
    s.cores.filter (fun e => e.1 / 44 == 0 && aborted (s.die 0) e.2) = [(39, s.core 39)] ∧
    kGet? s.cores 39 = some (s.core 39) := by decide +kernel
/-- Another warp of the launch, of number 1, has key 5; s4 names the launch and s5 the warp. -/
def twoWarps : State := (operands 1 0x20 0).setWarp 5 { base.me with widx := 1 }
theorem wit_wkill : twoWarps.warps.find? (fun e => e.2.launch == (sreg twoWarps.me 4).toNat &&
      warpWid (twoWarps.block e.2.block) e.2.widx == sreg twoWarps.me 5) = some (5, twoWarps.warp 5) ∧
    (kGet? twoWarps.warps twoWarps.cur.warp).isSome = true ∧ twoWarps.missPoisoned (twoWarps.warp 5) = false ∧
    5 ≠ twoWarps.cur.warp ∧ kGet? twoWarps.warps 5 = some (twoWarps.warp 5) ∧
    ¬ ((sreg twoWarps.me 4).toNat = twoWarps.me.launch ∧ sreg twoWarps.me 5 = warpWid twoWarps.myBlock twoWarps.me.widx) := by
  decide +kernel
theorem wit_wkill_none : let s := operands 7 0 0;
    s.warps.all (fun e => e.2.launch != (sreg s.me 4).toNat) = true ∧ s.blocks.all (fun e => e.2.conts.isEmpty) = true ∧
    (s.launch (sreg s.me 4).toNat).saved = [] ∧ (sreg s.me 4).toNat ≠ s.me.launch := by decide +kernel
/-- R356: a UE replaces a CE's record and is counted. -/
theorem test_bank : let t := after (.errorBankUpdate 0x515 2 3 0x40 0) (after (.errorBankUpdate 0x515 1 2 0x20 0) base);
    kGet t.banks 0x515 = ⟨2, false, 3, 1, 1, 0x40, 0⟩ := by decide +kernel
/-- R361: draining an ACTIVE core, whose blocks are counted. -/
theorem test_drain : let t := after (.corectlDrain 6 4) (coreIn .active 0);
    (t.core 39).state = .draining ∧ sreg t.me 6 = 0 ∧ t.me.pc = 4 := by decide +kernel
/-- R368, R369: LCMAP gives the die's lowest spare. -/
theorem test_lcmap : let t := after (.lcmap 6 4 5) (coreIn .isolated 0xFFFFFFFFFFFFFFFF);
    sreg t.me 6 = 40 ∧ t.coreMap[39]? = some 40 ∧ t.failed = [39] := by decide +kernel

/-! ## Lane instructions -/

/-- Register numbers, ctl and slot C of a lane word of a type, with guard m0. -/
def lw (ty : BitVec 5) (vd va vb : BitVec 8) (ctl : BitVec 16) (c : BitVec 32) : LaneF := ⟨4, 0, 0, ty, 0, 0, vd, va, vb, ctl, c⟩
/-- The value of register `n` in lane `l` (R24). -/
def regs (s : State) (vs : List (Nat × Nat × W32)) : State :=
  onWarp s fun x => { x with v := vs.foldl (fun m e => spSet m (32 * e.1 + e.2.1) e.2.2) x.v }
/-- Only the lanes of a mask run. -/
def only (m : W32) (s : State) : State := onWarp s fun x => { x with path0 := { x.path0 with mask := m } }
/-- A warp of the highest lane alone. -/
def last : State := only 0x80000000 lane

/-- Register and mask lists at the ends of their ranges. -/
theorem wit_lane_ready : let f := lw 0 255 0 254 0 0xFD000000;
    let g := lw 2 254 0 252 0 0xFA000000;
    Ready lane f (useDABC f) [] ∧ Ready lane f (useDAB f) (maskSet 15) ∧ Ready lane f (useDA f) [] ∧ Ready lane f (useAB f) (maskSet 15) ∧
    Ready lane f [255] [] ∧ Ready lane f [] (maskSet 15 ++ (maskSet 1 ++ maskSet 0)) ∧ Ready lane g (useDABC g) [] ∧
    Ready lane g (useDAB g) [] ∧ isPair f.ty = false ∧ isPair g.ty = true ∧ lane.retHeld = false := by unfold Ready; decide +kernel
theorem wit_lane_none : act (only 0 lane) (lw 0x14 1 2 3 0 0) = 0 ∧ hasLane (act last (lw 0x14 1 2 3 0 0)) 31 := by
  unfold hasLane; decide +kernel
theorem wit_lane_first : ∀ l, l < 31 → ¬ hasLane (act last (lw 0x14 1 2 3 0 0)) l := by unfold hasLane; decide +kernel
theorem wit_float_flags : let s := regs (only 1 lane) [(1, 0, 0x7F800000), (2, 0, 0xFF800000)];
    let t := onWarp s fun x => { x with fptraps := 1 };
    let f := lw 8 3 1 2 0 0;
    let fl (s : State) := flagsOver (act s f) 1 fun l e => (valFadd fmtF32 0 (el f (opA s.me f l) e) (el f (opB s.me f l) e)).2;
    Ready s f (useDAB f) [] ∧ trapHit s.me.fptraps (fl s) = false ∧ Ready t f (useDAB f) [] ∧ trapHit t.me.fptraps (fl t) = true := by
  unfold Ready; decide +kernel
theorem wit_denotes : Denotes fmtF32 0x3F800000 1 ∧ Denotes fmtF32 0x80000000 0 ∧ DenotesD 0x31C0000000000001 1 := by
  refine ⟨⟨false, 2 ^ 23, -23, by decide +kernel, by norm_num⟩, ⟨true, 0, -149, by decide +kernel, by norm_num⟩,
    ⟨false, 1, 0, by decide +kernel, by norm_num⟩⟩
theorem wit_nan : isNan (decodeF fmtF32 0x7F800001) = true ∧ isNan (decodeF fmtBF16 0xFFFF) = true := by decide +kernel
theorem wit_convert : let f := lw 0x0C 255 253 0 9 0;
    Ready lane f (regsOf (isPair f.ty) f.vd ++ regsOf (isPair (f.ctl.extractLsb' 0 5)) f.va) [] ∧ lane.me.fptraps = 0 ∧
    lane.me.dtraps = 0 := by unfold Ready; decide +kernel
/-- Signalling NaNs in v1, v2 and v4 to v5, as floats and as decimals, and every trap enabled. -/
def trapping : State :=
  let s := onWarp (regs (only 1 lane) [(1, 0, 0x7F800001), (2, 0, 0x7F800001), (4, 0, 1), (5, 0, 0x7E000000), (6, 0, 0x7D)]) fun x =>
    { x with fptraps := 0x1F, dtraps := 0x1F }
  s.setCore 0 { lane.core 0 with owner := 1, bank0 := [(0, 0x7F800001)] }
theorem wit_trap_float : let s := trapping;
    let one (g : Nat → Nat) : Nat := flagsOver 1 1 fun l _ => g l;
    let cvt := lw 8 8 1 0 8 0;
    let rot := lw 8 8 2 9 0 0;
    let vft := lw 8 8 9 0 0 0;
    Ready s cvt (regsOf (isPair cvt.ty) cvt.vd ++ regsOf (isPair (cvt.ctl.extractLsb' 0 5)) cvt.va) [] ∧
    trapHit s.me.fptraps (one fun l => (cvtElem 8 8 0 (readV s.me false 1 l)).2) = true ∧
    Ready s rot (regsOf true rot.vd ++ regsOf true rot.va ++ [9]) [] ∧
    trapHit s.me.fptraps (one fun l => (valVrot fmtF32 0 (bitsOf (readV s.me true 2 l) 0 32) (bitsOf (readV s.me true 2 l) 32 32)
      (vreg s.me 9 l).toNat (areg s.me 0)).2.2) = true ∧
    Ready s vft [vft.vd.toNat, vft.va.toNat] [] ∧ (s.core s.myCore).owner = s.me.launch ∧ (s.core s.myCore).activeBank = 0 ∧
    trapHit s.me.fptraps (one fun l => (valVft (s.core s.myCore).bank0 false (vreg s.me 9 l).toNat).2) = true := by
  unfold Ready; decide +kernel
theorem wit_trap_decimal : let s := trapping;
    let f := lw 0x13 8 4 4 0 0x04000000;
    Ready s f (useDAB f) [] ∧ Ready s f (useDABC f) [] ∧ Ready s f (useDA f) [] ∧ Ready s f (useAB f) (maskSet f.vd.toNat) ∧
    (∀ r ∈ decimalRows, trapHit s.me.dtraps (flagsOver 1 1 fun l _ => (r.2.2.2 0 (dA s.me f l) (dB s.me f l) (dC s.me f l)).2) = true) ∧
    trapHit s.me.dtraps (flagsOver 1 1 fun l _ => (valDcvt 0 true 0 (vpair s.me f.va.toNat l)).2) = true ∧
    trapHit s.me.dtraps (flagsOver 1 1 fun l _ => nvD [dA s.me f l, dB s.me f l]) = true := by
  unfold Ready; decide +kernel
theorem wit_trap_block : let s := trapping;
    let q := lw 0x0F 8 1 0 0 0;
    let d := lw 0x0F 8 6 0 0 0;
    Ready s q (regsOf true q.vd ++ regsOf false q.va) [] ∧ Ready s d ([d.vd.toNat] ++ regsOf true d.va) [] ∧
    trapHit s.me.fptraps (quantMx 0x0F (blockSrc fmtF32 ((List.range 32).map fun l => if hasLane 1 l then (vreg s.me 1 l).toNat % 2 ^ 32 else 0))).2.2 =
      true ∧ trapHit s.me.fptraps (valBdq 0x0F false (vreg s.me 6 0).toNat 0).2 = true := by
  unfold Ready hasLane; decide +kernel
/-- Sums of VREDX and VSCAN over ∞ and −∞: they trap where NV is enabled. -/
theorem wit_float_trees : let s := regs (only 3 lane) [(1, 0, 0x7F800000), (1, 1, 0xFF800000)];
    let t := onWarp s fun x => { x with fptraps := 1 };
    let f := lw 8 3 1 0 0 0;
    let g := lw 9 4 2 0 0 0;
    let x (l : Nat) : Option Nat := if l < 32 ∧ hasLane (act s f) l then some (opA s.me f l) else none;
    Ready s f (useDA f) [] ∧ Ready t f (useDA f) [] ∧ Ready s g (useDA g) [] ∧ f.ctlN 0 3 ≤ 2 ∧ f.ty.toNat = 8 ∧ g.ty.toNat = 9 ∧
    trapHit s.me.fptraps (reduced (joinedF fmtF32 0 0) x 5 0).2 = false ∧ trapHit t.me.fptraps (reduced (joinedF fmtF32 0 0) x 5 0).2 = true ∧
    trapHit s.me.fptraps (scanFlags (joinedF fmtF32 0 0) x) = false ∧ trapHit t.me.fptraps (scanFlags (joinedF fmtF32 0 0) x) = true := by
  unfold Ready hasLane; decide +kernel
/-- Values of codes: an infinity, 1, 3, −2^20, 1/2; of decimals, an infinity and 10^-1; the largest of 1 and −0. -/
theorem wit_values : Stands fmtF32 0xFF800000 ⊥ ∧ Stands fmtF32 0x3F800000 (((1 : ℚ) : ℝ) : EReal) ∧ Denotes fmtF32 0x40400000 3 ∧
    Denotes fmtF32 0xC9800000 (-2 ^ 20) ∧ Denotes fmtF32 0x3F000000 (1 / 2) ∧ Denotes fmtBF16 0x3F80 1 ∧ Denotes fmtE2M1 2 1 ∧
    Largest fmtF32 [0x3F800000, 0x80000000] 1 ∧ IntRounded 0 (3 / 2) 2 := by
  have one : Denotes fmtF32 0x3F800000 1 := ⟨false, 2 ^ 23, -23, by decide +kernel, by norm_num⟩
  have zero : Denotes fmtF32 0x80000000 0 := ⟨true, 0, -149, by decide +kernel, by norm_num⟩
  refine ⟨?_, ?_, ⟨false, 3 * 2 ^ 22, -22, by decide +kernel, by norm_num⟩, ⟨true, 2 ^ 23, -3, by decide +kernel, by norm_num⟩,
    ⟨false, 2 ^ 23, -24, by decide +kernel, by norm_num⟩, ⟨false, 128, -7, by decide +kernel, by norm_num⟩,
    ⟨false, 2, -1, by decide +kernel, by norm_num⟩, ⟨?_, _, by simp, 1, one, by norm_num⟩, ?_⟩
  · have h : decodeF fmtF32 0xFF800000 = .inf true := by decide +kernel
    simp [Stands, h]
  · have h : decodeF fmtF32 0x3F800000 = .fin false (2 ^ 23) (-23) := by decide +kernel
    simp only [Stands, h]
    exact ⟨1, one, rfl⟩
  · intro c hc
    rcases List.mem_cons.mp hc with rfl | hc
    · exact ⟨1, one, by norm_num⟩
    · obtain rfl := List.mem_singleton.mp hc
      exact ⟨0, zero, by norm_num⟩
  · simp only [IntRounded]
    norm_num [abs_of_nonneg]
theorem wit_decimal_values : StandsD 0xF800000000000000 ⊥ ∧ DenotesD 0x31A0000000000001 (1 / 10) ∧
    decodeD 0x31A0000000000001 = .fin false 1 (-1) := by
  have h : decodeD 0xF800000000000000 = .inf true := by decide +kernel
  exact ⟨by simp only [StandsD, h, if_true], ⟨false, 1, -1, by decide +kernel, by norm_num⟩, by decide +kernel⟩
theorem wit_table : let s := lane.setCore 0 { lane.core 0 with owner := 1 };
    (s.core s.myCore).owner = s.me.launch ∧ s.me.launch ≠ 0 ∧ trapHit 0x1E 1 = false ∧ trapHit 1 1 = true := by decide +kernel

/-- R84: i8 sums saturate element by element: 127 + 1, −128 − 1, and 1 + 2. -/
theorem test_vadd_sat : let s := regs last [(1, 31, 0x01FF7F80), (2, 31, 0x02FF01FF)];
    vreg (after (.vadd (lw 6 3 1 2 1 0)) s).me 3 31 = 0x03FE7F80 := by decide +kernel
/-- R84: a shift of 32 shifts by 0, an arithmetic one keeps the sign. -/
theorem test_shifts : let s := regs last [(1, 31, 0x80000001), (2, 31, 33)];
    vreg (after (.vshl (lw 1 3 1 2 0 0)) s).me 3 31 = 2 ∧ vreg (after (.vsar (lw 0 3 1 2 0 0)) s).me 3 31 = 0xC0000000 ∧
    vreg (after (.vsar (lw 0 3 1 2 0 0)) s).me 3 30 = 0 := by decide +kernel
/-- R84: a product's upper half, signed and unsigned. -/
theorem test_vmulh : let s := regs last [(1, 31, 0xFFFFFFFF), (2, 31, 2)];
    vreg (after (.vmulh (lw 0 3 1 2 0 0)) s).me 3 31 = 0xFFFFFFFF ∧ vreg (after (.vmulh (lw 1 3 1 2 0 0)) s).me 3 31 = 1 := by
  decide +kernel
/-- R85: a signed field of 4 bits at bit 28. -/
theorem test_vbfx : let s := regs last [(1, 31, 0xA0000000), (2, 31, 28), (4, 31, 9)];
    vreg (after (.vbfx (lw 0 3 1 2 0 0x04000000)) s).me 3 31 = 0xFFFFFFFA := by decide +kernel
/-- R88, R90: only lane 31 is less, of signed numbers; its bit is marked and counted. -/
theorem test_vcmp_mcnt : let s := regs lane [(1, 0, 5), (1, 31, 0x80000000), (2, 0, 5)];
    let t := after (.vcmp (lw 0 2 1 2 2 0)) s;
    mreg t.me 0 2 = 0x80000000 ∧ sreg (after (.mcnt (lw 0 9 2 0 0 0)) t).me 9 = 1 := by decide +kernel
/-- R93: a lane that would read below lane 0 takes its own value. -/
theorem test_vshuf : let s := regs lane [(1, 0, 7), (1, 1, 8), (2, 0, 1), (2, 1, 1)];
    let t := after (.vshuf (lw 0x14 3 1 2 2 0)) s;
    (t.myPath.outs.map fun j => (j.left, j.writes.take 2)) = [(4, [⟨3, 0, 7⟩, ⟨3, 1, 7⟩])] := by decide +kernel
/-- R96: the maximum of the active lanes. -/
theorem test_vredx : let s := regs (only 7 lane) [(1, 0, 0xFFFFFFFF), (1, 2, 5)];
    ((after (.vredx (lw 0 3 1 0 2 0)) s).myPath.outs.map (·.writes)) = [[⟨3, 0, 5⟩, ⟨3, 1, 5⟩, ⟨3, 2, 5⟩]] := by decide +kernel
/-- R96: the tree adds (2^24 + 1) to (1 + 1), not in the order of the lanes. -/
theorem test_vredx_tree : let s := regs (only 0xF lane) [(1, 0, 0x4B800000), (1, 1, 0x3F800000), (1, 2, 0x3F800000), (1, 3, 0x3F800000)];
    ((after (.vredx (lw 8 3 1 0 0 0)) s).myPath.outs.map fun o => o.writes.take 1) = [[⟨3, 0, 0x4B800001⟩]] := by decide +kernel
/-- R116, R56: ∞ − ∞ is the quiet NaN and raises NV; with its trap enabled it is written nowhere. -/
theorem test_fadd : let s := regs (only 1 lane) [(1, 0, 0x7F800000), (2, 0, 0xFF800000)];
    let t := onWarp s fun x => { x with fptraps := 1 };
    vreg (after (.fadd (lw 8 3 1 2 0 0)) s).me 3 0 = 0x7FC00000 ∧ (after (.fadd (lw 8 3 1 2 0 0)) s).me.fpflags = 1 ∧
    vreg (after (.fadd (lw 8 3 1 2 0 0)) t).me 3 0 = 0 := by decide +kernel
/-- R117: 1/3 in F32, rounded to nearest and toward zero. -/
theorem test_fdiv : let s := regs (only 1 lane) [(1, 0, 0x3F800000), (2, 0, 0x40400000)];
    ((after (.fdiv (lw 8 3 1 2 0 0)) s).myPath.outs.map (·.writes)) = [[⟨3, 0, 0x3EAAAAAB⟩]] ∧
    ((after (.fdiv (lw 8 3 1 2 0x2000 0)) s).myPath.outs.map (·.writes)) = [[⟨3, 0, 0x3EAAAAAA⟩]] := by decide +kernel
/-- R126: 0.1 + 0.2 in decimal64 is 0.3. -/
theorem test_dadd : let s := regs (only 1 lane) [(2, 0, 1), (3, 0, 0x31A00000), (4, 0, 2), (5, 0, 0x31A00000)];
    ((after (.dadd (lw 0x13 6 2 4 0 0)) s).myPath.outs.map (·.writes)) = [[⟨6, 0, 3⟩, ⟨7, 0, 0x31A00000⟩]] := by decide +kernel

/-! ## Divergence -/

/-- A branch on m1 to the last word of the code, that joins at word 5; the mask holds lanes. -/
def branch (m : W32) (depth : Nat) (two : Bool) : State :=
  onWarp (onRecord lane fun r => { r with lbytes := 120 }) fun x => { x with
    m := spSet x.m 1 m
    stack := List.replicate depth ⟨false, 1, 0, none, 0, 0⟩
    path1 := { x.path1 with live := two } }
def vbr : LaneF := lw 0 0 1 0 4 8
theorem wit_vbr : ∀ c ∈ [(0, 0, false), (0xFFFFFFFF, 0, false), (1, 15, false), (1, 14, true), (1, 15, true), (1, 16, false)],
    let s := branch c.1 c.2.1 c.2.2;
    s.cur.path ≤ 1 ∧ s.myPath.live = true ∧ s.myPath.outs = [] ∧ ((108 : Nat) : Int) = s.myPath.pc + 12 + 12 * vbr.aux.toInt ∧
    108 < s.myLaunch.record.lbytes ∧ ((60 : Nat) : Int) = s.myPath.pc + 12 + 12 * (vbr.ctl.extractLsb' 0 13).toInt ∧
    act s vbr &&& mreg s.me s.cur.path vbr.va.toNat = c.1 ∧ s.me.stack.length = c.2.1 ∧
    (warpPath s.me (1 - s.cur.path)).live = c.2.2 := by decide +kernel
theorem wit_block_start : let s := onWarp base fun x => { x with queue := [⟨36, []⟩] };
    (s.warp 2).running = none ∧ (s.warp 2).queue = ⟨36, []⟩ :: [] ∧ (s.warp 2).handler = false ∧ (s.warp 2).pend = none ∧
    (s.warp 2).stopped = false := by decide +kernel
/-- Path 0 stands at its reconvergence PC 60, the path of two lanes of its join; two more are suspended. -/
def joining : State := onWarp (only 3 lane) fun x => { x with
  path0 := { x.path0 with pc := 60, rpc := some 60 }
  stack := [⟨true, 0xF, 60, none, 0xC, 0⟩, ⟨false, 0xC, 24, some 60, 0, 0⟩] }
theorem wit_reconverges : let x := joining.warp 2;
    (warpPath x 0).live = true ∧ x.stopped = false ∧ (warpPath x 0).rpc = some (warpPath x 0).pc ∧ (warpPath x 0).outs = [] ∧
    x.stack = [] ++ ⟨true, 0xF, 60, none, 0xC, 0⟩ :: [⟨false, 0xC, 24, some 60, 0, 0⟩] := by decide +kernel
/-- R33: the join is complete and takes the slot. -/
theorem test_reconverge : let t := after (.pathReconvergence 2 0) joining;
    (t.warp 2).path0.mask = 0xF ∧ (t.warp 2).path0.rpc = none ∧ (t.warp 2).stack = [⟨false, 0xC, 24, some 60, 0, 0⟩] := by
  decide +kernel
/-- R91: lane 0 branches, the others go on. -/
theorem test_vbr : let t := after (.vbr vbr) (branch 1 0 false);
    t.me.path0.mask = 0xFFFFFFFE ∧ t.me.path0.pc = 12 ∧ t.me.path1.mask = 1 ∧ t.me.path1.pc = 108 ∧
    t.me.stack = [⟨true, 0xFFFFFFFF, 60, none, 0, 0⟩] := by decide +kernel
/-- R92: the last path ends its block. -/
theorem test_lend : (after (.lend (lw 0 0 0 0 0 0)) lane).me.running = none := by decide +kernel

/-! ## Lane memory -/

/-- Lane 0 names 0xFFF0, of tier 0, lane 1 0x210000, of tier 1; or lane 1 names 0xFFF0 too. -/
def loading (m : W32) : State := regs (only m (paged lane)) [(4, 0, 0xFFF0), (4, 1, 0x210000), (6, 0, 3), (6, 1, 4), (7, 1, 0x21)]
def vld (ctl : BitVec 16) : LaneF := lw 0x14 8 4 0 ctl 0x0F000000
theorem wit_vld_away : let s := loading 3;
    let f := vld 0x204;
    Ready s f (groupOf 16 f.vd.toNat ++ regsOf true f.va) (maskSet 15) ∧ f.ctlN 0 3 = 4 ∧ f.vc.toNat % 16 = 15 ∧
    laneAccs s.me s.cur.path f = [(0, 0xFFF0), (1, 0x210000)] ∧ (0xFFF0 : W64).toNat % 16 = 0 ∧
    s.check s.myCtx 0xFFF0 0 = .here 0x20FFF0 0x20040F ∧ s.poisoned 0x20FFF0 16 = false ∧ f.ctl.getLsbD 9 = true ∧
    s.check s.myCtx 0x210000 0 = .away ∧ s.myPath.io = none ∧
    memHeld s.myPath = false := by unfold Ready; decide +kernel
theorem wit_vst : let s := regs (loading 3) [(4, 1, 0xFFF0)];
    let f := lw 0x14 0 4 6 2 0;
    Ready s f (groupOf 4 f.vb.toNat ++ regsOf true f.va) [] ∧
    LanesHere s (laneAccs s.me s.cur.path f) 4 1 [(0, 0xFFF0, 0x20FFF0, 0x20040F), (1, 0xFFF0, 0x20FFF0, 0x20040F)] := by
  unfold Ready LanesHere; decide +kernel
theorem wit_scratch : let s := regs (only 1 lane) [(1, 0, 0xFFF0)];
    let f := lw 0x14 8 1 12 4 0;
    Ready s f (groupOf 16 f.vd.toNat ++ [f.va.toNat]) [] ∧ Ready s f (groupOf 16 f.vb.toNat ++ [f.va.toNat]) [] ∧
    lanesOf (act s f) = [0] ∧ LaneLocal s f 0 16 1 0xFFF0 ∧ armedHit (s.block 1) 0xFFF0 16 = false ∧ memHeld s.myPath = false ∧
    damagedAt (s.block 1) 0xFFF0 16 = false :=
  ⟨by unfold Ready; decide +kernel, by unfold Ready; decide +kernel, by decide +kernel,
    ⟨by decide +kernel, .inl (by decide +kernel), by decide +kernel⟩, by decide +kernel, by decide +kernel, by decide +kernel⟩
theorem wit_atomics : let s := regs (loading 3) [(4, 1, 0xFFF0)];
    let f := lw 3 8 4 6 0x201 0;
    AtomicReady s f 8 [(0, 0xFFF0, 0x20FFF0, 0x20040F), (1, 0xFFF0, 0x20FFF0, 0x20040F)] ∧
    Ready s f ((if f.ctl.getLsbD 9 then regsOf (isPair f.ty) f.vd else []) ++ regsB f ++ regsOf true f.va) [] ∧
    Ready s f (regsOf (isPair f.ty) f.vd ++ regsOf (isPair f.ty) f.vb ++ regsOf (isPair f.ty) f.vc ++ regsOf true f.va) [] :=
  ⟨⟨by unfold LanesHere; decide +kernel, by decide +kernel, by decide +kernel, .inl (by decide +kernel), by decide +kernel⟩,
    by unfold Ready; decide +kernel, by unfold Ready; decide +kernel⟩
/-- R142: the lane whose page is not resident gets zero and its bit of the mask. -/
theorem test_vld_nr : let s := withBytes (loading 3) 0x20FFF0 [0x80];
    ((after (.vld (vld 0x208)) s).myPath.outs.map fun j => (j.writes, j.maskWrites)) =
      [([⟨8, 0, 0xFFFFFF80⟩, ⟨8, 1, 0⟩], [⟨15, 3, 2⟩])] := by decide +kernel
/-- R137: of two lanes that store to one word, the higher one's stands. -/
theorem test_vst : let s := regs (loading 3) [(4, 1, 0xFFF0)];
    (after (.vst (lw 0x14 0 4 6 2 0)) s).byteAt 0x20FFF0 = 4 := by decide +kernel
/-- R144, R145: lane 1 adds 4 to what lane 0 left. -/
theorem test_vatom : let s := withBytes (regs (loading 3) [(4, 1, 0xFFF0)]) 0x20FFF0 [10];
    let t := after (.vatom (lw 1 8 4 6 0x201 0)) s;
    t.byteAt 0x20FFF0 = 17 ∧ (t.myPath.outs.map (·.writes)) = [[⟨8, 0, 10⟩, ⟨8, 1, 13⟩]] := by decide +kernel

/-! ## Matrices and attention -/

theorem trap_none (fl : Nat) : trapHit 0 fl = false := by simp [trapHit]
/-- Sources at v32 on, destination v0 on; integers of 8 bits, floats of 16 bits, and a scale with two factors. -/
theorem wit_matrix : let i := lw 0 0 32 64 0 0x600000C6;
    let h := lw 0 224 32 64 0x1800 0x6000018C;
    let c := lw 8 0 32 64 0 0x41000001;
    (∀ f ∈ [i, h], lane.lanePre ((List.range 32).map (f.vd.toNat + ·) ++ mmaSrcs f) [] = .go ∧
      (∀ n ∈ mmaSrcs f, n < f.vd.toNat ∨ f.vd.toNat + 32 ≤ n)) ∧
    lane.lanePre ((List.range 32).map (c.vd.toNat + ·) ++ scaccSrcs c) [] = .go ∧
    (∀ n ∈ scaccSrcs c, n < c.vd.toNat ∨ c.vd.toNat + 32 ≤ n) ∧ lane.myPath.mask = BitVec.allOnes 32 ∧
    2 ^ max (h.ctlN 11 2) (fieldClass h) ≤ lane.budget lane.myDie lane.myCtx ∧ lane.me.fptraps = 0 := by decide +kernel
/-- The step of zeros, and its window. -/
def zeroStep (afmt bfmt : Nat) : Machine.Step where
  afmt := afmt
  bfmt := bfmt
  mode := 0
  z := false
  a := fun _ _ => 0
  b := fun _ _ => 0
  sa := fun _ _ => 0
  sb := fun _ _ => 0
  d := fun _ _ => 0
theorem zero_f16 : Denotes fmtF16 0 0 := ⟨false, 0, -24, by decide +kernel, by norm_num⟩
theorem wit_matrix_window : fragInt (zeroStep 0x0C 0x0C).afmt = false ∧ ∀ k, k < fragK 0x0C 0x0C →
    Denotes (fmtOf 0x0C) (fragElem 0x0C (fragK 0x0C 0x0C) ((zeroStep 0x0C 0x0C).a 31) k) 0 ∧
    |(0 : ℚ) * 0| < 2 ^ ((0 : ℤ) + 80) ∧ ∃ n : ℤ, (0 : ℚ) * 0 = n * 2 ^ (0 : ℤ) := by
  refine ⟨by decide +kernel, fun k hk => ⟨?_, by norm_num, 0, by norm_num⟩⟩
  have h : ∀ k, k < 16 → fragElem 0x0C 16 ((zeroStep 0x0C 0x0C).a 31) k = 0 := by decide +kernel
  have e : fragK 0x0C 0x0C = 16 := by decide +kernel
  rw [e] at hk ⊢
  rw [h k hk]
  exact zero_f16
theorem wit_refill : (base.die 3).count < (base.die 3).refillAt ∧
    ((onDie base 3 fun d => { d with count := 100 }).die 3).refillAt ≤ ((onDie base 3 fun d => { d with count := 100 }).die 3).count := by
  decide +kernel
/-- R112, R224: a step of −1 times 2 in 32 places saturates the least accumulator. -/
theorem test_mma : ({ zeroStep 6 6 with a := fun _ _ => 0xFFFFFFFF, b := fun _ _ => 0x02020202, d := fun _ _ => 0x80000000 } :
    Machine.Step).mma 0 0 = (0x80000000, 0) := by decide +kernel

/-- An ATTB of one query of slot 63, from v40, scaled by v20, with tolerance 0, to v50 on. -/
def attention : LaneF := ⟨8, 0, 0, 0, 1, 0, 50, 40, 20, 63, 0⟩
/-- Position 0 is unmasked; the cursor in v54 is the one given. -/
def attending (cursor : List W32) : State :=
  regs (onWarp (sequenced lane 1 1) fun x => { x with running := some ⟨0, [0, 1, 0, 0, 0, 0, 0, 0]⟩ })
    (cursor.zipIdx.map fun e => (54, e.2, e.1))
/-- What building the candidates gives, and the walker with it. -/
def candList : CandGot → List Cand
  | .ok l _ => l
  | _ => []
def candWalker : CandGot → List (Nat × W64)
  | .ok _ c => c
  | _ => []
def isOk : CandGot → Bool
  | .ok _ _ => true
  | _ => false
theorem cand_ok {r : CandGot} (h : isOk r = true) : r = .ok (candList r) (candWalker r) := by
  cases r with
  | ok l c => rfl
  | bad _ => exact absurd h nofun
  | stop _ => exact absurd h nofun
def theCands (s : State) : CandGot := s.candidates attention 63 (s.seq 63) 1
theorem wit_attb : let s := attending [];
    AttbReady s attention (attbLen s attention).toNat (candList (theCands s)) (candWalker (theCands s)) := by
  exact ⟨by decide +kernel, by decide +kernel, by decide +kernel, by decide +kernel, by decide +kernel, by decide +kernel,
    by decide +kernel, cand_ok (by decide +kernel), by decide +kernel⟩
/-- The one candidate of the tree, whose bound is infinite where the frame's box says so. -/
def theCand : Cand := ⟨0, 0x200000, 0x400000, 0x0C, [(0, 0x4000)], 0x00800000, false⟩
theorem wit_attb_order : candList (theCands (attending [])) = [theCand] := by decide +kernel
/-- A cursor of this sequence after no visit, and one of an older generation. -/
theorem wit_attb_resume : let good := [0x10000, orderDigest [theCand], 1, 9];
    let old := [0x10000, orderDigest [theCand], 1, 8];
    (∀ c ∈ [good, old], let s := attending c;
      readCursor s.me attention (s.seq (aSlot attention)).d = c ∧
      candList (theCands s) = [theCand] ∧ isOk (theCands s) = true ∧
      memHeld s.myPath = false ∧ attbOut s.myPath = false ∧ s.kappWaits s.myCore (aSlot attention) = false ∧
      s.seqMine (aSlot attention) = true ∧ s.lanePre (attbRegs s attention) [] = .go ∧ s.retHeld = false ∧
      s.attbBad attention = false ∧ 2 ^ max (attention.ctlN 11 2) 2 ≤ s.budget s.myDie s.myCtx) ∧
    (good.getD 3 0 = ((attending good).seq 63).gen ∧ (good.getD 0 0).toNat / 65536 = 1 ∧ (good.getD 0 0).toNat % 65536 ≤ 1) ∧
    old.getD 3 0 ≠ ((attending old).seq 63).gen := by decide +kernel
/-- The path stands two words after an ATTB that was interrupted. -/
def reissuing : State :=
  let s := attending [0x10000, orderDigest [theCand], 1, 9]
  onWarp (withBytes s 0x210000 ((encode (.attb attention)).getD [] |>.flatMap fun w => toBytes 4 w.toNat)) fun x =>
    { x with path0 := { x.path0 with pc := 24, cont := true, visits := 2 } }
def codeWords : CodeGot → Option (List W32)
  | .words ws => some ws
  | _ => none
def readBack : Option (List W32) → Option Instr
  | some [a, b, c] => decodeLane a b c
  | _ => none
theorem wit_attb_reissue : let q := warpPath (reissuing.warp 2) 0;
    q.live = true ∧ q.cont = true ∧ q.park = none ∧ (reissuing.warp 2).handler = false ∧ (reissuing.warp 2).pend = none ∧
    (reissuing.warp 2).stopped = false ∧ q.io = none ∧ reissuing.frozen 2 = false ∧
    codeWords (reissuing.laneWords 2 (issuePc q)) = encode (.attb attention) := by decide +kernel
theorem wit_attb_word : readBack (encode (.attb attention)) = some (.attb attention) := by decide +kernel

/-! ## Completions, parks, registers, mirrors -/

/-- A load to v8 and m1 is outstanding on path 1 with nothing to wait for. -/
def outstanding (o : Outst) : State := onWarp lane fun x => { x with path1 := { x.path1 with outs := [o] } }
theorem wit_completion : let o := outst 3 [8] [1] [⟨8, 31, 5⟩, ⟨8, 31, 6⟩] [⟨1, 3, 2⟩];
    (warpPath ((outstanding o).warp 2) 1).outs[0]? = some o ∧ outReady o = true ∧ o.attb = none ∧
    (∀ e ∈ o.writes, e.lane < 32) := by decide +kernel
theorem wit_completion_attb : let e : AttbEnd := ⟨[⟨8, 31, 5⟩], [1, 2, 3, 4, 5, 6]⟩;
    let a : AttbWork := ⟨e, none, 4, 1, 0, [e], some (e, 0), 8, [], []⟩;
    let o := { outst 3 [8] [] [] [] with attb := some a };
    let s := outstanding o;
    let left := s.budget ((s.block (s.warp 2).block).pcore / 44) (s.launch (s.warp 2).launch).ctx;
    outReady o = true ∧ s.attbCause 2 1 = false ∧ a.paid < a.need ∧ 4 ≤ left ∧ e.results.length ≤ 6 ∧
    (∀ d ∈ e.writes, d.lane < 32) ∧ (onWarp s fun x => { x with sstep := true }).attbCause 2 1 = true ∧
    attbCut a false = some e ∧ left < 2 ^ 70 ∧ attbCut { a with cut := none } true = some e := by decide +kernel
theorem wit_replay : let k : Park := ⟨.residency, [0x8000], 0⟩;
    let s := onWarp lane fun x => { x with wait := .parked k, path1 := { x.path1 with park := some k } };
    kGet? s.warps 2 = some s.me ∧ s.me.stopped = false ∧ k.kind ≠ .schedule ∧ k.addrs = [0x8000] ∧
    s.check (s.launch s.me.launch).ctx 0x8000 0 = .here 0x208000 0x20040F ∧ s.me.wait = .parked k ∧
    (warpPath s.me 1).park = some k ∧ (warpPath s.me 1).outs = [] := by decide +kernel
theorem wit_urgent : let s := onDie (onWarp base fun x => { x with readyS := some 0, readyL := some 0 }) 0 fun d => { d with count := 2000 };
    kGet? s.warps 2 = some s.me ∧ s.me.readyS = some 0 ∧ s.me.readyL = some 0 ∧
    0 + 2000 ≤ (s.die ((s.block s.me.block).pcore / 44)).count := by decide +kernel
/-- Register 255 is absent; the record said that it was live, or that it was not. -/
theorem wit_miss (live : Bool) : let s := onWarp base fun x =>
      { x with absent := [255], missed := [255], saveArea := 0x2000, savedLive := if live then 2 ^ 255 else 0 };
    kGet? s.warps 2 = some s.me ∧ s.me.absent.contains 255 = true ∧ s.me.missed.contains 255 = true ∧ bitN s.me.savedLive 255 = (if live then 1 else 0) ∧
    s.readGot (s.launch s.me.launch).ctx (s.me.saveArea + BitVec.ofNat 64 (0x800 + 128 * 255)) 128 =
      .bytes (readBytes s.mem (0x202000 + 0x800 + 128 * 255) 128) := by cases live <;> decide +kernel
/-- The leader of a pair is held at a store. -/
def theMirror : Mirror := ⟨[], [], some 2, false, [], none, none, 0⟩
def mirrored : State :=
  onWarp (withBytes (withRegs base [(4, 0x1000), (5, 7)]) 0x200000 ((encode (.sst 5 4 3 0 0)).getD [] |>.flatMap fun w => toBytes 4 w.toNat))
    fun x => { x with mirror := some theMirror }
theorem wit_mirror : kGet? mirrored.warps 2 = some mirrored.me ∧ mirrored.me.mirror = some theMirror ∧
    mirrored.me.pend = none ∧ mirrored.heldEffect 2 2 = some ((encode (.sst 5 4 3 0 0)).getD [], [0x1000, 7]) := by decide +kernel
/-- R138: the writes are made in their order. -/
theorem test_completion : let o := outst 3 [8] [1] [⟨8, 31, 5⟩, ⟨8, 31, 6⟩] [⟨1, 3, 2⟩];
    let t := after (.laneLongCompletion 2 1 0) (outstanding o);
    vreg t.me 8 31 = 6 ∧ spGet t.me.m 1 = 2 ∧ t.me.path1.outs = [] := by decide +kernel
/-- R344: unequal operands kill the pair. -/
theorem test_mirror : kGet? (after (.mirrorCompare 2 false ((encode (.sst 5 4 3 0 0)).getD []) [0x1000, 8]) mirrored).warps 2 = none ∧
    ((after (.mirrorCompare 2 false ((encode (.sst 5 4 3 0 0)).getD []) [0x1000, 7]) mirrored).me.mirror.map (·.passed)) = some true := by
  decide +kernel

/-! ## Clocks and links -/

/-- Die 4's partner over `link` was last heard of with message 7 at count 1000, and holds messages sent. -/
def synced (link : Nat) (sent : List (Nat × Nat)) (inbox : List (Nat × SyncMsg)) : State :=
  onDie base 4 fun d => { d with
    count := 20000, c0 := 20000, e0 := 100, l0 := 100000, sync := [(link, ⟨8, 10000, sent, some (7, 1000)⟩)], inbox := inbox }
theorem wit_sync_send : ∀ link ∈ [256 + 0, 256 + 5, 0, 5], let s := synced link [(3, 5000)] [];
    kGet? s.dies 4 = some (s.die 4) ∧ (endOf (s.die 4) link).due ≤ (s.die 4).count ∧ (s.link 5).dead = false ∧
    (s.link 5).retraining = false := by decide +kernel
/-- A message of bounds 200 and 90000 that echoes message `echo`, held 400 ns. -/
def syncMsg (echo : BitVec 16) (l : W64) : SyncMsg := ⟨200, l, 9, echo, 400, 1, 0⟩
theorem wit_sync_receive : let s := synced 256 [(3, 5000)] [(256, syncMsg 3 90000)];
    let d := s.die 4;
    d.inbox = (256, syncMsg 3 90000) :: [] ∧ (endOf d 256).sent = [] ++ (3, 5000) :: [] ∧
    let up := min (2 ^ 64 - 1) (max (rawE d) (200 + s.latencyOf 4 256));
    (up : Int) ≤ min (dieL d : Int) (90000 + (longer (d.count - 5000) - shorter 400 - s.latencyOf 4 256)) ∧
    ¬ (up : Int) ≤ min (dieL d : Int) (0 + (longer (d.count - 19990) - shorter 400 - s.latencyOf 4 256)) ∧ 0 < up ∧
    (syncMsg 3 90000).echo ≠ 0xFFFF ∧ (∀ q ∈ [(3, 5000)], q.1 ≠ (syncMsg 4 0).echo.toNat) ∧ up ≤ dieL d := by decide +kernel
/-- The bounds came 1,000 ns closer over 10,000 ns of the count: no rate within 20 ppm explains it. -/
theorem wit_drift : let s := onDie (synced 256 [] [(256, syncMsg 0xFFFF 90000)]) 4 fun d => { d with narrows := [(10000, 90000, 99000)] };
    RatesBeyond (((s.die 4).count, 110, 100000) :: (s.die 4).narrows.take 1) ∧ ¬ RatesBeyond [((s.die 4).count, 110, 100000)] :=
  ⟨⟨_, _, _, _, _, _, rfl, by decide +kernel⟩, by rintro ⟨_, _, _, _, _, _, h, _⟩; simp at h⟩
theorem wit_die_wide : let s := onDie (synced 0 [] []) 4 fun d => { d with queue := [pendingStore 5], wide := false };
    let q := (s.launch (pendingStore 5).launch).ilim;
    let n := onDie s 4 fun d => { d with l0 := 150 };
    kGet? s.dies 4 = some (s.die 4) ∧ decide (s.mgmt.settings.ilim < dieL (s.die 4) - dieE (s.die 4)) = true ∧
    (s.die 4).wide = false ∧ (s.die 4).queue ≠ [] ∧ IsLimit s (s.die 4) q ∧ q < dieL (s.die 4) - dieE (s.die 4) ∧
    IsLimit s (base.die 4) s.mgmt.settings.ilim ∧
    decide (n.mgmt.settings.ilim < dieL (n.die 4) - dieE (n.die 4)) = false := by unfold IsLimit; decide +kernel

/-- Link 21 in a state. -/
def onLink (x : Link) : State := base.setLink 21 x
def flit (seq : Nat) : Flit := ⟨1, seq, List.replicate 64 0, 0⟩
theorem wit_link_send : let f := flit 0;
    let resending := { Link.reset with resend := [f], retry := [f] };
    let waiting := { Link.reset with sendq := [f], next := 4095 };
    (∀ x ∈ [resending, waiting, Link.reset], kGet? (onLink x).fab.links 21 = some x ∧ x.dead = false ∧ x.retraining = false ∧
      x.resendAt = none) ∧ resending.resend = f :: [] ∧ waiting.resend = [] ∧ waiting.sendq = f :: [] ∧ waiting.retry.length < 2048 := by
  decide +kernel
/-- An advance of version 3 and a packet that reads 8 bytes. -/
def readHeader : List Byte :=
  toBytes 2 1 ++ toBytes 2 5 ++ [1, 0] ++ toBytes 2 8 ++ toBytes 8 0 ++ toBytes 4 0 ++ toBytes 4 0 ++ toBytes 8 0x55 ++ toBytes 32 0
theorem wit_link_receive : readHeader.length = 64 ∧ headerOk readHeader = true ∧ fieldN readHeader 5 1 = 0 ∧
    (0 : Nat) = Link.reset.expected ∧ (4095 : Nat) ≠ Link.reset.expected ∧ linkNumber 21 ∧ linkNumber 6 ∧ ¬ linkNumber 7 := by
  unfold linkNumber; decide +kernel
theorem wit_link_ack : let x := { Link.reset with retry := [flit 4094, flit 4095, flit 0] };
    x.retry = [flit 4094] ++ flit 4095 :: [flit 0] ∧ (∀ g ∈ [flit 4094] ++ [flit 0], g.seq ≠ (flit 4095).seq) ∧ (flit 4095).seq < 4096 := by
  decide +kernel
theorem wit_link_corrupt : (List.replicate 72 (0 : Byte)).length = 72 ∧
    bitsOf (ofBytes ((List.replicate 72 (0 : Byte)).drop 68)) 0 32 ≠ (crc32c ((List.replicate 72 0).take 68)).toNat := by
  decide +kernel
theorem wit_link_times : let x := { Link.reset with resendAt := some 0, retry := [flit 0] };
    let s := onDie (onLink x) 5 fun d => { d with count := 50000 };
    x.resendAt = some 0 ∧ 0 ≤ (s.die (4 + 21 / 16)).count ∧ x.retry ≠ [] ∧ x.lastAccept + 50000 ≤ (s.die (4 + 21 / 16)).count := by
  decide +kernel
theorem wit_retrain : let x := { Link.reset with retraining := true };
    let y := { x with failures := 2 };
    kGet? (onLink x).fab.links 21 = some x ∧ x.dead = false ∧ x.retraining = true ∧ x.failures < 2 ∧ 2 ≤ y.failures := by
  decide +kernel
/-- Lanes 8 to 15 of a link work: its width is 8; of lanes 14 and 15 alone it is 2, below the least. -/
theorem wit_retrain_width :
    (∀ i, i < 2 ^ 3 → (0xFF00 : Nat).testBit (1 * 2 ^ 3 + i) = true) ∧
    (∀ h, h < 1 → ∃ i, i < 2 ^ 4 ∧ (0xFF00 : Nat).testBit (h * 2 ^ 4 + i) = false) ∧ base.minWidth ≤ 2 ^ 3 ∧
    (∀ h, h < 1 → ∃ i, i < 2 ^ 3 ∧ (0xFF00 : Nat).testBit (h * 2 ^ 3 + i) = false) ∧
    (∀ i, i < 2 ^ 1 → (0xC000 : Nat).testBit (7 * 2 ^ 1 + i) = true) ∧ 2 ^ 1 < base.minWidth := by decide +kernel
/-- R310: the flit of its sequence number is acknowledged; a link that has sent is to be acknowledged in turn. -/
theorem test_link_send : let t := after (.linkFlitSend 21) (onLink { Link.reset with sendq := [flit 0], next := 4095 });
    (t.link 21).next = 0 ∧ (t.link 21).retry.map (·.seq) = [4095] ∧ (t.link 21).sendq = [] := by decide +kernel
/-- R311: three failed retrains kill a link, and its router advances to version 1. -/
theorem test_link_dies : let t := after (.retrainComplete 21 0 false) (onLink { Link.reset with retraining := true, failures := 2 });
    (t.link 21).dead = true ∧ (t.router 1).version = 1 ∧ (t.router 1).dead = [⟨0, 1, 5⟩] := by decide +kernel

/-! ## Streams -/

def onRouter (r : Nat) (x : Router) : State := base.setRouter r x
def peerLink : LinkId := ⟨3, 1, 5⟩
theorem wit_advance : let x := { Router.reset with version := 15, advq := [(6, peerLink)] };
    kGet? (onRouter 1 x).fab.routers 1 = some x ∧ x.version < 16 ∧ x.advq = (6, peerLink) :: [] ∧
    1 ≤ (6 + 16 - x.version) % 16 ∧ (6 + 16 - x.version) % 16 ≤ 7 ∧ 7 < (7 + 16 - x.version) % 16 ∧
    (15 + 16 - x.version) % 16 = 0 ∧ peerLink ∉ x.dead ∧ peerLink ∈ [peerLink] := by decide +kernel
theorem wit_recompute : let x := { Router.reset with recomputing := true };
    kGet? (onRouter 0 x).fab.routers 0 = some x ∧ x.recomputing = true := by decide +kernel
/-- A packet from device 5 to this device, or to device 9. -/
def packet (dst op sseq : Nat) (bad : Bool) : Packet where
  dst := dst
  ver := 0
  src := 5
  op := op
  len := if op = 1 ∨ op = 0 then 8 else 0
  addr := BitVec.ofNat 64 (1023 * 2 ^ 42 + 0x2000)
  sseq := sseq
  rseq := 3
  key := 0x55
  operand := 5
  compare := 0
  aop := 0
  code := 0
  size := 3
  data := if op = 0 then [1, 2, 3, 4, 5, 6, 7, 8] else []
  bad := bad
  via := 5
  req := 0
  more := 0
  raw := []
theorem wit_forward : let p := packet 9 1 0 false;
    let x := { Router.reset with inq := [p], table := [(9, 4)] };
    kGet? (onRouter 0 x).fab.routers 0 = some x ∧ x.inq = p :: [] ∧ p.ver = x.version ∧
    p.dst ≠ (onRouter 0 x).mgmt.settings.deviceId ∧ kGet? x.table p.dst = some 4 ∧ ((onRouter 0 x).link 4).dead = false ∧
    (packet 0 1 0 false).dst = (onRouter 0 x).mgmt.settings.deviceId ∧ p.ver ≠ { x with version := 1 }.version ∧
    x.recomputing = false ∧ { x with recomputing := true }.recomputing = true := by decide +kernel
/-- The stream from device 5 expects packet 2^32 − 1. -/
def receiving (held : List Packet) (rxq : List Packet) (im : Option Import) : State :=
  let s := onRouter 1 { Router.reset with rxq := rxq }
  { s with fab := { s.fab with ins := [(5, ⟨0xFFFFFFFF, held, none, 0⟩)], outs := [(5, ⟨7, [⟨packet 5 1 2 false, 0, false⟩]⟩)]
                               imports := match im with | some e => [(1023, e)] | none => [] } }
theorem wit_receive : let p := packet 0 1 254 false;
    let s := receiving [packet 0 1 0 false] [p] none;
    kGet? s.fab.routers 1 = some (s.router 1) ∧ (s.router 1).rxq = p :: [] ∧
    p.ver = (s.router 1).version ∧ kGet? s.fab.ins p.src = some ⟨0xFFFFFFFF, [packet 0 1 0 false], none, 0⟩ ∧
    (p.sseq + 2 ^ 32 - 0xFFFFFFFF) % 2 ^ 32 < 256 ∧ 256 ≤ (255 + 2 ^ 32 - 0xFFFFFFFF) % 2 ^ 32 ∧
    2 ^ 31 ≤ (0xFFFFFFFE + 2 ^ 32 - 0xFFFFFFFF) % 2 ^ 32 ∧ (packet 0 1 0 false).sseq = 0 := by decide +kernel
/-- The entry that admits everything to the first 0x3000 bytes of context 0. -/
def entry : Import := ⟨0, 0x2008, 0x55, 0, true, true, true, true⟩
theorem atBase_of {s : State} {src : Nat} {q : InStream} {p : Packet} (h : kGet? s.fab.ins src = some q)
    (hf : q.held.find? (fun h => h.sseq == q.base) = some p) (hm : p.more = 0) : AtBase s src q p :=
  ⟨h, hf, fun _ hi => absurd (hm ▸ hi) (Nat.not_lt_zero _)⟩
theorem wit_perform (op : Nat) (h : op = 0 ∨ op = 1 ∨ op = 3) : let p := packet 0 op 0xFFFFFFFF false;
    let s := receiving [p] [] (some entry);
    AtBase s 5 ⟨0xFFFFFFFF, [p], none, 0⟩ p ∧
    Admitted s ⟨0xFFFFFFFF, [p], none, 0⟩ p 8 (if op = 0 then 1 else if op = 1 then 0 else 2) 0x202000 0x20040F := by
  rcases h with rfl | rfl | rfl <;>
  exact ⟨atBase_of (by decide +kernel) (by decide +kernel) rfl, entry, by decide +kernel⟩
theorem wit_perform_refused : let p := packet 0 3 0xFFFFFFFF false;
    let s := receiving [p] [] none;
    AtBase s 5 ⟨0xFFFFFFFF, [p], none, 0⟩ p ∧ p.bad = false ∧ p.src = 5 ∧ entryFor s ⟨0xFFFFFFFF, [p], none, 0⟩ p = none ∧
    AtBase (receiving [packet 0 9 0xFFFFFFFF true] [] none) 5 ⟨0xFFFFFFFF, [packet 0 9 0xFFFFFFFF true], none, 0⟩ (packet 0 9 0xFFFFFFFF true) :=
  ⟨atBase_of (by decide +kernel) (by decide +kernel) rfl, by decide +kernel, by decide +kernel, by decide +kernel,
    atBase_of (by decide +kernel) (by decide +kernel) rfl⟩
theorem wit_answer : let p := packet 0 2 0xFFFFFFFF false;
    let s := onWarp (receiving [p] [] none) fun x => { x with wait := .io { noIo with reqs := [(11, 0, 0x2000)] } };
    let a : Request := ⟨.scalar 2, 5, 3, 0x2000, 0, 0, 1, false, false⟩;
    let t := { s with fab := { s.fab with requests := [(11, a)] } };
    t.fab.requests = [(11, a)] ∧ a.dst = 5 ∧ a.sseq = p.rseq ∧ a.answered = false ∧ a.asker = .scalar 2 ∧ kGet? t.warps 2 = some t.me ∧
    t.me.wait = .io { noIo with reqs := [(11, 0, 0x2000)] } := by decide +kernel
theorem wit_ack : let p := packet 0 5 0xFFFFFFFF false;
    let s := receiving [p] [] none;
    AtBase s 5 ⟨0xFFFFFFFF, [p], none, 0⟩ p ∧ p.op = 5 ∧ p.bad = false ∧ s.fab.ins = [(5, ⟨0xFFFFFFFF, [p], none, 0⟩)] ∧
    kGet? s.fab.outs 5 = some ⟨7, [⟨packet 5 1 2 false, 0, false⟩]⟩ :=
  ⟨atBase_of (by decide +kernel) (by decide +kernel) rfl, by decide +kernel⟩
/-- Two atomics on one address, of which the first stands at the base. -/
theorem wit_together : let p := packet 0 3 0xFFFFFFFF false;
    let h := packet 0 3 0 false;
    let s := receiving [h, p] [] (some entry);
    AtBase s 5 ⟨0xFFFFFFFF, [h, p], none, 0⟩ p ∧ Admitted s ⟨0xFFFFFFFF, [h, p], none, 0⟩ p 8 2 0x202000 0x20040F ∧
    [h, p].find? (fun h => h.sseq == (0xFFFFFFFF + 1) % 2 ^ 32) = some h ∧ h.op = 3 ∧ h.bad = false ∧ h.addr = p.addr ∧
    LanesHeld ⟨0xFFFFFFFF, [h], none, 0⟩ 0 h ∧ Admitted (s.performBase 5) ⟨0xFFFFFFFF, [h, p], none, 0⟩ h 8 2 0x202000 0x20040F :=
  ⟨atBase_of (by decide +kernel) (by decide +kernel) rfl, ⟨entry, by decide +kernel⟩, by decide +kernel, rfl, rfl, rfl,
    fun _ hi => absurd hi (Nat.not_lt_zero _), ⟨entry, by decide +kernel⟩⟩
/-- The same two, the first of an instruction's two lanes. -/
theorem wit_together_lanes : let p := { packet 0 3 0xFFFFFFFF false with more := 1 };
    let h := packet 0 3 0 false;
    AtBase (receiving [h, p] [] (some entry)) 5 ⟨0xFFFFFFFF, [h, p], none, 0⟩ p := by
  refine ⟨by decide +kernel, by decide +kernel, fun i hi => ?_⟩
  obtain rfl : i = 0 := by simp only [] at hi; omega
  exact ⟨_, List.mem_cons_self, by decide +kernel⟩
/-- The buffers of such a state are kept, and nothing waits for room. -/
theorem wit_buffer : let s := receiving [packet 0 0 0xFFFFFFFF false] [] none;
    BufferKept s.fab 0 ∧ BufferKept s.fab 1 := by
  have none_waits (f : Fabric) (r : Nat) (h : (kGet f.routers r).waiting = []) : ∀ p rest, (kGet f.routers r).waiting = p :: rest →
      3 * 2 ^ 20 < (((f.outs.filter fun e => e.1 % 2 == r).map fun e => (e.2.unacked.map fun u => 72 * (1 + dataFlits u.pkt)).sum).sum)
        + 72 * (1 + dataFlits p) := by
    intro p rest e; simp [h] at e
  exact ⟨⟨by decide +kernel, by decide +kernel, none_waits _ _ (by decide +kernel)⟩,
    ⟨by decide +kernel, by decide +kernel, none_waits _ _ (by decide +kernel)⟩⟩
theorem wit_replay_timeout : let s := onDie (receiving [] [] none) 5 fun d => { d with count := 100000 };
    kGet? s.fab.outs 5 = some ⟨7, [⟨packet 5 1 2 false, 0, false⟩]⟩ ∧ 0 + 100000 ≤ (s.die (4 + 5 % 2)).count ∧
    (s.router (5 % 2)).recomputing = false := by decide +kernel
/-- R315, R316: the packet at the base is performed: it stores its data, and the base wraps to 0. -/
theorem test_perform : let t := after (.requestPerform 5) (receiving [packet 0 0 0xFFFFFFFF false] [] (some entry));
    readBytes t.mem 0x202000 3 = [1, 2, 3] ∧ (kGet t.fab.ins 5).base = 0 := by decide +kernel
/-- R315, R317: without its entry a request is answered by IMPORT, and acknowledged. -/
theorem test_refused : let t := after (.requestPerform 5) (receiving [packet 0 0 0xFFFFFFFF false] [] none);
    ((kGet t.fab.outs 5).unacked.map fun u => (u.pkt.op, u.pkt.code)) = [(1, 0), (6, 0x15), (5, 0)] ∧ t.mem = base.mem := by decide +kernel

/-! ## Graphs, placement, completion -/

/-- Launch 1 is a graph of one node in a table at 0x2000, with an area of two slots at 0x4000, the first of which another has. -/
def theGraph (slot : Option Nat) : Graph := ⟨1, 0x2000, List.replicate 320 1, 0x4000, 1, 2, slot, [], true⟩
def graphed (slot : Option Nat) : State :=
  let s := onLaunch base fun l => { l with record := { l.record with graph := true } }
  let s := withBytes s 0x204180 (recordBytes 0 ++ List.replicate 8 0xFF)
  { s with eng := { s.eng with graphs := [(1, theGraph slot), (3, theGraph (some 0))] } }
theorem wit_graph_slot : let s := graphed none;
    let g : Graph := theGraph none;
    kGet? s.eng.graphs 1 = some g ∧ g.slot = none ∧ (s.launch g.launch).tally.forced = false ∧ (s.launch g.launch).complete = false ∧
    1 < g.slots ∧ (∃ e ∈ s.eng.graphs, e.1 ≠ 1 ∧ e.2.slot = some 0 ∧ e.2.area = g.area ∧ (s.launch e.2.launch).ctx = 0) ∧
    (s.eng.graphs.all fun e => e.1 == 1 || e.2.slot != some 1) = true ∧
    g.image.length = 64 + 256 * g.nodes ∧
    Writes s 0 (g.area + BitVec.ofNat 64 (1 * (64 + 256 * g.nodes))) 320 0x204140 0x20040F :=
  ⟨by decide +kernel, by decide +kernel, by decide +kernel, by decide +kernel, by decide +kernel,
    ⟨(3, theGraph (some 0)), by decide +kernel, by decide +kernel, by decide +kernel, by decide +kernel,
      by decide +kernel⟩, by decide +kernel, by decide +kernel,
    writes_of (by decide +kernel) (by decide +kernel) (by decide +kernel) (by decide +kernel)⟩
theorem wit_graph_node : let s := graphed (some 1);
    let g : Graph := theGraph (some 1);
    let b := readBytes s.mem 0x204180 256;
    kGet? s.eng.graphs 1 = some g ∧ 0 < g.nodes ∧ (kGet g.states 0).state = 0 ∧ (s.launch g.launch).admissibleAt ≠ none ∧
    ReadsLong s 0 (g.area + BitVec.ofNat 64 (1 * (64 + 256 * g.nodes)) + BitVec.ofNat 64 (64 + 256 * 0)) 256 b ∧
    (∀ n, n < 4 → fieldN b (128 + 2 * n) 2 = 0xFFFF) ∧
    (let c := readBytes (withBytes s 0x204200 [5, 0]).mem 0x204180 256
     let d : Graph := { g with states := [(5, ⟨2, 9, 2, 0x0A⟩)] }
     fieldN c 128 2 = 5 ∧ (kGet d.states 5).state = 2 ∧ (kGet d.states 5).status = 2 ∧ (kGet d.states 0).state = 0) ∧
    s.recordGot324 0 g.priv (b.take 128) (decodeRec (b.take 128)) = .ok [] [] [] :=
  ⟨by decide +kernel, by decide +kernel, by decide +kernel, by decide +kernel,
    readsLong_of (pte := 0x20040F) (by decide +kernel) (by decide +kernel) (by decide +kernel) (by decide +kernel) (by decide +kernel),
    by decide +kernel, by decide +kernel⟩

/-- Launch 1 has no block yet: a gang of two blocks of one warp. -/
def unplaced : State :=
  let s := onLaunch base fun l => { l with placed := 0, record := { l.record with counts := [1, 2, 1, 1, 1], widths := [0, 1, 0, 0, 0] } }
  { s with blocks := [], warps := [] }
theorem wit_admission : let s := unplaced;
    let l := s.launch 1;
    kGet? s.eng.launches 1 = some l ∧ placeable l = true ∧ l.saved = [] ∧ l.placed < tasksOf l ∧ count2 l = 2 ∧
    ¬ (l.placed = 0 ∧ confined l.record = true ∧ s.largestDie < count2 l) ∧ l.map ≠ [] ∧
    s.pickCores 1 (nextOrdinals l, List.range (count2 l)) = some [0, 1] ∧
    (∀ c ∈ [0, 1], (s.reserveFor 1 (nextOrdinals l)).roomOn 1 c = true) ∧
    (s.reserveFor 1 (nextOrdinals l)).firstInOrder 1 = true ∧
    (∀ b, b < 2 → (s.reserveFor 1 (nextOrdinals l)).slotsOk l.record (count1 l) ([0, 1].getD b 0) ([[511], [0]].getD b []) = true) := by
  decide +kernel
theorem wit_admission_refused : let s := onRecord unplaced fun r => { r with counts := [1, 64, 1, 1, 1], widths := [0, 6, 0, 0, 0] };
    let l := s.launch 1;
    placeable l = true ∧ l.placed = 0 ∧ 0 < tasksOf l ∧ confined l.record = true ∧ s.largestDie < count2 l := by decide +kernel
theorem wit_fewest : let s := onRecord base fun r => { r with counts := [1, 1, 1, 1, 1] };
    modeDet (s.launch 1).record.mode = 0 ∧ s.pickCores 1 ([0], [0]) = some [1] := by decide +kernel

/-- Launch 1 is over: all its tasks have completed, or it was refused with code 0x0A. -/
def over_ (refused : Option Nat) (f : Launch → Launch) : State :=
  let s := onLaunch base (fun l => f { l with done := 1, refused := refused })
  { s with warps := [], blocks := s.blocks.map fun e => (e.1, { e.2 with completed := true }) }
theorem wit_ends : ∀ r ∈ [none, some 0x0A], let s := over_ r id;
    kGet? s.eng.launches 1 = some (s.launch 1) ∧ (s.launch 1).complete = false ∧ s.launchOver 1 (s.launch 1) = true ∧
    kGet? s.eng.graphs 1 = none ∧ (s.launch 1).gates = [] ∧ (s.launch 1).entries = [] ∧ s.fab.requests = [] ∧
    (∀ e ∈ s.blocks, e.2.launch = 1 → (s.block e.1).completed = true) ∧ s.cores = [] ∧ (s.launch 1).source = .device ∧
    (s.launch 1).written = 0 ∧ s.fab.links.all (fun e => e.2.dead || e.2.retraining || s.minWidth ≤ e.2.width) = true := by
  decide +kernel
theorem wit_reports : let s := over_ none fun l => { l with raises := [(0x3008, true, 7)] };
    raiseHeld (endStatus (s.launch 1) (endCode (s.launch 1))) (endCode (s.launch 1)) = false ∧ (s.launch 1).raises = [(0x3008, true, 7)] ∧
    s.check (s.launch 1).ctx 0x3008 1 = .here 0x203008 0x20040F ∧ s.check (s.launch 1).ctx 0x3008 2 = .here 0x203008 0x20040F ∧
    s.poisoned 0x203008 8 = false ∧ (s.launch 1).record.completion = 0 ∧
    raiseHeld (endStatus ((over_ (some 0x0A) id).launch 1) 0x0A) 0x0A = true ∧ (0x3040 : W64).toNat % 64 = 0 ∧ s.check (s.launch 1).ctx 0x3040 1 = .here 0x203040 0x20040F := by
  decide +kernel
theorem wit_ring_join : let s := over_ none fun l => { l with source := .host 3 };
    let t := { s with eng := { s.eng with queues := [(3, { hostQueue with ring := 0x5000, pending := [⟨0, [1], [(0x3008, true, 7)], 0⟩], completed := 3 })] } };
    (t.launch 1).source = .host 3 ∧ (t.queue 3).ring ≠ 0 ∧ (t.queue 3).ring.toNat % 64 = 0 ∧ (t.queue 3).pending = ⟨0, [1], [(0x3008, true, 7)], 0⟩ :: [] ∧
    t.check 0 0x3008 0 = .here 0x203008 0x20040F ∧ t.check 0 0x3008 1 = .here 0x203008 0x20040F ∧
    t.check 0 0x3008 2 = .here 0x203008 0x20040F ∧ t.poisoned 0x203008 8 = false ∧
    t.check 0 ((t.queue 3).ring + BitVec.ofNat 64 (64 * ((t.queue 3).completed % 2 ^ (t.queue 3).size))) 1 = .here 0x2050C0 0x20040F ∧
    t.byteAt 0x2050C0 = 0 ∧ (withBytes t 0x2050C0 [1]).byteAt 0x2050C0 ≠ 0 := by decide +kernel
/-- R330: status OK, launch 1, written at 0x3040. -/
theorem test_completion_record : let s := over_ none fun l => { l with record := { l.record with completion := 0x3040 } };
    let t := after (.launchCompletion 1) s;
    readBytes t.mem 0x203040 8 = [1, 0, 0, 0, 1, 0, 0, 0] ∧ (t.launch 1).complete = true ∧ t.blocks = [] := by decide +kernel
/-- R29: a block's warp stands at the entry with the argument pointer in s40. -/
theorem test_admission : let t := after (.blockAdmission 1 [[511], [0]]) (onRecord unplaced fun r => { r with args := 0x77, entry := 8 });
    t.blocks.map (fun b => (b.2.pcore, b.2.index, b.2.gblock)) = [(0, 0, 0), (1, 32, 1)] ∧
    t.warps.map (fun x => (x.2.slot, x.2.pc, spGet x.2.s 40)) = [(511, 8, 0x77), (0, 8, 0x77)] := by decide +kernel

/-! ## Pre-emption -/

/-- Launch 1 of effective class 7 fills core 0, whose scratchpad launch 9, of class 0 and a full scratchpad, needs; only core 0
is in the map. -/
def contended : State :=
  let s := onLaunch base fun l => { l with effective := 7, cls := 7 }
  let l9 : Launch := { s.launch 1 with effective := 0, cls := 0, placed := 0, map := [0], record := { (s.launch 1).record with scratch := 2 ^ 21 } }
  { s with coreMap := [0], nextId := 30, eng := { s.eng with launches := s.eng.launches ++ [(9, l9)] } }
theorem wit_victims : let s := contended;
    let l := s.launch 9;
    (s.eng.launches.map (·.1)).Nodup ∧ kGet? s.eng.launches 9 = some l ∧ waitingTasks l = some ([0], [0]) ∧ placeable l = true ∧
    l.effective ≤ (if l.placed = 0 then s.mgmt.settings.preCls else l.preCls) ∧ s.eng.preempts = [] ∧
    s.canPlace 9 ([0], [0]) = false ∧ s.victims l = [1] ∧ l.saved = [] ∧ l.cls ≤ 1 ∧ (s.launch 1).cls = 7 ∧ s.coresWithout 9 ([0], [0]) ((s.victims l).take 1) = some [0] := by
  decide +kernel
/-- Rung 1, or rung 2, of launch 1 on core 0 began at 0. -/
def preempting (rung : Nat) : State :=
  let s := onDie contended 0 fun d => { d with count := 10 ^ 6 }
  { s with eng := { s.eng with preempts := [(20, ⟨1, 0, rung, 0, 9, []⟩)] } }
/-- What the victim's table gives. -/
def points : SafeGot → Option (List SafePoint)
  | .points ps _ => some ps
  | .wait _ => none
theorem points_ok {g : SafeGot} {ps : List SafePoint} (h : points g = some ps) : ∃ u, g = .points ps u := by
  cases g with
  | points qs u => exact ⟨u, by rw [Option.some.inj h]⟩
  | wait _ => exact absurd h nofun
theorem wit_rung2 : ∃ u, (preempting 1).safeGot 1 = .points [] u := points_ok (by decide +kernel)
theorem wit_rung2_due : let s := preempting 1;
    s.eng.preempts = [(20, ⟨1, 0, 1, 0, 9, []⟩)] ∧ s.blockOn 1 0 = true ∧ 0 + (s.launch 1).d1 ≤ (s.die 0).count ∧
    (preempting 2).eng.preempts = [(20, ⟨1, 0, 2, 0, 9, []⟩)] ∧ kGet? s.warps 2 = some (s.warp 2) ∧ s.warps.map (·.1) = [2] := by
  decide +kernel
theorem wit_at_safe : (base.warp 2).running = none ∧ (base.warp 2).queue = [] ∧ base.atSafe 2 = false ∧
    (onWarp base fun x => { x with wait := .bwait 0 }).atSafe 2 = true ∧
    (onWarp base fun x => { x with wait := .bwait 0, pend := some ⟨0, x.rep, true⟩ }).atSafe 2 = true := by decide +kernel
/-- The block's launch has 8 lane registers, no scratchpad, and one page of save area at 0x100000; its warp has stopped. -/
def stoppedBlock : State :=
  onWarp (onRecord (preempting 2) fun r => { r with vregs := 8, scratch := 0, save := 0x100001 }) fun x => { x with stopped := true }
theorem wit_save : SavesNow stoppedBlock 1 (stoppedBlock.block 1) ∧
    Writes stoppedBlock 0 (saveBase (stoppedBlock.launch 1).record + BitVec.ofNat 64 (stoppedBlock.saveAt 1))
      (stoppedBlock.blockRecord 1).length 0x300000 0x20040F := by
  refine ⟨⟨by decide +kernel, by decide +kernel, ⟨by decide +kernel, by decide +kernel⟩, by decide +kernel, by decide +kernel, ?_,
    by decide +kernel, by decide +kernel⟩, writes_of (by decide +kernel) (by decide +kernel) (by decide +kernel) (by decide +kernel)⟩
  have h : (stoppedBlock.core (stoppedBlock.block 1).pcore).slots = [] := by decide +kernel
  intro e he
  rw [h] at he
  exact absurd he nofun
theorem wit_forced : let s := preempting 2;
    kGet? s.eng.launches 1 = some (s.launch 1) ∧ 0 + (s.launch 1).d2 ≤ (s.die (0 / 44)).count ∧ s.stopping 1 = true ∧
    s.gangStopped 1 = false ∧ stoppedBlock.gangStopped 1 = true ∧ stoppedBlock.saveFits 1 = true ∧
    s.blocks.map (·.1) = [1] ∧ (s.block 1).launch = 1 ∧ 0 ∈ s.gangCores 1 ∧ (s.block 1).completed = false ∧
    (stoppedBlock.block 1).unsavable = false := by decide +kernel
/-- The block has been saved at 0x100000 and its core is free. -/
def saved : Saved :=
  let s := stoppedBlock
  ⟨1, 0x100000, (s.blockRecord 1).length, s.block 1, [(2, s.warp 2)], []⟩
def savedState : State :=
  let s := onLaunch stoppedBlock fun l => { l with saved := [saved], saveNext := saved.len }
  { s with blocks := [], warps := [], eng := { s.eng with preempts := [] , launches := [(1, s.launch 1)] } }
theorem wit_resume : let s := savedState;
    let l := s.launch 1;
    kGet? s.eng.launches 1 = some l ∧ placeable l = true ∧ waitingTasks l = some ([0], [0]) ∧ gangSaved l = [saved] ∧ s.blocks = [] ∧
    s.pickCores 1 ([0], [0]) = some [0] ∧ (s.reserveFor 1 [0]).roomOn 1 0 = true ∧ (s.reserveFor 1 [0]).firstInOrder 1 = true ∧
    (s.reserveFor 1 [0]).slotsOk l.record 1 0 [17] = true ∧ s.coreConts 0 + saved.block.conts.length ≤ 1024 ∧
    saved.warps.length = 1 ∧ ([saved].map (·.key)).Nodup ∧ (([saved].flatMap (·.warps)).map (·.1)).Nodup := by decide +kernel
theorem wit_put_back : let bs := readBytes savedState.mem 0x300000 saved.len;
    ReadsLong savedState 0 saved.addr saved.len bs ∧ PutBack savedState 1 (savedState.launch 1) saved 0 bs := by
  refine ⟨readsLong_of (pte := 0x20040F) (by decide +kernel) (by decide +kernel) (by decide +kernel) (by decide +kernel)
    (by decide +kernel), ⟨⟨by decide +kernel, by decide +kernel, by decide +kernel⟩, ⟨0, by decide +kernel, by decide +kernel⟩, ?_⟩⟩
  have hl : saved.warps.length = 1 := by decide +kernel
  intro i hi
  obtain rfl : i = 0 := by omega
  decide +kernel
/-- R193, R195: launch 1 is the victim, and rung 1 begins on core 0. -/
theorem test_preempt : (after (.preemptStart 9) contended).eng.preempts = [(30, ⟨1, 0, 1, 0, 9, []⟩)] := by decide +kernel
/-- R195: a warp waiting at an object stops in rung 2; one between instructions at no listed point does not. -/
theorem test_stops : let s := preempting 2;
    ((after (.rung2Stop 1) s).warp 2).stopped = false ∧
    ((after (.rung2Stop 1) (onWarp s fun x => { x with wait := .bwait 0 })).warp 2).stopped = true := by decide +kernel

/-! ## The host and the steward -/

/-- Mailbox `mb` holds a command with its argument bytes. -/
def mail (code : Nat) (a : List Byte) : Memory := writeBytes [] 0 ([1, 0, 0, 0, 0, 0, 0, 0] ++ toBytes 2 code ++ toBytes 6 0 ++ a)
def told (code : Nat) (a : List Byte) : State := { base with mgmt := { base.mgmt with mailbox0 := mail code a } }
def told1 (code : Nat) (a : List Byte) : State := { base with mgmt := { base.mgmt with mailbox1 := mail code a } }
/-- 240 argument bytes. -/
def argBytes (a : List Byte) : List Byte := a ++ List.replicate (240 - a.length) 0
theorem told_of (s : State) (mb code : Nat) (a : List Byte) (h1 : readBytes (s.mailbox mb) 0 4 ≠ readBytes (s.mailbox mb) 4 4)
    (h2 : ofBytes (readBytes (s.mailbox mb) 8 2) = code) (h3 : a = readBytes (s.mailbox mb) 16 240) : Told s mb code a := ⟨h1, h2, h3⟩

theorem wit_host_up : HostUp base ∧ base.mgmt.booted = true ∧ State.reset.mgmt.booted = false ∧ State.reset.mgmt.recovery = false := by
  unfold HostUp; decide +kernel
theorem wit_host_write : (0x2FFF + [(1 : Byte)].length ≤ 0x3000) ∧ kGet? base.eng.queues 15 = some HostQueue.reset ∧
    (0x1F0 : Nat) = 32 * 15 + 16 ∧ (base.die 4).log.length < 256 ∧ (2 ^ 41 : Nat) < 2 ^ 48 := by decide +kernel
theorem wit_window (wr : Bool) : let w : Window := ⟨0, 0x10000, 0x1000, true, !wr, wr⟩;
    let s := { base with mgmt := { base.mgmt with windows := [(15, w)] } };
    kGet? s.mgmt.windows 15 = some w ∧ w.valid = true ∧ 0xFF8 + 8 ≤ w.len ∧
    w.base.toNat % 65536 = 0 ∧ w.w = wr ∧ w.r = !wr ∧ s.mgmt.waits = [] ∧
    Lies s w.ctx (w.base + BitVec.ofNat 64 0xFF8) 8 (if wr then 1 else 0) 0x210FF8 0x20040F ∧ s.poisoned 0x210FF8 8 = false :=
  ⟨by cases wr <;> decide +kernel, by cases wr <;> decide +kernel, by cases wr <;> decide +kernel, by cases wr <;> decide +kernel,
    rfl, rfl, by cases wr <;> rfl, lies_of (by cases wr <;> decide +kernel) (by cases wr <;> decide +kernel), by cases wr <;> decide +kernel⟩
theorem wit_bring_up : let s := { base with mgmt := { base.mgmt with booted := false, fuse := 5, secVersion := 6 } };
    let old := { s with mgmt := { s.mgmt with fuse := 7 } };
    s.mgmt.booted = false ∧ s.mgmt.recovery = false ∧ old.mgmt.booted = false ∧ old.mgmt.recovery = false ∧
    BringsUp s [true, true, true, true, false, false, false, true] ∧
    ¬ StepsPass s [true, true, true, false, true, true, true, true] ∧ ¬ StepsPass old (List.replicate 8 true) ∧
    StepsPass s [true, true, true, true] ∧ ∀ d, d < 4 → [true, true, true, true].getD (4 + d) false = false :=
  ⟨by decide +kernel, by decide +kernel, by decide +kernel, by decide +kernel,
    ⟨⟨by decide +kernel, by decide +kernel⟩, 3, by decide +kernel⟩,
    fun h => absurd (h.1 3 (by decide)) (by decide +kernel), fun h => absurd h.2 (by decide +kernel),
    ⟨by decide +kernel, by decide +kernel⟩, by decide +kernel⟩
theorem wit_bad_argument : ∀ r ∈ commandRows, let a := argBytes (List.replicate 239 0 ++ [1]);
    Told (told r.2.1 a) 0 r.2.1 a ∧ ¬ Clean a r.2.2 := by
  have h : (commandRows.all fun r => (r.2.2.all fun q => q.1 + q.2 ≤ 239) && r.2.1 < 0x0E) = true := by decide +kernel
  have ht : ∀ c, c < 0x0E → Told (told c (argBytes (List.replicate 239 0 ++ [1]))) 0 c (argBytes (List.replicate 239 0 ++ [1])) := by
    intro c hc
    refine told_of _ _ _ _ ?_ ?_ ?_ <;> revert c <;> decide +kernel
  intro r hr
  have hq := List.all_eq_true.mp h r hr
  simp only [Bool.and_eq_true, List.all_eq_true, decide_eq_true_eq] at hq
  refine ⟨ht _ hq.2, fun hc => ?_⟩
  have := hc 239 (by omega) fun q hq' => .inr (hq.1 q hq')
  exact absurd this (by decide +kernel)
/-- Commands whose named bytes alone are set: each is told, and clean. -/
def goodMail : List (Nat × List Byte × List (Nat × Nat)) :=
  [(0x01, toBytes 4 4 ++ toBytes 4 0 ++ toBytes 8 1000000, [(0, 16)]), (0x01, toBytes 4 4 ++ toBytes 4 0 ++ toBytes 8 99, [(0, 16)]),
   (0x01, toBytes 4 8 ++ toBytes 4 7 ++ toBytes 8 100, [(0, 16)]), (0x01, toBytes 4 9 ++ toBytes 4 6 ++ toBytes 8 100000, [(0, 16)]),
   (0x01, toBytes 4 11, [(0, 16)]),
   (0x02, toBytes 4 15 ++ toBytes 4 0 ++ toBytes 8 0x80 ++ [16, 0x87, 1, 0] ++ toBytes 4 0 ++ toBytes 8 0x40, [(0, 19), (24, 8)]),
   (0x03, toBytes 4 0 ++ toBytes 4 0xFFFFFFFE ++ toBytes 8 0x4000 ++ toBytes 8 9, [(0, 24)]),
   (0x03, toBytes 4 1 ++ toBytes 4 0, [(0, 24)]),
   (0x04, toBytes 4 15 ++ toBytes 4 0 ++ toBytes 8 0x10000 ++ toBytes 8 (2 ^ 36) ++ [7], [(0, 25)]),
   (0x05, [3, 1] ++ toBytes 6 0 ++ toBytes 8 0x100 ++ toBytes 4 2, [(0, 2), (8, 12)]),
   (0x06, [3] ++ toBytes 7 0 ++ toBytes 8 0x1000 ++ toBytes 8 64, [(0, 1), (8, 16)]),
   (0x07, [3] ++ toBytes 7 0 ++ toBytes 8 0x1000 ++ toBytes 64 7, [(0, 1), (8, 72)]),
   (0x08, toBytes 4 1 ++ toBytes 4 0 ++ toBytes 8 0 ++ [1, 0, 3], [(0, 4), (8, 11)]),
   (0x09, toBytes 8 0x20 ++ toBytes 4 5, [(0, 12)]), (0x0A, toBytes 4 0, [(0, 4)]), (0x0D, [], [])]
def isClean (a : List Byte) (named : List (Nat × Nat)) : Bool :=
  (List.range 240).all fun i => a.getD i 0 == 0 || named.any fun r => r.1 ≤ i && i < r.1 + r.2
theorem clean_of {a : List Byte} {named : List (Nat × Nat)} (h : isClean a named = true) : Clean a named := by
  intro i hi hr
  have := List.all_eq_true.mp h i (List.mem_range.mpr hi)
  simp only [Bool.or_eq_true, beq_iff_eq, List.any_eq_true, Bool.and_eq_true, decide_eq_true_eq] at this
  rcases this with h | ⟨r, hm, h⟩
  · exact h
  · have := hr r hm
    omega
theorem wit_clean : ∀ r ∈ goodMail, Clean (argBytes r.2.1) r.2.2 := by
  have h : goodMail.all (fun r => isClean (argBytes r.2.1) r.2.2) = true := by decide +kernel
  exact fun r hr => clean_of (List.all_eq_true.mp h r hr)
theorem wit_told : goodMail.all (fun r => let s := told r.1 (argBytes r.2.1);
    readBytes (s.mailbox 0) 0 4 != readBytes (s.mailbox 0) 4 4 && ofBytes (readBytes (s.mailbox 0) 8 2) == r.1 &&
      readBytes (s.mailbox 0) 16 240 == argBytes r.2.1) = true := by decide +kernel
theorem wit_queue : kGet? base.eng.queues 15 = some HostQueue.reset ∧ kGet? base.mgmt.contexts 0 ≠ none ∧ HostQueue.reset.enable = false ∧
    HostQueue.reset.producer = HostQueue.reset.consumer ∧ (0 : Nat) = HostQueue.reset.ctx ∧ (1 : Nat) ≠ HostQueue.reset.ctx ∧
    (let x := { HostQueue.reset with producer := 65537 }; 2 ^ 16 < (x.producer - x.consumer).toNat) ∧
    ¬ 2 ^ 16 < (HostQueue.reset.producer - HostQueue.reset.consumer).toNat := by decide +kernel
theorem wit_context : kGet? base.mgmt.contexts 5 = none ∧ kGet? base.mgmt.contexts 0 ≠ none ∧
    (∃ l ∈ base.eng.launches, l.2.ctx = 0 ∧ l.2.complete = false) ∧
    (base.eng.launches.all fun l => l.2.ctx != 7) = true ∧ (base.eng.queues.all fun q => q.2.ctx != 7) = true :=
  ⟨by decide +kernel, by decide +kernel, ⟨(1, base.myLaunch), by decide +kernel⟩, by decide +kernel, by decide +kernel⟩
/-- A record that LAUNCH has read keeps its context busy; a window's request keeps the window. -/
theorem wit_context_queued : ∃ q ∈ (queued 0).eng.accepted ++ (queued 0).eng.device, q.ctx = 0 := ⟨_, List.mem_singleton.mpr rfl, rfl⟩
theorem wit_window_waits : let s := { base with mgmt := { base.mgmt with waits := [⟨15, 0, true, [1], none⟩] } };
    (∃ q ∈ s.mgmt.waits, q.win = 15) ∧ (∀ q ∈ s.mgmt.waits, q.win ≠ 14) :=
  ⟨⟨_, List.mem_singleton.mpr rfl, rfl⟩, by decide +kernel⟩
theorem wit_frames : let s := { told 0x05 (argBytes ([3, 1] ++ toBytes 6 0 ++ toBytes 8 0x100 ++ toBytes 4 2)) with
      host := writeBytes [] 0x100 (toBytes 8 0x900000 ++ toBytes 8 0x910000) };
    (List.range 2).map (fun i => (BitVec.ofNat 64 (ofBytes (readBytes s.host (0x100 + 8 * i) 8)) : W64)) = [0x900000, 0x910000] ∧
    [(0x900000 : W64), 0x910000].Nodup ∧ ([(0x900000 : W64), 0x910000].all fun f => f.toNat % 65536 == 0) = true ∧
    (s.dies.all fun e => e.2.pool0.isEmpty && e.2.pool1.isEmpty) = true ∧
    ([(0x900000 : W64), 0x910000].all fun f => !s.frameMapped f.toNat) = true ∧ 65536 * 2 ≤ 840 * 10 ^ 9 ∧
    (960 * 10 ^ 9 : Nat) < 65536 * 0xFFFFFFFF := by decide +kernel
theorem wit_tags : base.tier2Move 3 = false ∧ (base.dies.all fun e => e.2.tags.isEmpty) = true ∧
    64 * ((base.die 3).tags.length + 1) ≤ ((onDie base 3 fun d => { d with tagLen := 64 }).die 3).tagLen := by decide +kernel
theorem wit_debug : base.warps.find? (fun e => e.2.launch == 1 && warpWid (base.block e.2.block) e.2.widx == BitVec.ofNat 64 0) =
      some (2, base.me) ∧
    base.warps.find? (fun e => e.2.launch == 9 && warpWid (base.block e.2.block) e.2.widx == BitVec.ofNat 64 0) = none := by
  decide +kernel
theorem wit_bad_command : Told (told 0xFFFF (argBytes [])) 0 0xFFFF (argBytes []) ∧ Told (told1 0x0D (argBytes [])) 1 0x0D (argBytes []) :=
  ⟨told_of _ _ _ _ (by decide +kernel) (by decide +kernel) (by decide +kernel),
    told_of _ _ _ _ (by decide +kernel) (by decide +kernel) (by decide +kernel)⟩
theorem wit_summary : let a := argBytes (toBytes 8 0x100 ++ toBytes 8 63);
    Told (told1 0x0B a) 1 0x0B a ∧ Clean a [(0, 16)] ∧ HostUp (told1 0x0B a) ∧ fieldN a 8 8 < 64 :=
  ⟨told_of _ _ _ _ (by decide +kernel) (by decide +kernel) (by decide +kernel), clean_of (by decide +kernel),
    by unfold HostUp; decide +kernel, by decide +kernel⟩
theorem wit_attest : let a := argBytes (List.replicate 32 9 ++ toBytes 8 0x100);
    Told (told1 0x0C a) 1 0x0C a ∧ Clean a [(0, 40)] :=
  ⟨told_of _ _ _ _ (by decide +kernel) (by decide +kernel) (by decide +kernel), clean_of (by decide +kernel)⟩
theorem wit_hot : (∃ e ∈ (onDie base 3 fun d => { d with hot := true }).dies, e.2.hot = true) ∧
    (∃ e ∈ (onDie base 5 fun d => { d with warm := true }).dies, e.2.warm = true) ∧
    (∀ e ∈ base.dies, e.2.hot = false ∧ e.2.warm = false) :=
  ⟨⟨(3, { base.die 3 with hot := true }), by decide +kernel⟩, ⟨(5, { base.die 5 with warm := true }), by decide +kernel⟩,
    by decide +kernel⟩
/-- R389 to R391: $ILIM becomes 1,000,000 and the answer is the old one, 2,000. -/
theorem test_setting : let t := after .setting (told 0x01 (argBytes (toBytes 4 4 ++ toBytes 4 0 ++ toBytes 8 1000000)));
    t.mgmt.settings.ilim = 1000000 ∧ readBytes t.mgmt.mailbox0 4 4 = [1, 0, 0, 0] ∧
    readBytes t.mgmt.mailbox0 10 6 = [0, 0, 8, 0, 0, 0] ∧ readBytes t.mgmt.mailbox0 256 8 = toBytes 8 2000 := by decide +kernel
/-- R389: a code that mailbox 0 does not know. -/
theorem test_bad_command : readBytes (after (.badCommand 0) (told 0xFFFF (argBytes []))).mgmt.mailbox0 10 2 = [1, 0] := by decide +kernel

/-- R387: the digest and the signature of the worked examples of FIPS 180-4 ("abc") and RFC 8032 (its first). -/
theorem test_sha512 : (sha512 [0x61, 0x62, 0x63]).take 4 = [0xDD, 0xAF, 0x35, 0xA1] := by decide +kernel
theorem test_signature : let k := (toBytes 32 0x9D61B19DEFFD5A60BA844AF492EC2CC44449C5697B326919703BAC031CAE7F60).reverse;
    (edPublic k).take 4 = [0xD7, 0x5A, 0x98, 0x01] ∧ (edSign k []).take 4 = [0xE5, 0x56, 0x43, 0x00] := by decide +kernel

/-! ## Steps and words -/

/-- The warp has the next turn. -/
def turning (i : Instr) : State := { State.reset.placeWord 32 (((encode i).getD []).getD 0 0).toNat with draws := 0 }
theorem wit_step : let s := turning (.addi 4 0 5);
    let u := turnState s ⟨[], .scalar 2⟩ [];
    let r := (u.launch (u.warp 2).launch).record;
    s.turns = ⟨[], .scalar 2⟩ :: [] ∧ u.mayIssue 2 2 = true ∧ u.chosen 2 2 = true ∧ u.stopping (u.warp 2).block = false ∧
    u.mirrorHolds 2 2 = none ∧ ((u.warp 2).pc - r.sbase).toNat + 4 ≤ r.sbytes ∧
    u.check (u.launch (u.warp 2).launch).ctx (u.warp 2).pc 3 = .here 0x200000 0x20040F ∧ u.poisoned 0x200000 4 = false ∧
    (encode (.addi 4 0 5)).map (fun ws => (ws.getD 0 0).toNat) = some (ofBytes (readBytes u.mem 0x200000 4)) := by decide +kernel
theorem wit_step_lane : let i : Instr := .vadd ⟨0, 0, 0, 6, 0, 0, 5, 6, 7, 1, 0⟩;
    let s := State.reset.placeWord 96 (0x06070001 * 2 ^ 32 + 0x00001805 * 2 ^ 64);
    let u := turnState s ⟨[], .lane 2 0⟩ [];
    s.turns = ⟨[], .lane 2 0⟩ :: [] ∧ u.mayIssue 2 0 = true ∧ u.chosen 2 0 = true ∧ u.mirrorHolds 2 0 = none ∧
    u.stopping (u.warp 2).block = false ∧ (warpPath (u.warp 2) 0).cont = false ∧ (warpPath (u.warp 2) 0).pc + 12 ≤ (u.launch (u.warp 2).launch).record.lbytes ∧
    codeWords (u.laneWords 2 0) = some [0, 0x06070001, 0x00001805] ∧ decodeLane 0 0x06070001 0x00001805 = some i := by decide +kernel
/-- The path's next instruction is the ATTB that was interrupted. -/
theorem wit_step_again : ∀ m ∈ [Mover.lane 2 0, Mover.event (.attbReissue 2 0)],
    let s := { onWarp (State.reset.placeWord 96 0) (fun x => { x with path0 := { x.path0 with cont := true } }) with turns := [⟨[], m⟩] };
    let u := turnState s ⟨[], m⟩ [];
    (warpPath (u.warp 2) 0).cont = true ∧ u.mayIssue 2 0 = true ∧ u.chosen 2 0 = true ∧
    u.stopping (u.warp 2).block = false ∧ u.mirrorHolds 2 0 = none := by decide +kernel
theorem wit_event : isEvent (.badCommand 0) = true ∧ isEvent (.laneBlockStart 2) = true ∧ isEvent (.addi 1 1 1) = false := by
  decide +kernel
theorem wit_after : let t := onWarp base fun x => { x with pc := 4, issuedS := 1 };
    (t.warp 2).mirror = none ∧ (base.warp 2).sstep = false ∧ hasIssued base t 2 2 = true ∧ hasIssued base base 2 2 = false := by
  decide +kernel
theorem wit_memory_form : base.memForm ∧ kGet? base.warps 2 = some base.me := by
  refine ⟨⟨?_, ?_⟩, by decide +kernel⟩ <;> decide +kernel
/-- A placed instruction runs in the next step. -/
theorem test_step : Result.stateOr base (step (turning (.addi 4 0 5))) |>.me |> (sreg · 4) |> (· = 5) := by decide +kernel
theorem test_step_lane : vreg (Result.stateOr base (step (State.reset.placeWord 96 (0x06070001 * 2 ^ 32 + 0x00001805 * 2 ^ 64)))).me 5 0 = 0 ∧
    (Result.stateOr base (step (State.reset.placeWord 96 (0x06070001 * 2 ^ 32 + 0x00001805 * 2 ^ 64)))).me.path0.pc = 12 := by decide +kernel

/-! ## Ill-formed terms (R43 to R49, R53 and the encoding tables) -/

/-- A lane word of a type, of registers and slot C as given, with every other field zero. -/
def ill (ty : BitVec 5) (vd va vb : BitVec 8) (c : BitVec 32) : LaneF := ⟨0, 0, 0, ty, 0, 0, vd, va, vb, 0, c⟩

theorem ill_short : shortOk { ill 0 1 2 3 0 with la := 1 } = false ∧ guardOk { ill 0 1 2 3 0 with gn := 1 } = false ∧
    guardOk { ill 0 1 2 3 0 with gn := 1, g := 1 } = true := by decide +kernel
theorem ill_pairs : pairOk (ill 2 1 0 0 0) 1 = false ∧ pairOk (ill 3 0 0 0 0) 254 = true ∧ pairOk (ill 0x13 0 0 0 0) 255 = false := by
  decide +kernel
theorem ill_fields : maskField 16 = false ∧ retField 55 = false ∧ retField 64 = false ∧ scopeOk 6 = false ∧ tyI 8 = false ∧
    tyI32 2 = false ∧ tyIW 4 = false ∧ tyFW 0x0C = false ∧ tyFT 9 = false ∧ tyFD 0x0B = false := by decide +kernel
theorem ill_sources : regB { ill 0 1 2 8 0 with ab := 1 } = false ∧ srcB { ill 0 1 2 1 5 with lc := 1 } = false ∧
    srcB { ill 2 2 2 0 5 with lc := 1 } = false ∧ srcB (ill 0 1 2 3 1) = false ∧ srcBC (ill 0 1 2 3 1) = false ∧
    srcBC { ill 2 2 2 4 1 with lc := 1 } = false ∧ noB (ill 0 1 2 1 0) = false ∧ noC { ill 0 1 2 0 0 with lc := 1 } = false := by
  decide +kernel
theorem ill_round : roundOnly { ill 8 1 2 3 0 with ctl := 0xA000 } = false ∧ roundOnly { ill 8 1 2 3 0 with ctl := 1 } = false ∧
    roundOnly { ill 8 1 2 3 0 with ctl := 0x8000 } = true := by decide +kernel
theorem ill_integers : wfIntSat { ill 0 1 2 3 0 with ctl := 2 } = false ∧ wfInt { ill 0 1 2 3 0 with ctl := 1 } = false ∧
    wfMad (ill 8 1 2 3 0x04000000) = false ∧ wfAbs (ill 0 1 2 3 0) = false ∧ wfCnt (ill 0 1 2 0 1) = false ∧
    wfBits (ill 0 1 2 3 0) = false ∧ wfBfx (ill 2 2 2 2 0) = false ∧ wfBfi (ill 0 1 2 3 0) = false ∧
    wfSel { ill 0x14 1 2 3 0 with ctl := 0x10 } = false ∧ wfMov { ill 0x14 1 2 0 7 with lc := 1 } = false ∧
    wfWid { ill 0 1 0 0 6 with lc := 1 } = false ∧ wfWid { ill 0 1 0 0 0x200 with lc := 1 } = false := by decide +kernel
theorem ill_masks : wfCmp (ill 0 16 2 3 0) = false ∧ wfCmp { ill 0 1 2 3 0 with ctl := 6 } = false ∧ wfMlog (ill 0 1 16 3 0) = false ∧
    wfMcnt (ill 0 55 2 0 0) = false ∧ wfVbr (ill 0 1 2 0 0) = false ∧ wfVbr (ill 0 0 2 0 0x01000000) = false ∧
    wfLend { ill 0 0 0 0 0 with g := 1 } = false ∧ wfVote { ill 0 56 2 0 0 with ctl := 3 } = false := by decide +kernel
theorem ill_moves : wfShuf { ill 0x14 1 2 3 0 with ctl := 4 } = false ∧ wfBcast { ill 0x14 1 2 3 0 with ctl := 1 } = false ∧
    wfRdl (ill 0x14 1 2 3 0) = false ∧ wfScan 1 { ill 0 1 2 0 0 with ctl := 6 } = false ∧
    wfScan 0 { ill 0 1 2 0 0 with ctl := 8 } = false ∧ wfScan 1 { ill 8 1 2 0 0 with ctl := 3 } = false ∧
    wfScan 1 { ill 8 1 2 0 0 with ctl := 0x2001 } = false := by decide +kernel
theorem ill_floats : wfFArith (ill 0 1 2 3 0) = false ∧ wfFfma (ill 8 1 2 3 1) = false ∧ wfFminmax { ill 8 1 2 3 0 with ctl := 1 } = false ∧
    wfFdiv (ill 0x0B 1 2 3 0) = false ∧ wfFsqrt (ill 8 1 2 3 0) = false ∧ wfFun1 (ill 9 2 2 0 0) = false ∧ wfFcmp (ill 8 16 2 3 0) = false ∧
    wfFclass (ill 9 1 2 0 0) = false := by decide +kernel
theorem ill_conversions : cvtPair 8 8 = false ∧ cvtPair 0x0A 8 = false ∧ wfFcvt { ill 8 1 2 0 0 with ctl := 0x20 } = false ∧
    wfFcvt { ill 8 1 3 0 0 with ctl := 9 } = false ∧ wfVrot (ill 9 2 2 3 0) = false ∧ wfVrot (ill 8 1 2 3 0) = false ∧
    wfVft (ill 0x0A 1 2 0 0) = false := by decide +kernel
theorem ill_decimals : wfDec (ill 8 2 2 2 0) = false ∧ wfDec (ill 0x13 2 3 2 0) = false ∧ wfDfma (ill 0x13 2 2 2 0x01000000) = false ∧
    wfDcmp (ill 0x13 16 2 2 0) = false ∧ wfDcvt { ill 0x13 2 2 0 0 with ctl := 3 } = false := by decide +kernel
theorem ill_blocks : bqFmt { ill 0x11 2 2 0 0 with ctl := 4 } = false ∧ wfBqnt (ill 0x0D 2 2 0 0) = false ∧ wfBqnt (ill 0x0E 1 2 0 0) = false ∧
    wfBqnt { ill 0x12 2 3 0 0 with ctl := 4 } = false ∧ wfBdq { ill 0x12 2 2 0 0 with ctl := 1 } = false := by decide +kernel
theorem ill_memory : sizeReg 3 1 = false ∧ sizeReg 4 2 = false ∧ wfLoad true (ill 0 1 3 0 0) = false ∧
    wfLoad true { ill 0 1 2 0 0 with ctl := 0x400 } = false ∧ wfLoad false { ill 0 1 3 0 0 with ctl := 0x400 } = true ∧
    wfLoad true { ill 0 1 2 0 0 with ctl := 0x00A } = false ∧ wfLoad true { ill 0 1 2 0 0 with ctl := 0x20 } = false ∧
    wfLoad true { ill 0 1 2 0 0 with ctl := 0x180 } = false ∧ wfStore true { ill 0 0 2 3 0 with ctl := 0x10 } = false ∧
    wfStore true { ill 0 0 2 7 0 with ab := 1, ctl := 4 } = false ∧ wfVatom { ill 8 0 2 3 0 with ctl := 2 } = false ∧
    wfVatom (ill 0 1 2 3 0) = false ∧ wfVcas { ill 0x14 1 2 3 0 with ctl := 1 } = false ∧ wfTreq (ill 0 1 2 0 0) = false ∧
    wfVstc (ill 0 0 2 3 0) = false ∧ wfVlda (ill 0 1 2 0 0) = false := by decide +kernel
theorem ill_matrices : mmaCombo 0x0C 0x0D 0 = false ∧ mmaCombo 6 0x0E 0 = false ∧ mmaCombo 0x11 0x12 2 = false ∧ mmaCombo 0x12 0x12 3 = false ∧
    wfMma (ill 8 0 32 64 0x010000C6) = false ∧ wfMmaNs (ill 8 0 32 64 0x000004C6) = false ∧ wfScacc (ill 8 0 32 64 0x01000000) = false ∧
    wfAttb (ill 0 50 40 20 1) = false ∧ wfAttb { ill 0 50 40 8 0 with ab := 1 } = false ∧ wfKapp (ill 0 0 4 5 0x400) = false := by
  decide +kernel

/-! ## Words written out from the encodings (R40, R41, R43, R51, R52) -/

theorem word_arith1 :
    decodeScalar 0x0098D600 = some (.add 9 35 22) ∧
    decodeScalar 0x0098D601 = some (.sub 9 35 22) ∧
    decodeScalar 0x0098D602 = some (.mul 9 35 22) ∧
    decodeScalar 0x0098D603 = some (.mulh 9 35 22) ∧
    decodeScalar 0x0098D604 = some (.mulhn 9 35 22) ∧
    decodeScalar 0x0098D605 = some (.div 9 35 22) ∧
    decodeScalar 0x0098D606 = some (.divn 9 35 22) ∧
    decodeScalar 0x0098D607 = some (.rem 9 35 22) ∧
    decodeScalar 0x0098D608 = some (.remn 9 35 22) ∧
    decodeScalar 0x0098D610 = some (.and 9 35 22) ∧
    decodeScalar 0x0098D611 = some (.or 9 35 22) ∧
    decodeScalar 0x0098D612 = some (.xor 9 35 22) ∧
    decodeScalar 0x0098D618 = some (.shl 9 35 22) ∧
    decodeScalar 0x0098D619 = some (.shr 9 35 22) := by
  decide +kernel
theorem word_arith2 :
    decodeScalar 0x0098D61A = some (.sar 9 35 22) ∧
    decodeScalar 0x0098D620 = some (.min 9 35 22) ∧
    decodeScalar 0x0098D621 = some (.max 9 35 22) ∧
    decodeScalar 0x0098D622 = some (.minn 9 35 22) ∧
    decodeScalar 0x0098D623 = some (.maxn 9 35 22) ∧
    decodeScalar 0x0098D628 = some (.setcEq 9 35 22) ∧
    decodeScalar 0x0098D629 = some (.setcNe 9 35 22) ∧
    decodeScalar 0x0098D62A = some (.setcLt 9 35 22) ∧
    decodeScalar 0x0098D62B = some (.setcGe 9 35 22) ∧
    decodeScalar 0x0098D62C = some (.setcLtn 9 35 22) ∧
    decodeScalar 0x0098D62D = some (.setcGen 9 35 22) ∧
    decodeScalar 0x0498E005 = some (.addi 9 35 0x2005) ∧
    decodeScalar 0x0898E005 = some (.andi 9 35 0x2005) ∧
    decodeScalar 0x0C98E005 = some (.ori 9 35 0x2005) := by
  decide +kernel
theorem word_arith3 :
    decodeScalar 0x1098E005 = some (.xori 9 35 0x2005) ∧
    decodeScalar 0x1498C025 = some (.shli 9 35 37) ∧
    decodeScalar 0x1898C025 = some (.shri 9 35 37) ∧
    decodeScalar 0x1C98C025 = some (.sari 9 35 37) ∧
    decodeScalar 0x20902005 = some (.li 9 0x2005) ∧
    decodeScalar 0x24980005 = some (.lih 9 0x80005) ∧
    decodeScalar 0x28980005 = some (.orl 9 0x80005) := by
  decide +kernel
theorem word_control :
    decodeScalar 0x42000005 = some (.b 0x2000005) ∧
    decodeScalar 0x4A000005 = some (.call 0x2000005) ∧
    decodeScalar 0x46358405 = some (.bcEq 35 22 0x405) ∧
    decodeScalar 0x46358C05 = some (.bcNe 35 22 0x405) ∧
    decodeScalar 0x46359405 = some (.bcLt 35 22 0x405) ∧
    decodeScalar 0x46359C05 = some (.bcGe 35 22 0x405) ∧
    decodeScalar 0x4635A405 = some (.bcLtn 35 22 0x405) ∧
    decodeScalar 0x4635AC05 = some (.bcGen 35 22 0x405) ∧
    decodeScalar 0x4635B405 = some (.bcBs 35 22 0x405) ∧
    decodeScalar 0x4635BC05 = some (.bcBc 35 22 0x405) ∧
    decodeScalar 0x4C000000 = some (.ret) ∧
    decodeScalar 0x5008C000 = some (.jmpr 35) := by
  decide +kernel
theorem word_memory :
    decodeScalar 0x6095A605 = some (.sld 9 22 2 1 0x205) ∧
    decodeScalar 0x6495A605 = some (.sst 9 22 2 1 0x205) ∧
    decodeScalar 0x6895A645 = some (.sldAcq 9 22 2 1 4 0x45) ∧
    decodeScalar 0x6C95A645 = some (.sstRel 9 22 2 1 4 0x45) ∧
    decodeScalar 0x7098D6CC = some (.satom 9 35 22 6 1 4) := by
  decide +kernel
theorem word_sync :
    decodeScalar 0x82000005 = some (.lrun 0x2000005) ∧
    decodeScalar 0x84000000 = some (.lsync) ∧
    decodeScalar 0x88900000 = some (.barBk 9) ∧
    decodeScalar 0x88900001 = some (.barGg 9) ∧
    decodeScalar 0x88900002 = some (.bareBk 9) ∧
    decodeScalar 0x88900003 = some (.bareGg 9) ∧
    decodeScalar 0x8C08D600 = some (.binit 35 22) ∧
    decodeScalar 0x9008D600 = some (.barrive 35 22) ∧
    decodeScalar 0x9408C000 = some (.bwait 35) ∧
    decodeScalar 0x9808E005 = some (.bcont 35 0x2005) ∧
    decodeScalar 0x9C08E005 = some (.yieldC 35 0x2005) := by
  decide +kernel
theorem word_engines1 :
    decodeScalar 0xA008C005 = some (.copy 35 5) ∧
    decodeScalar 0xA408C000 = some (.mloop 35) ∧
    decodeScalar 0xAA98C000 = some (.kseqLd 41 35) ∧
    decodeScalar 0xAA98C001 = some (.kseqSt 41 35) ∧
    decodeScalar 0xAA98C002 = some (.klenCommit 41 35) ∧
    decodeScalar 0xAA900003 = some (.klenReject 41) ∧
    decodeScalar 0xAA98D604 = some (.krot 41 35 22) ∧
    decodeScalar 0xAA98D605 = some (.kreq 41 35 22) ∧
    decodeScalar 0xAA98C006 = some (.ksum 41 35) ∧
    decodeScalar 0xAC00005A = some (.pmark 0x5A) ∧
    decodeScalar 0xB008D600 = some (.xmap 35 22) ∧
    decodeScalar 0xB098D601 = some (.xlook 9 35 22) ∧
    decodeScalar 0xB008D602 = some (.xfill 35 22) ∧
    decodeScalar 0xB008D603 = some (.xevict 35 22) := by
  decide +kernel
theorem word_engines2 :
    decodeScalar 0xB0001604 = some (.xflush 22) ∧
    decodeScalar 0xB008D605 = some (.xfillX24 35 22) ∧
    decodeScalar 0xB5200000 = some (.clk 9) ∧
    decodeScalar 0xB408C001 = some (.cwait 35) ∧
    decodeScalar 0xB808C000 = some (.ftld 35) ∧
    decodeScalar 0xB8000001 = some (.ftsw) := by
  decide +kernel
theorem word_special :
    decodeScalar 0xC0900041 = some (.srr 9 0x41) ∧
    decodeScalar 0xC408C041 = some (.srw 35 0x41) ∧
    decodeScalar 0xC800000C = some (.fence 1 4) ∧
    decodeScalar 0xCC00005A = some (.trap 0x5A) ∧
    decodeScalar 0xD0000000 = some (.eret) ∧
    decodeScalar 0xD4000000 = some (.nop) ∧
    decodeScalar 0xD898C000 = some (.launch 9 35) ∧
    decodeScalar 0xDC000000 = some (.exit) := by
  decide +kernel
theorem word_check :
    decodeScalar 0xE098D600 = some (.grant 9 35 22) ∧
    decodeScalar 0xE408D600 = some (.gate 35 22) ∧
    decodeScalar 0xE898D600 = some (.digr 9 35 22) ∧
    decodeScalar 0xE898D601 = some (.errqRead 9 35 22) ∧
    decodeScalar 0xE898C002 = some (.errqRepair 9 35) ∧
    decodeScalar 0xE898D603 = some (.errqLog 9 35 22) ∧
    decodeScalar 0xEC98C000 = some (.corectlDrain 9 35) ∧
    decodeScalar 0xEC08C001 = some (.corectlIsolate 35) ∧
    decodeScalar 0xEC08C002 = some (.corectlRelease 35) ∧
    decodeScalar 0xEC08D604 = some (.scan 35 22) ∧
    decodeScalar 0xEC98C005 = some (.scanwt 9 35) ∧
    decodeScalar 0xEC98D606 = some (.lcmap 9 35 22) ∧
    decodeScalar 0xF098D600 = some (.wkill 9 35 22) := by
  decide +kernel
theorem word_integers1 :
    decodeLane 0x00000000 0x06070001 0x00001805 = some (.vadd ⟨0, 0, 0, 6, 0, 0, 5, 6, 7, 1, 0⟩) ∧
    decodeLane 0x00010001 0x06000000 0x01039205 = some (.vsub ⟨0, 3, 1, 4, 1, 0, 5, 6, 0, 0, 0x10001⟩) ∧
    decodeLane 0x00000000 0x06080000 0x02000804 = some (.vmul ⟨0, 0, 0, 2, 0, 0, 4, 6, 8, 0, 0⟩) ∧
    decodeLane 0x00000000 0x06070000 0x03000505 = some (.vmulh ⟨0, 0, 0, 1, 0, 1, 5, 6, 7, 0, 0⟩) ∧
    decodeLane 0x09000000 0x06070000 0x04000005 = some (.vmad ⟨0, 0, 0, 0, 0, 0, 5, 6, 7, 0, 0x9000000⟩) ∧
    decodeLane 0x00000000 0x06070000 0x05005005 = some (.vand ⟨0, 0, 0, 20, 0, 0, 5, 6, 7, 0, 0⟩) ∧
    decodeLane 0x000000FF 0x06000000 0x06005205 = some (.vor ⟨0, 0, 0, 20, 1, 0, 5, 6, 0, 0, 0xFF⟩) ∧
    decodeLane 0x00000000 0x06070000 0x07015005 = some (.vxor ⟨0, 1, 0, 20, 0, 0, 5, 6, 7, 0, 0⟩) ∧
    decodeLane 0x00000000 0x06070000 0x08000005 = some (.vshl ⟨0, 0, 0, 0, 0, 0, 5, 6, 7, 0, 0⟩) ∧
    decodeLane 0x00000000 0x06070000 0x09001C05 = some (.vshr ⟨0, 0, 0, 7, 0, 0, 5, 6, 7, 0, 0⟩) ∧
    decodeLane 0x00000000 0x06070000 0x0A001405 = some (.vsar ⟨0, 0, 0, 5, 0, 0, 5, 6, 7, 0, 0⟩) := by
  decide +kernel
theorem word_integers2 :
    decodeLane 0x00000000 0x06080000 0x0B000C04 = some (.vmin ⟨0, 0, 0, 3, 0, 0, 4, 6, 8, 0, 0⟩) ∧
    decodeLane 0x00000000 0x06070000 0x0C000005 = some (.vmax ⟨0, 0, 0, 0, 0, 0, 5, 6, 7, 0, 0⟩) ∧
    decodeLane 0x00000000 0x06000001 0x0D000005 = some (.vabs ⟨0, 0, 0, 0, 0, 0, 5, 6, 0, 1, 0⟩) ∧
    decodeLane 0x00000000 0x06000000 0x0E000405 = some (.vcnt ⟨0, 0, 0, 1, 0, 0, 5, 6, 0, 0, 0⟩) ∧
    decodeLane 0x00000000 0x06000000 0x0F000405 = some (.vclz ⟨0, 0, 0, 1, 0, 0, 5, 6, 0, 0, 0⟩) ∧
    decodeLane 0x08000000 0x06070000 0x10000005 = some (.vbfx ⟨0, 0, 0, 0, 0, 0, 5, 6, 7, 0, 0x8000000⟩) ∧
    decodeLane 0x00000804 0x06070000 0x11005205 = some (.vbfi ⟨0, 0, 0, 20, 1, 0, 5, 6, 7, 0, 0x804⟩) ∧
    decodeLane 0x00000000 0x0607000B 0x12005005 = some (.vsel ⟨0, 0, 0, 20, 0, 0, 5, 6, 7, 11, 0⟩) ∧
    decodeLane 0x3F800000 0x00000000 0x13005205 = some (.vmov ⟨0, 0, 0, 20, 1, 0, 5, 0, 0, 0, 0x3F800000⟩) ∧
    decodeLane 0x00000102 0x00000000 0x14000205 = some (.vwid ⟨0, 0, 0, 0, 1, 0, 5, 0, 0, 0, 0x102⟩) := by
  decide +kernel
theorem word_masks :
    decodeLane 0x00000000 0x06070002 0x40000403 = some (.vcmp ⟨0, 0, 0, 1, 0, 0, 3, 6, 7, 2, 0⟩) ∧
    decodeLane 0x00000000 0x04050008 0x41000003 = some (.mlog ⟨0, 0, 0, 0, 0, 0, 3, 4, 5, 8, 0⟩) ∧
    decodeLane 0x00000000 0x04000000 0x42000039 = some (.mcnt ⟨0, 0, 0, 0, 0, 0, 57, 4, 0, 0, 0⟩) ∧
    decodeLane 0x00000003 0x04001002 0x48000000 = some (.vbr ⟨0, 0, 0, 0, 0, 0, 0, 4, 0, 0x1002, 3⟩) ∧
    decodeLane 0x00000000 0x00000000 0x49000000 = some (.lend ⟨0, 0, 0, 0, 0, 0, 0, 0, 0, 0, 0⟩) ∧
    decodeLane 0x00000000 0x06070003 0x50205005 = some (.vshuf ⟨2, 0, 0, 20, 0, 0, 5, 6, 7, 3, 0⟩) ∧
    decodeLane 0x00000009 0x06000000 0x51005205 = some (.vbcast ⟨0, 0, 0, 20, 1, 0, 5, 6, 0, 0, 9⟩) ∧
    decodeLane 0x00000000 0x04000002 0x52000038 = some (.vvote ⟨0, 0, 0, 0, 0, 0, 56, 4, 0, 2, 0⟩) ∧
    decodeLane 0x00000000 0x06070000 0x5300503F = some (.vrdl ⟨0, 0, 0, 20, 0, 0, 63, 6, 7, 0, 0⟩) ∧
    decodeLane 0x00000000 0x06002008 0x54102005 = some (.vscan ⟨1, 0, 0, 8, 0, 0, 5, 6, 0, 0x2008, 0⟩) ∧
    decodeLane 0x00000000 0x06000005 0x55100804 = some (.vredx ⟨1, 0, 0, 2, 0, 0, 4, 6, 0, 5, 0⟩) := by
  decide +kernel
theorem word_floats1 :
    decodeLane 0x00000000 0x06072000 0x60002005 = some (.fadd ⟨0, 0, 0, 8, 0, 0, 5, 6, 7, 0x2000, 0⟩) ∧
    decodeLane 0x00000000 0x06080000 0x61002404 = some (.fsub ⟨0, 0, 0, 9, 0, 0, 4, 6, 8, 0, 0⟩) ∧
    decodeLane 0x00000000 0x06070000 0x62002805 = some (.fmul ⟨0, 0, 0, 10, 0, 0, 5, 6, 7, 0, 0⟩) ∧
    decodeLane 0x3F000000 0x080A0000 0x6302A209 = some (.ffma ⟨0, 2, 1, 8, 1, 0, 9, 8, 10, 0, 0x3F000000⟩) ∧
    decodeLane 0x00000000 0x06070000 0x64002C05 = some (.fmin ⟨0, 0, 0, 11, 0, 0, 5, 6, 7, 0, 0⟩) ∧
    decodeLane 0x00000000 0x06070000 0x65002005 = some (.fmax ⟨0, 0, 0, 8, 0, 0, 5, 6, 7, 0, 0⟩) ∧
    decodeLane 0x00000000 0x06078000 0x66302005 = some (.fdiv ⟨3, 0, 0, 8, 0, 0, 5, 6, 7, 0x8000, 0⟩) ∧
    decodeLane 0x00000000 0x06000000 0x67002404 = some (.fsqrt ⟨0, 0, 0, 9, 0, 0, 4, 6, 0, 0, 0⟩) ∧
    decodeLane 0x00000000 0x06000000 0x68002005 = some (.frcp ⟨0, 0, 0, 8, 0, 0, 5, 6, 0, 0, 0⟩) ∧
    decodeLane 0x00000000 0x06000000 0x69002805 = some (.frsq ⟨0, 0, 0, 10, 0, 0, 5, 6, 0, 0, 0⟩) ∧
    decodeLane 0x00000000 0x06000000 0x6A002005 = some (.fexp2 ⟨0, 0, 0, 8, 0, 0, 5, 6, 0, 0, 0⟩) := by
  decide +kernel
theorem word_floats2 :
    decodeLane 0x00000000 0x06000000 0x6B002005 = some (.flog2 ⟨0, 0, 0, 8, 0, 0, 5, 6, 0, 0, 0⟩) ∧
    decodeLane 0x00000000 0x06070002 0x6C002003 = some (.fcmp ⟨0, 0, 0, 8, 0, 0, 3, 6, 7, 2, 0⟩) ∧
    decodeLane 0x00000000 0x06000000 0x6D002005 = some (.fclass ⟨0, 0, 0, 8, 0, 0, 5, 6, 0, 0, 0⟩) ∧
    decodeLane 0x00000000 0x06002000 0x6E002005 = some (.fcvt ⟨0, 0, 0, 8, 0, 0, 5, 6, 0, 0x2000, 0⟩) ∧
    decodeLane 0x00000000 0x06070003 0x6F002004 = some (.vrot ⟨0, 0, 0, 8, 0, 0, 4, 6, 7, 3, 0⟩) ∧
    decodeLane 0x00000000 0x06000001 0xE3002005 = some (.vft ⟨0, 0, 0, 8, 0, 0, 5, 6, 0, 1, 0⟩) := by
  decide +kernel
theorem word_decimals :
    decodeLane 0x00000000 0x06080000 0x78004C04 = some (.dadd ⟨0, 0, 0, 19, 0, 0, 4, 6, 8, 0, 0⟩) ∧
    decodeLane 0x00000000 0x06088000 0x79004C04 = some (.dsub ⟨0, 0, 0, 19, 0, 0, 4, 6, 8, 0x8000, 0⟩) ∧
    decodeLane 0x00000000 0x06080000 0x7A004C04 = some (.dmul ⟨0, 0, 0, 19, 0, 0, 4, 6, 8, 0, 0⟩) ∧
    decodeLane 0x0A000000 0x06080000 0x7B004C04 = some (.dfma ⟨0, 0, 0, 19, 0, 0, 4, 6, 8, 0, 0xA000000⟩) ∧
    decodeLane 0x00000000 0x06080000 0x7CF04C04 = some (.dqtz ⟨15, 0, 0, 19, 0, 0, 4, 6, 8, 0, 0⟩) ∧
    decodeLane 0x00000000 0x06080001 0x7D004C03 = some (.dcmp ⟨0, 0, 0, 19, 0, 0, 3, 6, 8, 1, 0⟩) ∧
    decodeLane 0x00000000 0x06000006 0x7E004C04 = some (.dcvt ⟨0, 0, 0, 19, 0, 0, 4, 6, 0, 6, 0⟩) ∧
    decodeLane 0x00000000 0x06000002 0x88003804 = some (.bqnt ⟨0, 0, 0, 14, 0, 0, 4, 6, 0, 2, 0⟩) ∧
    decodeLane 0x00000000 0x06000004 0x89004804 = some (.bdq ⟨0, 0, 0, 18, 0, 0, 4, 6, 0, 4, 0⟩) := by
  decide +kernel
theorem word_accesses :
    decodeLane 0x00FFFFFC 0x06000002 0x90200004 = some (.vld ⟨2, 0, 0, 0, 0, 0, 4, 6, 0, 2, 0xFFFFFC⟩) ∧
    decodeLane 0x00000010 0x06080103 0x91000000 = some (.vst ⟨0, 0, 0, 0, 0, 0, 0, 6, 8, 0x103, 16⟩) ∧
    decodeLane 0x00000000 0x02000402 0x92000004 = some (.vlds ⟨0, 0, 0, 0, 0, 0, 4, 2, 0, 0x402, 0⟩) ∧
    decodeLane 0x00000000 0x02070002 0x93000000 = some (.vsts ⟨0, 0, 0, 0, 0, 0, 0, 2, 7, 2, 0⟩) ∧
    decodeLane 0x00000008 0x04060331 0x94000409 = some (.vatom ⟨0, 0, 0, 1, 0, 0, 9, 4, 6, 0x331, 8⟩) ∧
    decodeLane 0x0A000004 0x04060100 0x95005009 = some (.vcas ⟨0, 0, 0, 20, 0, 0, 9, 4, 6, 0x100, 0xA000004⟩) ∧
    decodeLane 0x00000040 0x04000005 0xE0000000 = some (.treq ⟨0, 0, 0, 0, 0, 0, 0, 4, 0, 5, 0x40⟩) ∧
    decodeLane 0x00000000 0x04060003 0xE1000000 = some (.vstc ⟨0, 0, 0, 0, 0, 0, 0, 4, 6, 3, 0⟩) ∧
    decodeLane 0x00000000 0x06000023 0xE2000004 = some (.vlda ⟨0, 0, 0, 0, 0, 0, 4, 6, 0, 35, 0⟩) := by
  decide +kernel
theorem word_matrices :
    decodeLane 0x060005CE 0x20300800 0xC0002010 = some (.mma ⟨0, 0, 0, 8, 0, 0, 16, 32, 48, 0x800, 0x60005CE⟩) ∧
    decodeLane 0x000001AD 0x20300000 0xC1002010 = some (.mmaNs ⟨0, 0, 0, 8, 0, 0, 16, 32, 48, 0, 0x1AD⟩) ∧
    decodeLane 0x05000001 0x20302000 0xC2002010 = some (.scacc ⟨0, 0, 0, 8, 0, 0, 16, 32, 48, 0x2000, 0x5000001⟩) ∧
    decodeLane 0x3C23D70A 0x20281001 0xD0100210 = some (.attb ⟨1, 0, 0, 0, 1, 0, 16, 32, 40, 0x1001, 0x3C23D70A⟩) ∧
    decodeLane 0x05000000 0x20280001 0xD1000010 = some (.attbResume ⟨0, 0, 0, 0, 0, 0, 16, 32, 40, 1, 0x5000000⟩) ∧
    decodeLane 0x07000021 0x20300800 0xD2000000 = some (.kapp ⟨0, 0, 0, 0, 0, 0, 0, 32, 48, 0x800, 0x7000021⟩) := by
  decide +kernel

/-- Words that are not instructions (R53): an unassigned opcode, an unlisted cc, a nonzero unused field, reserved scopes and
kinds, a reserved type, a nonzero la on a short instruction, an odd pair. -/
theorem ill_words : decodeScalar 0x2C000000 = none ∧ decodeScalar 0x00000009 = none ∧ decodeScalar 0x4C000001 = none ∧
    decodeScalar 0xC8000018 = none ∧ decodeScalar 0xC8000006 = none ∧ decodeScalar 0x700000E0 = none ∧
    decodeLane 0 0x06070000 0x15000005 = none ∧ decodeLane 0 0x06070000 0x00005405 = none ∧
    decodeLane 0 0x06070000 0x00100005 = none ∧ decodeLane 0 0x06070000 0x00000805 = none := by decide +kernel
theorem ill_scalars : (Instr.fence 3 0).wf = false ∧ (Instr.sldAcq 1 2 3 0 6 0).wf = false ∧ (Instr.sstRel 1 2 3 0 7 0).wf = false ∧
    (Instr.satom 1 2 3 7 0 0).wf = false := by decide +kernel
/-- The encoder writes the worked words of R41 and R45. -/
theorem encode_worked : encode (.addi 5 5 0x3FFF) = some [0x04517FFF] ∧ encode (.sld 9 6 2 1 0x3C0) = some [0x6091A7C0] ∧
    encode (.ffma ⟨0, 2, 1, 8, 1, 0, 9, 8, 10, 0, 0x3F000000⟩) = some [0x3F000000, 0x080A0000, 0x6302A209] := by decide +kernel

end Sys2Proof.Tests
end

section
/-! No step leaves a byte memory out of its canonical form (log 3). The model is followed function by function, in the
order of its files: each function that gives a state keeps the form, since those that it calls do; the arms of `exec` and
the turn of a step put these together. -/

namespace Sys2Proof.Machine

/-! ## What it means to keep the form

A lemma `State.memForm.f` says that `f` keeps the canonical form of both memories. Most operations change other fields of
the state and keep it by `State.memForm.update`; the bytes of a memory change through `storeAt` and `writeBytes` only, whose
own laws stand under Laws. A result that is not itself a state keeps the form when each state that it carries has it. -/

/-- A change of fields other than the two memories keeps the form. -/
theorem State.memForm.update {s : State} (h : s.memForm) {turns draws cur nextId poison farPoison warps blocks jobs
    moves backing clean cores dies coreMap failed banks fab eng mgmt} :
    State.memForm ⟨turns, draws, cur, nextId, s.mem, s.host, poison, farPoison, warps, blocks, jobs, moves, backing,
      clean, cores, dies, coreMap, failed, banks, fab, eng, mgmt⟩ := h

/-- So does one that puts a memory in its canonical form in place of the device's. -/
theorem State.memForm.setMem {s : State} (h : s.memForm) {m : Memory} (hm : Memory.wf m) {turns draws cur nextId poison
    farPoison warps blocks jobs moves backing clean cores dies coreMap failed banks fab eng mgmt} :
    State.memForm ⟨turns, draws, cur, nextId, m, s.host, poison, farPoison, warps, blocks, jobs, moves, backing, clean,
      cores, dies, coreMap, failed, banks, fab, eng, mgmt⟩ := ⟨hm, h.2⟩

/-- And one that does so for the host's. -/
theorem State.memForm.setHost {s : State} (h : s.memForm) {m : Memory} (hm : Memory.wf m) {turns draws cur nextId poison
    farPoison warps blocks jobs moves backing clean cores dies coreMap failed banks fab eng mgmt} :
    State.memForm ⟨turns, draws, cur, nextId, s.mem, m, poison, farPoison, warps, blocks, jobs, moves, backing, clean,
      cores, dies, coreMap, failed, banks, fab, eng, mgmt⟩ := ⟨h.1, hm⟩

/-- A store's bytes, and the STALE flags that it sets, are written in the form (R2, R3, R166). -/
theorem State.memForm.storeAt {s : State} (h : s.memForm) {pte pa bs} : (s.storeAt pte pa bs).memForm :=
  storeAt_form s pte pa bs h

theorem State.memForm.ite {c : Prop} [Decidable c] {s t : State} (hs : s.memForm) (ht : t.memForm) :
    (if c then s else t).memForm := by
  split <;> assumption

theorem State.memForm.foldl {α : Type} {l : List α} {f : State → α → State} {s : State} (h : s.memForm)
    (hf : ∀ s a, s.memForm → (f s a).memForm) : (l.foldl f s).memForm :=
  List.foldlRecOn l f h fun s hs a _ => hf s a hs

/-! ### Results that carry a state -/

/-- The state of a pair has the form; of `h : FstForm p`, `h rfl` is that of `p.1`. -/
def FstForm {α : Type} (p : State × α) : Prop := ∀ ⦃t a⦄, p = (t, a) → t.memForm
theorem FstForm.of {α : Type} {t : State} {a : α} (h : t.memForm) : FstForm (t, a) := by
  rintro _ _ ⟨⟩; exact h
theorem FstForm.ite {α : Type} {c : Prop} [Decidable c] {p q : State × α} (hp : FstForm p) (hq : FstForm q) :
    FstForm (if c then p else q) := by
  split <;> assumption
theorem FstForm.foldl {α β : Type} {l : List α} {f : State × β → α → State × β} {p : State × β} (h : FstForm p)
    (hf : ∀ t b a, t.memForm → FstForm (f (t, b) a)) : FstForm (l.foldl f p) :=
  List.foldlRecOn l f h fun p hp a _ => hf p.1 p.2 a (hp rfl)

/-- The same of a pair whose state stands second. -/
def SndForm {α : Type} (p : α × State) : Prop := ∀ ⦃t a⦄, p = (a, t) → t.memForm
theorem SndForm.of {α : Type} {t : State} {a : α} (h : t.memForm) : SndForm (a, t) := by
  rintro _ _ ⟨⟩; exact h

/-- Where `r` carries a state under the constructor `c`, that state has the form; of `h : FormOf c r`, `h e` is that of
the state that `e : r = c t` finds. -/
def FormOf {α : Type} (c : State → α) (r : α) : Prop := ∀ ⦃t⦄, r = c t → t.memForm
theorem FormOf.of {α : Type} {c : State → α} {t : State} (h : t.memForm)
    (hc : Function.Injective c := by intro _ _ e; cases e; rfl) : FormOf c (c t) :=
  fun _ e => hc e ▸ h
theorem FormOf.ite {α : Type} {c : State → α} {b : Prop} [Decidable b] {r q : α} (hr : FormOf c r) (hq : FormOf c q) :
    FormOf c (if b then r else q) := by
  split <;> assumption
theorem FormOf.findSome? {α : Type} {l : List α} {f : α → Option State} (hf : ∀ a ∈ l, FormOf some (f a)) :
    FormOf some (l.findSome? f) := fun _ ht => by
  obtain ⟨a, ha, e⟩ := List.exists_of_findSome?_eq_some ht
  exact hf a ha e
theorem FormOf.map {r : Result} (h : FormOf .next r) {f : State → State}
    (hf : ∀ t, t.memForm → (f t).memForm) : FormOf .next (r.map f) := by
  rcases r with t | _ | _
  · exact .of (hf t (h rfl))
  · exact nofun
  · exact nofun

/-! Results that carry a state under more than one constructor, or other values beside it. -/

def EngGot.memForm (g : EngGot) : Prop := ∀ ⦃t io p⦄, g = .wait t io p → t.memForm
theorem EngGot.memForm.of {t : State} {io p} (h : t.memForm) : EngGot.memForm (.wait t io p) := by
  rintro _ _ _ ⟨⟩; exact h

def PinGot.memForm (g : PinGot) : Prop := ∀ ⦃t p⦄, g = .wait t p → t.memForm
theorem PinGot.memForm.of {t : State} {p} (h : t.memForm) : PinGot.memForm (.wait t p) := by
  rintro _ _ ⟨⟩; exact h

structure LocalGot.memForm (g : LocalGot) : Prop where
  go : ∀ ⦃t ls away⦄, g = .go t ls away → t.memForm
  stop : ∀ ⦃t⦄, g = .stop t → t.memForm
theorem LocalGot.memForm.ofGo {t : State} {ls away} (h : t.memForm) : LocalGot.memForm (.go t ls away) where
  go := by rintro _ _ _ ⟨⟩; exact h
  stop := nofun
theorem LocalGot.memForm.ofStop {t : State} (h : t.memForm) : LocalGot.memForm (.stop t) where
  go := nofun
  stop := by rintro _ ⟨⟩; exact h

structure TakeGot.memForm (g : TakeGot) : Prop where
  taken : ∀ ⦃r t⦄, g = .taken r t → t.memForm
  hold : ∀ ⦃t⦄, g = .hold t → t.memForm
theorem TakeGot.memForm.ofTaken {r} {t : State} (h : t.memForm) : TakeGot.memForm (.taken r t) where
  taken := by rintro _ _ ⟨⟩; exact h
  hold := nofun
theorem TakeGot.memForm.ofHold {t : State} (h : t.memForm) : TakeGot.memForm (.hold t) where
  taken := nofun
  hold := by rintro _ ⟨⟩; exact h

structure SafeGot.memForm (g : SafeGot) : Prop where
  points : ∀ ⦃ps t⦄, g = .points ps t → t.memForm
  wait : ∀ ⦃t⦄, g = .wait t → t.memForm
theorem SafeGot.memForm.ofPoints {ps} {t : State} (h : t.memForm) : SafeGot.memForm (.points ps t) where
  points := by rintro _ _ ⟨⟩; exact h
  wait := nofun
theorem SafeGot.memForm.ofWait {t : State} (h : t.memForm) : SafeGot.memForm (.wait t) where
  points := nofun
  wait := by rintro _ ⟨⟩; exact h

/-! ## State, memory, faults and barriers -/

theorem State.memForm.setWarp {s : State} (h : s.memForm) {w x} : (s.setWarp w x).memForm :=
  .update h

theorem State.memForm.modWarp {s : State} (h : s.memForm) {w f} : (s.modWarp w f).memForm :=
  h.setWarp

theorem State.memForm.setBlock {s : State} (h : s.memForm) {b x} : (s.setBlock b x).memForm :=
  .update h

theorem State.memForm.modBlock {s : State} (h : s.memForm) {b f} : (s.modBlock b f).memForm :=
  h.setBlock

theorem State.memForm.setLaunch {s : State} (h : s.memForm) {l x} : (s.setLaunch l x).memForm :=
  .update h

theorem State.memForm.modLaunch {s : State} (h : s.memForm) {l f} : (s.modLaunch l f).memForm :=
  h.setLaunch

theorem State.memForm.setCore {s : State} (h : s.memForm) {c x} : (s.setCore c x).memForm :=
  .update h

theorem State.memForm.setDie {s : State} (h : s.memForm) {d x} : (s.setDie d x).memForm :=
  .update h

theorem State.memForm.setJob {s : State} (h : s.memForm) {j x} : (s.setJob j x).memForm :=
  .update h

theorem State.memForm.setMe {s : State} (h : s.memForm) {x} : (s.setMe x).memForm :=
  h.setWarp

theorem State.memForm.setMyPath {s : State} (h : s.memForm) {q} : (s.setMyPath q).memForm :=
  h.setMe

theorem State.memForm.scalarDone {s : State} (h : s.memForm) {d v} : (s.scalarDone d v).memForm :=
  h.setMe

theorem State.memForm.scalarNext {s : State} (h : s.memForm) : s.scalarNext.memForm :=
  h.setMe

theorem State.memForm.setNondet {s : State} (h : s.memForm) {l} : (s.setNondet l).memForm :=
  h.modLaunch

theorem State.memForm.release {s : State} (h : s.memForm) {body : State} (hbody : body.memForm) :
    (s.release body).memForm :=
  .ite h hbody

theorem State.memForm.logFrom {s : State} (h : s.memForm) {device die addr kind code ctx origin access len} :
    (s.logFrom device die addr kind code ctx origin access len).memForm :=
  .ite h.setDie h.setDie

theorem State.memForm.logViolation {s : State} (h : s.memForm) {die addr kind code ctx origin access len} :
    (s.logViolation die addr kind code ctx origin access len).memForm :=
  h.logFrom

theorem State.memForm.bankError {s : State} (h : s.memForm) {bank sev syn addr} :
    (s.bankError bank sev syn addr).memForm :=
  .update h

theorem State.memForm.watchStore {s : State} (h : s.memForm) {pa n} : (s.watchStore pa n).memForm :=
  .update h

theorem State.memForm.noteGated {s : State} (h : s.memForm) {agent atomic pa n} :
    (s.noteGated agent atomic pa n).memForm :=
  h.foldl fun _ _ hs => .ite hs hs.setNondet

theorem State.memForm.noteFar {s : State} (h : s.memForm) {agent atomic fa n} :
    (s.noteFar agent atomic fa n).memForm :=
  h.foldl fun _ _ hs => .ite hs hs.setNondet

theorem State.memForm.noteFarVa {s : State} (h : s.memForm) {ctx agent atomic va n} :
    (s.noteFarVa ctx agent atomic va n).memForm := by
  unfold State.noteFarVa
  split
  · exact h.noteFar
  · exact h

theorem State.memForm.raiseScalarAt {s : State} (h : s.memForm) {code addr access n spc} :
    (s.raiseScalarAt code addr access n spc).memForm :=
  .ite h.setMe h.setMe

theorem State.memForm.raiseLane {s : State} (h : s.memForm) {code addr access} :
    (s.raiseLane code addr access).memForm :=
  .ite h.setMe h.setMe

theorem State.memForm.objComplete {s : State} (h : s.memForm) {bk waiters conts} :
    (s.objComplete bk waiters conts).memForm :=
  .modBlock (.update h)

theorem State.memForm.objArrive {s : State} (h : s.memForm) {bk o n} : (s.objArrive bk o n).memForm :=
  .ite h (.ite h.setBlock h.setBlock.objComplete)

theorem State.memForm.settleBk {s : State} (h : s.memForm) {bk} : (s.settleBk bk).memForm :=
  .ite h (.update h.setBlock)

theorem State.memForm.settleGg {s : State} (h : s.memForm) {launch gang} : (s.settleGg launch gang).memForm :=
  .ite h (.update h.setLaunch)

theorem State.memForm.settleEpisodes {s : State} (h : s.memForm) {bk} : (s.settleEpisodes bk).memForm :=
  h.settleBk.settleGg

theorem State.memForm.promote {s : State} (h : s.memForm) {ctx va die launch} :
    (s.promote ctx va die launch).memForm :=
  .ite h (.ite (.update h) (.modLaunch (.update h)))

theorem State.memForm.launchPacket {s : State} (h : s.memForm) {p} : (s.launchPacket p).memForm :=
  .update h

theorem State.memForm.inject {s : State} (h : s.memForm) {p} : (s.inject p).memForm :=
  .ite (.launchPacket (.update h)) (.update (.update h))

theorem State.memForm.sendRequest {s : State} (h : s.memForm) {asker ctx va fa lane part p} :
    FstForm (s.sendRequest asker ctx va fa lane part p) :=
  .of (.update (.inject (.update h)))

theorem State.memForm.sendWrite {s : State} (h : s.memForm) {asker ctx va fa bs} :
    (s.sendWrite asker ctx va fa bs).memForm :=
  h.foldl fun _ _ hs => hs.noteFar.sendRequest rfl

theorem State.memForm.cleanLine {s : State} (h : s.memForm) {bk r k} : (s.cleanLine bk r k).memForm :=
  h.modBlock

theorem State.memForm.writeBackLine {s : State} (h : s.memForm) {ctx bk r g k} :
    (s.writeBackLine ctx bk r g k).memForm := by
  unfold State.writeBackLine
  extract_lets
  split
  · exact h.storeAt.noteGated.cleanLine
  · exact h.promote
  · exact h.sendWrite.cleanLine
  · exact .cleanLine (.ite h.logViolation h)

theorem State.memForm.flushWindow {s : State} (h : s.memForm) {ctx bk r g} :
    (s.flushWindow ctx bk r g).memForm :=
  h.foldl fun _ _ hs => hs.writeBackLine

theorem State.memForm.settleBlock {s : State} (h : s.memForm) {bk} : (s.settleBlock bk).memForm :=
  .ite h (.ite (h.foldl fun _ _ hs => hs.flushWindow) (.modLaunch (.modBlock (h.foldl fun _ _ hs => hs.flushWindow))))

theorem State.memForm.endWarp {s : State} (h : s.memForm) {w} : (s.endWarp w).memForm :=
  .settleBlock (.settleEpisodes (.update h))

theorem State.memForm.queueTaken {s : State} (h : s.memForm) {num} : (s.queueTaken num).memForm :=
  .update h

theorem State.memForm.haltWarp {s : State} (h : s.memForm) {w code pc} : (s.haltWarp w code pc).memForm :=
  .endWarp (.modLaunch (.setBlock (h.foldl fun _ _ hs => hs.queueTaken)))

theorem State.memForm.consume {s : State} (h : s.memForm) {w off} : (s.consume w off).memForm :=
  h.bankError.haltWarp

theorem State.memForm.deliverFault {s : State} (h : s.memForm) {w} : (s.deliverFault w).memForm := by
  unfold State.deliverFault
  extract_lets
  split
  · exact h
  · exact .ite h.setWarp.haltWarp h.setWarp

theorem State.memForm.tryDeliver {s : State} (h : s.memForm) : s.tryDeliver.memForm :=
  .ite h.deliverFault h

theorem State.memForm.scalarFault {s : State} (h : s.memForm) {code addr access} :
    (s.scalarFault code addr access).memForm :=
  h.raiseScalarAt.tryDeliver

theorem State.memForm.laneFault {s : State} (h : s.memForm) {code addr access} :
    (s.laneFault code addr access).memForm :=
  h.raiseLane.tryDeliver

theorem State.memForm.eretWarp {s : State} (h : s.memForm) {w} : (s.eretWarp w).memForm := by
  unfold State.eretWarp
  extract_lets
  split <;> exact h.setWarp

/-! ## Operand forms of the lane words -/

theorem State.memForm.reportPoison {s : State} (h : s.memForm) {key kind die launch va requester} :
    (s.reportPoison key kind die launch va requester).memForm :=
  .ite h (.update h)

theorem State.memForm.holdPath {s : State} (h : s.memForm) {every} : (s.holdPath every).memForm :=
  h.foldl fun _ _ hs => hs.foldl fun _ _ ht => ht.reportPoison

theorem State.memForm.lanePre {s : State} (h : s.memForm) {regs masks} : FormOf Pre.stop (s.lanePre regs masks) := by
  unfold State.lanePre
  extract_lets
  split
  · exact .of h.holdPath
  split
  · exact .of h.laneFault
  split
  · exact .of h.laneFault
  split
  · exact .of h.setMe
  · exact nofun

theorem State.memForm.laneDone {s : State} (h : s.memForm) {x} : (s.laneDone x).memForm :=
  h.setMe

theorem State.memForm.laneLong {s : State} (h : s.memForm) {o} : (s.laneLong o).memForm :=
  h.setMe

theorem State.memForm.laneRun {s : State} (h : s.memForm) {regs masks} {body : State → State}
    (hbody : ∀ t, t.memForm → (body t).memForm) : (s.laneRun regs masks body).memForm := by
  unfold State.laneRun
  split
  · exact h.lanePre ‹_›
  · exact hbody _ h

theorem State.memForm.memRun {s : State} (h : s.memForm) {regs masks} {body : State → State}
    (hbody : ∀ t, t.memForm → (body t).memForm) : (s.memRun regs masks body).memForm :=
  h.laneRun fun _ hs => .ite hs.holdPath (hbody _ hs)

theorem State.memForm.markRet {s : State} (h : s.memForm) : s.markRet.memForm :=
  h.setMyPath

/-! ## Flags and their traps -/

theorem State.memForm.fpEnd {s : State} (h : s.memForm) {fl} {done : State → State}
    (hdone : ∀ t, t.memForm → (done t).memForm) : (s.fpEnd fl done).memForm :=
  .ite h.setMe.laneFault (hdone _ h.setMe)

theorem State.memForm.decEnd {s : State} (h : s.memForm) {fl} {done : State → State}
    (hdone : ∀ t, t.memForm → (done t).memForm) : (s.decEnd fl done).memForm :=
  .ite h.setMe.laneFault (hdone _ h.setMe)

theorem State.memForm.writeRegs {s : State} (h : s.memForm) {ws} : (s.writeRegs ws).memForm :=
  h.laneDone

theorem State.memForm.writeMask {s : State} (h : s.memForm) {k lanes bits} :
    (s.writeMask k lanes bits).memForm :=
  h.laneDone

/-! ## Accesses to memory -/

theorem State.memForm.warpStore {s : State} (h : s.memForm) {pte pa bs} : (s.warpStore pte pa bs).memForm :=
  h.storeAt.noteGated

theorem State.memForm.digest {s : State} (h : s.memForm) {id ea bs} : (s.digest id ea bs).memForm :=
  h.modBlock

theorem State.memForm.rmwHere {s : State} (h : s.memForm) {id va pte pa r} :
    SndForm (s.rmwHere id va pte pa r) := by
  unfold State.rmwHere
  extract_lets
  split
  · exact .of h
  · exact .of h.storeAt.noteGated.digest

theorem State.memForm.noteAtomic {s : State} (h : s.memForm) {r delivers} :
    (s.noteAtomic r delivers).memForm :=
  .ite h.setNondet h

theorem State.memForm.logWarp {s : State} (h : s.memForm) {code va access n} :
    (s.logWarp code va access n).memForm :=
  .ite h.logViolation h

theorem State.memForm.parkScalar {s : State} (h : s.memForm) {kind va access} :
    (s.parkScalar kind va access).memForm := by
  unfold State.parkScalar
  extract_lets w s₁
  have h₁ : s₁.memForm := by
    unfold s₁
    split
    · exact h.promote
    · exact h.reportPoison
  split
  · exact h₁
  · exact h₁.setMe

theorem State.memForm.scalarGot {s : State} (h : s.memForm) {va n access p g} :
    FormOf Got.stop (s.scalarGot va n access p g) := by
  unfold State.scalarGot
  split
  · split
    · exact .of h
    split
    · exact .of h.setMe.scalarFault
    · exact nofun
  split
  · exact .of h.logWarp.scalarFault
  · exact .of h.parkScalar
  · split
    · exact .of h.setMe
    · exact .of (.setMe (h.sendRequest rfl))
  split
  · exact .of h.parkScalar
  · exact nofun

theorem State.memForm.parkLane {s : State} (h : s.memForm) {kind vas access} :
    (s.parkLane kind vas access).memForm := by
  unfold State.parkLane
  extract_lets w p one s₁
  have h₁ : s₁.memForm := by
    unfold s₁
    refine h.foldl fun _ _ hs => ?_
    unfold one
    split
    · exact hs.promote
    · exact hs.reportPoison
  exact h₁.setMyPath

theorem State.memForm.parkAs {s : State} (h : s.memForm) {lane kind va access} :
    (s.parkAs lane kind va access).memForm :=
  .ite h.parkLane h.parkScalar

theorem State.memForm.faultAs {s : State} (h : s.memForm) {lane code addr access} :
    (s.faultAs lane code addr access).memForm :=
  .ite h.laneFault h.scalarFault

theorem State.memForm.setIoAs {s : State} (h : s.memForm) {lane io} : (s.setIoAs lane io).memForm :=
  .ite h.setMyPath h.setMe

theorem State.memForm.unitsStop {s : State} (h : s.memForm) {lane access vs r}
    (e : s.unitsStop lane access vs = some r) : FormOf Look.stop r := by
  unfold State.unitsStop at e
  split at e
  · cases e; exact nofun
  split at e
  · cases e; exact nofun
  split at e
  · cases e; exact .of h.parkAs
  split at e
  · cases e; exact .of h.parkAs
  cases e

theorem State.memForm.askUnits {s : State} (h : s.memForm) {lane access key data ask} :
    FstForm (s.askUnits lane access key data ask) := by
  unfold State.askUnits
  refine .foldl (.of h) fun _ _ _ hs => ?_
  exact .of ((State.memForm.sendRequest (.ite hs.noteFar hs)) rfl)

theorem State.memForm.look {s : State} (h : s.memForm) {lane va n access key data} :
    FormOf Look.stop (s.look lane va n access key data) := by
  unfold State.look
  extract_lets
  split
  · exact h.unitsStop ‹_›
  split
  · exact .of h
  split
  · exact nofun
  split
  · exact nofun
  · exact .of (.setIoAs (h.askUnits rfl))

theorem State.memForm.badAs {s : State} (h : s.memForm) {lane code addr access n} :
    (s.badAs lane code addr access n).memForm :=
  h.logWarp.faultAs

theorem State.memForm.recordGot {s : State} (h : s.memForm) {va n access key data} :
    FormOf RecGot.stop (s.recordGot va n access key data) := by
  unfold State.recordGot
  split
  · exact nofun
  · exact .of (h.look ‹_›)
  · exact .of h.badAs

theorem State.memForm.writeVa {s : State} (h : s.memForm) {ctx agent va bs} :
    (s.writeVa ctx agent va bs).memForm := by
  unfold State.writeVa
  split
  · exact h
  refine h.foldl fun _ _ hs => ?_
  split
  · exact hs.storeAt.noteGated
  · exact hs

theorem State.memForm.laneChecks {s : State} (h : s.memForm) {accs n access} :
    FormOf some (s.laneChecks accs n access) := by
  unfold State.laneChecks
  split
  · exact .of h.laneFault
  split
  · exact .of h.laneFault
  split
  · exact .of h.logWarp.laneFault
  · exact nofun

theorem State.memForm.laneGot {s : State} (h : s.memForm) {accs n access nr send gate} :
    FormOf LaneGot.stop (s.laneGot accs n access nr send gate) := by
  unfold State.laneGot
  split
  · exact .of (h.laneChecks ‹_›)
  extract_lets
  split
  · exact .of h.parkLane
  split
  · exact .of h.parkLane
  split
  · exact .of h
  split
  · exact .of h.laneFault
  split
  · exact nofun
  refine .of (.setMyPath (FstForm.foldl (.of h) (fun _ _ _ hs => ?_) rfl))
  exact .of (hs.sendRequest rfl)

/-! ## Fetching code -/

theorem State.memForm.codeGot {s : State} (h : s.memForm) {w va n} : FormOf CodeGot.wait (s.codeGot w va n) := by
  unfold State.codeGot
  extract_lets x b ctx
  refine List.foldlRecOn _ _ (motive := FormOf CodeGot.wait) nofun fun acc hacc i _ => ?_
  split
  · extract_lets a
    split
    · exact nofun
    · exact nofun
    · exact .of h.promote
    split
    · exact .of h.reportPoison
    · exact nofun
  · exact hacc

theorem State.memForm.laneWords {s : State} (h : s.memForm) {w pc} : FormOf CodeGot.wait (s.laneWords w pc) := by
  unfold State.laneWords
  extract_lets
  split
  · exact nofun
  · exact h.codeGot

theorem State.memForm.scalarWords {s : State} (h : s.memForm) {w pc} : FormOf CodeGot.wait (s.scalarWords w pc) := by
  unfold State.scalarWords
  extract_lets
  split
  · exact nofun
  · exact h.codeGot

theorem State.memForm.logFetch {s : State} (h : s.memForm) {code va n} : (s.logFetch code va n).memForm :=
  h.logWarp

theorem State.memForm.scalarFetchFault {s : State} (h : s.memForm) {w code addr} :
    (s.scalarFetchFault w code addr).memForm := by
  unfold State.scalarFetchFault
  extract_lets x s₁ ws s₂
  have h₁ : s₁.memForm := by
    unfold s₁
    split
    · exact h.setWarp
    · exact h
  have h₂ : s₂.memForm := .update h₁
  exact h₂.logFetch.raiseScalarAt.tryDeliver

theorem State.memForm.laneFetchFault {s : State} (h : s.memForm) {w p code addr} :
    (s.laneFetchFault w p code addr).memForm :=
  .laneFault (.logFetch (.setWarp (.update h)))

/-! ## Lane integer instructions -/

theorem State.memForm.laneMap {s : State} (h : s.memForm) {f regs masks val} :
    (s.laneMap f regs masks val).memForm :=
  h.laneRun fun _ hs => hs.writeRegs

theorem State.memForm.laneMask {s : State} (h : s.memForm) {f regs masks val} :
    (s.laneMask f regs masks val).memForm :=
  h.laneRun fun _ hs => hs.writeMask

theorem State.memForm.laneRet {s : State} (h : s.memForm) {f regs masks val} :
    (s.laneRet f regs masks val).memForm :=
  h.laneRun fun _ hs => .ite hs.markRet hs.laneDone

/-! ## Divergence and movement between lanes -/

theorem State.memForm.opPathReconvergence {s : State} (h : s.memForm) {w p} :
    (opPathReconvergence w p s).memForm :=
  .ite h.setWarp h

theorem State.memForm.opLaneBlockStart {s : State} (h : s.memForm) {w} : (opLaneBlockStart w s).memForm := by
  unfold Machine.opLaneBlockStart
  extract_lets
  split
  · exact .ite h h.setWarp
  · exact h

theorem State.memForm.opVbr {s : State} (h : s.memForm) {f} : (opVbr f s).memForm := by
  unfold Machine.opVbr
  refine .ite h.holdPath ?_
  split
  · exact h.laneFault
  · exact h.laneFault
  · exact .ite h.laneDone (.ite h.setMe (.ite h.laneFault (.ite h.setMe h.setMe)))

theorem State.memForm.opLend {s : State} (h : s.memForm) : (opLend s).memForm :=
  .ite h.holdPath h.setMe

theorem State.memForm.longRegs {s : State} (h : s.memForm) {left dst ws} : (s.longRegs left dst ws).memForm :=
  h.laneLong

theorem State.memForm.opVshuf {s : State} (h : s.memForm) {f} : (opVshuf f s).memForm :=
  h.laneRun fun _ hs => hs.longRegs

theorem State.memForm.opVscan {s : State} (h : s.memForm) {f} : (opVscan f s).memForm :=
  h.laneRun fun _ hs => hs.fpEnd fun _ ht => ht.longRegs

theorem State.memForm.opVredx {s : State} (h : s.memForm) {f} : (opVredx f s).memForm :=
  h.laneRun fun _ hs => hs.fpEnd fun _ ht => ht.longRegs

/-! ## Lane loads, stores and atomics -/

theorem State.memForm.loadIssue {s : State} (h : s.memForm) {f n ws rr ms masks} :
    (s.loadIssue f n ws rr ms masks).memForm :=
  h.laneLong

theorem State.memForm.opVld {s : State} (h : s.memForm) {f} : (opVld f s).memForm := by
  unfold Machine.opVld
  extract_lets n nr sx mk vd
  refine h.memRun fun _ hs => ?_
  extract_lets accs
  split
  · exact hs.laneGot ‹_›
  · exact hs.loadIssue

theorem State.memForm.laneRelease {s : State} (h : s.memForm) {body : State} (hbody : body.memForm) {f} :
    (s.laneRelease f body).memForm :=
  .ite hbody (h.release hbody)

theorem State.memForm.opVst {s : State} (h : s.memForm) {f} : (opVst f s).memForm := by
  unfold Machine.opVst
  extract_lets n
  refine h.memRun fun _ hs => ?_
  extract_lets x accs
  split
  · exact hs.laneGot ‹_›
  · exact .laneLong (.foldl (hs.foldl fun _ _ ht => ht.warpStore.digest) fun _ _ ht => ht.noteFarVa.digest)

theorem State.memForm.fillLines {s : State} (h : s.memForm) {ms} : (s.fillLines ms).memForm := by
  unfold State.fillLines
  extract_lets
  split
  · exact h.laneGot ‹_›
  · exact .ite h.parkLane (h.foldl fun _ _ hs => hs.modBlock)

theorem State.memForm.localGot {s : State} (h : s.memForm) {f n store nr} :
    LocalGot.memForm (s.localGot f n store nr) := by
  unfold State.localGot
  extract_lets +onlyGivenNames x gang kind offs
  split
  · exact .ofStop h.laneFault
  extract_lets +onlyGivenNames ps misses refused far below
  split
  · exact .ofStop h.laneFault
  · exact .ofStop h.logWarp.laneFault
  · exact .ofStop h.logWarp.laneFault
  extract_lets +onlyGivenNames away fill ps'
  split
  · exact .ofGo h
  extract_lets +onlyGivenNames s₁
  have h₁ : s₁.memForm := h.fillLines
  split
  · exact .ofGo h₁
  · exact .ofStop h₁

theorem State.memForm.opVlds {s : State} (h : s.memForm) {f} : (opVlds f s).memForm := by
  unfold Machine.opVlds
  refine h.memRun fun _ hs => ?_
  split
  · exact hs.localGot.stop ‹_›
  split
  · exact .consume (hs.localGot.go ‹_›)
  · exact .loadIssue (hs.localGot.go ‹_›)

theorem State.memForm.opVsts {s : State} (h : s.memForm) {f} : (opVsts f s).memForm := by
  unfold Machine.opVsts
  refine h.memRun fun _ hs => ?_
  split
  · exact hs.localGot.stop ‹_›
  · exact .laneLong (.foldl (hs.localGot.go ‹_›) fun _ _ ht => ht.modBlock)

theorem State.memForm.laneAtomic {s : State} (h : s.memForm) {f ret rmw n} :
    (s.laneAtomic f ret rmw n).memForm := by
  unfold State.laneAtomic
  extract_lets x pair vd accs gated flt
  split
  · exact h.laneChecks ‹_›
  refine .ite h.laneFault ?_
  extract_lets
  split
  · exact h.laneGot ‹_›
  -- the lanes on this device are performed, then those that other devices have answered are accounted for
  refine .laneLong (FstForm.foldl (.of (FstForm.foldl (.of h)
    (fun _ _ _ hs => .of (hs.noteAtomic.rmwHere rfl)) rfl)) (fun _ _ _ hs => ?_) rfl)
  split
  extract_lets old s₁ s₂
  have h₁ : s₁.memForm := .ite hs hs.noteFarVa.noteAtomic
  refine .of ?_
  unfold s₂
  split
  · exact h₁.digest
  · exact h₁

theorem State.memForm.opVatom {s : State} (h : s.memForm) {f} : (opVatom f s).memForm :=
  h.memRun fun _ hs => hs.laneAtomic

theorem State.memForm.opVcas {s : State} (h : s.memForm) {f} : (opVcas f s).memForm :=
  h.memRun fun _ hs => hs.laneAtomic

theorem State.memForm.askAgain {s : State} (h : s.memForm) {x p} : (s.askAgain x p).memForm :=
  .ite (h.foldl fun _ _ hs => .ite hs.promote hs) h

theorem State.memForm.opParkReplay {s : State} (h : s.memForm) {w which} : (opParkReplay w which s).memForm := by
  unfold Machine.opParkReplay
  extract_lets
  refine .ite h (.ite ?_ (.ite ?_ h))
  · split
    · exact .ite h.setWarp h.askAgain
    · exact h
  split
  · exact .ite h.setWarp h.setWarp.askAgain
  · exact h.setWarp

/-! ## Lane floating point -/

theorem State.memForm.floatMap {s : State} (h : s.memForm) {f regs pair val} :
    (s.floatMap f regs pair val).memForm :=
  h.laneRun fun _ hs => hs.fpEnd fun _ ht => ht.writeRegs

theorem State.memForm.floatLong {s : State} (h : s.memForm) {can f regs pair val} :
    (s.floatLong can f regs pair val).memForm :=
  h.laneRun fun _ hs => hs.fpEnd fun _ ht => ht.longRegs

theorem State.memForm.opFcmp {s : State} (h : s.memForm) {f} : (opFcmp f s).memForm :=
  h.laneRun fun _ hs => hs.fpEnd fun _ ht => ht.writeMask

theorem State.memForm.opVrot {s : State} (h : s.memForm) {f} : (opVrot f s).memForm :=
  h.laneRun fun _ hs => hs.fpEnd fun _ ht => ht.writeRegs

theorem State.memForm.opFtld {s : State} (h : s.memForm) {a} : (opFtld a s).memForm := by
  unfold Machine.opFtld
  refine .ite h (.ite h.scalarFault (.ite h.scalarFault ?_))
  split
  · exact h.recordGot ‹_›
  · exact h.setCore.scalarNext

theorem State.memForm.opFtsw {s : State} (h : s.memForm) : (opFtsw s).memForm :=
  .ite h (.ite h.setCore.scalarNext h.scalarNext)

theorem State.memForm.opVft {s : State} (h : s.memForm) {f} : (opVft f s).memForm :=
  .ite (h.laneRun fun _ hs => hs.laneFault) h.floatMap

/-! ## Scalar arithmetic -/

theorem State.memForm.aluRR {s : State} (h : s.memForm) {d a b f} : (s.aluRR d a b f).memForm :=
  .ite h h.scalarDone

theorem State.memForm.aluRI {s : State} (h : s.memForm) {d a f} : (s.aluRI d a f).memForm :=
  .ite h h.scalarDone

/-! ## Scalar control -/

theorem State.memForm.opCall {s : State} (h : s.memForm) {o} : (opCall o s).memForm :=
  .ite h h.setMe

theorem State.memForm.branchC {s : State} (h : s.memForm) {cc a b o} : (s.branchC cc a b o).memForm :=
  .ite h (.ite h.setMe h.scalarNext)

theorem State.memForm.jumpReg {s : State} (h : s.memForm) {a} : (s.jumpReg a).memForm :=
  .ite h (.ite h.scalarFault h.setMe)

theorem State.memForm.notInHandler {s : State} (h : s.memForm) {body : State} (hbody : body.memForm) :
    (s.notInHandler body).memForm :=
  .ite h.scalarFault hbody

theorem State.memForm.needPriv {s : State} (h : s.memForm) {body : State} (hbody : body.memForm) :
    (s.needPriv body).memForm :=
  .ite hbody h.scalarFault

theorem State.memForm.opLrun {s : State} (h : s.memForm) {i} : (opLrun i s).memForm := by
  unfold Machine.opLrun
  refine h.notInHandler (.ite h.scalarFault ?_)
  split
  · exact h.logFetch.scalarFault
  · exact .ite h h.setMe

theorem State.memForm.opLsync {s : State} (h : s.memForm) : (opLsync s).memForm :=
  h.notInHandler (.ite h h.scalarNext)

theorem State.memForm.opFence {s : State} (h : s.memForm) {k p} : (opFence k p s).memForm :=
  .ite h (.ite h.scalarNext (h.release h.scalarNext))

theorem State.memForm.opTrap {s : State} (h : s.memForm) {n} : (opTrap n s).memForm :=
  h.raiseScalarAt.tryDeliver

theorem State.memForm.opEret {s : State} (h : s.memForm) : (opEret s).memForm :=
  .ite h.eretWarp h.scalarFault

theorem State.memForm.opExit {s : State} (h : s.memForm) : (opExit s).memForm :=
  .ite h h.modBlock.endWarp

theorem State.memForm.srNondet {s : State} (h : s.memForm) {x r} : (s.srNondet x r).memForm :=
  .ite h.setNondet h

theorem State.memForm.opSrr {s : State} (h : s.memForm) {d r} : (opSrr d r s).memForm :=
  .ite h.scalarFault (.ite h h.srNondet.scalarDone)

theorem State.memForm.opSrw {s : State} (h : s.memForm) {a r} : (opSrw a r s).memForm :=
  .ite h.scalarFault (.ite h (.ite h.scalarFault (.ite h.scalarNext (.ite h.scalarFault h.setMe))))

/-! ## The engines' accesses and the copy engine -/

theorem State.memForm.engGot {s : State} (h : s.memForm) {e chk io va n access key data entry} :
    EngGot.memForm (s.engGot e chk io va n access key data entry) := by
  unfold State.engGot
  extract_lets +onlyGivenNames vs
  split
  · exact nofun
  · exact nofun
  extract_lets +onlyGivenNames away bad
  split
  · exact .of (h.foldl fun _ _ hs => hs.promote)
  clear_value bad
  split
  · split
    · exact nofun
    · exact .of (h.foldl fun _ _ hs => hs.reportPoison)
  extract_lets +onlyGivenNames ask
  split
  · exact .of h
  split
  · exact nofun
  split
  · exact nofun
  refine .of (FstForm.foldl (.of h) (fun _ _ _ hs => ?_) rfl)
  exact .of ((State.memForm.sendRequest (.ite hs.noteFar hs)) rfl)

theorem State.memForm.engStore {s : State} (h : s.memForm) {chk launch va bs} :
    (s.engStore chk launch va bs).memForm := by
  unfold State.engStore
  refine h.foldl fun _ _ hs => ?_
  split
  split
  · exact hs.storeAt.noteGated
  · exact hs

theorem State.memForm.opCopy {s : State} (h : s.memForm) {a c} : (opCopy a c s).memForm :=
  .ite h (.ite h.scalarFault (.ite h.scalarFault (.ite (.ite h.modBlock.scalarNext h) h.modBlock.scalarNext)))

theorem State.memForm.copyError {s : State} (h : s.memForm) {launch code cause card} :
    (s.copyError launch code cause card).memForm :=
  h.modLaunch

theorem State.memForm.modChan {s : State} (h : s.memForm) {b ch f} : (s.modChan b ch f).memForm :=
  h.modBlock

theorem State.memForm.cardFail {s : State} (h : s.memForm) {b ch code a} : (s.cardFail b ch code a).memForm :=
  .copyError (.modChan (.ite h.logViolation h))

theorem State.memForm.opChainCardRead {s : State} (h : s.memForm) {b ch} : (opChainCardRead b ch s).memForm := by
  unfold Machine.opChainCardRead
  extract_lets +onlyGivenNames q c mine
  refine .ite h ?_
  extract_lets +onlyGivenNames e got
  have hgot : got.memForm := by
    unfold got
    split
    · exact h.engGot
    · exact nofun
  clear_value got
  split
  · exact .modChan (hgot rfl)
  · exact h.cardFail
  · exact .ite h.modChan (.modChan (.update h))

theorem State.memForm.jobFail {s : State} (h : s.memForm) {k code cause addr} :
    (s.jobFail k code cause addr).memForm :=
  h.setJob.modChan

theorem State.memForm.logJob {s : State} (h : s.memForm) {k code addr access n} :
    (s.logJob k code addr access n).memForm :=
  .ite h.logViolation h

theorem State.memForm.accessFail {s : State} (h : s.memForm) {k code addr access n entry} :
    (s.accessFail k code addr access n entry).memForm :=
  .ite h.logJob.jobFail h.logJob.jobFail

theorem State.memForm.jobWait {s : State} (h : s.memForm) {k io park} : (s.jobWait k io park).memForm :=
  .ite (.update h) h.setJob

theorem State.memForm.opCopyJobStart {s : State} (h : s.memForm) {k} : (opCopyJobStart k s).memForm := by
  unfold Machine.opCopyJobStart
  refine .ite h (.ite h.setJob ?_)
  refine .ite h.jobFail ?_
  split
  · exact .jobWait (h.engGot ‹_›)
  · exact h.accessFail
  · exact .ite h.jobFail h.setJob

theorem State.memForm.chunkPins {s : State} (h : s.memForm) {k rs} : PinGot.memForm (s.chunkPins k rs) := by
  unfold State.chunkPins
  extract_lets
  split
  · exact nofun
  · exact nofun
  split
  · exact .of h.promote
  · exact nofun

theorem State.memForm.chunkRead {s : State} (h : s.memForm) {k key rs} : EngGot.memForm (s.chunkRead k key rs) := by
  induction rs generalizing key with
  | nil => exact nofun
  | cons r rest ih =>
    unfold State.chunkRead
    extract_lets j got
    have hgot : got.memForm := by
      unfold got
      split
      · exact nofun
      · exact h.engGot
    clear_value got
    split
    · split
      · exact nofun
      · exact ih
    · exact hgot

theorem State.memForm.chunkWrite {s : State} (h : s.memForm) {k local_ a bs} :
    (s.chunkWrite k local_ a bs).memForm := by
  unfold State.chunkWrite
  refine .ite h.modBlock.setJob ?_
  refine .setJob (.engStore (FstForm.foldl (.of h) (fun _ _ _ hs => ?_) rfl))
  exact .of (hs.noteFar.sendRequest rfl)

theorem State.memForm.chunkRun {s : State} (h : s.memForm) {k srcs dst n entry make bad} :
    (s.chunkRun k srcs dst n entry make bad).memForm := by
  unfold State.chunkRun
  extract_lets +onlyGivenNames j
  split
  · exact h.accessFail
  extract_lets +onlyGivenNames far
  have hpins : PinGot.memForm (if j.pin.isEmpty then s.chunkPins k far else .pins j.pin) := by
    split
    · exact h.chunkPins
    · exact nofun
  split
  · exact h.accessFail
  · exact .jobWait (hpins ‹_›)
  extract_lets +onlyGivenNames s₁
  have h₁ : s₁.memForm := h.setJob
  split
  · exact .jobWait (h₁.chunkRead ‹_›)
  · exact h₁.accessFail
  split
  · exact h₁.jobFail
  · exact h₁.chunkWrite

theorem State.memForm.jobSent {s : State} (h : s.memForm) {k id refused} : (s.jobSent k id refused).memForm := by
  unfold State.jobSent
  extract_lets
  split
  · exact h
  · exact .ite h.setJob (.ite h.setJob.jobFail h.setJob.setJob)

theorem State.memForm.elemChunk {s : State} (h : s.memForm) {k} : (s.elemChunk k).memForm := by
  unfold State.elemChunk
  extract_lets
  split
  · exact h.chunkRun
  split
  · exact h.accessFail
  refine .ite h.jobFail ?_
  split
  · exact .jobWait (h.engGot ‹_›)
  · exact h.accessFail
  · exact h.setJob.chunkRun

theorem State.memForm.expChunk {s : State} (h : s.memForm) {k} : (s.expChunk k).memForm :=
  h.chunkRun

theorem State.memForm.opCopyChunk {s : State} (h : s.memForm) {k} : (opCopyChunk k s).memForm := by
  unfold Machine.opCopyChunk
  refine .ite h ?_
  split
  · exact h.elemChunk
  · exact h.elemChunk
  · exact h.expChunk
  · exact h.chunkRun
  · exact h.chunkRun

theorem State.memForm.jobEnd {s : State} (h : s.memForm) {k reported} : (s.jobEnd k reported).memForm := by
  unfold State.jobEnd
  extract_lets j c s₁ s₂ s₃ s₄ s₅ s₆
  have h₁ : s₁.memForm := by
    unfold s₁
    split
    · exact .ite h h.copyError
    · exact h
  have h₆ : s₆.memForm := by
    unfold s₆
    refine .ite h₁ ?_
    split
    · exact .ite h₁.logViolation.copyError h₁.copyError
    · exact .ite h₁.copyError h₁.objArrive
  exact .update h₆

theorem State.memForm.ownNext {s : State} (h : s.memForm) {k} : (s.ownNext k).memForm :=
  .ite h.setJob h.jobEnd

theorem State.memForm.ownFail {s : State} (h : s.memForm) {k code a} : (s.ownFail k code a).memForm :=
  .ownNext (.ite h.logJob h.accessFail)

theorem State.memForm.opCopyJobFinish {s : State} (h : s.memForm) {k} : (opCopyJobFinish k s).memForm := by
  unfold Machine.opCopyJobFinish
  extract_lets
  refine .ite h ?_
  split
  · exact .jobWait (h.engGot ‹_›)
  · exact h.ownFail
  · exact h.engStore.ownNext

theorem State.memForm.engBump {s : State} (h : s.memForm) {e io va key} :
    EngGot.memForm (s.engBump e io va key) := by
  unfold State.engBump
  split
  · exact nofun
  · exact .of h.promote
  · split <;> exact nofun
  split
  · exact nofun
  · exact nofun
  split
  · exact .of h
  · exact .of (h.noteFar.sendRequest rfl)

theorem State.memForm.bumpHere {s : State} (h : s.memForm) {ctx launch va old} :
    (s.bumpHere ctx launch va old).memForm :=
  h.engStore

theorem State.memForm.opRingReport {s : State} (h : s.memForm) {k} : (opRingReport k s).memForm := by
  unfold Machine.opRingReport
  extract_lets
  refine .ite h (.ite (.ite h.jobEnd ?_) (.ite ?_ h))
  · split
    · exact .jobWait (h.engGot ‹_›)
    · exact h.logJob.jobEnd
    refine .ite h.jobEnd ?_
    split
    · exact .jobWait (h.engBump ‹_›)
    · exact h.logJob.jobEnd
    · exact h.bumpHere.setJob
  split
  · exact .jobWait (h.engGot ‹_›)
  · exact h.logJob.jobEnd
  refine .ite h.setJob ?_
  split
  · exact .jobWait (h.engGot ‹_›)
  · exact h.logJob.jobEnd
  split
  · exact .jobWait (h.engGot ‹_›)
  · exact h.logJob.jobEnd
  · exact h.engStore.engStore.jobEnd

theorem State.memForm.jobParkFail {s : State} (h : s.memForm) {k p} : (s.jobParkFail k p).memForm :=
  .ite h.jobEnd (.ite h.ownFail h.accessFail)

/-! ## The matrix engine -/

theorem State.memForm.debit {s : State} (h : s.memForm) {die ctx units} : (s.debit die ctx units).memForm :=
  h.setDie

theorem State.memForm.charged {s : State} (h : s.memForm) {units} {body : State → State}
    (hbody : ∀ t, t.memForm → (body t).memForm) : (s.charged units body).memForm :=
  .ite h (hbody _ h.debit)

theorem State.memForm.opEnergyRefill {s : State} (h : s.memForm) {die} : (opEnergyRefill die s).memForm :=
  .ite h h.setDie

theorem State.memForm.matrixRun {s : State} (h : s.memForm) {f least d srcs flt body} :
    (s.matrixRun f least d srcs flt body).memForm :=
  h.laneRun fun _ hs => hs.charged fun _ ht => .ite ht.laneFault (ht.fpEnd fun _ hu => hu.laneLong)

theorem State.memForm.enterLoop {s : State} (h : s.memForm) {w addr card word} :
    FstForm (s.enterLoop w addr card word) :=
  .of (.setWarp (.update h))

theorem State.memForm.opMloop {s : State} (h : s.memForm) {a} : (opMloop a s).memForm := by
  unfold Machine.opMloop
  extract_lets
  refine .ite h (.ite h.scalarFault ?_)
  split
  · exact h.recordGot ‹_›
  refine .ite h.scalarFault ?_
  split
  · exact h.scalarFault
  split
  · exact h.scalarFault
  split
  · exact h.scalarFault
  split
  · exact h.logWarp.scalarFault
  · exact .ite h (.setMe (h.enterLoop rfl))

theorem State.memForm.loopBack {s : State} (h : s.memForm) {k} : EngGot.memForm (s.loopBack k) := by
  unfold State.loopBack
  extract_lets
  split
  · split
    · exact .of h.engStore.engStore
    · exact h.engGot
  · exact h.engGot

theorem State.memForm.loopArrive {s : State} (h : s.memForm) {k} : (s.loopArrive k).memForm := by
  unfold State.loopArrive
  extract_lets
  refine .ite h ?_
  split
  · exact .copyError (.ite h.logViolation h)
  · exact .ite h.copyError h.objArrive

theorem State.memForm.loopEnd {s : State} (h : s.memForm) {k} : (s.loopEnd k).memForm := by
  unfold State.loopEnd
  extract_lets
  split
  · exact .ite (.update h) (.ite (.tryDeliver (.raiseScalarAt (.setWarp (.update h)))) (.update h.setWarp))
  · exact .update (.ite h.loopArrive.setWarp h.loopArrive)

theorem State.memForm.loopClose {s : State} (h : s.memForm) {k} : (s.loopClose k).memForm := by
  unfold State.loopClose
  split
  · exact .ite (.setJob (h.loopBack ‹_›)) (.jobWait (h.loopBack ‹_›))
  · exact .jobWait (h.loopBack ‹_›)
  · exact h.logJob.copyError.setJob
  · exact h

theorem State.memForm.opMloopStep {s : State} (h : s.memForm) {k} : (opMloopStep k s).memForm := by
  unfold Machine.opMloopStep
  extract_lets
  refine .ite h (.ite h.setJob (.ite (.ite h.setJob.modWarp h.loopEnd) (.ite h.loopClose (.ite h.setJob.loopClose ?_))))
  split
  · exact h.consume
  · exact .ite h (.ite h.setWarp (.ite h.debit.setWarp.setJob h.debit.setWarp.setJob.setWarp))

/-! ## Sequences -/

theorem State.memForm.setSeq {s : State} (h : s.memForm) {k q} : (s.setSeq k q).memForm :=
  h.setCore

theorem State.memForm.slotRun {s : State} (h : s.memForm) {k regs} {body : Seq → State}
    (hbody : ∀ a, (body a).memForm) : (s.slotRun k regs body).memForm :=
  .ite h (.ite h.scalarFault (.ite h (hbody _)))

theorem State.memForm.opKseqLd {s : State} (h : s.memForm) {k a} : (opKseqLd k a s).memForm := by
  unfold Machine.opKseqLd
  refine .ite h (.ite h.scalarFault (.ite h (.ite h.scalarFault ?_)))
  split
  · exact h.recordGot ‹_›
  · exact .ite h.scalarFault h.setSeq.scalarNext

theorem State.memForm.opKseqSt {s : State} (h : s.memForm) {k a} : (opKseqSt k a s).memForm := by
  unfold Machine.opKseqSt
  refine h.slotRun fun _ => ?_
  refine .ite h.scalarFault ?_
  split
  · exact h.recordGot ‹_›
  split
  · exact h.recordGot ‹_›
  · exact h.writeVa.writeVa.scalarNext

theorem State.memForm.homeStore {s : State} (h : s.memForm) {core q asker} :
    FstForm (s.homeStore core q asker) := by
  unfold State.homeStore
  extract_lets
  split
  · exact .of h.writeVa.writeVa
  · exact .of h.promote
  · exact .of h.sendWrite.sendWrite
  · exact .of (.ite h.logViolation h)

theorem State.memForm.unloadSlots {s : State} (h : s.memForm) {core mine drop asker} :
    (s.unloadSlots core mine drop asker).memForm :=
  h.foldl fun t _ ht =>
    have hstore {q} : FstForm (if drop then (t, true) else t.homeStore core q asker) := .ite (.of ht) ht.homeStore
    .ite ht (.ite (.setCore (hstore rfl)) (hstore rfl))

theorem State.memForm.opKlenCommit {s : State} (h : s.memForm) {k a} : (opKlenCommit k a s).memForm :=
  h.slotRun fun _ => h.setSeq.scalarNext

theorem State.memForm.opKlenReject {s : State} (h : s.memForm) {k} : (opKlenReject k s).memForm :=
  h.slotRun fun _ => .scalarNext (.ite h.setSeq h)

theorem State.memForm.walkLook {s t : State} (h : s.memForm) {lane room c va n d}
    (e : s.walkLook lane room c va n = (.stop t, d)) : t.memForm := by
  unfold State.walkLook at e
  split at e
  · cases e
  · exact h.look (Prod.mk.inj e).1

theorem State.memForm.listGot {s : State} (h : s.memForm) {lane room c ptr n} :
    FormOf ListGot.stop (s.listGot lane room c ptr n) := by
  unfold State.listGot
  refine List.foldlRecOn _ _ (motive := FormOf ListGot.stop) nofun fun acc hacc i _ => ?_
  split
  · split
    · exact .of (h.walkLook (Prod.ext ‹_› rfl))
    · exact nofun
    split <;> exact nofun
  · exact hacc

theorem State.memForm.resolveAt {s t : State} (h : s.memForm) {lane room bslog fuel c node p d}
    (e : s.resolveAt lane room bslog fuel c node p = (.stop t, d)) : t.memForm := by
  induction fuel generalizing c node p with
  | zero => cases e
  | succ n ih =>
    unfold State.resolveAt at e
    split at e
    · cases e
      exact h.walkLook ‹_›
    · cases e
    split at e
    · cases e
    extract_lets q at e
    split at e
    · exact ih e
    split at e
    · cases e
      exact h.walkLook ‹_›
    · cases e
    split at e
    · cases e
      exact h.listGot ‹_›
    · cases e
    cases e

theorem State.memForm.runsAt {s : State} (h : s.memForm) {lane room bslog fuel c node pos span} :
    FormOf Listed.stop (s.runsAt lane room bslog fuel c node pos span) := by
  induction fuel generalizing c node pos span with
  | zero => exact nofun
  | succ n ih =>
    unfold State.runsAt
    split
    · exact .of (h.walkLook ‹_›)
    · exact nofun
    refine List.foldlRecOn _ _ (motive := FormOf Listed.stop) nofun fun acc hacc e _ => ?_
    split
    · exact hacc
    split
    · exact nofun
    extract_lets
    split
    · exact nofun
    split
    · exact .of (ih ‹_›)
    · exact nofun

theorem State.memForm.soundRuns {s : State} (h : s.memForm) {lane room c runs} :
    FormOf Listed.stop (s.soundRuns lane room c runs) := by
  unfold State.soundRuns
  refine List.foldlRecOn _ _ (motive := FormOf Listed.stop) nofun fun acc hacc r _ => ?_
  split
  · exact hacc
  split
  · exact .of (h.listGot ‹_›)
  · exact nofun
  · exact nofun

theorem State.memForm.blocksBelow {s : State} (h : s.memForm) {lane k q limit} :
    FormOf Listed.stop (s.blocksBelow lane k q limit) := by
  unfold State.blocksBelow
  extract_lets room runs
  have hruns : FormOf Listed.stop runs := by
    unfold runs
    split
    · exact .of (h.runsAt ‹_›)
    · exact h.soundRuns
  clear_value runs
  split
  · exact .of (hruns rfl)
  extract_lets
  refine List.foldlRecOn _ _ (motive := FormOf Listed.stop) nofun fun acc hacc x _ => ?_
  split
  split
  · exact hacc
  split
  · exact .of (h.walkLook ‹_›)
  · exact nofun
  split <;> exact nofun

theorem State.memForm.walked {s : State} (h : s.memForm) {k c} : (s.walked k c).memForm :=
  .update h.setSeq

theorem State.memForm.frameStore {s : State} (h : s.memForm) {pa bs} : (s.frameStore pa bs).memForm :=
  .noteGated (.watchStore (.setMem h (writeBytes_wf _ _ _ h.1)))

theorem State.memForm.frameGot {s : State} (h : s.memForm) {r q frame values fmt} :
    FormOf FrameGot.stop (s.frameGot r q frame values fmt) := by
  unfold State.frameGot
  extract_lets n vn
  split
  · exact nofun
  split
  · extract_lets size
    split
    · split
      · exact .of h.parkAs
      split
      · exact .of h.parkAs
      · exact nofun
    split
    · exact .of h.parkAs
    split
    · exact .of h.parkAs
    · exact nofun
  · exact .of h.parkAs

theorem State.memForm.kappTarget {s : State} (h : s.memForm) {room q c p} :
    FormOf FrameGot.stop (s.kappTarget room q c p).1.1 := by
  unfold State.kappTarget
  split
  · exact .of (h.resolveAt ‹_›)
  · exact nofun
  · exact nofun
  split
  · split
    · exact nofun
    split
    · split
      · exact .of h.parkLane
      · exact nofun
    · exact nofun
  · split <;> exact nofun
  · exact h.frameGot

theorem State.memForm.kappTargets {s : State} (h : s.memForm) {k q base lanes} :
    FormOf Targets.stop (s.kappTargets k q base lanes) := by
  unfold State.kappTargets
  extract_lets
  split
  next gs c hgs =>
    have hall : ∀ e ∈ gs, FormOf FrameGot.stop e.2.1 := by
      rw [show gs = _ from (congrArg Prod.fst hgs).symm]
      refine List.foldlRecOn _ _ (by simp)
        (motive := fun (acc : List (Nat × FrameGot × W64 × Nat) × List (Nat × W64)) =>
          ∀ e ∈ acc.1, FormOf FrameGot.stop e.2.1)
        fun acc hacc x _ e he => ?_
      rcases List.mem_append.1 he with he | he
      · exact hacc e he
      · obtain rfl := List.mem_singleton.1 he
        exact h.kappTarget
    split
    next t ht =>
      obtain ⟨e, he, hf⟩ := List.exists_of_findSome?_eq_some ht
      split at hf
      · cases hf
        exact .of (hall e he ‹_›)
      · cases hf
    split <;> exact nofun

theorem State.memForm.kappLane {s : State} (h : s.memForm) {f q pa value row l} :
    (s.kappLane f q pa value row l).memForm :=
  .foldl (h.frameStore.frameStore.foldl fun _ _ hs => hs.frameStore) fun _ _ hs => hs.engStore

theorem State.memForm.kappRows {s : State} (h : s.memForm) {f k q base ts} :
    (s.kappRows f k q base ts).memForm :=
  .ite h.setMyPath (.laneLong (h.foldl fun _ _ hs => hs.kappLane))

theorem State.memForm.opKapp {s : State} (h : s.memForm) {f} : (opKapp f s).memForm := by
  unfold Machine.opKapp
  extract_lets
  split
  · split
    · exact h.kappRows
    · exact h
  refine h.memRun fun _ hs => .ite hs.markRet (.ite hs.laneFault (.ite hs.laneFault (.ite hs.laneFault ?_)))
  refine .ite hs.laneFault ?_
  split
  · exact hs.kappTargets ‹_›
  · exact hs.badAs
  · exact hs.charged fun _ ht => ht.setSeq.walked.setMe.kappRows

theorem State.memForm.maintain {s : State} (h : s.memForm) {q e b pa fmt} :
    (s.maintain q e b pa fmt).memForm := by
  unfold State.maintain
  extract_lets n base new rows out m start r fin s₁
  have h₁ : s₁.memForm := by
    unfold s₁
    split
    · exact h
    · exact h.foldl fun _ _ hs => hs.foldl fun _ _ ht => ht.frameStore
  exact h₁.frameStore.frameStore

theorem State.memForm.todoBlocks {s : State} (h : s.memForm) {q e bs} :
    FormOf Todo.stop (s.todoBlocks q e bs) := by
  unfold State.todoBlocks
  refine List.foldlRecOn _ _ (motive := FormOf Todo.stop) nofun fun acc hacc b _ => ?_
  split
  · split
    · exact .of (h.frameGot ‹_›)
    · exact nofun
    extract_lets
    split <;> exact nofun
  · exact hacc

theorem State.memForm.maintainRun {s : State} (h : s.memForm) {k q range e} :
    (s.maintainRun k q range e).memForm := by
  unfold State.maintainRun
  extract_lets first count done
  split
  · exact h.blocksBelow ‹_›
  extract_lets ended
  split
  · exact h.todoBlocks ‹_›
  · exact .scalarFault (.ite h (.walked (.ite h.setMe h.setMe.setSeq)))
  extract_lets now n s₁
  have h₁ : s₁.memForm := h.foldl fun _ _ hs => hs.maintain
  refine .ite (.ite h₁ h₁.setMe) ?_
  split
  · exact .faultAs (.logWarp (.walked (.ite h₁.setMe h₁.setMe.setSeq)))
  · exact .scalarNext (.walked (.ite h₁.setMe h₁.setMe.setSeq))

theorem State.memForm.opKrot {s : State} (h : s.memForm) {k a b} : (opKrot k a b s).memForm := by
  unfold Machine.opKrot
  refine h.slotRun fun _ => .ite h.scalarFault ?_
  split
  · exact h.recordGot ‹_›
  · exact h.maintainRun

theorem State.memForm.opKreq {s : State} (h : s.memForm) {k a b} : (opKreq k a b s).memForm :=
  h.slotRun fun _ => .ite h.scalarFault h.maintainRun

theorem State.memForm.opKsum {s : State} (h : s.memForm) {k a} : (opKsum k a s).memForm :=
  h.slotRun fun _ => .ite h.scalarFault h.maintainRun

/-! ## ATTB -/

theorem State.memForm.unresolved {s : State} (h : s.memForm) {room q ps c} :
    FormOf Except.error (s.unresolved room q ps c) := by
  unfold State.unresolved
  refine List.foldlRecOn _ _ (motive := FormOf Except.error) nofun fun acc hacc p _ => ?_
  cases acc with
  | error t => exact hacc
  | ok a =>
    simp only [Except.bind]
    split
    · exact .of (h.resolveAt ‹_›)
    · exact nofun
    · exact nofun
    · exact nofun

theorem State.memForm.candidates {s : State} (h : s.memForm) {f k q len} :
    FormOf CandGot.stop (s.candidates f k q len) := by
  unfold State.candidates
  extract_lets +onlyGivenNames iv
  split
  · exact .of (h.blocksBelow ‹_›)
  extract_lets +onlyGivenNames known
  split
  · exact .of (h.unresolved ‹_›)
  extract_lets +onlyGivenNames cs gs
  split
  · refine .of (FormOf.findSome? (fun g hg => ?_) ‹_›)
    have hf : FormOf FrameGot.stop g.2.2.2 := by
      obtain ⟨_, _, rfl⟩ := List.mem_map.1 hg
      exact h.frameGot
    split
    · exact .of (hf ‹_›)
    · exact nofun
  extract_lets +onlyGivenNames many
  split <;> exact nofun

theorem State.memForm.attbIssue {s : State} (h : s.memForm) {o again} : (s.attbIssue o again).memForm :=
  .ite h.setMe h.laneLong

theorem State.memForm.attbRun {s : State} (h : s.memForm) {f resume again left} :
    (s.attbRun f resume again left).memForm := by
  unfold State.attbRun
  extract_lets k q mine grp src
  refine h.memRun fun _ hs => .ite hs.markRet (.ite hs.laneFault (.ite hs ?_))
  extract_lets x cursor now len gen
  split
  · exact hs.candidates ‹_›
  · exact hs.badAs
  · exact hs.charged fun _ ht => .ite ht.walked.attbIssue (.attbIssue (.update ht.walked))

theorem State.memForm.opAttbReissue {s : State} (h : s.memForm) {w p} : (opAttbReissue w p s).memForm := by
  unfold Machine.opAttbReissue
  extract_lets x q held
  refine .ite h ?_
  split
  · exact h.laneWords ‹_›
  · exact h.laneFetchFault
  extract_lets s₁
  have h₁ : s₁.memForm := .update h
  split
  · exact h₁.attbRun
  · exact h₁.attbRun
  · exact h₁.laneFault

theorem State.memForm.attbComplete {s : State} (h : s.memForm) {w p k j a} :
    (s.attbComplete w p k j a).memForm := by
  unfold State.attbComplete
  extract_lets
  split
  · exact h.setWarp
  refine .ite (.ite h h.debit.setWarp) ?_
  split
  · refine .setWarp ?_
    split
    · exact h.foldl fun _ _ hs => hs.promote
    · exact h.foldl fun _ _ hs => hs.reportPoison
  · exact h.setWarp

theorem State.memForm.opLaneLongCompletion {s : State} (h : s.memForm) {w p k} :
    (opLaneLongCompletion w p k s).memForm := by
  unfold Machine.opLaneLongCompletion
  extract_lets
  split
  · refine .ite h ?_
    split
    · exact h.attbComplete
    · exact h.setWarp
  · exact h

/-! ## Scalar memory accesses -/

theorem State.memForm.scalarLoad {s : State} (h : s.memForm) {d b z space ea} :
    (s.scalarLoad d b z space ea).memForm := by
  unfold State.scalarLoad
  refine .ite h (.ite h.scalarFault ?_)
  split
  · exact h.logWarp.scalarFault
  · exact h.scalarDone
  split
  · exact h.scalarGot ‹_›
  · exact h.scalarDone
  · exact h.scalarDone

theorem State.memForm.scalarStore {s : State} (h : s.memForm) {v b z space ea} :
    (s.scalarStore v b z space ea).memForm := by
  unfold State.scalarStore
  refine .ite h (.ite h.scalarFault ?_)
  split
  · exact h.logWarp.scalarFault
  · exact .ite h.logWarp.scalarFault h.modBlock.scalarNext
  split
  · exact h.scalarGot ‹_›
  · exact h.warpStore.digest.scalarNext
  · exact h.noteFarVa.digest.scalarNext

theorem State.memForm.opSatom {s : State} (h : s.memForm) {d a b op p} : (opSatom d a b op p s).memForm := by
  unfold Machine.opSatom
  extract_lets +onlyGivenNames x va r
  split
  · exact h.scalarDone
  · exact h
  extract_lets +onlyGivenNames isIo
  refine .ite h (.ite h.scalarFault (.ite h.scalarFault ?_))
  extract_lets +onlyGivenNames passed
  split
  · exact h.scalarGot ‹_›
  · extract_lets +onlyGivenNames old s₁ s₂
    have h₁ : s₁.memForm := .ite h h.noteFarVa.noteAtomic
    have h₂ : s₂.memForm := by
      unfold s₂
      split
      · exact h₁.digest
      · exact h₁
    exact h₂.scalarDone
  split
  · exact h.setMe
  · exact .scalarDone (h.noteAtomic.rmwHere rfl)

/-! ## Fault delivery and mirrors -/

theorem State.memForm.opFaultDelivery {s : State} (h : s.memForm) {w} : (opFaultDelivery w s).memForm := by
  unfold Machine.opFaultDelivery
  split
  · exact h
  · exact .ite h h.setWarp.deliverFault

theorem State.memForm.opIllegalOp {s : State} (h : s.memForm) {w lane w0 w1 w2} :
    (opIllegalOp w lane w0 w1 w2 s).memForm :=
  .ite h (.ite (.laneFault (.update h)) (.scalarFault (.update h)))

theorem State.memForm.opStreamUrgent {s : State} (h : s.memForm) {w lane} :
    (opStreamUrgent w lane s).memForm := by
  unfold Machine.opStreamUrgent
  split
  · exact h
  split
  · exact h
  · exact .ite h h.setWarp

theorem State.memForm.killPair {s : State} (h : s.memForm) {w code syndrome} :
    (s.killPair w code syndrome).memForm :=
  h.bankError.haltWarp

theorem State.memForm.opMirrorCompare {s : State} (h : s.memForm) {w lane words operands} :
    (opMirrorCompare w lane words operands s).memForm := by
  unfold Machine.opMirrorCompare
  split
  · exact h
  split
  · exact h
  extract_lets which
  clear_value which
  split
  · exact h
  extract_lets onLane lag
  refine .ite h ?_
  split
  · exact h
  · exact .ite h.setWarp h.killPair

/-! ## The tier engines -/

theorem State.memForm.setPte {s : State} (h : s.memForm) {at_ p} : (s.setPte at_ p).memForm :=
  .setMem h (writeBytes_wf _ _ _ h.1)

theorem State.memForm.setBit {s : State} (h : s.memForm) {ctx va at_ f} : (s.setBit ctx va at_ f).memForm :=
  .update h.setPte

theorem State.memForm.farAsk {s : State} (h : s.memForm) {owner ctx va fa} :
    (s.farAsk owner ctx va fa).memForm :=
  .ite h (.update (h.sendRequest rfl))

theorem State.memForm.farUsed {s : State} (h : s.memForm) {ctx} : (s.farUsed ctx).memForm :=
  .update h

theorem State.memForm.fetchUnit {s : State} (h : s.memForm) {ctx va die launch} :
    (s.fetchUnit ctx va die launch).memForm := by
  unfold State.fetchUnit
  split
  · exact h.farAsk
  · exact h.promote

theorem State.memForm.holdTable {s : State} (h : s.memForm) {lid die kind va} :
    (s.holdTable lid die kind va).memForm := by
  unfold State.holdTable
  split
  · exact h.reportPoison
  · exact h.fetchUnit

theorem State.memForm.logTier {s : State} (h : s.memForm) {die ctx va code access n} :
    (s.logTier die ctx va code access n).memForm :=
  .ite h.logViolation h

theorem State.memForm.endEntry {s : State} (h : s.memForm) {lid i state code} :
    (s.endEntry lid i state code).memForm := by
  unfold State.endEntry
  extract_lets +onlyGivenNames l e va
  split
  · exact h.modLaunch.promote
  extract_lets +onlyGivenNames st s₁
  have h₁ : s₁.memForm := h.modLaunch
  split
  · exact h₁.logTier
  · exact h₁.sendWrite
  · exact h₁.writeVa

theorem State.memForm.addMove {s : State} (h : s.memForm) {m} : (s.addMove m).memForm :=
  .update h

theorem State.memForm.opTimetableEntryStart {s : State} (h : s.memForm) {lid i} :
    (opTimetableEntryStart lid i s).memForm := by
  unfold Machine.opTimetableEntryStart
  split
  · exact h
  refine .ite h ?_
  split
  · exact h
  split
  · exact h.holdTable
  · exact h.logTier.endEntry.farUsed
  · exact .ite h.endEntry.farUsed (.ite h h.modLaunch.addMove.farUsed)

theorem State.memForm.startEntries {s : State} (h : s.memForm) {lid} : (s.startEntries lid).memForm :=
  h.foldl fun _ _ hs => hs.opTimetableEntryStart

theorem State.memForm.logEntries {s : State} (h : s.memForm) {lid bad} : (s.logEntries lid bad).memForm :=
  h.foldl fun _ _ hs => hs.logTier

theorem State.memForm.holdMark {s : State} (h : s.memForm) {lid kind va} : (s.holdMark lid kind va).memForm := by
  unfold State.holdMark
  split
  · exact h.reportPoison
  · exact h.holdTable

theorem State.memForm.opPmark {s : State} (h : s.memForm) {n} : (opPmark n s).memForm := by
  unfold Machine.opPmark
  extract_lets lid s₁
  have h₁ : s₁.memForm := h.modLaunch.startEntries
  split
  · exact h₁.holdMark
  · exact h₁.logEntries.scalarNext
  · exact .ite h₁.logEntries.modLaunch.scalarFault h₁.logEntries.modLaunch.setMe

theorem State.memForm.opTreq {s : State} (h : s.memForm) {f} : (opTreq f s).memForm := by
  unfold Machine.opTreq
  extract_lets +onlyGivenNames k
  refine h.laneRun fun _ hs => ?_
  extract_lets +onlyGivenNames x lanes accs
  split
  · exact hs.laneChecks ‹_›
  extract_lets +onlyGivenNames remote
  split
  · exact hs.laneFault
  · exact .ite hs.laneLong hs.parkLane

theorem State.memForm.dropPoison {s : State} (h : s.memForm) {pa n} : (s.dropPoison pa n).memForm :=
  .update h

theorem State.memForm.freeFrames {s : State} (h : s.memForm) {addr tier n die} :
    (s.freeFrames addr tier n die).memForm :=
  .foldl (.update h.dropPoison) fun _ _ hs => hs.setDie

theorem State.memForm.setBacking {s : State} (h : s.memForm) {b} : (s.setBacking b).memForm :=
  .update h

theorem State.memForm.putTags {s : State} (h : s.memForm) {die addr ts} : FormOf some (s.putTags die addr ts) := by
  unfold State.putTags
  split
  · exact .of h.setDie
  extract_lets
  split
  · exact .of h.setDie
  · exact nofun

theorem State.memForm.failParks {s : State} (h : s.memForm) {ctx va} : (s.failParks ctx va).memForm := by
  unfold State.failParks
  extract_lets on mine lane scalar s₁ parked s₂
  have hlane {w p t} (ht : t.memForm) : (lane w p t).memForm := by
    unfold lane
    refine .ite ht ?_
    extract_lets
    split
    · split
      · exact .laneFault (.update ht)
      · exact ht
    · exact ht
  have hscalar {w t} (ht : t.memForm) : (scalar w t).memForm := by
    unfold scalar
    refine .ite ht ?_
    extract_lets
    split
    · split
      · exact .scalarFault (.update ht)
      · exact ht
    · exact ht
  have h₁ : s₁.memForm := h.foldl fun _ _ ht => hlane (hlane (hscalar ht))
  have h₂ : s₂.memForm := h₁.foldl fun _ _ ht => ht.jobParkFail
  exact h₂.foldl fun _ _ ht => ht.foldl fun _ _ hu => hu.cardFail

theorem State.memForm.keepMove {s : State} (h : s.memForm) {id m} : (s.keepMove id m).memForm :=
  .update h

theorem State.memForm.pageDone {s : State} (h : s.memForm) {id m skip} : (s.pageDone id m skip).memForm := by
  unfold State.pageDone
  extract_lets s₁
  have h₁ : s₁.memForm := .update h
  split
  · exact h₁
  · exact .ite h₁.modLaunch.addMove (.ite h₁.modLaunch.endEntry h₁.modLaunch.endEntry.keepMove)

theorem State.memForm.moveFailsWith {s : State} (h : s.memForm) {id m code} :
    (s.moveFailsWith id m code).memForm := by
  unfold State.moveFailsWith
  extract_lets s₁ here other s₂
  have h₁ : s₁.memForm := .update h
  have h₂ : s₂.memForm := .ite h₁.failParks h₁
  split
  · exact h₂
  · exact .ite h₂.endEntry h₂.endEntry.keepMove

theorem State.memForm.moveFails {s : State} (h : s.memForm) {id m} : (s.moveFails id m).memForm :=
  h.moveFailsWith

theorem State.memForm.moveStart {s : State} (h : s.memForm) {id m} : (s.moveStart id m).memForm := by
  unfold State.moveStart
  split
  · exact h.moveFails
  extract_lets tier s₁
  have h₁ : s₁.memForm := .ite h (.update h)
  refine .ite h.moveFails ?_
  split
  · exact .ite h.pageDone h₁
  · exact h.setBit.pageDone
  · exact h.setBit.pageDone
  · exact .ite h.pageDone (.ite h.pageDone h₁)

theorem State.memForm.noteLanding {s : State} (h : s.memForm) {m retries bad} :
    (s.noteLanding m retries bad).memForm := by
  unfold State.noteLanding
  extract_lets s₁ requester new
  have h₁ : s₁.memForm := by
    unfold s₁
    split
    · exact h.modLaunch
    · exact .ite h h.modLaunch
  exact .update h₁

theorem State.memForm.moveIn {s : State} (h : s.memForm) {id m at_ d1 d2} :
    (s.moveIn id m at_ d1 d2).memForm := by
  unfold State.moveIn
  extract_lets p n fromHost place old
  split
  · exact h
  extract_lets frame s₁ s₂ tags landed bytes retries bad moved poison wasClean s₃ s₄ s₅
  have h₁ : s₁.memForm := h.setDie
  have h₂ : s₂.memForm := h₁.dropPoison
  have h₃ : s₃.memForm := .setMem h₂ (writeBytes_wf _ _ _ h₂.1)
  have h₄ : s₄.memForm := .ite h₃.setBacking h₃.freeFrames
  have h₅ : s₅.memForm := h₄.setPte
  exact h₅.noteLanding.pageDone

theorem State.memForm.moveOut {s : State} (h : s.memForm) {id m at_} : (s.moveOut id m at_).memForm := by
  unfold State.moveOut
  extract_lets +onlyGivenNames p n old b written dropped place s₁ s₂
  have h₂ : s₂.memForm := .setBacking (.update h)
  refine .ite h₂.setPte.pageDone (.ite h₂.freeFrames.setPte.pageDone ?_)
  extract_lets +onlyGivenNames bytes tag inside s₃
  have h₃ : s₃.memForm := .ite h₂ (.setHost h₂ (writeBytes_wf _ _ _ h₂.2))
  refine .pageDone (.setPte (.freeFrames ?_))
  split
  · exact h₃.putTags ‹_›
  · exact h₃.modLaunch

theorem State.memForm.moveDrop {s : State} (h : s.memForm) {id m at_} : (s.moveDrop id m at_).memForm :=
  .pageDone (.setPte (.ite (.setBacking (.update h)) (.freeFrames (.setBacking (.update h)))))

theorem State.memForm.peerSend {s : State} (h : s.memForm) {id m addr pass ks data} :
    (s.peerSend id m addr pass ks data).memForm :=
  .update (FstForm.foldl (.of h) (fun _ _ _ hs => .of (hs.sendRequest rfl)) rfl)

theorem State.memForm.peerWaits {s : State} (h : s.memForm) {id m d1} : FormOf some (s.peerWaits id m d1) := by
  unfold State.peerWaits
  extract_lets
  split
  · split
    · exact .of (.peerSend (.update h.setBacking))
    · exact .of h.peerSend
  split
  · exact .of h
  split
  · exact .of h.moveFailsWith
  split
  · exact nofun
  split
  · exact nofun
  · exact .of h.peerSend

theorem State.memForm.moveFinish {s : State} (h : s.memForm) {id m d1 d2} :
    (s.moveFinish id m d1 d2).memForm := by
  unfold State.moveFinish
  have hbacking : FormOf some (if s.needsBacking m && s.backingPlace m != 0 then s.peerWaits id m d1 else none) :=
    .ite h.peerWaits (by exact nofun)
  refine .ite h ?_
  split
  · exact h.moveFails
  refine .ite h.moveFails ?_
  split
  · exact hbacking ‹_›
  split
  · exact h.moveIn
  · exact .ite h.moveIn h.moveOut
  · exact h.moveDrop

theorem State.memForm.opPageMove {s : State} (h : s.memForm) {id damage1 damage2} :
    (opPageMove id damage1 damage2 s).memForm := by
  unfold Machine.opPageMove
  split
  · exact h
  extract_lets closing
  clear_value closing
  split
  · exact .ite (.update h.endEntry) h.endEntry
  · exact .ite h (.ite h.moveFinish h.moveStart)

theorem State.memForm.clearPins {s : State} (h : s.memForm) {lid} : (s.clearPins lid).memForm := by
  unfold State.clearPins
  refine h.foldl fun _ _ hs => hs.foldl fun _ _ ht => ?_
  split
  · exact .ite ht ht.setBit
  · exact ht

theorem State.memForm.resetMoves {s : State} (h : s.memForm) {ctx} : (s.resetMoves ctx).memForm :=
  .foldl (.update h) fun _ _ hs => hs.foldl fun _ _ ht => .ite ht.endEntry ht.endEntry.addMove

/-! ## The stamp units -/

theorem State.memForm.opClk {s : State} (h : s.memForm) {d} : (opClk d s).memForm :=
  .ite h h.setMe.setNondet

theorem State.memForm.opCwait {s : State} (h : s.memForm) {a} : (opCwait a s).memForm :=
  .ite h (.ite h.scalarFault (.ite h.scalarNext h.setMe))

theorem State.memForm.opCwaitReturn {s : State} (h : s.memForm) {w} : (opCwaitReturn w s).memForm := by
  unfold Machine.opCwaitReturn
  extract_lets
  split
  · exact .ite h.setWarp h
  · exact h

theorem State.memForm.putLine {s : State} (h : s.memForm) {pa old new} : (s.putLine pa old new).memForm :=
  .ite (.setMem h (writeBytes_wf _ _ _ h.1)) (.storeAt (.setMem h (writeBytes_wf _ _ _ h.1)))

theorem State.memForm.stampChecks {s : State} (h : s.memForm) {accs access t} :
    FormOf some (s.stampChecks accs access t) := by
  unfold State.stampChecks
  split
  · exact .of (h.laneChecks ‹_›)
  extract_lets
  split
  · exact .of h.laneFault
  split
  · exact .of h.laneFault
  · exact nofun

theorem State.memForm.noteWide {s : State} (h : s.memForm) {die} : (s.noteWide die).memForm := by
  unfold State.noteWide
  split
  · exact h
  · exact .ite h (.ite h.setDie.bankError h.setDie)

theorem State.memForm.joinQueue {s : State} (h : s.memForm) {die w p} : (s.joinQueue die w p).memForm := by
  unfold State.joinQueue
  extract_lets
  split
  · exact h
  · exact .ite h h.setDie.setWarp

theorem State.memForm.opVstc {s : State} (h : s.memForm) {f} : (opVstc f s).memForm := by
  unfold Machine.opVstc
  refine h.memRun fun _ hs => ?_
  extract_lets
  split
  · exact hs.stampChecks ‹_›
  split
  · exact hs.laneGot ‹_›
  · exact .ite hs.laneLong hs.setDie.noteWide.laneLong

theorem State.memForm.opVlda {s : State} (h : s.memForm) {f} : (opVlda f s).memForm := by
  unfold Machine.opVlda
  extract_lets m
  refine h.memRun fun _ hs => ?_
  extract_lets x t accs
  split
  · exact hs.stampChecks ‹_›
  split
  · exact hs.laneGot ‹_›
  · exact hs.laneLong

theorem State.memForm.opAsOfWaitEnd {s : State} (h : s.memForm) {w p k} : (opAsOfWaitEnd w p k s).memForm := by
  unfold Machine.opAsOfWaitEnd
  extract_lets +onlyGivenNames x q b l
  split
  · exact h
  split
  · exact h
  refine .ite h ?_
  extract_lets +onlyGivenNames place j' left j'' s₁
  have h₁ : s₁.memForm := h.setWarp
  refine h₁.foldl fun _ _ ht => ?_
  split
  · exact ht.reportPoison
  · exact ht

theorem State.memForm.opStampedCommit {s : State} (h : s.memForm) {die} : (opStampedCommit die s).memForm := by
  unfold Machine.opStampedCommit
  split
  · exact h
  split
  · exact h
  refine .ite h ?_
  extract_lets s₁ old s₂ term s₃
  have h₁ : s₁.memForm := h.setDie
  have h₂ : s₂.memForm := h₁.putLine.noteGated
  have h₃ : s₃.memForm := .ite h₂.modBlock (.ite h₂ h₂.modLaunch)
  exact .noteWide (h₃.foldl fun _ _ hv => hv.joinQueue.joinQueue)

theorem State.memForm.opDieWide {s : State} (h : s.memForm) {die} : (opDieWide die s).memForm :=
  h.noteWide

theorem State.memForm.opSyncSend {s : State} (h : s.memForm) {die link} : (opSyncSend die link s).memForm := by
  unfold Machine.opSyncSend
  split
  · exact h
  · exact .ite h (.ite h.setDie.setDie (.update h.setDie))

theorem State.memForm.opSyncReceive {s : State} (h : s.memForm) {die drift} :
    (opSyncReceive die drift s).memForm := by
  unfold Machine.opSyncReceive
  split
  · exact h
  split
  · exact h
  extract_lets
  split
  · exact h.setDie.bankError
  · exact .ite h.setDie.bankError.setDie.noteWide h.setDie.noteWide

/-! ## The fabric -/

theorem State.memForm.setLink {s : State} (h : s.memForm) {l x} : (s.setLink l x).memForm :=
  .update h

theorem State.memForm.setRouter {s : State} (h : s.memForm) {r x} : (s.setRouter r x).memForm :=
  .update h

theorem State.memForm.eachJob {s : State} (h : s.memForm) {js f} : (s.eachJob js f).memForm := by
  unfold State.eachJob
  refine h.foldl fun _ _ hs => ?_
  split
  · exact hs.setJob
  · exact hs

theorem State.memForm.countReplays {s : State} (h : s.memForm) {reqs} : (s.countReplays reqs).memForm :=
  h.foldl fun _ _ hs => hs.eachJob

theorem State.memForm.flood {s : State} (h : s.memForm) {r ver id} : (s.flood r ver id).memForm :=
  .setRouter (h.foldl fun _ _ hs => .ite hs hs.setLink)

theorem State.memForm.countAdvance {s : State} (h : s.memForm) {js ver} : (s.countAdvance js ver).memForm :=
  .eachJob (.update h)

theorem State.memForm.adopt {s : State} (h : s.memForm) {r ver id} : (s.adopt r ver id).memForm :=
  h.setRouter.countAdvance.flood

theorem State.memForm.linkDies {s : State} (h : s.memForm) {l} : (s.linkDies l).memForm :=
  .ite h.setLink h.setLink.adopt

theorem State.memForm.opAdvanceReceive {s : State} (h : s.memForm) {r} : (opAdvanceReceive r s).memForm := by
  unfold Machine.opAdvanceReceive
  split
  · exact h
  split
  · exact h
  · exact .ite h.setRouter.adopt (.ite h.setRouter.adopt h.setRouter)

theorem State.memForm.replayStream {s : State} (h : s.memForm) {dst} : (s.replayStream dst).memForm :=
  .update h.setRouter

theorem State.memForm.opRouteRecompute {s : State} (h : s.memForm) {r routes} :
    (opRouteRecompute r routes s).memForm := by
  unfold Machine.opRouteRecompute
  split
  · exact h
  · exact .ite h (h.setRouter.foldl fun _ _ hs => hs.countReplays.replayStream)

theorem State.memForm.opPacketForward {s : State} (h : s.memForm) {r} : (opPacketForward r s).memForm := by
  unfold Machine.opPacketForward
  split
  · exact h
  split
  · exact h
  extract_lets s₁
  have h₁ : s₁.memForm := h.setRouter
  refine .ite h₁ (.ite h₁.setRouter (.ite h₁.setRouter ?_))
  split
  · exact h₁
  · exact .ite h₁ h₁.setLink

theorem State.memForm.opLinkFlitSend {s : State} (h : s.memForm) {l} : (opLinkFlitSend l s).memForm := by
  unfold Machine.opLinkFlitSend
  split
  · exact h
  refine .ite h (.ite h.setLink ?_)
  split
  · exact h.setLink.countReplays
  split
  · exact .ite h.setLink h.setLink
  · exact h.setLink

theorem State.memForm.flitIn {s : State} (h : s.memForm) {l ty pay} : (s.flitIn l ty pay).memForm := by
  unfold State.flitIn
  extract_lets
  split
  · exact .ite (.ite h.setLink h.setLink.setRouter) h.setLink
  · exact .ite h (.ite (.ite h.setLink h.setLink.setRouter) h.setLink)
  · exact h.setDie
  · exact .ite h h.setRouter
  · exact h

theorem State.memForm.opLinkFlitReceive {s : State} (h : s.memForm) {l bytes bufferFull} :
    (opLinkFlitReceive l bytes bufferFull s).memForm := by
  unfold Machine.opLinkFlitReceive
  split
  · exact h
  · exact .ite h (.ite h.setLink (.ite h.setLink (.ite h.setLink (.ite h.setLink h.setLink.flitIn))))

theorem State.memForm.opLinkReplay {s : State} (h : s.memForm) {l} : (opLinkReplay l s).memForm := by
  unfold Machine.opLinkReplay
  split
  · exact h
  split
  · exact .ite h.setLink h
  · exact h

theorem State.memForm.opLinkRetrain {s : State} (h : s.memForm) {l} : (opLinkRetrain l s).memForm := by
  unfold Machine.opLinkRetrain
  split
  · exact h
  · exact .ite h h.setLink.eachJob

theorem State.memForm.sweepLinks {s : State} (h : s.memForm) : s.sweepLinks.memForm :=
  h.foldl fun _ _ hs => .ite hs.linkDies hs

theorem State.memForm.opRetrainComplete {s : State} (h : s.memForm) {l working ok} :
    (opRetrainComplete l working ok s).memForm := by
  unfold Machine.opRetrainComplete
  split
  · exact h
  · exact .ite h (.ite (.ite h.linkDies h.setLink) (.ite h.linkDies h.setLink))

theorem State.memForm.opLinkDeadTimeout {s : State} (h : s.memForm) {l} : (opLinkDeadTimeout l s).memForm := by
  unfold Machine.opLinkDeadTimeout
  split
  · exact h
  · exact .ite h h.linkDies

theorem State.memForm.sendAck {s : State} (h : s.memForm) {dst last} : (s.sendAck dst last).memForm :=
  h.inject

theorem State.memForm.setInStream {s : State} (h : s.memForm) {src q} : (s.setInStream src q).memForm :=
  .update h

theorem State.memForm.opPacketReceive {s : State} (h : s.memForm) {io} : (opPacketReceive io s).memForm := by
  unfold Machine.opPacketReceive
  split
  · exact h
  split
  · exact h
  extract_lets s₁
  have h₁ : s₁.memForm := h.setRouter
  exact .ite h₁ (.ite h₁.sendAck (.ite h₁ (.ite h₁.setInStream h₁.setInStream.sendAck)))

theorem State.memForm.setRequest {s : State} (h : s.memForm) {id q} : (s.setRequest id q).memForm :=
  .update h

theorem State.memForm.ringAnswered {s : State} (h : s.memForm) {q} : (s.ringAnswered q).memForm := by
  unfold State.ringAnswered
  split
  · exact .update h
  · exact h

theorem State.memForm.answer {s : State} (h : s.memForm) {id bytes} : (s.answer id bytes).memForm := by
  unfold State.answer
  split
  · exact h
  refine .ite h ?_
  extract_lets s₁
  have h₁ : s₁.memForm := h.setRequest
  split
  · split
    · split
      · exact h₁.setWarp
      · exact h₁
    · exact h₁
  · split
    · extract_lets y
      split
      · exact h₁.setWarp
      · exact h₁
    · exact h₁
  · split
    · exact h₁.setJob.jobSent
    · exact h₁
  · exact .ite h₁ h₁.modChan
  · exact .update h₁
  · split
    · exact .update h₁
    · exact h₁
  · exact .ite h₁.modLaunch h₁
  · exact .ite h₁.ringAnswered h₁
  · exact h₁.setCore
  · exact h₁
  · exact h₁
  · exact h₁

theorem State.memForm.acked {s : State} (h : s.memForm) {u} : (s.acked u).memForm := by
  unfold State.acked
  extract_lets id s₁
  have h₁ : s₁.memForm := .ite h.answer h
  split
  · exact h₁.setRequest
  · exact h₁

theorem State.memForm.drainWaiting {s : State} (h : s.memForm) {r} : (s.drainWaiting r).memForm := by
  unfold State.drainWaiting
  refine h.foldl fun _ _ hs => ?_
  split
  · exact .ite hs.setRouter.launchPacket hs
  · exact hs

theorem State.memForm.streamNext {s : State} (h : s.memForm) {src} : (s.streamNext src).memForm :=
  h.setInStream.sendAck

theorem State.memForm.ackTaken {s : State} (h : s.memForm) {src p} : (s.ackTaken src p).memForm := by
  unfold State.ackTaken
  split
  · exact h
  · exact .drainWaiting (.foldl (.eachJob (.update h)) fun _ _ hs => hs.acked)

theorem State.memForm.opE2eAckReceive {s : State} (h : s.memForm) {io} : (opE2eAckReceive io s).memForm := by
  unfold Machine.opE2eAckReceive
  split
  · exact h
  split
  · exact h.ackTaken.streamNext
  · exact h

theorem State.memForm.opE2eReplayTimeout {s : State} (h : s.memForm) {dst sseq} :
    (opE2eReplayTimeout dst sseq s).memForm := by
  unfold Machine.opE2eReplayTimeout
  split
  · exact h
  · exact .ite h h.countReplays.replayStream

theorem State.memForm.importGot {s : State} (h : s.memForm) {e key anyKey off n access align} :
    FormOf ReqGot.wait (s.importGot e key anyKey off n access align) := by
  unfold State.importGot
  split
  · exact nofun
  extract_lets
  split
  · exact nofun
  split
  · split <;> exact nofun
  · exact nofun
  · split
    · exact nofun
    · exact .of h.promote
  split
  · exact nofun
  split
  · exact .of h
  · exact nofun

theorem State.memForm.refuse {s : State} (h : s.memForm) {p code} : (s.refuse p code).memForm :=
  h.inject

theorem State.memForm.performBase {s : State} (h : s.memForm) {src} : (s.performBase src).memForm := by
  unfold State.performBase
  split
  · exact h
  split
  · exact h
  refine .ite h (.ite h.refuse.streamNext (.ite ?_ ?_))
  · extract_lets +onlyGivenNames mine s₁
    have h₁ : s₁.memForm := by
      unfold s₁
      clear_value mine
      split
      · exact h.answer
      · exact h
    exact h₁.streamNext
  extract_lets +onlyGivenNames off n access k e
  split
  · exact .setInStream (h.importGot ‹_›)
  · exact .streamNext (.refuse (.update h.logFrom))
  extract_lets +onlyGivenNames back back'
  split
  · exact h.storeAt.noteGated.streamNext
  · exact .streamNext h.inject
  extract_lets +onlyGivenNames r k' old s₂
  have h₂ : s₂.memForm := by
    unfold s₂
    split
    · exact h.storeAt
    · exact h
  exact .streamNext h₂.noteGated.inject

theorem State.memForm.performRun {s : State} (h : s.memForm) {src n} : (s.performRun src n).memForm := by
  induction n generalizing s with
  | zero => exact h
  | succ n ih =>
    unfold State.performRun
    split
    · exact .ite h (.ite (ih h.performBase) h.performBase)
    · exact h

theorem State.memForm.opRequestPerform {s : State} (h : s.memForm) {src} : (opRequestPerform src s).memForm :=
  h.performRun

theorem State.memForm.granted {s : State} (h : s.memForm) {d k t} : (s.granted d k t).memForm :=
  .ite h.setMe h.scalarDone

theorem State.memForm.opGrant {s : State} (h : s.memForm) {d a b} : (opGrant d a b s).memForm := by
  unfold Machine.opGrant
  extract_lets
  split
  · exact h.granted
  refine h.needPriv (.ite h (.ite h.scalarFault (.ite h.scalarFault ?_)))
  split
  · exact h.recordGot ‹_›
  refine .ite h.scalarFault (h.release ?_)
  split
  · exact h.scalarDone
  · exact .granted (.update h)

/-! ## The order gate -/

theorem State.memForm.want {s : State} (h : s.memForm) {ctx kind va launch} :
    (s.want ctx kind va launch).memForm := by
  unfold State.want
  split
  · exact h
  · exact h.fetchUnit

theorem State.memForm.fetchLog {s : State} (h : s.memForm) {ctx kind va die launch} :
    (s.fetchLog ctx kind va die launch).memForm := by
  unfold State.fetchLog
  split
  · exact h
  · exact h.fetchUnit

theorem State.memForm.logRefused {s : State} (h : s.memForm) {lid va code access} :
    (s.logRefused lid va code access).memForm :=
  .ite h.logViolation h

theorem State.memForm.logWords {s : State} (h : s.memForm) {lid va ws} : (s.logWords lid va ws).memForm := by
  unfold State.logWords
  extract_lets ctx bk
  refine h.foldl fun _ _ hs => ?_
  split
  extract_lets a
  split
  · exact hs.storeAt.noteGated
  · exact hs.sendWrite
  · exact hs.logRefused
  · exact hs

theorem State.memForm.setGate {s : State} (h : s.memForm) {lid k g} : (s.setGate lid k g).memForm :=
  h.modLaunch

theorem State.memForm.record {s : State} (h : s.memForm) {lid k g ws} : FstForm (s.record lid k g ws) :=
  .ite (.of h) (.ite (.of h.logWords) (.of h.logWords.setGate.setNondet))

theorem State.memForm.closeChunk {s : State} (h : s.memForm) {lid k g} : FstForm (s.closeChunk lid k g) :=
  .ite (.of h) (.ite (.of ((State.memForm.record (h.record rfl)) rfl)) (.of (h.record rfl)))

theorem State.memForm.diverge {s : State} (h : s.memForm) {lid k g} : FstForm (s.diverge lid k g) :=
  .of h.setGate.modLaunch.setNondet

theorem State.memForm.headRefused {s : State} (h : s.memForm) {lid k g va code} :
    FstForm (s.headRefused lid k g va code) :=
  h.logRefused.diverge

theorem State.memForm.settleHead {s : State} (h : s.memForm) {lid k g fuel} :
    FstForm (s.settleHead lid k g fuel) := by
  induction fuel generalizing g with
  | zero => exact .of h
  | succ fuel ih =>
    unfold State.settleHead
    refine .ite (.of h) (.ite (.ite h.diverge (.of h)) (.ite (.of h.setGate) ?_))
    extract_lets ctx
    split
    · exact .of h
    · exact h.headRefused
    extract_lets w
    refine .ite ?_ (.ite h.diverge ih)
    split
    · exact h.headRefused
    · exact h.headRefused
    · exact .ite ih h.diverge
    · exact .of h

theorem State.memForm.lookAhead {s : State} (h : s.memForm) {lid k} : (s.lookAhead lid k).memForm := by
  unfold State.lookAhead
  extract_lets l
  refine .ite ?_ h
  split
  · split
    exact .setGate (h.settleHead ‹_›)
  · exact h

/-- The state after an access that may pass a gate has the form. -/
def PassForm (q : Option (W64 × State)) : Prop := ∀ ⦃old t⦄, q = some (old, t) → t.memForm

theorem PassForm.of {old : W64} {t : State} (h : t.memForm) : PassForm (some (old, t)) := by
  rintro _ _ ⟨⟩; exact h

theorem PassForm.none : PassForm none := nofun

theorem PassForm.ite {c : Prop} [Decidable c] {o p : Option (W64 × State)} (ho : PassForm o) (hp : PassForm p) :
    PassForm (if c then o else p) := by
  split <;> assumption

/-- Performing an access keeps the form. -/
def RunForm (run : State → Option (W64 × W64 × State)) : Prop :=
  ∀ ⦃s old new t⦄, s.memForm → run s = some (old, new, t) → t.memForm

theorem State.memForm.gateTry {s : State} (h : s.memForm) {lid k wid run} (hrun : RunForm run) :
    PassForm (s.gateTry lid k wid run) := by
  unfold State.gateTry
  extract_lets l g
  refine .ite ?_ ?_
  · have hopen : FstForm (if g.open_ && g.wid ≠ wid then s.closeChunk lid k g else (s, g)) :=
      .ite h.closeChunk (.of h)
    split
    have ht := hopen ‹_›
    split
    · exact .none
    have hu := hrun ht ‹_›
    refine .ite (.of hu) ?_
    extract_lets g'
    have hfull : FstForm (if g'.run ≥ 255 then State.closeChunk _ lid k g' else (_, g')) :=
      .ite hu.closeChunk (.of hu)
    split
    exact .of (hfull ‹_›).setGate
  · split
    have ht := h.settleHead ‹_›
    refine .ite .none ?_
    split
    · exact .none
    have hu := hrun ht ‹_›
    refine .ite (.of hu) ?_
    extract_lets g'
    split
    exact .of (hu.settleHead ‹_›).setGate

/-- Both the state after a gated access that passes and the one in which it goes on waiting have the form. -/
structure AccessForm (p : Option (W64 × State) × State) : Prop where
  passed : ∀ ⦃old t u⦄, p = (some (old, t), u) → t.memForm
  waits : ∀ ⦃o t⦄, p = (o, t) → t.memForm

theorem AccessForm.of {q : Option (W64 × State)} {t : State} (hq : PassForm q) (ht : t.memForm) :
    AccessForm (q, t) where
  passed := by rintro _ _ _ ⟨⟩; exact hq rfl
  waits := by rintro _ _ ⟨⟩; exact ht

theorem State.memForm.gatedAccess {s : State} (h : s.memForm) {w id a delivers} :
    AccessForm (s.gatedAccess w id a delivers) := by
  unfold State.gatedAccess
  extract_lets +onlyGivenNames x l b cur s'
  have hs' : s'.memForm := h.update
  split
  · split
    · exact .of .none hs'
    extract_lets +onlyGivenNames run
    have hrun : RunForm run := by
      rintro s _ _ _ hs ⟨⟩
      exact hs.rmwHere rfl
    split
    · refine .of ?_ hs'
      intro _ _ e
      obtain ⟨⟨_, _, _⟩, hr, ⟨⟩⟩ := Option.map_eq_some_iff.mp e
      exact hrun hs'.noteAtomic hr
    extract_lets +onlyGivenNames s''
    have hs'' : s''.memForm := hs'.lookAhead
    split
    · exact .of .none hs''.fetchLog
    extract_lets +onlyGivenNames free
    have hfree : RunForm free := fun s _ _ _ hs e => hrun (.ite hs hs.noteAtomic) e
    exact .of (hs''.gateTry hfree) hs''
  · exact .of .none hs'.promote
  · exact .of .none hs'

theorem State.memForm.passLanes {s : State} (h : s.memForm) {w gates} : (s.passLanes w gates).s.memForm := by
  unfold State.passLanes
  extract_lets x va ctx
  refine List.foldlRecOn (motive := fun r : Passes => r.s.memForm) gates _ h fun r hr a _ => ?_
  dsimp only
  split
  · exact hr
  split
  · exact hr.gatedAccess.passed ‹_›
  · exact hr.gatedAccess.waits ‹_›

theorem State.memForm.setIoOf {s : State} (h : s.memForm) {w which io} : (s.setIoOf w which io).memForm :=
  h.setWarp

theorem State.memForm.farSend {s : State} (h : s.memForm) {w which io g most} :
    (s.farSend w which io g most).memForm := by
  unfold State.farSend
  refine .setIoOf (FstForm.foldl (.of h) (fun _ _ _ hs => ?_) rfl)
  split
  split
  · exact .of (hs.sendRequest rfl)
  · exact .of hs

theorem State.memForm.farAccount {s : State} (h : s.memForm) {w lanes} : (s.farAccount w lanes).memForm := by
  unfold State.farAccount
  extract_lets x b
  refine h.foldl fun s _ hs => ?_
  split
  extract_lets cur s'
  have hs' : s'.memForm := hs.update
  split
  · exact hs'.noteAtomic
  extract_lets run
  have hrun : RunForm run := by
    rintro s _ _ _ hs ⟨⟩
    exact .ite hs hs.noteAtomic
  split
  · exact hs'.gateTry hrun ‹_›
  · exact hs'

theorem State.memForm.farPass {s : State} (h : s.memForm) {w which io} : (s.farPass w which io).memForm := by
  unfold State.farPass
  extract_lets x l b
  split
  · exact .ite h (.ite h.setIoOf h.farAccount.setIoOf)
  · split
    · exact h.farSend
    extract_lets s₁ q
    have h₁ : s₁.memForm := h.lookAhead
    split
    · exact h₁.fetchLog
    · exact .ite h₁ (.ite h₁.farSend (.ite h₁ h₁.farSend))
  · exact h

theorem State.memForm.opGatePass {s : State} (h : s.memForm) {w which} : (opGatePass w which s).memForm := by
  unfold Machine.opGatePass
  extract_lets x
  refine .ite ?_ (.ite ?_ h)
  · split
    · split
      · exact .setWarp (h.gatedAccess.passed ‹_›)
      · exact h.gatedAccess.waits ‹_›
    · exact h.farPass
    · exact h
  extract_lets
  split
  · split
    · exact h.farPass
    · exact h
  split
  · exact h
  · exact h.passLanes.setWarp

theorem State.memForm.clearGate {s : State} (h : s.memForm) {lid k} : (s.clearGate lid k).memForm :=
  .ite (.modLaunch (.logWords (FstForm.ite (.of (h.closeChunk rfl)) (State.memForm.record (h.closeChunk rfl)) rfl)))
    (.farUsed (.modLaunch (h.settleHead rfl)))

theorem State.memForm.opGate {s : State} (h : s.memForm) {a b} : (opGate a b s).memForm := by
  unfold Machine.opGate
  extract_lets +onlyGivenNames x va k l det
  refine h.needPriv (.ite h (.ite h.scalarFault (.ite ?_ (.ite h.scalarFault ?_))))
  · split
    · exact h.scalarNext
    extract_lets +onlyGivenNames s₁
    have h₁ : s₁.memForm := h.lookAhead
    split
    · exact h₁.fetchLog
    · exact h₁.clearGate.scalarNext
  split
  · exact h.recordGot ‹_›
  · exact .ite h.scalarFault (.ite h h.setGate.scalarNext)

/-! ## Scratchpad regions -/

theorem State.memForm.sendLines {s : State} (h : s.memForm) {r g ks} : FstForm (s.sendLines r g ks) :=
  .foldl (.of h) fun _ _ _ hs => .of (.cleanLine (hs.writeVa.askUnits rfl))

theorem State.memForm.flushRegion {s : State} (h : s.memForm) {r g} : FstForm (s.flushRegion r g) := by
  unfold State.flushRegion
  extract_lets
  refine .ite (.of h) ?_
  split
  · exact .of h.modBlock.badAs
  split
  · exact .of h.badAs
  · obtain ⟨_, _, hstop⟩ := List.exists_of_findSome?_eq_some ‹_›
    exact .of (h.unitsStop hstop rfl)
  · exact .ite (.of (h.sendLines rfl)) (.of (.setIoAs (h.sendLines rfl)))

theorem State.memForm.opXmap {s : State} (h : s.memForm) {a b} : (opXmap a b s).memForm := by
  unfold Machine.opXmap
  extract_lets +onlyGivenNames x va ref r
  refine .ite h (.ite h.scalarFault (.ite h.scalarFault ?_))
  split
  · exact h.recordGot ‹_›
  extract_lets +onlyGivenNames k
  split
  · exact h.scalarFault
  extract_lets +onlyGivenNames others
  refine .ite h.scalarFault ?_
  extract_lets +onlyGivenNames old
  refine .ite h ?_
  have hflush : FstForm (if old.mode = 3 then s.flushRegion r old else (s, true)) := .ite h.flushRegion (.of h)
  split
  · exact hflush ‹_›
  · exact .scalarNext (.modBlock (hflush ‹_›))

theorem State.memForm.opXlook {s : State} (h : s.memForm) {d a b} : (opXlook d a b s).memForm :=
  .ite h (.ite h.scalarFault h.scalarDone)

theorem State.memForm.fillSlot {s : State} (h : s.memForm) {a b ok w} : (s.fillSlot a b ok w).memForm := by
  unfold State.fillSlot
  refine .ite h (.ite h.scalarFault (.ite h.scalarFault (.ite h.scalarFault (.ite h.scalarFault ?_))))
  split
  · exact h.recordGot ‹_›
  split
  · exact h.scalarFault
  · exact .ite h.logWarp.scalarFault h.modBlock.scalarNext

theorem State.memForm.opXevict {s : State} (h : s.memForm) {a b} : (opXevict a b s).memForm := by
  unfold Machine.opXevict
  refine .ite h (.ite h.scalarFault (.ite h.scalarNext (.ite h.modBlock.scalarNext (.ite h ?_))))
  split
  · exact h.recordGot ‹_›
  · exact h.writeVa.modBlock.scalarNext

theorem State.memForm.opXflush {s : State} (h : s.memForm) {b} : (opXflush b s).memForm := by
  unfold Machine.opXflush
  refine .ite h (.ite h.scalarFault (.ite h ?_))
  split
  · exact h.flushRegion ‹_›
  · exact .scalarNext (h.flushRegion ‹_›)

/-! ## Barriers and continuations -/

theorem State.memForm.objCheck {s : State} (h : s.memForm) {o label} {body : Obj → State}
    (hbody : ∀ a, (body a).memForm) : (s.objCheck o label body).memForm := by
  unfold State.objCheck
  extract_lets
  split
  · exact .ite (.ite h.scalarFault h.logWarp.scalarFault) h.scalarFault
  · exact .ite h.scalarFault (.ite (hbody _) h.scalarFault)

theorem State.memForm.opBinit {s : State} (h : s.memForm) {a b} : (opBinit a b s).memForm :=
  .ite h (h.objCheck fun _ => .ite h.scalarFault h.modBlock.scalarNext)

theorem State.memForm.opBarrive {s : State} (h : s.memForm) {a b} : (opBarrive a b s).memForm :=
  .ite h (h.objCheck fun _ => .ite h.scalarFault (h.release h.objArrive.scalarNext))

theorem State.memForm.recordWaiter {s : State} (h : s.memForm) {o q} : (s.recordWaiter o q).memForm :=
  h.modBlock

theorem State.memForm.opBwait {s : State} (h : s.memForm) {a} : (opBwait a s).memForm :=
  h.notInHandler (.ite h (h.objCheck fun _ => .ite h.scalarFault (.ite h.scalarNext h.recordWaiter.setMe)))

theorem State.memForm.opYieldC {s : State} (h : s.memForm) {a i} : (opYieldC a i s).memForm :=
  h.notInHandler (.ite h (h.objCheck fun _ => .ite h.scalarFault (.ite h.setMe h.recordWaiter.setMe)))

theorem State.memForm.opBcont {s : State} (h : s.memForm) {a i} : (opBcont a i s).memForm :=
  h.notInHandler (.ite h (h.objCheck fun _ => .ite h (.ite h.scalarFault (.ite h.scalarFault (.update h.modBlock)))))

theorem State.memForm.arrive {s : State} (h : s.memForm) {d gang bare} : (s.arrive d gang bare).memForm :=
  h.notInHandler (.ite h (h.release (.ite h.setMe.modLaunch.settleGg h.setMe.modBlock.settleBk)))

theorem State.memForm.opWarpWake {s : State} (h : s.memForm) {w} : (opWarpWake w s).memForm := by
  unfold Machine.opWarpWake
  refine .ite h ?_
  split
  · exact h.setWarp
  · exact h.setWarp
  · exact h

theorem State.memForm.opContinuationSpawn {s : State} (h : s.memForm) {b k slot} :
    (opContinuationSpawn b k slot s).memForm := by
  unfold Machine.opContinuationSpawn
  extract_lets
  split
  · exact h
  · exact .ite h (.update h.setBlock)

/-! ## The launch engine -/

theorem State.memForm.dropWrite {s : State} (h : s.memForm) {ctx code va access n} :
    (s.dropWrite ctx code va access n).memForm :=
  h.logViolation

theorem State.memForm.logRead {s : State} (h : s.memForm) {ctx c va access n} :
    (s.logRead ctx c va access n).memForm :=
  .ite h.logViolation h

theorem State.memForm.classRound {s : State} (h : s.memForm) : s.classRound.memForm :=
  .update h

theorem State.memForm.reclass {s : State} (h : s.memForm) : s.reclass.memForm :=
  .foldl (.update h) fun _ _ hs => hs.classRound

theorem State.memForm.signalScans {s : State} (h : s.memForm) : s.signalScans.memForm :=
  .update h

theorem State.memForm.testAdmissible {s : State} (h : s.memForm) {num} : (s.testAdmissible num).memForm :=
  .ite h.setLaunch h

theorem State.memForm.takeRec {s : State} (h : s.memForm) {num ctx priv b} :
    TakeGot.memForm (s.takeRec num ctx priv b) := by
  unfold State.takeRec
  split
  · exact .ofHold h.want
  · exact .ofTaken h.farUsed
  · exact .ofTaken h.logRead.farUsed
  · exact .ofTaken h.farUsed

theorem State.memForm.joinLaunches {s : State} (h : s.memForm) {num ctx qcls priv source t} :
    (s.joinLaunches num ctx qcls priv source t).memForm :=
  .ite (.signalScans (.reclass (.testAdmissible (.update h)))) (.reclass (.testAdmissible (.update h)))

/-- Both the state in which a record has joined the launches and the one after it was read have the form. -/
structure AcceptForm (p : Option State × State) : Prop where
  taken : ∀ ⦃t u⦄, p = (some t, u) → t.memForm
  read : ∀ ⦃o t⦄, p = (o, t) → t.memForm

theorem AcceptForm.of {o : Option State} {t : State} (ho : FormOf some o) (ht : t.memForm) : AcceptForm (o, t) where
  taken := by rintro _ _ ⟨⟩; exact ho rfl
  read := by rintro _ _ ⟨⟩; exact ht

theorem State.memForm.accept {s : State} (h : s.memForm) {num ctx qcls priv source b} :
    AcceptForm (s.accept num ctx qcls priv source b) := by
  unfold State.accept
  split
  · exact .of nofun (h.takeRec.hold ‹_›)
  · exact .of (.of (h.takeRec.taken ‹_›).joinLaunches) (h.takeRec.taken ‹_›)

theorem State.memForm.setQueue {s : State} (h : s.memForm) {q x} : (s.setQueue q x).memForm :=
  .update h

theorem State.memForm.queueOver {s : State} (h : s.memForm) {q} : (s.queueOver q).memForm :=
  .ite h.setQueue.bankError h

theorem State.memForm.opHostQueueAccept {s : State} (h : s.memForm) {q} : (opHostQueueAccept q s).memForm := by
  unfold Machine.opHostQueueAccept
  split
  · exact h
  refine .ite h (.ite h.queueOver (.ite h ?_))
  extract_lets
  split
  · exact h.want
  · exact .update (.setQueue (.reclass (.farUsed (.update h.logRead))))
  split
  · exact .update (.setQueue (h.accept.taken ‹_›))
  · exact h.accept.read ‹_›

theorem State.memForm.enqueue {s : State} (h : s.memForm) {d e} : (s.enqueue d e).memForm :=
  .scalarDone (.update h)

theorem State.memForm.launchTaken {s : State} (h : s.memForm) {d t} : (s.launchTaken d t).memForm :=
  .ite (.setMe (.update (.update h))) (.enqueue (.update h))

theorem State.memForm.launchAgain {s : State} (h : s.memForm) {d t} : (s.launchAgain d t).memForm := by
  unfold State.launchAgain
  refine .ite h ?_
  split
  · exact .enqueue (.update h)
  · exact h

theorem State.memForm.opLaunch {s : State} (h : s.memForm) {d a} : (opLaunch d a s).memForm := by
  unfold Machine.opLaunch
  extract_lets
  split
  · exact h.launchAgain
  refine .ite h (.ite h.scalarFault ?_)
  split
  · exact h.recordGot ‹_›
  split
  · exact h.takeRec.hold ‹_›
  · exact .launchTaken (h.takeRec.taken ‹_›)

theorem State.memForm.opDeviceQueueAccept {s : State} (h : s.memForm) : (opDeviceQueueAccept s).memForm := by
  unfold Machine.opDeviceQueueAccept
  split
  · exact h
  · exact .ite h (.update h.joinLaunches)

theorem State.memForm.askWaits {s : State} (h : s.memForm) {num ctx ws} : (s.askWaits num ctx ws).memForm :=
  h.farUsed.foldl fun _ _ hs => hs.fetchUnit

theorem State.memForm.opPennantRetest {s : State} (h : s.memForm) {num} : (opPennantRetest num s).memForm := by
  unfold Machine.opPennantRetest
  split
  · exact .update h.askWaits
  split
  · exact h
  · exact .ite h h.askWaits.modLaunch.testAdmissible.reclass

theorem State.memForm.writePiece {s : State} (h : s.memForm) {asker ctx va bs} :
    (s.writePiece asker ctx va bs).memForm := by
  unfold State.writePiece
  split
  · exact h.storeAt.noteGated
  · exact h.sendWrite
  · exact h

theorem State.memForm.engineWrite {s : State} (h : s.memForm) {asker ctx va bs} :
    (s.engineWrite asker ctx va bs).memForm := by
  unfold State.engineWrite
  extract_lets
  split
  · exact h.dropWrite
  · exact h.foldl fun _ _ hs => hs.writePiece

theorem State.memForm.opGraphAccept {s : State} (h : s.memForm) {k} : (opGraphAccept k s).memForm := by
  unfold Machine.opGraphAccept
  split
  · exact h
  extract_lets l taken
  refine .ite h ?_
  split
  · exact h
  extract_lets units
  split
  · exact h.logRead.modLaunch
  split
  · exact h.promote
  · exact .update (h.foldl fun _ _ hs => hs.engineWrite)

theorem State.memForm.setNode {s : State} (h : s.memForm) {k g i n} : (s.setNode k g i n).memForm :=
  .update h

theorem State.memForm.opGraphNodeAccept {s : State} (h : s.memForm) {k i} :
    (opGraphNodeAccept k i s).memForm := by
  unfold Machine.opGraphNodeAccept
  split
  · exact h
  extract_lets
  split
  · exact h
  refine .ite h ?_
  split
  · exact h.want
  · exact h.logRead.farUsed.setNode
  refine .ite h.farUsed.setNode (.ite h.farUsed ?_)
  split
  · exact h.accept.read ‹_›
  · exact .update (.setNode (h.accept.taken ‹_›))

theorem State.memForm.dropStale {s : State} (h : s.memForm) : s.dropStale.memForm :=
  .update h

theorem State.memForm.admitBlock {s : State} (h : s.memForm) {num core index gblock slots redrawn} :
    (s.admitBlock num core index gblock slots redrawn).memForm :=
  .foldl (.update h) fun _ _ hs => .update hs

theorem State.memForm.reserveFor {s : State} (h : s.memForm) {num ts} : (s.reserveFor num ts).memForm := by
  unfold State.reserveFor
  refine .ite h ?_
  split
  · exact .ite h (.update h)
  · exact h

theorem State.memForm.underSettings {s : State} (h : s.memForm) {num} : (s.underSettings num).memForm :=
  h.modLaunch

theorem State.memForm.opBlockAdmission {s : State} (h : s.memForm) {num slots} :
    (opBlockAdmission num slots s).memForm := by
  unfold Machine.opBlockAdmission
  split
  · exact h
  extract_lets +onlyGivenNames m
  refine .ite h (.ite h.setLaunch ?_)
  split
  · exact h
  extract_lets +onlyGivenNames s₁ fits
  have h₁ : s₁.memForm := h.reserveFor
  refine .ite h₁ ?_
  extract_lets +onlyGivenNames first s₂ s₃ s₄ s₅ s₆
  have h₂ : s₂.memForm := h₁.dropStale.foldl fun _ _ ht => ht.admitBlock
  have h₃ : s₃.memForm := .ite h₂.underSettings h₂
  have h₄ : s₄.memForm := h₃.modLaunch
  have h₆ : s₆.memForm := .update h₄
  exact .ite h₆.startEntries.sweepLinks h₆

theorem State.memForm.opAgePromotion {s : State} (h : s.memForm) {num} : (opAgePromotion num s).memForm := by
  unfold Machine.opAgePromotion
  split
  · exact h
  split
  · exact h
  · exact .ite h h.setLaunch.reclass

theorem State.memForm.raisePennant {s : State} (h : s.memForm) {ctx e} : (s.raisePennant ctx e).memForm := by
  unfold State.raisePennant
  split
  split
  · exact h.storeAt.noteGated
  · exact h.sendRequest rfl
  · exact h.dropWrite
  · exact h

theorem State.memForm.raiseAll {s : State} (h : s.memForm) {ctx rs} : (s.raiseAll ctx rs).memForm :=
  h.foldl fun _ _ hs => hs.raisePennant

theorem State.memForm.nodeDone {s : State} (h : s.memForm) {k i status code} :
    (s.nodeDone k i status code).memForm := by
  unfold State.nodeDone
  split
  · exact h
  · exact .update h

theorem State.memForm.retire {s : State} (h : s.memForm) {num} : (s.retire num).memForm :=
  h.foldl fun _ _ hs => hs.settleBlock

theorem State.memForm.returnSlots {s : State} (h : s.memForm) {num drop} : (s.returnSlots num drop).memForm :=
  h.foldl fun _ _ hs => hs.unloadSlots

theorem State.memForm.gatesNeed {s : State} (h : s.memForm) {num gates} : FstForm (s.gatesNeed num gates) :=
  .of (h.foldl fun _ _ hs => hs.lookAhead)

theorem State.memForm.finishLaunch {s : State} (h : s.memForm) {num} : (s.finishLaunch num).memForm := by
  unfold State.finishLaunch
  extract_lets l
  split
  extract_lets s₁ s₂ s₃ s₄ s₅ s₆ s₇
  have h₂ : s₂.memForm := by
    unfold s₂
    split
    · exact .ite h h.setQueue
    · exact h
  have h₃ : s₃.memForm := .ite h₂ h₂.raiseAll
  have h₅ : s₅.memForm := .update h₃
  have h₆ : s₆.memForm := h₅.modLaunch
  have h₇ : s₇.memForm := by
    unfold s₇
    split
    · exact h₆.nodeDone
    · exact h₆
  exact h₇.reclass.sweepLinks

theorem State.memForm.opLaunchCompletion {s : State} (h : s.memForm) {num} :
    (opLaunchCompletion num s).memForm := by
  unfold Machine.opLaunchCompletion
  split
  · exact h
  refine .ite h ?_
  extract_lets +onlyGivenNames s₁ l
  have h₁ : s₁.memForm := h.retire
  refine .ite h₁ ?_
  extract_lets +onlyGivenNames s₂
  have h₂ : s₂.memForm := h₁.returnSlots
  refine .ite h₂ ?_
  extract_lets +onlyGivenNames need
  split
  · exact .ite h₂.promote h₂
  split
  · exact .fetchLog (h₂.gatesNeed ‹_›)
  refine .ite (.finishLaunch (h₂.gatesNeed ‹_›)) ?_
  extract_lets +onlyGivenNames s₃
  have h₃ : s₃.memForm := .clearPins (.foldl (h₂.gatesNeed ‹_›) fun _ _ hu => hu.clearGate)
  exact .ite h₃ (.ite (.modLaunch (.ite h₃ h₃.engineWrite)) (.finishLaunch (.ite h₃ h₃.engineWrite)))

theorem State.memForm.opCompletionRingWrite {s : State} (h : s.memForm) {q} :
    (opCompletionRingWrite q s).memForm := by
  unfold Machine.opCompletionRingWrite
  split
  · exact h
  split
  · exact h
  extract_lets va done send
  have hdone {u} (hu : u.memForm) : (done u).memForm := by
    unfold done
    split
    · exact .ite h.promote h
    · exact hu.setQueue.raiseAll
  have hsend {u} (hu : u.memForm) : (send u).memForm := hu.engineWrite.farUsed.setQueue
  refine .ite h (.ite (hdone h) ?_)
  split
  · exact h.promote
  · exact hdone h.dropWrite
  · split
    · exact h.farAsk
    · exact .ite h.farUsed (hsend h)
    · exact hsend h
  · exact .ite h (hdone h.engineWrite)

theorem State.memForm.opHostProducerWrite {s : State} (h : s.memForm) {q v} :
    (opHostProducerWrite q v s).memForm := by
  unfold Machine.opHostProducerWrite
  split
  · exact h
  · exact .ite h h.setQueue.queueOver

/-! ## Pre-emption -/

theorem State.memForm.forceReset {s : State} (h : s.memForm) {ctx} : (s.forceReset ctx).memForm :=
  .foldl (.update h.resetMoves) fun _ _ hs => hs.unloadSlots

theorem State.memForm.opPreemptStart {s : State} (h : s.memForm) {num} : (opPreemptStart num s).memForm := by
  unfold Machine.opPreemptStart
  split
  · exact h
  split
  · exact h
  extract_lets +onlyGivenNames busy limit saving
  refine .ite h ?_
  extract_lets +onlyGivenNames vs tries
  split
  · exact h
  · exact .ite (.signalScans (h.foldl fun _ _ hs => .update hs)) (h.foldl fun _ _ hs => .update hs)

theorem State.memForm.safeGot {s : State} (h : s.memForm) {num} : SafeGot.memForm (s.safeGot num) := by
  unfold State.safeGot
  extract_lets +onlyGivenNames l va
  split
  · exact .ofPoints h.logRead
  · exact .ofWait h.want
  extract_lets +onlyGivenNames n
  split
  · exact .ofPoints h.logRead
  · exact .ofWait h.want
  · exact .ofPoints h

theorem State.memForm.stopAtSafe {s : State} (h : s.memForm) {w} : (s.stopAtSafe w).memForm :=
  .ite h.setWarp h

theorem State.memForm.opRung2Stop {s : State} (h : s.memForm) {victim} : (opRung2Stop victim s).memForm := by
  unfold Machine.opRung2Stop
  refine .ite ?_ (h.foldl fun _ _ hs => hs.stopAtSafe)
  split
  · exact h.safeGot.wait ‹_›
  · exact .foldl (.update (h.safeGot.points ‹_›)) fun _ _ hs => hs.stopAtSafe

theorem State.memForm.saveBytes {s : State} (h : s.memForm) {ctx launch va bs} :
    (s.saveBytes ctx launch va bs).memForm := by
  unfold State.saveBytes
  refine h.foldl fun _ _ hs => ?_
  extract_lets +onlyGivenNames a u
  split
  · exact hs.storeAt.noteGated
  · exact hs.sendWrite
  · exact hs

theorem State.memForm.slotsWait {s : State} (h : s.memForm) {core mine} : FormOf some (s.slotsWait core mine) := by
  unfold State.slotsWait
  extract_lets +onlyGivenNames slots
  split
  · exact .of h
  split
  · exact nofun
  · exact .of (h.foldl fun _ _ hs => hs.promote)

theorem State.memForm.opBlockSave {s : State} (h : s.memForm) {bk} : (opBlockSave bk s).memForm := by
  unfold Machine.opBlockSave
  split
  · exact h
  extract_lets +onlyGivenNames l
  refine .ite h ?_
  extract_lets +onlyGivenNames mine
  split
  · exact h.logRead.forceReset
  · exact h.want
  · exact h
  extract_lets +onlyGivenNames bs va units vs
  split
  · exact h.logRead.setBlock
  split
  · exact h.promote
  split
  · exact h.slotsWait ‹_›
  · exact .modLaunch (.farUsed (.update h.unloadSlots.saveBytes))

theorem State.memForm.opForcedReset {s : State} (h : s.memForm) {victim} : (opForcedReset victim s).memForm := by
  unfold Machine.opForcedReset
  split
  · exact h
  · exact .ite h.forceReset h

theorem State.memForm.reissueLoop {s : State} (h : s.memForm) {w card k} : (s.reissueLoop w card k).memForm := by
  unfold State.reissueLoop
  split
  extract_lets +onlyGivenNames x
  split
  · exact .setWarp (h.enterLoop ‹_›)
  · exact h.enterLoop ‹_›

theorem State.memForm.replayStore {s : State} (h : s.memForm) {ctx launch bk widx a v} :
    (s.replayStore ctx launch bk widx a v).memForm := by
  unfold State.replayStore
  split
  · exact h.storeAt.noteGated
  · exact h.sendWrite
  · exact h.logRead
  · exact h

theorem State.memForm.killCont {s : State} (h : s.memForm) {bk c code} : (s.killCont bk c code).memForm :=
  h.setBlock.modLaunch.settleEpisodes.settleBlock

theorem State.memForm.killSavedCont {s : State} (h : s.memForm) {launch e c} :
    (s.killSavedCont launch e c).memForm :=
  h.modLaunch

theorem State.memForm.dropCont {s : State} (h : s.memForm) {bk c} : (s.dropCont bk c).memForm :=
  h.setBlock.settleEpisodes

theorem State.memForm.restoreBlock {s : State} (h : s.memForm) {num core slots e b cards} :
    (s.restoreBlock num core slots e b cards).memForm := by
  unfold State.restoreBlock
  extract_lets l r blk s₁ recs s₂ s₃ s₄ s₅
  have h₁ : s₁.memForm := .update h
  have h₂ : s₂.memForm := h₁.foldl fun _ _ ht => .update ht
  have h₃ : s₃.memForm := h₂.foldl fun _ _ hu => hu.reissueLoop
  have h₄ : s₄.memForm := h₃.foldl fun _ _ hv => hv.replayStore
  have h₅ : s₅.memForm := h₄.foldl fun _ _ hw => .ite hw.haltWarp hw
  exact h₅.foldl fun _ _ hx => hx.dropCont

theorem State.memForm.readStop {s : State} (h : s.memForm) {num gots} : FormOf some (s.readStop num gots) := by
  unfold State.readStop
  extract_lets ctx
  refine .findSome? fun ⟨a, n, g⟩ _ => ?_
  match g with
  | .bytes _ => exact nofun
  | .hold _ _ => exact .of h.want
  | .bad _ => exact .of h.logRead.farUsed.forceReset

theorem State.memForm.resumeGot {s : State} (h : s.memForm) {num mine} :
    FormOf ResumeGot.stop (s.resumeGot num mine) := by
  unfold State.resumeGot
  extract_lets +onlyGivenNames l gots
  split
  · exact .of (h.readStop ‹_›)
  extract_lets +onlyGivenNames recs cards reads
  split
  · exact .of (h.readStop ‹_›)
  split
  · exact .of h.promote
  · exact nofun

theorem State.memForm.opBlockResume {s : State} (h : s.memForm) {num slots} :
    (opBlockResume num slots s).memForm := by
  unfold Machine.opBlockResume
  split
  · exact h
  split
  · extract_lets +onlyGivenNames mine
    refine .ite h ?_
    split
    · exact h
    extract_lets +onlyGivenNames s₁ places fits
    have h₁ : s₁.memForm := h.reserveFor
    refine .ite h₁ ?_
    split
    · exact h₁.resumeGot ‹_›
    · exact .update (.farUsed (.foldl (h₁.dropStale.modLaunch.foldl fun _ _ ht => ht.restoreBlock) fun _ _ ht =>
        ht.settleBlock))
  · exact h

theorem State.memForm.opRegisterMiss {s : State} (h : s.memForm) {w reg} : (opRegisterMiss w reg s).memForm := by
  unfold Machine.opRegisterMiss
  split
  · exact h
  refine .ite h ?_
  split
  · exact h.setWarp.farUsed
  · exact h.logRead.forceReset
  · exact h.reportPoison
  · exact h.want

/-! ## The check engine -/

theorem State.memForm.opDigr {s : State} (h : s.memForm) {d a b} : (opDigr d a b s).memForm := by
  unfold Machine.opDigr
  refine h.needPriv (.ite h ?_)
  split
  · exact h.scalarFault
  split
  · exact h.scalarFault
  · exact h.scalarDone

theorem State.memForm.storeCheck {s : State} (h : s.memForm) {va n} : FormOf some (s.storeCheck va n) := by
  unfold State.storeCheck
  extract_lets +onlyGivenNames vs
  split
  · exact .of h.badAs
  split
  · exact .of h.badAs
  split
  · exact .of h.parkScalar
  · exact nofun

theorem State.memForm.keepSent {s : State} (h : s.memForm) {bs} : (s.keepSent bs).memForm := by
  unfold State.keepSent
  split
  · exact h.setMe
  · exact h

theorem State.memForm.opErrqRead {s : State} (h : s.memForm) {d a b} : (opErrqRead d a b s).memForm := by
  unfold Machine.opErrqRead
  extract_lets +onlyGivenNames x k va
  refine h.needPriv (.ite h (.ite h.scalarFault (.ite h.scalarFault ?_)))
  extract_lets +onlyGivenNames r
  split
  · split
    · exact .keepSent (.update (h.recordGot ‹_›))
    · exact .update (h.recordGot ‹_›)
    · exact h.recordGot ‹_›
  · exact .scalarDone (.writeVa (.ite (.update h) h))

theorem State.memForm.flagFrames {s : State} (h : s.memForm) {pa v f} : (s.flagFrames pa v f).memForm :=
  h.foldl fun _ _ hs => hs.foldl fun _ _ ht => .ite ht.setBit ht

theorem State.memForm.poisonSector {s : State} (h : s.memForm) {pa} : (s.poisonSector pa).memForm :=
  .flagFrames (.update h)

theorem State.memForm.clearPoison {s : State} (h : s.memForm) {pa} : (s.clearPoison pa).memForm :=
  .flagFrames (.update (.update h))

theorem State.memForm.opErrqRepair {s : State} (h : s.memForm) {d a} : (opErrqRepair d a s).memForm := by
  unfold Machine.opErrqRepair
  refine h.needPriv (.ite h (.ite h.scalarFault ?_))
  split
  · exact h.badAs
  · exact h.parkScalar
  · exact h.release h.scalarDone
  · exact h.release (.ite h.clearPoison.scalarDone h.scalarDone)

theorem State.memForm.opErrqLog {s : State} (h : s.memForm) {d a b} : (opErrqLog d a b s).memForm := by
  unfold Machine.opErrqLog
  extract_lets +onlyGivenNames x die va
  refine h.needPriv (.ite h (.ite h.scalarFault (.ite h.scalarFault ?_)))
  extract_lets +onlyGivenNames u
  split
  · extract_lets +onlyGivenNames n
    split
    · exact h.recordGot ‹_›
    · exact h.setDie.scalarDone
  split
  · exact h.storeCheck ‹_›
  extract_lets +onlyGivenNames bs
  split
  · exact (h.recordGot ‹_›).keepSent
  · exact h.setDie.writeVa.scalarDone

theorem State.memForm.opErrorBankUpdate {s : State} (h : s.memForm) {bank sev syndrome addr victim} :
    (opErrorBankUpdate bank sev syndrome addr victim s).memForm := by
  unfold Machine.opErrorBankUpdate
  refine .ite h ?_
  extract_lets s₁
  have h₁ : s₁.memForm := h.bankError
  refine .ite ?_ (.ite h₁.poisonSector (.ite ?_ h₁))
  · split
    · exact h₁.haltWarp
    · exact h₁
  split
  · exact .ite h₁.setBlock h₁
  · exact h₁

theorem State.memForm.setReport {s : State} (h : s.memForm) {k r} : (s.setReport k r).memForm :=
  .update h

theorem State.memForm.bankReport {s : State} (h : s.memForm) {k r} : (s.bankReport k r).memForm := by
  unfold State.bankReport
  refine .ite h ?_
  split
  · exact h.bankError.setReport
  · exact h

theorem State.memForm.dropReport {s : State} (h : s.memForm) {k} : (s.dropReport k).memForm :=
  .update h

theorem State.memForm.ringBad {s : State} (h : s.memForm) {k r v va n} : (s.ringBad k r v va n).memForm := by
  unfold State.ringBad
  split
  · exact .ite h.bankReport.logViolation.setReport h.bankReport
  · exact h.bankReport

theorem State.memForm.opPoisonReport {s : State} (h : s.memForm) {k} : (opPoisonReport k s).memForm := by
  unfold Machine.opPoisonReport
  split
  · exact h
  extract_lets +onlyGivenNames ctx base
  refine .ite h.bankReport.dropReport ?_
  split
  · split
    · exact h.storeAt.noteGated.setReport
    · exact h.promote.bankReport
    · exact h.ringBad
  extract_lets +onlyGivenNames va
  split
  · exact .ite h.bankReport h.storeAt.noteGated.dropReport
  · exact h.promote.bankReport
  · exact h.ringBad

theorem State.memForm.killWid {s : State} (h : s.memForm) {launch wid} : FormOf some (s.killWid launch wid) := by
  unfold State.killWid
  split
  · exact .of (.ite h.forceReset h.haltWarp)
  split
  · intro t e
    obtain ⟨c, _, rfl⟩ := Option.map_eq_some_iff.mp e
    exact h.killCont
  extract_lets +onlyGivenNames l
  split
  · split
    · exact .of h.killSavedCont
    · exact .of h.modLaunch
  · exact nofun

theorem State.memForm.opWkill {s : State} (h : s.memForm) {d a b} : (opWkill d a b s).memForm := by
  unfold Machine.opWkill
  refine h.needPriv (.ite h (.ite h.scalarFault ?_))
  split
  · exact .ite (h.killWid ‹_›) (.scalarDone (h.killWid ‹_›))
  · exact h.scalarDone

theorem State.memForm.onCore {s : State} (h : s.memForm) {rs a ok} {body : ℕ → State}
    (hbody : ∀ a, (body a).memForm) : (s.onCore rs a ok body).memForm := by
  unfold State.onCore
  refine h.needPriv (.ite h ?_)
  split
  · exact h.scalarFault
  · exact .ite (hbody _) h.scalarFault

theorem State.memForm.opCorectlDrain {s : State} (h : s.memForm) {d a} : (opCorectlDrain d a s).memForm :=
  h.onCore fun _ => h.setCore.scalarDone

theorem State.memForm.opCorectlIsolate {s : State} (h : s.memForm) {a} : (opCorectlIsolate a s).memForm :=
  h.onCore fun _ => .ite h h.setCore.scalarNext

theorem State.memForm.opCorectlRelease {s : State} (h : s.memForm) {a} : (opCorectlRelease a s).memForm :=
  h.onCore fun _ => h.setCore.scalarNext

theorem State.memForm.opScan {s : State} (h : s.memForm) {a b} : (opScan a b s).memForm := by
  unfold Machine.opScan
  refine h.onCore fun _ => .ite h.scalarFault ?_
  split
  · exact h.storeCheck ‹_›
  · exact h.setCore.scalarNext

theorem State.memForm.opScanwt {s : State} (h : s.memForm) {d a} : (opScanwt d a s).memForm :=
  h.onCore fun _ => .ite h h.scalarDone

theorem State.memForm.opScanComplete {s : State} (h : s.memForm) {core lo hi} :
    (opScanComplete core lo hi s).memForm := by
  unfold Machine.opScanComplete
  refine .ite h ?_
  split
  · exact h.promote
  · exact h.storeAt.noteGated.setCore
  · exact h.sendWrite
  · exact .setCore (.ite h.logViolation h)

theorem State.memForm.opScanAbort {s : State} (h : s.memForm) {die} : (opScanAbort die s).memForm :=
  .foldl (.ite h h.setDie) fun _ _ hs => hs.setCore.bankError

theorem State.memForm.renumber {s : State} (h : s.memForm) : s.renumber.memForm :=
  .update h

theorem State.memForm.mapLaunches {s : State} (h : s.memForm) {f} : (s.mapLaunches f).memForm :=
  .update h

theorem State.memForm.opLcmap {s : State} (h : s.memForm) {d a b} : (opLcmap d a b s).memForm := by
  unfold Machine.opLcmap
  extract_lets want
  refine h.onCore fun _ => ?_
  extract_lets spares pick
  clear_value pick
  split
  · exact .scalarDone (.mapLaunches (.setCore (.update h)))
  · exact .ite h.scalarFault (.scalarDone (.renumber (.mapLaunches (.update h))))

/-! ## Lane decimals and block quantisation -/

theorem State.memForm.decLong {s : State} (h : s.memForm) {can f regs val} :
    (s.decLong can f regs val).memForm :=
  h.laneRun fun _ hs => hs.decEnd fun _ ht => ht.longRegs

theorem State.memForm.opDcmp {s : State} (h : s.memForm) {f} : (opDcmp f s).memForm :=
  h.laneRun fun _ hs => hs.decEnd fun _ ht => ht.laneLong

theorem State.memForm.opBqnt {s : State} (h : s.memForm) {f} : (opBqnt f s).memForm :=
  h.laneRun fun _ hs => hs.fpEnd fun _ ht => ht.longRegs

/-! ## The steward -/

theorem State.memForm.withholdDie {s : State} (h : s.memForm) : s.withholdDie.memForm :=
  .update h.bankError

theorem State.memForm.measure {s : State} (h : s.memForm) : s.measure.memForm :=
  .update h

theorem State.memForm.bringUp {s : State} (h : s.memForm) {verdicts} : (s.bringUp verdicts).memForm := by
  unfold State.bringUp
  extract_lets ok steps dies bad
  have hbad : (bad.foldl (fun s _ => s.withholdDie) s).memForm := h.foldl fun _ _ hs => hs.withholdDie
  exact .ite (.update h) (.ite (.update hbad) (.update hbad.measure))

theorem State.memForm.opPowerOnBringUp {s : State} (h : s.memForm) {verdicts} :
    (opPowerOnBringUp verdicts s).memForm :=
  .ite h h.bringUp

theorem State.memForm.deviceReset {s : State} (h : s.memForm) : s.deviceReset.memForm :=
  .update h

theorem State.memForm.opHostRegisterWrite {s : State} (h : s.memForm) {off bytes} :
    (opHostRegisterWrite off bytes s).memForm :=
  .ite h (.ite (h.foldl fun _ _ hs => .ite hs.setQueue.queueOver hs) (.ite (.update h) (.update h)))

theorem State.memForm.logHost {s : State} (h : s.memForm) {off code write len} :
    (s.logHost off code write len).memForm :=
  h.logFrom

theorem State.memForm.answerHost {s : State} (h : s.memForm) {code data} : (s.answerHost code data).memForm :=
  .update h

theorem State.memForm.opHostReservedAccess {s : State} (h : s.memForm) {off write len} :
    (opHostReservedAccess off write len s).memForm :=
  .ite h (.ite h.logHost.answerHost (.ite h h.answerHost))

theorem State.memForm.dropWait {s : State} (h : s.memForm) {win off write data} :
    (s.dropWait win off write data).memForm :=
  .update h

theorem State.memForm.windowPiece {s : State} (h : s.memForm) {win off write data r o n a} :
    FstForm (s.windowPiece win off write data r o n a) := by
  unfold State.windowPiece
  split
  · exact .of h
  · exact .of h.logHost
  · exact .ite (.of h.storeAt.noteGated) (.of h)

theorem State.memForm.opHostWindowAccess {s : State} (h : s.memForm) {win off write data} :
    (opHostWindowAccess win off write data s).memForm := by
  unfold Machine.opHostWindowAccess
  refine .ite h ?_
  extract_lets +onlyGivenNames held w gots
  split
  next t hfind =>
    have ht : t.memForm := by
      obtain ⟨g, hg, e⟩ := List.exists_of_findSome?_eq_some hfind
      obtain ⟨p, _, rfl⟩ := List.mem_map.mp hg
      split at e
      · cases e
        exact h.importGot ‹_›
      · cases e
    exact .ite ht ht.update
  next =>
    extract_lets +onlyGivenNames r s₁
    have hr : r.1.memForm := FstForm.foldl (.of h) (fun _ _ _ hs => hs.windowPiece) rfl
    have h₁ : s₁.memForm := .ite hr.dropWait hr
    exact .ite h₁ h₁.answerHost

theorem State.memForm.setMailbox {s : State} (h : s.memForm) {mb m} : (s.setMailbox mb m).memForm :=
  .ite (.update h) (.update h)

theorem State.memForm.finish {s : State} (h : s.memForm) {mb status result} :
    (s.finish mb status result).memForm :=
  h.setMailbox

theorem State.memForm.onCommand {s : State} (h : s.memForm) {code named} {body : List Byte → State}
    (hbody : ∀ a, (body a).memForm) : (s.onCommand code named body).memForm :=
  .ite h (.ite h.finish (hbody _))

theorem State.memForm.opSetting {s : State} (h : s.memForm) : (opSetting s).memForm := by
  unfold Machine.opSetting
  refine h.onCommand fun _ => ?_
  split
  · exact h.finish
  · exact .finish (.update h)

theorem State.memForm.opQueue {s : State} (h : s.memForm) : (opQueue s).memForm :=
  h.onCommand fun _ => .ite h.finish (.ite h.finish h.setQueue.queueOver.finish)

theorem State.memForm.onContext {s : State} (h : s.memForm) {destroy} {body : ℕ → List Byte → State}
    (hbody : ∀ a b, (body a b).memForm) : (s.onContext destroy body).memForm :=
  .ite h (.ite (.ite h h.finish) (.ite h (hbody _ _)))

theorem State.memForm.opContextCreate {s : State} (h : s.memForm) : (opContextCreate s).memForm :=
  h.onContext fun _ _ => .finish (.update h)

theorem State.memForm.opContextDestroy {s : State} (h : s.memForm) : (opContextDestroy s).memForm :=
  h.onContext fun _ _ => .ite h.finish (.ite h.finish (.finish (.update h)))

theorem State.memForm.opWindow {s : State} (h : s.memForm) : (opWindow s).memForm :=
  h.onCommand fun _ => .ite h.finish (.ite h (.finish (.update h)))

theorem State.memForm.dropFrames {s : State} (h : s.memForm) {fs} : (s.dropFrames fs).memForm :=
  .ite (.update h) h

theorem State.memForm.opFramePool {s : State} (h : s.memForm) : (opFramePool s).memForm :=
  h.onCommand fun _ => .ite h.finish (.ite h.finish h.dropFrames.setDie.finish)

theorem State.memForm.opTagStore {s : State} (h : s.memForm) : (opTagStore s).memForm :=
  h.onCommand fun _ => .ite h.finish (.ite h.finish h.setDie.finish)

theorem State.memForm.opTagRegister {s : State} (h : s.memForm) : (opTagRegister s).memForm := by
  unfold Machine.opTagRegister
  refine h.onCommand fun _ => ?_
  refine .ite h.finish ?_
  split
  · exact .finish (h.putTags ‹_›)
  · exact h.finish

theorem State.memForm.opDebug {s : State} (h : s.memForm) : (opDebug s).memForm := by
  unfold Machine.opDebug
  refine h.onCommand fun _ => ?_
  refine .ite h.finish ?_
  split
  · exact h.finish
  · exact h.setWarp.finish

theorem State.memForm.opPoisonRing {s : State} (h : s.memForm) : (opPoisonRing s).memForm :=
  h.onCommand fun _ => .ite h.finish (.finish (.update h))

theorem State.memForm.opFuseAdvance {s : State} (h : s.memForm) : (opFuseAdvance s).memForm :=
  h.onCommand fun _ => .ite h.finish (.finish (.update h))

theorem State.memForm.opReset {s : State} (h : s.memForm) {verdicts} : (opReset verdicts s).memForm :=
  h.onCommand fun _ => .ite h.deviceReset.bringUp.finish h.deviceReset.bringUp

theorem State.memForm.opBadCommand {s : State} (h : s.memForm) {mb} : (opBadCommand mb s).memForm := by
  unfold Machine.opBadCommand
  split
  · exact h
  · exact .ite h h.finish

theorem State.memForm.opStateSummary {s : State} (h : s.memForm) {mb} : (opStateSummary mb s).memForm :=
  .ite h (.ite h.finish (.finish (.setHost h (writeBytes_wf _ _ _ h.2))))

theorem State.memForm.opAttest {s : State} (h : s.memForm) {mb} : (opAttest mb s).memForm :=
  .ite h (.ite h.finish (.finish (.setHost h (writeBytes_wf _ _ _ h.2))))

theorem State.memForm.opThermalThrottle {s : State} (h : s.memForm) {die} :
    (opThermalThrottle die s).memForm :=
  .ite h h.setDie

theorem State.memForm.opThermalRecover {s : State} (h : s.memForm) {die} : (opThermalRecover die s).memForm :=
  .ite h (.ite h.setDie (.update h.setDie))

theorem State.memForm.opThermalShutdown {s : State} (h : s.memForm) : (opThermalShutdown s).memForm :=
  .ite h (.bankError (.update (h.foldl fun _ _ hs => hs.forceReset)))

/-! ## One arm per instruction -/

theorem State.memForm.exec {s : State} (h : s.memForm) {i} : FormOf .next (exec i s) := by
  cases i with
  | add | sub | mul | mulh | mulhn | div | divn | rem | remn | and | or | xor | shl | shr | sar | min | max
    | minn | maxn | setcEq | setcNe | setcLt | setcGe | setcLtn | setcGen => exact .of h.aluRR
  | addi | andi | ori | xori | shli | shri | sari | li | lih | orl => exact .of h.aluRI
  | b => exact .of h.setMe
  | call => exact .of h.opCall
  | bcEq | bcNe | bcLt | bcGe | bcLtn | bcGen | bcBs | bcBc => exact .of h.branchC
  | ret | jmpr => exact .of h.jumpReg
  | sld | sldAcq => exact .of h.scalarLoad
  | sst => exact .of h.scalarStore
  | sstRel => exact .of (h.release h.scalarStore)
  | satom => exact .of (.ite h.opSatom (h.release h.opSatom))
  | lrun => exact .of h.opLrun
  | lsync => exact .of h.opLsync
  | barBk | barGg | bareBk | bareGg => exact .of h.arrive
  | binit => exact .of h.opBinit
  | barrive => exact .of h.opBarrive
  | bwait => exact .of h.opBwait
  | bcont => exact .of h.opBcont
  | yieldC => exact .of h.opYieldC
  | copy => exact .of h.opCopy
  | mloop => exact .of h.opMloop
  | kseqLd => exact .of h.opKseqLd
  | kseqSt => exact .of h.opKseqSt
  | klenCommit => exact .of h.opKlenCommit
  | klenReject => exact .of h.opKlenReject
  | krot => exact .of h.opKrot
  | kreq => exact .of h.opKreq
  | ksum => exact .of h.opKsum
  | pmark => exact .of h.opPmark
  | xmap => exact .of h.opXmap
  | xlook => exact .of h.opXlook
  | xfill | xfillX24 => exact .of h.fillSlot
  | xevict => exact .of h.opXevict
  | xflush => exact .of h.opXflush
  | clk => exact .of h.opClk
  | cwait => exact .of h.opCwait
  | ftld => exact .of h.opFtld
  | ftsw => exact .of h.opFtsw
  | srr => exact .of h.opSrr
  | srw => exact .of h.opSrw
  | fence => exact .of h.opFence
  | trap => exact .of h.opTrap
  | eret => exact .of h.opEret
  | nop => exact .of h.scalarNext
  | launch => exact .of h.opLaunch
  | exit => exact .of h.opExit
  | grant => exact .of h.opGrant
  | gate => exact .of h.opGate
  | digr => exact .of h.opDigr
  | errqRead => exact .of h.opErrqRead
  | errqRepair => exact .of h.opErrqRepair
  | errqLog => exact .of h.opErrqLog
  | corectlDrain => exact .of h.opCorectlDrain
  | corectlIsolate => exact .of h.opCorectlIsolate
  | corectlRelease => exact .of h.opCorectlRelease
  | scan => exact .of h.opScan
  | scanwt => exact .of h.opScanwt
  | lcmap => exact .of h.opLcmap
  | wkill => exact .of h.opWkill
  | vadd | vsub | vmul | vmulh | vmad | vand | vor | vxor | vshl | vshr | vsar | vmin | vmax | vabs | vcnt
    | vclz | vbfx | vbfi | vsel | vmov | vwid | vbcast | fclass => exact .of h.laneMap
  | vcmp | mlog => exact .of h.laneMask
  | mcnt | vvote | vrdl => exact .of h.laneRet
  | vbr => exact .of h.opVbr
  | lend => exact .of h.opLend
  | vshuf => exact .of h.opVshuf
  | vscan => exact .of h.opVscan
  | vredx => exact .of h.opVredx
  | fadd | fsub | fmul | ffma | fmin | fmax | fcvt => exact .of h.floatMap
  | fdiv | fsqrt | frcp | frsq | fexp2 | flog2 | bdq => exact .of h.floatLong
  | fcmp => exact .of h.opFcmp
  | vrot => exact .of h.opVrot
  | vft => exact .of h.opVft
  | dadd | dsub | dmul | dfma | dqtz | dcvt => exact .of h.decLong
  | dcmp => exact .of h.opDcmp
  | bqnt => exact .of h.opBqnt
  | vld => exact .of h.opVld
  | vst => exact .of (h.laneRelease h.opVst)
  | vlds => exact .of h.opVlds
  | vsts => exact .of h.opVsts
  | vatom => exact .of (h.laneRelease h.opVatom)
  | vcas => exact .of (h.laneRelease h.opVcas)
  | mma | mmaNs | scacc => exact .of h.matrixRun
  | attb | attbResume => exact .of h.attbRun
  | kapp => exact .of h.opKapp
  | treq => exact .of h.opTreq
  | vstc => exact .of h.opVstc
  | vlda => exact .of h.opVlda
  | laneBlockStart => exact .of h.opLaneBlockStart
  | pathReconvergence => exact .of h.opPathReconvergence
  | laneLongCompletion => exact .of h.opLaneLongCompletion
  | streamUrgent => exact .of h.opStreamUrgent
  | faultDelivery => exact .of h.opFaultDelivery
  | parkReplay => exact .of h.opParkReplay
  | warpWake => exact .of h.opWarpWake
  | continuationSpawn => exact .of h.opContinuationSpawn
  | registerMiss => exact .of h.opRegisterMiss
  | mirrorCompare => exact .of h.opMirrorCompare
  | chainCardRead => exact .of h.opChainCardRead
  | copyJobStart => exact .of h.opCopyJobStart
  | copyChunk => exact .of h.opCopyChunk
  | copyJobFinish => exact .of h.opCopyJobFinish
  | ringReport => exact .of h.opRingReport
  | poisonReport => exact .of h.opPoisonReport
  | mloopStep => exact .of h.opMloopStep
  | energyRefill => exact .of h.opEnergyRefill
  | attbReissue => exact .of h.opAttbReissue
  | timetableEntryStart => exact .of h.opTimetableEntryStart
  | pageMove => exact .of h.opPageMove
  | syncSend => exact .of h.opSyncSend
  | syncReceive => exact .of h.opSyncReceive
  | stampedCommit => exact .of h.opStampedCommit
  | dieWide => exact .of h.opDieWide
  | linkFlitSend => exact .of h.opLinkFlitSend
  | linkFlitReceive => exact .of h.opLinkFlitReceive
  | linkReplay => exact .of h.opLinkReplay
  | linkRetrain => exact .of h.opLinkRetrain
  | retrainComplete => exact .of h.opRetrainComplete
  | linkDeadTimeout => exact .of h.opLinkDeadTimeout
  | advanceReceive => exact .of h.opAdvanceReceive
  | routeRecompute => exact .of h.opRouteRecompute
  | packetForward => exact .of h.opPacketForward
  | packetReceive => exact .of h.opPacketReceive
  | requestPerform => exact .of h.opRequestPerform
  | e2eAckReceive => exact .of h.opE2eAckReceive
  | e2eReplayTimeout => exact .of h.opE2eReplayTimeout
  | gatePass => exact .of h.opGatePass
  | errorBankUpdate => exact .of h.opErrorBankUpdate
  | scanComplete => exact .of h.opScanComplete
  | scanAbort => exact .of h.opScanAbort
  | hostProducerWrite => exact .of h.opHostProducerWrite
  | hostRegisterWrite => exact .of h.opHostRegisterWrite
  | hostReservedAccess => exact .of h.opHostReservedAccess
  | hostWindowAccess => exact .of h.opHostWindowAccess
  | hostQueueAccept => exact .of h.opHostQueueAccept
  | deviceQueueAccept => exact .of h.opDeviceQueueAccept
  | pennantRetest => exact .of h.opPennantRetest
  | graphAccept => exact .of h.opGraphAccept
  | graphNodeAccept => exact .of h.opGraphNodeAccept
  | blockAdmission => exact .of h.opBlockAdmission
  | agePromotion => exact .of h.opAgePromotion
  | preemptStart => exact .of h.opPreemptStart
  | rung2Stop => exact .of h.opRung2Stop
  | blockSave => exact .of h.opBlockSave
  | forcedReset => exact .of h.opForcedReset
  | blockResume => exact .of h.opBlockResume
  | launchCompletion => exact .of h.opLaunchCompletion
  | completionRingWrite => exact .of h.opCompletionRingWrite
  | powerOnBringUp => exact .of h.opPowerOnBringUp
  | setting => exact .of h.opSetting
  | queue => exact .of h.opQueue
  | contextCreate => exact .of h.opContextCreate
  | contextDestroy => exact .of h.opContextDestroy
  | window => exact .of h.opWindow
  | framePool => exact .of h.opFramePool
  | tagStore => exact .of h.opTagStore
  | tagRegister => exact .of h.opTagRegister
  | debug => exact .of h.opDebug
  | poisonRing => exact .of h.opPoisonRing
  | fuseAdvance => exact .of h.opFuseAdvance
  | stateSummary => exact .of h.opStateSummary
  | attest => exact .of h.opAttest
  | reset => exact .of h.opReset
  | thermalThrottle => exact .of h.opThermalThrottle
  | thermalRecover => exact .of h.opThermalRecover
  | thermalShutdown => exact .of h.opThermalShutdown
  | illegalOp => exact .of h.opIllegalOp
  | badCommand => exact .of h.opBadCommand
  | cwaitReturn => exact .of h.opCwaitReturn
  | asOfWaitEnd => exact .of h.opAsOfWaitEnd

/-! ## Fetching, issue and turns -/

theorem State.memForm.runScalar {s : State} (h : s.memForm) {w} : FormOf .next (s.runScalar w) := by
  unfold State.runScalar
  extract_lets pc
  split
  · exact .of (h.scalarWords ‹_›)
  · exact .of h.scalarFetchFault
  extract_lets w0 s'
  have hs' : s'.memForm := h.update
  split
  · exact hs'.exec
  · exact .of hs'.opIllegalOp

theorem State.memForm.runLane {s : State} (h : s.memForm) {w p} : FormOf .next (s.runLane w p) := by
  unfold State.runLane
  refine .ite (.of h.opAttbReissue) ?_
  split
  · exact .of (h.laneWords ‹_›)
  · exact .of h.laneFetchFault
  extract_lets w0 w1 w2 s'
  have hs' : s'.memForm := h.update
  split
  · exact hs'.exec
  · exact .of hs'.opIllegalOp

theorem State.memForm.runStream {s : State} (h : s.memForm) {w which} : FormOf .next (s.runStream w which) :=
  .ite h.runScalar h.runLane

theorem State.memForm.mirrorHolds {s : State} (h : s.memForm) {w which} : FormOf some (s.mirrorHolds w which) := by
  unfold State.mirrorHolds
  extract_lets x
  split
  · exact nofun
  split
  · exact nofun
  extract_lets n
  exact .ite (.of h) (.ite nofun (.ite (.of h.setWarp) (.of h)))

theorem State.memForm.mirrorOwes {s after : State} (hafter : after.memForm) {w which} :
    (s.mirrorOwes after w which).memForm := by
  unfold State.mirrorOwes
  split
  · exact hafter
  split
  · exact hafter
  · exact hafter.setWarp

theorem State.memForm.mirrorIssue {s : State} (h : s.memForm) {w lane} : (s.mirrorIssue w lane).memForm := by
  unfold State.mirrorIssue
  split
  · exact h
  split
  · exact h
  · exact .ite h (.ite (.setCore (.setWarp (.ite h h.debit))) (.setWarp (.ite h h.debit)))

theorem State.memForm.raiseStep {s : State} (h : s.memForm) {w which} : (s.raiseStep w which).memForm := by
  unfold State.raiseStep
  split
  · exact h
  · exact .ite h h.setWarp.tryDeliver

theorem State.memForm.noteIssue {s : State} (h : s.memForm) {core w which} : (s.noteIssue core w which).memForm := by
  unfold State.noteIssue
  split
  · exact h
  · exact .ite h.setWarp h.setWarp.setCore

theorem State.memForm.afterRun {s after : State} (hafter : after.memForm) {w which} :
    (s.afterRun w which after).memForm :=
  have howes : (s.mirrorOwes after w which).memForm := hafter.mirrorOwes
  .ite howes (.ite howes.noteIssue.raiseStep howes.noteIssue)

theorem State.memForm.issue {s : State} (h : s.memForm) {w which} : FormOf .next (s.issue w which) := by
  unfold State.issue
  refine .ite (.of h.stopAtSafe) ?_
  split
  · exact .of (h.mirrorHolds ‹_›)
  · exact h.runStream.map fun _ ht => ht.afterRun

theorem State.memForm.laneTurn {s : State} (h : s.memForm) {w p} : FormOf .next (s.laneTurn w p) :=
  .ite h.issue (.of h)

theorem State.memForm.move {s : State} (h : s.memForm) {m} : FormOf .next (s.move m) := by
  unfold State.move
  split
  · exact .ite h.laneTurn (.of h)
  · exact .ite h.exec (.of h)
  · exact .of (.ite h.mirrorIssue h)
  · exact .ite h.issue (.of h)
  · exact h.laneTurn

theorem State.memForm.refresh {s : State} (h : s.memForm) : s.refresh.memForm := h.update

theorem State.memForm.passTime {s : State} (h : s.memForm) {ticks} : (s.passTime ticks).memForm :=
  .ite h (.foldl h.refresh.update fun _ _ hs => hs.noteWide)

theorem State.memForm.nextTurn {s : State} (h : s.memForm) : SndForm s.nextTurn := by
  unfold State.nextTurn
  split
  · exact .of h.update
  · exact .of h.update

/-! ## One step -/

theorem State.memForm.step {s : State} (h : s.memForm) : FormOf .next (step s) :=
  State.memForm.move (State.memForm.passTime (h.nextTurn rfl))

/-- Settles O50: the turn taken and the time that passes change neither memory, and the mover's move keeps their
form. -/
theorem stepsKeepTheMemoryForm : Obligations.StepsKeepTheMemoryForm := by
  unfold Obligations.StepsKeepTheMemoryForm
  intro s t h e
  exact h.step e

end Sys2Proof.Machine
end

section
/-! O55: how a path splits, waits at its joins and ends (R30, R32, R33, R91, R92). -/

namespace Sys2Proof.Machine
open Sys2Proof.Claims

/-! ## The path slots of a warp -/

@[simp] theorem warpPath_setPath (x : Warp) (p : Nat) (q : Path) : warpPath (setPath x p q) p = q := by
  unfold warpPath setPath
  split <;> rfl

/-- A write to a path slot leaves the other slot. -/
theorem warpPath_setPath_other {p : Nat} (hp : p ≤ 1) (x : Warp) (q : Path) :
    warpPath (setPath x p q) (1 - p) = warpPath x (1 - p) := by
  obtain rfl | rfl : p = 0 ∨ p = 1 := by omega
  · rfl
  · rfl

@[simp] theorem setPath_stack (x : Warp) (p : Nat) (q : Path) : (setPath x p q).stack = x.stack := by
  unfold setPath; split <;> rfl

@[simp] theorem setPath_running (x : Warp) (p : Nat) (q : Path) : (setPath x p q).running = x.running := by
  unfold setPath; split <;> rfl

@[simp] theorem pathsRest_setPath (x : Warp) (p : Nat) (q : Path) : pathsRest (setPath x p q) = pathsRest x := by
  unfold setPath; split <;> rfl

/-- A warp with a live path has one in either slot. -/
theorem live_slots {p : Nat} (hp : p ≤ 1) (x : Warp) :
    (x.path0.live || x.path1.live) = ((warpPath x p).live || (warpPath x (1 - p)).live) := by
  obtain rfl | rfl : p = 0 ∨ p = 1 := by omega
  · rfl
  · exact Bool.or_comm ..

/-! ## The divergence stack (R33) -/

/-- The most recent entry that satisfies a test is the one with none after it that does. -/
theorem popLast_append {t : StackEntry → Bool} {a b : List StackEntry} {e : StackEntry} (he : t e = true)
    (hb : ∀ x ∈ b, t x = false) : popLast t (a ++ e :: b) = some (e, a ++ b) := by
  have hb' : ∀ x ∈ b.reverse, ¬ t x = true := by simpa using hb
  have hr : (a ++ e :: b).reverse = b.reverse ++ e :: a.reverse := by simp
  have hf : (a ++ e :: b).reverse.find? t = some e := by
    rw [hr, List.find?_append, List.find?_eq_none.2 hb', Option.none_or, List.find?_cons_of_pos he]
  simp only [popLast, hf]
  rw [hr, List.eraseP_append_right _ hb', List.eraseP_cons_of_pos he]
  simp

theorem popLast_none {t : StackEntry → Bool} {l : List StackEntry} (h : ∀ x ∈ l, t x = false) : popLast t l = none := by
  have hf : l.reverse.find? t = none := List.find?_eq_none.2 (by simpa using h)
  simp only [popLast, hf]

/-- A stack has a most recent entry that satisfies a test, or none. -/
theorem exists_last_or_none (t : StackEntry → Bool) (l : List StackEntry) :
    (∃ a e b, l = a ++ e :: b ∧ t e = true ∧ ∀ x ∈ b, t x = false) ∨ ∀ x ∈ l, t x = false := by
  induction l with
  | nil => exact .inr (by simp)
  | cons y l ih =>
    rcases ih with ⟨a, e, b, rfl, he, hb⟩ | h
    · exact .inl ⟨y :: a, e, b, rfl, he, hb⟩
    · cases hy : t y with
      | true => exact .inl ⟨[], y, l, rfl, hy, h⟩
      | false => exact .inr (by simpa [hy] using h)

theorem joinDone_iff (e : StackEntry) : joinDone e = true ↔ Complete e := by simp [joinDone, Complete]

/-- The path that takes a freed slot from a stack entry. -/
def resumed (e : StackEntry) : Path :=
  { freePath with live := true, mask := e.mask, pc := e.pc, rpc := e.rpc, last := e.from_ }

theorem resumed_is (e : StackEntry) : PathIs (resumed e) e.mask e.pc e.rpc := ⟨rfl, rfl, rfl, rfl⟩

/-- The stack after joins that have become empty are discarded. -/
def keptEntries (st : List StackEntry) : List StackEntry := st.filter fun e => !(e.isJoin && e.mask == 0)

theorem settleJoins_complete {x : Warp} {p : Nat} {a b : List StackEntry} {e : StackEntry}
    (h : keptEntries x.stack = a ++ e :: b) (he : Complete e) (hb : ∀ y ∈ b, ¬ Complete y) :
    settleJoins x p = setPath { x with stack := a ++ b } p (resumed e) := by
  have hp : popLast joinDone (keptEntries x.stack) = some (e, a ++ b) := by
    rw [h]
    exact popLast_append ((joinDone_iff e).2 he) fun y hy => by simpa [← joinDone_iff] using hb y hy
  unfold keptEntries at hp
  simp only [settleJoins, hp]
  rfl

theorem settleJoins_suspended {x : Warp} {p : Nat} {a b : List StackEntry} {e : StackEntry}
    (h : keptEntries x.stack = a ++ e :: b) (hc : ∀ y ∈ keptEntries x.stack, ¬ Complete y) (he : e.isJoin = false)
    (hb : ∀ y ∈ b, y.isJoin = true) :
    settleJoins x p = setPath { x with stack := a ++ b } p (resumed e) := by
  have hn : popLast joinDone (keptEntries x.stack) = none :=
    popLast_none fun y hy => by simpa [← joinDone_iff] using hc y hy
  have hp : popLast (fun e => !e.isJoin) (keptEntries x.stack) = some (e, a ++ b) := by
    rw [h]
    exact popLast_append (by simp [he]) fun y hy => by simp [hb y hy]
  unfold keptEntries at hn hp
  simp only [settleJoins, hn, hp]
  rfl

theorem settleJoins_none {x : Warp} {p : Nat}
    (h : ∀ y ∈ keptEntries x.stack, ¬ Complete y ∧ y.isJoin = true) :
    settleJoins x p = { x with stack := keptEntries x.stack } := by
  have hn : popLast joinDone (keptEntries x.stack) = none :=
    popLast_none fun y hy => by simpa [← joinDone_iff] using (h y hy).1
  have hp : popLast (fun e => !e.isJoin) (keptEntries x.stack) = none :=
    popLast_none fun y hy => by simp [(h y hy).2]
  unfold keptEntries at hn hp ⊢
  simp only [settleJoins, hn, hp]

/-- What settling a slot can do: an entry of the stack takes it, or nothing does. -/
theorem settleJoins_cases (x : Warp) (p : Nat) :
    (∃ st e, settleJoins x p = setPath { x with stack := st } p (resumed e)) ∨
      settleJoins x p = { x with stack := keptEntries x.stack } := by
  rcases exists_last_or_none joinDone (keptEntries x.stack) with ⟨a, e, b, h, he, hb⟩ | hc
  · exact .inl ⟨a ++ b, e, settleJoins_complete h ((joinDone_iff e).1 he) fun y hy => by
      simpa [← joinDone_iff] using hb y hy⟩
  · have hc' : ∀ y ∈ keptEntries x.stack, ¬ Complete y := fun y hy => by simpa [← joinDone_iff] using hc y hy
    rcases exists_last_or_none (fun e => !e.isJoin) (keptEntries x.stack) with ⟨a, e, b, h, he, hb⟩ | hj
    · exact .inl ⟨a ++ b, e, settleJoins_suspended h hc' (by simpa using he) fun y hy => by simpa using hb y hy⟩
    · exact .inr (settleJoins_none fun y hy => ⟨hc' y hy, by simpa using hj y hy⟩)

/-- R33: a slot that is free is settled from the stack. -/
theorem settleJoins_settles {x : Warp} {p : Nat} (hfree : (warpPath x p).live = false) :
    Settles x.stack (warpPath (settleJoins x p) p) (settleJoins x p).stack := by
  refine ⟨fun a e b h he hb => ?_, fun a e b h hc he hb => ?_, fun h => ?_⟩
  · rw [settleJoins_complete h he hb]
    exact ⟨by simpa using resumed_is e, by simp⟩
  · rw [settleJoins_suspended h hc he hb]
    exact ⟨by simpa using resumed_is e, by simp⟩
  · rw [settleJoins_none h]
    exact ⟨hfree, rfl⟩

/-- Settling a slot changes only that slot and the stack. -/
theorem settleJoins_rest (x : Warp) (p : Nat) : pathsRest (settleJoins x p) = pathsRest x := by
  rcases settleJoins_cases x p with ⟨st, e, h⟩ | h
  · rw [h, pathsRest_setPath]; rfl
  · rw [h]; rfl

theorem settleJoins_running (x : Warp) (p : Nat) : (settleJoins x p).running = x.running := by
  rcases settleJoins_cases x p with ⟨st, e, h⟩ | h
  · rw [h, setPath_running]
  · rw [h]

theorem settleJoins_other {p : Nat} (hp : p ≤ 1) (x : Warp) :
    warpPath (settleJoins x p) (1 - p) = warpPath x (1 - p) := by
  rcases settleJoins_cases x p with ⟨st, e, h⟩ | h
  · rw [h, warpPath_setPath_other hp]; rfl
  · rw [h]; rfl

/-- A path that arrives joins the most recent join at its PC (R33). -/
theorem joinArrive_append {a b : List StackEntry} {e : StackEntry} {pc : Nat} (m : W32) (hj : e.isJoin = true)
    (hpc : e.pc = pc) (hb : ∀ y ∈ b, y.isJoin = true → y.pc ≠ pc) :
    joinArrive (a ++ e :: b) pc m = a ++ { e with arrived := e.arrived ||| m } :: b := by
  have he : (e.isJoin && e.pc == pc) = true := by simp [hj, hpc]
  have hb' : ∀ y ∈ b, (y.isJoin && y.pc == pc) = false := fun y hy => by
    cases h : y.isJoin with
    | false => rfl
    | true => simpa using hb y hy h
  have hr : (a ++ e :: b).reverse = b.reverse ++ e :: a.reverse := by simp
  have hi : (b.reverse ++ e :: a.reverse).findIdx (fun e => e.isJoin && e.pc == pc) = b.reverse.length := by
    have hlen : b.reverse.findIdx (fun e => e.isJoin && e.pc == pc) = b.reverse.length :=
      List.findIdx_eq_length.2 (by simpa using hb')
    rw [List.findIdx_append, hlen, if_neg (Nat.lt_irrefl _), List.findIdx_cons, he]
    simp
  have hm (f : StackEntry → StackEntry) : (b.reverse ++ e :: a.reverse).modify b.reverse.length f =
      b.reverse ++ f e :: a.reverse := by
    have := List.modifyTailIdx_add (List.modifyHead f) 0 b.reverse (e :: a.reverse)
    simpa [List.modify] using this
  simp only [joinArrive, popLast_append (t := fun e => e.isJoin && e.pc == pc) he hb', hr, hi, hm]
  simp

/-! ## VBR (R32, R91) -/

/-- A lane PC within the code section is the one reached. -/
theorem lanePc_eq {l : LaunchRec} {pc tgt : Nat} {off : Int} (h : (tgt : Int) = pc + 12 + 12 * off)
    (hl : tgt < l.lbytes) : lanePc l pc off = some tgt := by
  unfold lanePc
  rw [← h, if_pos (by omega)]
  rfl

/-- The warp after a branch of path `p`: its slot holds `q`, its stack is `st`, and one more lane instruction has issued. -/
def branchTo (x : Warp) (p : Nat) (q : Path) (st : List StackEntry) : Warp :=
  { setPath x p q with lastPath := p, issuedL := x.issuedL + 1, stack := st }

@[simp] theorem branchTo_stack (x : Warp) (p : Nat) (q : Path) (st : List StackEntry) :
    (branchTo x p q st).stack = st := rfl
@[simp] theorem branchTo_running (x : Warp) (p : Nat) (q : Path) (st : List StackEntry) :
    (branchTo x p q st).running = x.running := setPath_running x p q
@[simp] theorem branchTo_path (x : Warp) (p : Nat) (q : Path) (st : List StackEntry) :
    warpPath (branchTo x p q st) p = q := warpPath_setPath x p q
theorem branchTo_other {p : Nat} (hp : p ≤ 1) (x : Warp) (q : Path) (st : List StackEntry) :
    warpPath (branchTo x p q st) (1 - p) = warpPath x (1 - p) := warpPath_setPath_other hp x q
@[simp] theorem branchTo_rest (x : Warp) (p : Nat) (q : Path) (st : List StackEntry) :
    pathsRest (branchTo x p q st) = pathsRest x := pathsRest_setPath x p q

/-- A branch that fills the other slot too. -/
theorem branchTo_setPath_other {p : Nat} (hp : p ≤ 1) (x : Warp) (q r : Path) (st : List StackEntry) :
    { setPath { setPath x p q with lastPath := p, issuedL := x.issuedL + 1 } (1 - p) r with stack := st } =
      branchTo (setPath x (1 - p) r) p q st := by
  obtain rfl | rfl : p = 0 ∨ p = 1 := by omega
  · rfl
  · rfl

/-- A branch that leaves the stack alone. -/
theorem branchTo_same_stack (x : Warp) (p : Nat) (q : Path) :
    { setPath x p q with lastPath := p, issuedL := x.issuedL + 1 } = branchTo x p q x.stack := by
  unfold branchTo setPath
  split <;> rfl

/-- What VBR does once its path has nothing outstanding and its target and its reconvergence PC lie in the code section. -/
theorem opVbr_eq {s : State} {f : LaneF} {tgt join : Nat} (hp : s.cur.path ≤ 1) (ho : s.myPath.outs = [])
    (ht : lanePc s.myLaunch.record s.myPath.pc f.aux.toInt = some tgt)
    (hj : lanePc s.myLaunch.record s.myPath.pc (f.ctl.extractLsb' 0 13).toInt = some join) :
    opVbr f s =
      let x := s.me
      let p := s.cur.path
      let q := s.myPath
      let taken := act s f &&& mreg x p f.va.toNat
      let kept := q.mask &&& ~~~taken
      let other := warpPath x (1 - p)
      let entry : StackEntry := ⟨true, q.mask, join, q.rpc, 0, q.pc⟩
      let stays : Path := { stepPath q with mask := kept, rpc := some join }
      if taken = 0 then s.setMe (branchTo x p (stepPath q) x.stack)
      else if kept = 0 then s.setMe (branchTo x p { stepPath q with pc := tgt } x.stack)
      else if x.stack.length + (if other.live then 2 else 1) > 16 then s.laneFault 0x07 0 0
      else if other.live then
        s.setMe (branchTo x p stays (x.stack ++ [entry, ⟨false, taken, tgt, some join, 0, q.pc⟩]))
      else s.setMe (branchTo (setPath x (1 - p)
        { freePath with live := true, mask := taken, pc := tgt, rpc := some join, last := q.pc }) p stays
        (x.stack ++ [entry])) := by
  simp only [opVbr, ho, List.isEmpty_nil, Bool.not_true, Bool.false_eq_true, if_false, ht, hj]
  refine if_congr Iff.rfl ?_ (if_congr Iff.rfl ?_ (if_congr Iff.rfl rfl (if_congr Iff.rfl rfl ?_)))
  · exact congrArg s.setMe (branchTo_same_stack ..)
  · exact congrArg s.setMe (branchTo_same_stack ..)
  · exact congrArg s.setMe (branchTo_setPath_other hp ..)

/-- A change of the current warp's paths and stack only. -/
theorem branched_setMe {s : State} {x : Warp} (h : pathsRest x = pathsRest s.me) : Branched s (s.setMe x) :=
  ⟨OnlyWarp.setMe s x, by rw [State.setMe_me, h]⟩

/-- R32, R91: VBR in each of its cases. -/
theorem branchesSplitTheirPath : BranchesSplitTheirPath := by
  intro s f other tgt join hp hlive houts hother ht htl hj hjl q taken kept
  have heq : exec (.vbr f) s = .next _ :=
    congrArg Host.Outcome.next (opVbr_eq (f := f) hp houts (lanePc_eq ht htl) (lanePc_eq hj hjl))
  subst hother
  refine ⟨fun h0 => ?_, fun h0 hk => ?_, fun h0 hk ho hl => ?_, fun h0 hk ho hl => ?_, fun h0 hk hl => ?_⟩
  · refine ⟨_, heq.trans (congrArg _ (if_pos h0)), branched_setMe (by simp), ?_⟩
    simp [branchTo_other hp, q]
  · refine ⟨_, heq.trans (congrArg _ ((if_neg h0).trans (if_pos hk))), branched_setMe (by simp), ?_⟩
    exact ⟨by simpa [PathIs] using ⟨hlive, rfl, rfl⟩, by simp [branchTo_other hp]⟩
  · refine ⟨_, heq.trans (congrArg _ ((if_neg h0).trans ((if_neg hk).trans ((if_neg ?_).trans (if_neg ?_))))),
      branched_setMe (by simp), ?_⟩
    · simpa [ho] using hl
    · simp [ho]
    · exact ⟨by simpa [PathIs] using ⟨hlive, rfl, rfl⟩, by simp [branchTo_other hp, PathIs, q, taken]⟩
  · refine ⟨_, heq.trans (congrArg _ ((if_neg h0).trans ((if_neg hk).trans ((if_neg ?_).trans (if_pos ho))))),
      branched_setMe (by simp), ?_⟩
    · rw [if_pos ho]; omega
    · exact ⟨by simpa [PathIs] using ⟨hlive, rfl, rfl⟩, by simp [branchTo_other hp, q, taken]⟩
  · exact heq.trans (congrArg _ ((if_neg h0).trans ((if_neg hk).trans (if_pos hl))))

/-! ## Block start, the end of a path, reconvergence (R30, R33, R92) -/

/-- The next queued block of a warp starts (R30). -/
theorem laneBlockStart_starts {s : State} {w : Nat} {b : LaneBlock} {rest : List LaneBlock}
    (hr : (s.warp w).running = none) (hq : (s.warp w).queue = b :: rest) (hh : (s.warp w).handler = false)
    (hp : (s.warp w).pend = none) (hs : (s.warp w).stopped = false) :
    opLaneBlockStart w s = s.setWarp w { s.warp w with
      running := some b, startL := (s.warp w).issuedL, queue := rest
      path0 := { freePath with live := true, mask := BitVec.allOnes 32, pc := b.pc, last := b.pc }
      path1 := freePath, lastPath := 0, stack := [] } := by
  simp [opLaneBlockStart, hr, hq, hh, hp, hs]

/-- The warp of a path that has left its slot and every join, before the slot is settled (R33). -/
def leftPath (x : Warp) (p : Nat) : Warp :=
  branchTo x p freePath (x.stack.map fun e =>
    if e.isJoin then { e with mask := e.mask &&& ~~~(warpPath x p).mask } else e)

theorem endPath_eq (x : Warp) (p : Nat) :
    endPath x p =
      let y := settleJoins (leftPath x p) p
      if y.path0.live || y.path1.live then y else { y with running := none, stack := [] } := by
  unfold endPath leftPath branchTo
  rfl

/-- R33, R92: LEND. -/
theorem lend_settles {s : State} (f : LaneF) (hp : s.cur.path ≤ 1) (ho : s.myPath.outs = []) :
    let strip (e : StackEntry) : StackEntry := if e.isJoin then { e with mask := e.mask &&& ~~~s.myPath.mask } else e
    let other := warpPath s.me (1 - s.cur.path)
    ∃ t q left, exec (.lend f) s = .next t ∧ Branched s t ∧ Settles (s.me.stack.map strip) q left ∧
      warpPath t.me (1 - s.cur.path) = other ∧
      (q.live = true ∨ other.live = true → t.myPath = q ∧ t.me.stack = left ∧ t.me.running = s.me.running) ∧
      (q.live = false → other.live = false → t.myPath.live = false ∧ t.me.stack = [] ∧ t.me.running = none) := by
  intro strip other
  have he : opLend s = s.setMe (endPath s.me s.cur.path) := by simp [opLend, ho]
  generalize hy : settleJoins (leftPath s.me s.cur.path) s.cur.path = y
  have hrest : pathsRest y = pathsRest s.me := by rw [← hy, settleJoins_rest, leftPath, branchTo_rest]
  have hother : warpPath y (1 - s.cur.path) = other := by
    rw [← hy, settleJoins_other hp, leftPath, branchTo_other hp]
  have hrun : y.running = s.me.running := by rw [← hy, settleJoins_running, leftPath, branchTo_running]
  have hset : Settles (s.me.stack.map strip) (warpPath y s.cur.path) y.stack := by
    have := settleJoins_settles (x := leftPath s.me s.cur.path) (p := s.cur.path) (by simp [leftPath, freePath])
    rwa [hy] at this
  have hlive := live_slots hp y
  rw [hother] at hlive
  refine ⟨_, warpPath y s.cur.path, y.stack, congrArg Host.Outcome.next he, ?_⟩
  cases hl : (warpPath y s.cur.path).live || other.live with
  | true =>
    have hend : endPath s.me s.cur.path = y := by simp [endPath_eq, hy, hlive, hl]
    rw [hend]
    refine ⟨branched_setMe hrest, hset, by simpa using hother, fun _ => by simp [hrun], fun hq ho => ?_⟩
    exact absurd hl (by simp [hq, ho])
  | false =>
    obtain ⟨hq, ho⟩ := Bool.or_eq_false_iff.1 hl
    have hend : endPath s.me s.cur.path = { y with running := none, stack := [] } := by
      simp [endPath_eq, hy, hlive, hl]
    rw [hend]
    refine ⟨branched_setMe hrest, hset, ?_, fun h => ?_, fun _ _ => ?_⟩
    · exact (congrArg (warpPath · _) (State.setMe_me ..)).trans hother
    · simp [hq, ho] at h
    · rw [State.setMe_myPath, State.setMe_me]
      exact ⟨hq, rfl, rfl⟩

/-- The warp of a path that has left its slot, with the stack `st`. -/
def freed (x : Warp) (p : Nat) (st : List StackEntry) : Warp := { setPath x p freePath with stack := st }

/-- R33: a path at its reconvergence PC arrives at its join, and its slot is settled. -/
theorem pathReconvergence_settles {s : State} {w p : Nat} {a b : List StackEntry} {e : StackEntry} (hp : p ≤ 1)
    (hl : (warpPath (s.warp w) p).live = true) (hs : (s.warp w).stopped = false)
    (hr : (warpPath (s.warp w) p).rpc = some (warpPath (s.warp w) p).pc) (ho : (warpPath (s.warp w) p).outs = [])
    (hst : (s.warp w).stack = a ++ e :: b) (hj : e.isJoin = true) (hpc : e.pc = (warpPath (s.warp w) p).pc)
    (hb : ∀ y ∈ b, y.isJoin = true → y.pc ≠ (warpPath (s.warp w) p).pc) :
    opPathReconvergence w p s = s.setWarp w (settleJoins (freed (s.warp w) p
      (a ++ { e with arrived := e.arrived ||| (warpPath (s.warp w) p).mask } :: b)) p) := by
  simp [opPathReconvergence, freed, hp, hl, hs, hr, ho, hst, joinArrive_append _ hj hpc hb]

/-- R30, R33, R92: blocks start, paths end and arrive. -/
theorem blocksStartAndPathsEnd : BlocksStartAndPathsEnd := by
  refine ⟨?_, fun s f hp ho => lend_settles f hp ho, ?_⟩
  · intro s w b rest x hr hq hh hp hs
    refine ⟨_, congrArg Host.Outcome.next (laneBlockStart_starts hr hq hh hp hs), OnlyWarp.setWarp .., ?_⟩
    rw [State.warp_setWarp, if_pos rfl]
    exact ⟨rfl, rfl, rfl, rfl, ⟨rfl, rfl, rfl, rfl⟩, rfl, rfl⟩
  · intro s w p a b e x q hp hl hs hr ho hst hj hpc hb
    refine ⟨_, congrArg Host.Outcome.next (pathReconvergence_settles hp hl hs hr ho hst hj hpc hb),
      OnlyWarp.setWarp .., ?_⟩
    generalize hz : freed x p (a ++ { e with arrived := e.arrived ||| q.mask } :: b) = z
    have hfree : (warpPath z p).live = false := hz ▸ congrArg Path.live (warpPath_setPath ..)
    have hset := settleJoins_settles hfree
    rw [State.warp_setWarp, if_pos rfl, settleJoins_rest, settleJoins_running, settleJoins_other hp]
    subst hz
    exact ⟨pathsRest_setPath .., setPath_running .., warpPath_setPath_other hp .., hset⟩

/-- Settles O55: VBR by its cases, the other steps by what settling a slot from the stack does. -/
theorem pathsSplitJoinAndEnd : Obligations.PathsSplitJoinAndEnd :=
  ⟨branchesSplitTheirPath, blocksStartAndPathsEnd⟩

end Sys2Proof.Machine
end

section
/-! O60: the completion of long lane instructions, and the waits of a stream (R36, R138, R141, R143, R201, R266, R267, R342
to R344). -/

namespace Sys2Proof.Machine
open Sys2Proof.Claims

/-! ## Held register writes (R49, R138) -/

theorem vreg_of_v {x y : Warp} (h : y.v = x.v) (r l : Nat) : vreg y r l = vreg x r l := by
  unfold vreg
  rw [h]

/-- A lane register after a write of a lane of a register. -/
theorem vreg_setVreg (x : Warp) {n l r k : Nat} (hl : l < 32) (hk : k < 32) (v : W32) :
    vreg (setVreg x n l v) r k = if r = n ∧ k = l then v else vreg x r k := by
  simp only [vreg, setVreg, spGet_spSet]
  exact if_congr (by omega) rfl rfl

/-- Held writes change the lane registers only. -/
theorem applyRegWrites_eq (x : Warp) (ws : List RegW) : ∃ v, applyRegWrites x ws = { x with v := v } := by
  unfold applyRegWrites
  induction ws generalizing x with
  | nil => exact ⟨x.v, rfl⟩
  | cons e ws ih =>
    obtain ⟨v, h⟩ := ih (setVreg x e.reg e.lane e.val)
    exact ⟨v, h⟩

@[simp] theorem applyRegWrites_s (x : Warp) (ws : List RegW) : (applyRegWrites x ws).s = x.s := by
  obtain ⟨v, h⟩ := applyRegWrites_eq x ws; rw [h]
@[simp] theorem applyRegWrites_m (x : Warp) (ws : List RegW) : (applyRegWrites x ws).m = x.m := by
  obtain ⟨v, h⟩ := applyRegWrites_eq x ws; rw [h]
@[simp] theorem warpPath_applyRegWrites (x : Warp) (ws : List RegW) (p : Nat) :
    warpPath (applyRegWrites x ws) p = warpPath x p := by
  obtain ⟨v, h⟩ := applyRegWrites_eq x ws; rw [h]; rfl
@[simp] theorem laneRest_applyRegWrites (x : Warp) (ws : List RegW) (p : Nat) :
    laneRest (applyRegWrites x ws) p = laneRest x p := by
  obtain ⟨v, h⟩ := applyRegWrites_eq x ws
  rw [h]
  unfold laneRest setPath
  split <;> rfl

/-- A lane of a register that no held write names stays. -/
theorem vreg_applyRegWrites_other (x : Warp) {ws : List RegW} {r l : Nat} (hl : l < 32) (hw : ∀ e ∈ ws, e.lane < 32)
    (hn : ∀ e ∈ ws, ¬ (e.reg = r ∧ e.lane = l)) : vreg (applyRegWrites x ws) r l = vreg x r l := by
  unfold applyRegWrites
  induction ws generalizing x with
  | nil => rfl
  | cons e ws ih =>
    rw [List.foldl_cons, ih _ (fun d hd => hw d (.tail _ hd)) fun d hd => hn d (.tail _ hd),
      vreg_setVreg x (hw e (.head _)) hl, if_neg fun h => hn e (.head _) ⟨h.1.symm, h.2.symm⟩]

/-- Every lane that held writes name has the value of the last that names it, every other what it had. -/
def RegsWritten (x y : Warp) (ws : List RegW) : Prop := ∀ r l, l < 32 →
  (∀ (pre : List RegW) (e : RegW) (post : List RegW), ws = pre ++ e :: post → e.reg = r → e.lane = l →
    (∀ d ∈ post, ¬ (d.reg = r ∧ d.lane = l)) → vreg y r l = e.val) ∧ ((∀ e ∈ ws, ¬ (e.reg = r ∧ e.lane = l)) → vreg y r l = vreg x r l)

theorem applyRegWrites_written (x : Warp) {ws : List RegW} (hw : ∀ e ∈ ws, e.lane < 32) :
    RegsWritten x (applyRegWrites x ws) ws := by
  intro r l hl
  refine ⟨fun pre e post hws hr hlane hpost => ?_, vreg_applyRegWrites_other x hl hw⟩
  subst hws hr hlane
  have hp := vreg_applyRegWrites_other (setVreg (applyRegWrites x pre) e.reg e.lane e.val) hl
    (fun d hd => hw d (by simp [hd])) hpost
  rw [vreg_setVreg _ hl hl, if_pos ⟨rfl, rfl⟩] at hp
  simpa [applyRegWrites] using hp

/-! ## Held mask writes (R81) -/

theorem applyMaskWrites_eq (x : Warp) (ws : List MaskW) : ∃ m, applyMaskWrites x ws = { x with m := m } := by
  unfold applyMaskWrites
  induction ws generalizing x with
  | nil => exact ⟨x.m, rfl⟩
  | cons e ws ih =>
    have hs : ∃ m, setMask x e.mask e.lanes e.bits = { x with m := m } := by
      unfold setMask
      split
      · exact ⟨x.m, rfl⟩
      · exact ⟨_, rfl⟩
    obtain ⟨m, h⟩ := ih (setMask x e.mask e.lanes e.bits)
    obtain ⟨m', h'⟩ := hs
    exact ⟨m, by rw [List.foldl_cons, h, h']⟩

@[simp] theorem applyMaskWrites_s (x : Warp) (ws : List MaskW) : (applyMaskWrites x ws).s = x.s := by
  obtain ⟨m, h⟩ := applyMaskWrites_eq x ws; rw [h]
@[simp] theorem applyMaskWrites_v (x : Warp) (ws : List MaskW) : (applyMaskWrites x ws).v = x.v := by
  obtain ⟨m, h⟩ := applyMaskWrites_eq x ws; rw [h]
@[simp] theorem warpPath_applyMaskWrites (x : Warp) (ws : List MaskW) (p : Nat) :
    warpPath (applyMaskWrites x ws) p = warpPath x p := by
  obtain ⟨m, h⟩ := applyMaskWrites_eq x ws; rw [h]; rfl
@[simp] theorem laneRest_applyMaskWrites (x : Warp) (ws : List MaskW) (p : Nat) :
    laneRest (applyMaskWrites x ws) p = laneRest x p := by
  obtain ⟨m, h⟩ := applyMaskWrites_eq x ws
  rw [h]
  unfold laneRest setPath
  split <;> rfl

/-- A bit of a mask after a write of the bits of some lanes of a mask that is not m0. -/
theorem hasLane_setMask (x : Warp) {k m : Nat} (hk : k ≠ 0) (lanes bits : W32) (l : Nat) :
    hasLane (spGet (setMask x k lanes bits).m m) l =
      if m = k ∧ hasLane lanes l = true then hasLane bits l else hasLane (spGet x.m m) l := by
  by_cases h : m = k
  · subst h
    by_cases hi : l < 32
    · cases hl : lanes[l] <;> simp [setMask, hk, hasLane, hi, hl]
    · simp [hasLane, BitVec.getLsbD_of_ge _ _ (Nat.le_of_not_lt hi)]
  · simp [setMask, hk, h]

/-- A lane of a mask that no held write names stays. -/
theorem hasLane_applyMaskWrites_other (x : Warp) {ws : List MaskW} {m l : Nat}
    (hn : ∀ e ∈ ws, e.mask = m → ¬ hasLane e.lanes l) :
    hasLane (spGet (applyMaskWrites x ws).m m) l = hasLane (spGet x.m m) l := by
  unfold applyMaskWrites
  induction ws generalizing x with
  | nil => rfl
  | cons e ws ih =>
    rw [List.foldl_cons, ih _ fun d hd => hn d (.tail _ hd)]
    by_cases h0 : e.mask = 0
    · simp [setMask, h0]
    · rw [hasLane_setMask x h0, if_neg fun h => hn e (.head _) h.1.symm h.2]

/-- The last held write that names a lane of a mask gives its bit. -/
theorem hasLane_applyMaskWrites_last (x : Warp) {pre post : List MaskW} {e : MaskW} {l : Nat} (hm : e.mask ≠ 0)
    (hl : hasLane e.lanes l) (hn : ∀ d ∈ post, d.mask = e.mask → ¬ hasLane d.lanes l) :
    hasLane (spGet (applyMaskWrites x (pre ++ e :: post)).m e.mask) l = hasLane e.bits l := by
  have hp := hasLane_applyMaskWrites_other (setMask (applyMaskWrites x pre) e.mask e.lanes e.bits) hn
  rw [hasLane_setMask _ hm, if_pos ⟨rfl, hl⟩] at hp
  simpa [applyMaskWrites] using hp

/-! ## The return registers of an ATTB (R31, R266) -/

/-- One result of an ATTB goes to its return register, unless that is lost. -/
def putResult (lost : List Nat) (x : Warp) (v : W64) (i : Nat) : Warp :=
  if lost.contains (56 + i) then x else setSreg x (BitVec.ofNat 6 (56 + i)) v

theorem putResult_eq (lost : List Nat) (x : Warp) (v : W64) (i : Nat) : ∃ s, putResult lost x v i = { x with s := s } := by
  unfold putResult setSreg
  split_ifs
  exacts [⟨x.s, rfl⟩, ⟨x.s, rfl⟩, ⟨_, rfl⟩]

theorem spGet_putResult (lost : List Nat) (x : Warp) (v : W64) {i : Nat} (hi : i < 6) (r : Nat) :
    spGet (putResult lost x v i).s r = if r = 56 + i ∧ r ∉ lost then v else spGet x.s r := by
  have hn : (BitVec.ofNat 6 (56 + i)).toNat = 56 + i := by rw [BitVec.toNat_ofNat]; omega
  have hz : BitVec.ofNat 6 (56 + i) ≠ 0#6 := fun h => by
    have := congrArg BitVec.toNat h
    rw [hn] at this
    simp at this
  by_cases hr : r = 56 + i
  · subst hr
    by_cases hl : 56 + i ∈ lost <;> simp [putResult, setSreg, hz, hn, hl]
  · by_cases hl : 56 + i ∈ lost <;> simp [putResult, setSreg, hz, hn, hl, hr]

theorem putResults_foldl (x : Warp) (lost : List Nat) (rs : List W64) :
    putResults x lost rs = rs.zipIdx.foldl (fun x e => putResult lost x e.1 e.2) x := rfl

/-- s0 to s63 once the results of an ATTB are in: its return registers hold them, but for those lost (R31, R266). -/
theorem spGet_putResults (x : Warp) (lost : List Nat) {rs : List W64} (hn : rs.length ≤ 6) (r : Nat) :
    spGet (putResults x lost rs).s r =
      if 56 ≤ r ∧ r - 56 < rs.length ∧ r ∉ lost then rs.getD (r - 56) 0 else spGet x.s r := by
  have key : ∀ (rs : List W64) (n : Nat) (x : Warp), n + rs.length ≤ 6 →
      spGet ((rs.zipIdx n).foldl (fun x e => putResult lost x e.1 e.2) x).s r =
        if 56 + n ≤ r ∧ r - (56 + n) < rs.length ∧ r ∉ lost then rs.getD (r - (56 + n)) 0 else spGet x.s r := by
    intro rs
    induction rs with
    | nil => intro n x _; simp
    | cons v rs ih =>
      intro n x hn
      rw [List.length_cons] at hn
      rw [List.zipIdx_cons, List.foldl_cons, ih (n + 1) _ (by omega), spGet_putResult lost x v (by omega)]
      by_cases hr : r = 56 + n
      · subst hr
        simp
      · simp only [hr, false_and, if_false]
        by_cases hr' : 56 + (n + 1) ≤ r
        · obtain ⟨k, rfl⟩ : ∃ k, r = 56 + (n + 1) + k := ⟨r - (56 + (n + 1)), by omega⟩
          rw [show 56 + (n + 1) + k - (56 + (n + 1)) = k by omega, show 56 + (n + 1) + k - (56 + n) = k + 1 by omega,
            List.getD_cons_succ, List.length_cons]
          exact if_congr (and_congr (by omega) (and_congr (by omega) Iff.rfl)) rfl rfl
        · rw [if_neg (by omega), if_neg (by omega)]
  exact key rs 0 x (by omega)

theorem putResults_eq (x : Warp) (lost : List Nat) (rs : List W64) : ∃ s, putResults x lost rs = { x with s := s } := by
  rw [putResults_foldl]
  generalize rs.zipIdx = l
  induction l generalizing x with
  | nil => exact ⟨x.s, rfl⟩
  | cons e l ih =>
    obtain ⟨s, h⟩ := putResult_eq lost x e.1 e.2
    obtain ⟨s', h'⟩ := ih (putResult lost x e.1 e.2)
    exact ⟨s', by rw [List.foldl_cons, h', h]⟩

@[simp] theorem putResults_v (x : Warp) (lost : List Nat) (rs : List W64) : (putResults x lost rs).v = x.v := by
  obtain ⟨s, h⟩ := putResults_eq x lost rs; rw [h]
@[simp] theorem warpPath_putResults (x : Warp) (lost : List Nat) (rs : List W64) (p : Nat) :
    warpPath (putResults x lost rs) p = warpPath x p := by
  obtain ⟨s, h⟩ := putResults_eq x lost rs; rw [h]; rfl

/-! ## Completion (R138, R266, R267) -/

@[simp] theorem setPath_v (x : Warp) (p : Nat) (q : Path) : (setPath x p q).v = x.v := by
  unfold setPath; split <;> rfl
@[simp] theorem setPath_m (x : Warp) (p : Nat) (q : Path) : (setPath x p q).m = x.m := by
  unfold setPath; split <;> rfl
@[simp] theorem setPath_s (x : Warp) (p : Nat) (q : Path) : (setPath x p q).s = x.s := by
  unfold setPath; split <;> rfl

theorem laneRest_setPath (x : Warp) (p : Nat) (q : Path) : laneRest (setPath x p q) p = laneRest x p := by
  unfold laneRest setPath; split <;> rfl

/-- Values that arrive in the queue of a pair change nothing else of its warp. -/
@[simp] theorem fillQueue_v (x : Warp) (lane : Bool) (num : Nat) (vs : List (List W32)) :
    (fillQueue x lane num vs).v = x.v := rfl
@[simp] theorem fillQueue_m (x : Warp) (lane : Bool) (num : Nat) (vs : List (List W32)) :
    (fillQueue x lane num vs).m = x.m := rfl
@[simp] theorem fillQueue_s (x : Warp) (lane : Bool) (num : Nat) (vs : List (List W32)) :
    (fillQueue x lane num vs).s = x.s := rfl
@[simp] theorem warpPath_fillQueue (x : Warp) (lane : Bool) (num : Nat) (vs : List (List W32)) (p : Nat) :
    warpPath (fillQueue x lane num vs) p = warpPath x p := rfl

/-- What of a warp a lane instruction leaves alone, after values have arrived, follows from the same before. -/
theorem laneRest_fillQueue {x y : Warp} {p : Nat} (h : laneRest x p = laneRest y p) (lane : Bool) (num : Nat)
    (vs : List (List W32)) : laneRest (fillQueue x lane num vs) p = laneRest (fillQueue y lane num vs) p := by
  have hc (z : Warp) : laneRest (fillQueue z lane num vs) p = fillQueue (laneRest z p) lane num vs := by
    unfold laneRest fillQueue setPath; split <;> rfl
  rw [hc, hc, h]

/-- What stands in a warp's registers says the same of a warp with the same registers. -/
theorem RegsWritten.of_v {x y x' y' : Warp} {ws : List RegW} (h : RegsWritten x y ws) (hx : x'.v = x.v)
    (hy : y'.v = y.v) : RegsWritten x' y' ws := by
  intro r l hl
  rw [vreg_of_v hx, vreg_of_v hy]
  exact h r l hl

/-- The warp after a long lane instruction that is no ATTB has completed (R138). -/
def completed (x : Warp) (p k : Nat) (j : Outst) : Warp :=
  fillQueue (applyMaskWrites (applyRegWrites (setPath x p { warpPath x p with outs := (warpPath x p).outs.eraseIdx k })
    j.writes) j.maskWrites) true j.num (laneValues j.writes)

/-- What completion writes: the registers and masks held; the rest of the warp stays but for the path's slot and the values
that arrive in the pair's queue. -/
theorem completed_writes (x : Warp) (p k : Nat) {j : Outst} (hw : ∀ e ∈ j.writes, e.lane < 32) :
    RegsWritten x (completed x p k j) j.writes ∧
    (∀ m l, m ≠ 0 → (∀ e ∈ j.maskWrites, e.mask = m → ¬ hasLane e.lanes l) →
      hasLane (spGet (completed x p k j).m m) l = hasLane (spGet x.m m) l) ∧
    (∀ (pre : List MaskW) (e : MaskW) (post : List MaskW) (l : Nat), j.maskWrites = pre ++ e :: post →
      e.mask ≠ 0 → hasLane e.lanes l → (∀ d ∈ post, d.mask = e.mask → ¬ hasLane d.lanes l) →
      hasLane (spGet (completed x p k j).m e.mask) l = hasLane e.bits l) ∧
    warpPath (completed x p k j) p =
      { warpPath x p with outs := (warpPath x p).outs.take k ++ (warpPath x p).outs.drop (k + 1) } ∧
    (completed x p k j).s = x.s ∧
    laneRest (completed x p k j) p = laneRest (fillQueue x true j.num (laneValues j.writes)) p := by
  refine ⟨?_, fun m l _ hn => ?_, fun pre e post l hs h0 hl hn => ?_, ?_, ?_, ?_⟩
  · exact (applyRegWrites_written (setPath x p _) hw).of_v (setPath_v ..).symm
      (by rw [completed, fillQueue_v, applyMaskWrites_v])
  · rw [completed, fillQueue_m, hasLane_applyMaskWrites_other _ hn, applyRegWrites_m, setPath_m]
  · rw [completed, fillQueue_m, hs, hasLane_applyMaskWrites_last _ h0 hl hn]
  · simp [completed, List.eraseIdx_eq_take_drop_succ]
  · simp [completed]
  · exact laneRest_fillQueue (by simp [laneRest_setPath]) ..

theorem opLaneLongCompletion_plain {s : State} {w p k : Nat} {j : Outst} (hp : p ≤ 1)
    (hj : (warpPath (s.warp w) p).outs[k]? = some j) (hr : outReady j = true) (ha : j.attb = none) :
    opLaneLongCompletion w p k s = s.setWarp w (completed (s.warp w) p k j) := by
  have hp' : ¬ p > 1 := by omega
  simp only [opLaneLongCompletion, hj, hr, ha, hp', decide_false, Bool.not_true, Bool.or_self, Bool.false_eq_true,
    if_false]
  rfl

theorem exec_laneLongCompletion_attb {s : State} {w p k : Nat} {j : Outst} {a : AttbWork} (hp : p ≤ 1)
    (hj : (warpPath (s.warp w) p).outs[k]? = some j) (hr : outReady j = true) (ha : j.attb = some a) :
    exec (.laneLongCompletion w p k) s = .next (s.attbComplete w p k j a) := by
  have hp' : ¬ p > 1 := by omega
  have h : opLaneLongCompletion w p k s = s.attbComplete w p k j a := by
    simp only [opLaneLongCompletion, hj, hr, ha, hp', decide_false, Bool.not_true, Bool.or_self, Bool.false_eq_true,
      if_false]
  exact congrArg Host.Outcome.next h

/-! ### ATTB (R264 to R267) -/

/-- The budget after a charge. -/
theorem debit_budget (s : State) (die ctx units : Nat) :
    (s.debit die ctx units).budget die ctx = s.budget die ctx - units := by
  simp [State.debit, State.budget]

/-- What an ATTB's end writes: its state group, s56 to s61 but for those lost, and its path's slot; s0 to s55 stay. -/
theorem attbEnds_writes (x : Warp) (p k : Nat) (a : AttbWork) {e : AttbEnd} (q : Path)
    (hw : ∀ d ∈ e.writes, d.lane < 32) (hn : e.results.length ≤ 6) :
    RegsWritten x (attbEnds x p k a e q) e.writes ∧
    warpPath (attbEnds x p k a e q) p = { q with outs := q.outs.take k ++ q.outs.drop (k + 1) } ∧
    (∀ i, i < 6 → spGet (attbEnds x p k a e q).s (56 + i) =
      if i < e.results.length ∧ 56 + i ∉ a.lost then e.results.getD i 0 else spGet x.s (56 + i)) ∧
    ∀ i, i < 56 → spGet (attbEnds x p k a e q).s i = spGet x.s i := by
  have hs (i : Nat) : spGet (attbEnds x p k a e q).s i =
      if 56 ≤ i ∧ i - 56 < e.results.length ∧ i ∉ a.lost then e.results.getD (i - 56) 0 else spGet x.s i := by
    rw [attbEnds, spGet_putResults _ _ hn, applyRegWrites_s, setPath_s]
  refine ⟨?_, ?_, fun i hi => ?_, fun i hi => ?_⟩
  · exact (applyRegWrites_written (setPath x p { q with outs := q.outs.eraseIdx k }) hw).of_v (setPath_v ..).symm
      (putResults_v ..)
  · simp [attbEnds, List.eraseIdx_eq_take_drop_succ]
  · simp [hs]
  · rw [hs, if_neg (by omega)]

/-- What stops an ATTB at the boundary it stands at, if a cause does (R267). -/
def attbStopAt (s : State) (w p : Nat) (a : AttbWork) (short : Bool) : Option AttbEnd :=
  if s.attbCause w p then attbCut a short else none

/-- The units that an ATTB's next charge debits, twice as many for a pair, and whether the budget lacks them (R234). -/
def attbDue (x : Warp) (a : AttbWork) : Nat := a.units * (if x.mirror.isSome then 2 else 1)
def attbShort (s : State) (w : Nat) (a : AttbWork) : Bool :=
  decide (s.budget ((s.block (s.warp w).block).pcore / 44) (s.launch (s.warp w).launch).ctx < attbDue (s.warp w) a)

theorem attbDue_eq (x : Warp) (a : AttbWork) : (if x.mirror.isSome then 2 * a.units else a.units) = attbDue x a := by
  unfold attbDue; split <;> omega

section
variable {s : State} {w p k : Nat} {j : Outst} {a : AttbWork}

theorem stopAt_none (h : s.attbCause w p = true → attbCut a (attbShort s w a) = none) :
    attbStopAt s w p a (attbShort s w a) = none := by
  unfold attbStopAt
  split
  · next hc => exact h hc
  · rfl

theorem attbComplete_stops {e : AttbEnd} (h : attbStopAt s w p a (attbShort s w a) = some e) :
    s.attbComplete w p k j a = s.setWarp w (attbStops (attbFills (s.warp w) j a) p k j a e none) := by
  unfold attbStopAt attbShort at h
  simp only [State.attbComplete, attbDue_eq, h]

theorem attbComplete_waits (h : attbStopAt s w p a (attbShort s w a) = none) (hn : a.paid < a.need)
    (hs : attbShort s w a = true) : s.attbComplete w p k j a = s := by
  rw [hs, attbStopAt] at h
  rw [attbShort] at hs
  simp only [State.attbComplete, attbDue_eq, h, hn, hs, if_true]

theorem attbComplete_charges (h : attbStopAt s w p a (attbShort s w a) = none) (hn : a.paid < a.need)
    (hs : attbShort s w a = false) : s.attbComplete w p k j a =
      (s.debit ((s.block (s.warp w).block).pcore / 44) (s.launch (s.warp w).launch).ctx (attbDue (s.warp w) a)).setWarp w
        (setPath (s.warp w) p { warpPath (s.warp w) p with
          outs := (warpPath (s.warp w) p).outs.set k { j with attb := some { a with paid := a.paid + 1 } } }) := by
  rw [hs, attbStopAt] at h
  rw [attbShort] at hs
  simp only [State.attbComplete, attbDue_eq, h, hn, hs, if_true, Bool.false_eq_true, if_false]

theorem attbComplete_ends (h : attbStopAt s w p a (attbShort s w a) = none) (hn : a.need ≤ a.paid) (hp : a.park = none) :
    s.attbComplete w p k j a =
      s.setWarp w (attbEnds (attbFills (s.warp w) j a) p k a a.full (warpPath (s.warp w) p)) := by
  unfold attbStopAt attbShort at h
  simp only [State.attbComplete, attbDue_eq, h, Nat.not_lt.2 hn, hp, if_false]

end

/-! ## Replay of a park (R141, R143) -/

/-- The record that a map holds is the one a read gives. -/
theorem warp_of_kGet? {s : State} {w : Nat} {x : Warp} (h : kGet? s.warps w = some x) : s.warp w = x := by
  simp [State.warp, kGet, h]

/-- A park is over once every page it waits for is resident, and for poison its sectors are repaired. -/
theorem parkOver_of_ready {s : State} {launch : Nat} {park : Park} (hk : park.kind ≠ .schedule)
    (h : ∀ a ∈ park.addrs, ∃ pa pte, s.check (s.launch launch).ctx a 0 = .here pa pte ∧
      (park.kind = .residency ∨ s.poisoned (pa / 32 * 32) 32 = false)) : s.parkOver launch park = true := by
  unfold State.parkOver
  split
  · next he => exact absurd he hk
  · refine List.all_eq_true.2 fun a ha => ?_
    obtain ⟨pa, pte, hc, hq⟩ := h a ha
    rw [hc]
    simpa using hq

theorem opParkReplay_scalar {s : State} {w : Nat} {x : Warp} {park : Park} (hx : kGet? s.warps w = some x)
    (hs : x.stopped = false) (hw : x.wait = .parked park) (ho : s.parkOver x.launch park = true) :
    opParkReplay w 2 s = s.setWarp w { x with wait := .none } := by
  simp [opParkReplay, warp_of_kGet? hx, hx, hs, hw, ho]

theorem opParkReplay_path {s : State} {w p : Nat} {x : Warp} {park : Park} (hp : p ≤ 1) (hx : kGet? s.warps w = some x)
    (hs : x.stopped = false) (hq : (warpPath x p).park = some park) (hr : ∀ j ∈ (warpPath x p).outs, j.rereads = [])
    (ho : s.parkOver x.launch park = true) :
    opParkReplay w p s = s.setWarp w (setPath x p { warpPath x p with park := none }) := by
  have hm : (warpPath x p).outs.map (fun j => if j.rereads.isEmpty then j else s.readAgain (s.launch x.launch).ctx j) =
      (warpPath x p).outs := (List.map_congr_left fun j hj => by simp [hr j hj]).trans (List.map_id _)
  have h2 : p ≠ 2 := by omega
  simp only [opParkReplay, warp_of_kGet? hx, hx, hs, hm, hq, ho, h2, hp, Option.isNone_some, Bool.or_self,
    Bool.false_eq_true, if_false, if_true]

/-- R138, R141, R143, R266, R267: completions and replays. -/
theorem longInstructionsComplete : LongInstructionsComplete := by
  refine ⟨fun s w p k j hp hj hr => ⟨fun ha hw => ?_, fun a ha => ⟨fun hc => ⟨fun hn hs => ?_, fun hn hs => ?_,
    fun hn hpk hw hl => ?_⟩, fun e hc hcut hw hl => ?_⟩⟩, ?_⟩
  · refine ⟨_, congrArg Host.Outcome.next (opLaneLongCompletion_plain hp hj hr ha), OnlyWarp.setWarp .., ?_⟩
    rw [State.warp_setWarp, if_pos rfl]
    exact completed_writes (s.warp w) p k hw
  · rw [exec_laneLongCompletion_attb hp hj hr ha, attbComplete_waits (stopAt_none hc) hn hs]
  · rw [exec_laneLongCompletion_attb hp hj hr ha, attbComplete_charges (stopAt_none hc) hn hs]
    refine ⟨_, rfl, ?_, rfl, ?_⟩
    · exact debit_budget ..
    · rw [State.warp_setWarp, if_pos rfl]
  · rw [exec_laneLongCompletion_attb hp hj hr ha, attbComplete_ends (stopAt_none hc) hn hpk]
    refine ⟨_, rfl, OnlyWarp.setWarp .., ?_⟩
    rw [State.warp_setWarp, if_pos rfl]
    exact attbEnds_writes (attbFills (s.warp w) j a) p k a (warpPath (s.warp w) p) hw hl
  · rw [exec_laneLongCompletion_attb hp hj hr ha, attbComplete_stops ((if_pos hc).trans hcut)]
    refine ⟨_, rfl, OnlyWarp.setWarp .., ?_⟩
    rw [State.warp_setWarp, if_pos rfl]
    obtain ⟨hv, hq, hs, -⟩ := attbEnds_writes (attbFills (s.warp w) j a) p k a _ hw hl
    exact ⟨hv, hq, hs⟩
  · intro s w x park hx hs ctx ready ⟨hk, hr⟩
    have ho := parkOver_of_ready hk hr
    refine ⟨fun hw => ?_, fun p hp hq hj => ?_⟩
    · refine ⟨_, congrArg Host.Outcome.next (opParkReplay_scalar hx hs hw ho), OnlyWarp.setWarp .., ?_⟩
      rw [State.warp_setWarp, if_pos rfl]
    · refine ⟨_, congrArg Host.Outcome.next (opParkReplay_path hp hx hs hq hj ho), OnlyWarp.setWarp .., ?_⟩
      rw [State.warp_setWarp, if_pos rfl]

/-! ## Urgency, register misses and mirrors (R36, R201, R342 to R344) -/

theorem opStreamUrgent_sets {s : State} {w since : Nat} {x : Warp} {lane : Bool} (hx : kGet? s.warps w = some x)
    (hr : (if lane then x.readyL else x.readyS) = some since)
    (hn : since + 2000 ≤ (s.die ((s.block x.block).pcore / 44)).count) : opStreamUrgent w lane s =
      s.setWarp w (if lane then { x with urgentL := true } else { x with urgentS := true }) := by
  have hn' : ¬ s.now w < since + 2000 := by
    rw [State.now, warp_of_kGet? hx]
    omega
  simp only [opStreamUrgent, hx, hr, hn', if_false]

/-- A register written lane by lane. -/
def putReg (x : Warp) (reg : Nat) (bs : List Byte) : Warp :=
  (List.range 32).foldl (fun x l => setVreg x reg l (BitVec.ofNat 32 (fieldN bs (4 * l) 4))) x

theorem putReg_eq (x : Warp) (reg : Nat) (bs : List Byte) : ∃ v, putReg x reg bs = { x with v := v } := by
  have h : putReg x reg bs =
      applyRegWrites x ((List.range 32).map fun l => ⟨reg, l, BitVec.ofNat 32 (fieldN bs (4 * l) 4)⟩) := by
    rw [applyRegWrites, List.foldl_map]
    rfl
  rw [h]
  exact applyRegWrites_eq ..

/-- Each lane of the register has its bytes, and every other register is as before. -/
theorem vreg_putReg (x : Warp) (reg : Nat) (bs : List Byte) {r l : Nat} (hl : l < 32) : vreg (putReg x reg bs) r l =
    if r = reg then BitVec.ofNat 32 (fieldN bs (4 * l) 4) else vreg x r l := by
  have key (n : Nat) (hn : n ≤ 32) : vreg ((List.range n).foldl (fun x l =>
      setVreg x reg l (BitVec.ofNat 32 (fieldN bs (4 * l) 4))) x) r l =
      if r = reg ∧ l < n then BitVec.ofNat 32 (fieldN bs (4 * l) 4) else vreg x r l := by
    induction n with
    | zero => simp
    | succ n ih =>
      rw [List.range_succ, List.foldl_append, List.foldl_cons, List.foldl_nil, vreg_setVreg _ (by omega) hl, ih (by omega)]
      by_cases h : r = reg ∧ l = n
      · rw [if_pos h, if_pos ⟨h.1, by omega⟩, h.2]
      · rw [if_neg h]
        exact if_congr (by omega) rfl rfl
  simpa [putReg, hl] using key 32 (Nat.le_refl _)

theorem fieldN_replicate_zero (n lo k : Nat) : fieldN (List.replicate n 0) lo k = 0 := by
  have h (m : Nat) : ofBytes (List.replicate m 0) = 0 := by
    induction m with
    | zero => rfl
    | succ m ih => simpa [List.replicate_succ, ofBytes] using ih
  rw [fieldN, List.drop_replicate, List.take_replicate, h]

/-- What a register that an instruction has missed is fetched as: its bytes of the save area, or zeros (R201). -/
def missBytes (x : Warp) (reg : Nat) (bs : List Byte) : List Byte :=
  if bitN x.savedLive reg = 1 then bs else List.replicate 128 0

/-- The warp after the fetch of a register that an instruction has missed. -/
def missFetched (x : Warp) (reg : Nat) (bs : List Byte) : Warp :=
  { putReg x reg (missBytes x reg bs) with
    absent := x.absent.filter (· != reg), missed := x.missed.filter (· != reg) }

theorem vreg_missFetched (x : Warp) (reg : Nat) (bs : List Byte) {r l : Nat} (hl : l < 32) :
    vreg (missFetched x reg bs) r l =
      if r = reg then (if bitN x.savedLive reg = 1 then BitVec.ofNat 32 (fieldN bs (4 * l) 4) else 0) else vreg x r l := by
  have hv : (missFetched x reg bs).v = (putReg x reg (missBytes x reg bs)).v := rfl
  rw [vreg_of_v hv, vreg_putReg x reg _ hl]
  refine if_congr Iff.rfl ?_ rfl
  unfold missBytes
  split
  · rfl
  · rw [fieldN_replicate_zero]; rfl

theorem missFetched_rest (x : Warp) (reg : Nat) (bs : List Byte) :
    { missFetched x reg bs with v := [], absent := [] } =
      { x with v := [], absent := [], missed := x.missed.filter (· != reg) } := by
  obtain ⟨v, hv⟩ := putReg_eq x reg (missBytes x reg bs)
  rw [missFetched, hv]

theorem opRegisterMiss_fetches {s : State} {w reg : Nat} {x : Warp} {bs : List Byte} (hx : kGet? s.warps w = some x)
    (ha : x.absent.contains reg = true) (hm : x.missed.contains reg = true)
    (hb : bitN x.savedLive reg = 1 →
      s.readGot (s.launch x.launch).ctx (x.saveArea + BitVec.ofNat 64 (0x800 + 128 * reg)) 128 = .bytes bs) :
    opRegisterMiss w reg s = (s.setWarp w (missFetched x reg bs)).farUsed (s.launch x.launch).ctx := by
  have hg : s.regGot (s.launch x.launch).ctx x reg = .bytes (missBytes x reg bs) := by
    unfold State.regGot missBytes
    rw [ha]
    split
    · contradiction
    · split
      · next h => exact hb h
      · rfl
  simp only [opRegisterMiss, hx, ha, hm, hg, Bool.and_self, Bool.not_true, Bool.false_eq_true, if_false]
  rfl

/-- A warp is replaced and the engines' reads on other devices for its context are used up; nothing else changes. -/
theorem fetched_frame (s : State) (w : Nat) (y : Warp) (ctx : Nat) :
    let t := (s.setWarp w y).farUsed ctx
    (∀ v, v ≠ w → kGet? t.warps v = kGet? s.warps v) ∧ noReads { t with warps := s.warps } = noReads s ∧ t.warp w = y :=
  ⟨(OnlyWarp.setWarp s w y).others, rfl, (State.warp_setWarp ..).trans (if_pos rfl)⟩

/-- R343: the held effect of a pair, once its mirror has come to it. -/
theorem opMirrorCompare_held {s : State} {w k : Nat} {x : Warp} {m : Mirror} {ws : List W32} {vs : List W64}
    (hx : kGet? s.warps w = some x) (hm : x.mirror = some m) (hp : x.pend = none) (hh : m.held = some k) (hk : k ≤ 2)
    (hpass : m.passed = false) (hlag : (if k < 2 then m.lagL else m.lagS).isEmpty = true)
    (he : s.heldEffect w k = some (ws, vs)) (words : List W32) (operands : List W64) :
    opMirrorCompare w (decide (k < 2)) words operands s =
      if words = ws ∧ operands = vs then s.setWarp w { x with mirror := some { m with passed := true } }
      else s.killPair w 0x12 3 := by
  have hk3 : (k == 3) = false := by simp; omega
  have hlag' : (if decide (k < 2) = true then m.lagL else m.lagS).isEmpty = true := by simpa using hlag
  simp only [opMirrorCompare, hx, hm, hp, hh, hk3, hpass, he, Option.isSome_none, Bool.false_eq_true, if_false,
    Bool.false_and, Bool.or_false, bne_self_eq_false, hlag', Bool.not_true, Bool.and_eq_true, beq_iff_eq]
  exact if_congr (and_congr eq_comm eq_comm) rfl rfl

/-- R36, R201, R342 to R344: urgency, misses, comparison. -/
theorem streamsRegistersAndMirrors : StreamsRegistersAndMirrors := by
  refine ⟨fun s w x since hx => ⟨fun hr hn => ?_, fun hr hn => ?_⟩, ?_, ?_⟩
  · refine ⟨_, congrArg Host.Outcome.next (opStreamUrgent_sets (lane := false) hx hr hn), OnlyWarp.setWarp .., ?_⟩
    rw [State.warp_setWarp, if_pos rfl]
    rfl
  · refine ⟨_, congrArg Host.Outcome.next (opStreamUrgent_sets (lane := true) hx hr hn), OnlyWarp.setWarp .., ?_⟩
    rw [State.warp_setWarp, if_pos rfl]
    rfl
  · intro s w reg x bs hx ha hm hb
    refine ⟨_, congrArg Host.Outcome.next (opRegisterMiss_fetches hx ha hm hb), ?_⟩
    obtain ⟨hothers, hrest, hw⟩ := fetched_frame s w (missFetched x reg bs) (s.launch x.launch).ctx
    rw [hw]
    refine ⟨hothers, hrest, fun r l hl => vreg_missFetched x reg bs hl, fun r => ?_, missFetched_rest ..⟩
    simp [missFetched]
  · intro s w k x m ws vs hx hm hp hh hk hpass hlag he
    have heq := opMirrorCompare_held hx hm hp hh hk hpass hlag he
    refine ⟨⟨_, congrArg Host.Outcome.next ((heq ws vs).trans (if_pos ⟨rfl, rfl⟩)), OnlyWarp.setWarp .., ?_⟩, ?_⟩
    · rw [State.warp_setWarp, if_pos rfl]
    · exact fun words operands hne => congrArg Host.Outcome.next ((heq words operands).trans (if_neg hne))

/-- Settles O60: what each completion, replay, miss and comparison leaves. -/
theorem streamsCompleteAndWait : Obligations.StreamsCompleteAndWait :=
  ⟨longInstructionsComplete, streamsRegistersAndMirrors⟩

end Sys2Proof.Machine
end

section
/-! O43: a ring record longer than the 64 bytes of R330, which its statement does not shut out, can be dropped where the
statement has it stored. -/

namespace Sys2Proof.Machine
open Sys2Proof.Claims

/-- A completion ring whose next slot is the last 64 bytes of a page. -/
def longRecordQueue : HostQueue :=
  { HostQueue.reset with ring := 131008, pending := [⟨0, List.replicate 65 1, [], 0⟩] }

/-- Context 0 maps the page from 65536 on, writable, to the frame at 0 and maps no page after it: the entry at 0 points to
the table at 0 itself at every level, and the entry at 8 maps the page. Queue 0 has a record of 65 bytes to write. -/
def longRecordState : State :=
  { State.reset with
    mem := [(0, 1), (8, 5)]
    mgmt := { Mgmt.reset with contexts := [(0, ⟨0, 0⟩)] }
    eng := { LaunchEng.reset with queues := [(0, longRecordQueue)] } }

/-- The slot's first byte passes the checks of a write. -/
theorem longRecord_slot : longRecordState.check 0 131008 1 = .here 65472 5 := by decide

/-- The record's last byte falls in the next page, which is not mapped, so the write is dropped whole (R398): memory stays as
it was. -/
theorem longRecord_dropped : (opCompletionRingWrite 0 longRecordState).mem = longRecordState.mem := rfl

/-- Refutes O43: `LaunchesEndAndReport` has every record at the head of a completion ring stored once the slot's first byte
passes the checks. A record of 65 bytes whose slot ends its page reaches into the next one; that is not mapped, so the write
is dropped and the slot stays zero. -/
theorem not_launchesArePlacedAndReported : ¬ Obligations.LaunchesArePlacedAndReported := by
  rintro ⟨-, -, -, hring⟩
  obtain ⟨hstored, -⟩ := hring longRecordState 0 longRecordQueue ⟨0, List.replicate 65 1, [], 0⟩ [] 65472 5
    rfl rfl rfl (by decide) longRecord_slot
  obtain ⟨t, hexec, hbytes, -⟩ := hstored (by decide) (by simp) (by simp)
  have ht : opCompletionRingWrite 0 longRecordState = t := Host.Outcome.next.inj hexec
  have hbyte : t.byteAt 65472 = 1 := hbytes.stored 0 (by decide) fun h => absurd h.1 (by decide)
  rw [← ht, State.byteAt, longRecord_dropped] at hbyte
  exact absurd hbyte (by decide)

end Sys2Proof.Machine
end

section
/-! O47, O48: the words of R40, R43 and the tables of R51, R52. A word of instruction fields is read and written field by field. -/

namespace Sys2Proof

/- Proofs one after another: side by side, each takes the stack of a thread, and those of the whole text reach the
memory limit of the check. -/
set_option Elab.async false

theorem fldBits_toNat (w lo n : Nat) : (fldBits w lo n).toNat = fld w lo n := BitVec.toNat_ofNat ..

theorem fldBits_eq_iff {n : Nat} (w lo : Nat) (x : BitVec n) : fldBits w lo n = x ↔ fld w lo n = x.toNat := by
  rw [← BitVec.toNat_inj, fldBits_toNat]

theorem fldBits_eq_zero_iff (w lo n : Nat) : fldBits w lo n = 0 ↔ fld w lo n = 0 := fldBits_eq_iff w lo 0

/-- A field of `k = n + m` bits is the field of its low `n` bits and the field of the `m` bits above them. -/
theorem fld_eq_iff {w x y k hi N : Nat} (lo n m : Nat) (hy : y < N) (hk : n + m = k := by rfl)
    (hhi : lo + n = hi := by rfl) (hN : 2 ^ n = N := by rfl) :
    fld w lo k = x * N + y ↔ fld w hi m = x ∧ fld w lo n = y := by
  subst hk hhi hN
  have hsplit : fld w lo (n + m) = fld w (lo + n) m * 2 ^ n + fld w lo n := by
    rw [fld, fld, fld, Nat.pow_add, Nat.pow_add, Nat.mod_mul, Nat.div_div_eq_div_mul, Nat.mul_comm (2 ^ n), Nat.add_comm]
  have hlow : fld w lo n < 2 ^ n := Nat.mod_lt _ (Nat.two_pow_pos n)
  rw [hsplit]
  constructor
  · intro h
    have hx : fld w (lo + n) m = x := by
      have := congrArg (· / 2 ^ n) h
      simpa [Nat.mul_comm _ (2 ^ n), Nat.mul_add_div (Nat.two_pow_pos n), Nat.div_eq_of_lt, hlow, hy] using this
    exact ⟨hx, by rw [hx] at h; exact Nat.add_left_cancel h⟩
  · rintro ⟨rfl, rfl⟩; rfl

/-- A field holds a value of its low bits exactly where its other bits are zero. -/
theorem fld_eq_low_iff {w y k hi N : Nat} (lo n m : Nat) (hy : y < N) (hk : n + m = k := by rfl)
    (hhi : lo + n = hi := by rfl) (hN : 2 ^ n = N := by rfl) : fld w lo k = y ↔ fld w hi m = 0 ∧ fld w lo n = y := by
  rw [← fld_eq_iff lo n m hy hk hhi hN, Nat.zero_mul, Nat.zero_add]

theorem fld_word (w : W32) : fld w.toNat 0 32 = w.toNat := by
  rw [fld, Nat.pow_zero, Nat.div_one, Nat.mod_eq_of_lt w.isLt]

/-! ## The words of scalar instructions, by the layout of their fields (R40) -/

section Layouts
variable {w : W32} {base : Nat}

/-- `base` holds the opcode in bits [31:26] and selector bits below; what is added stays below bit 26. -/
theorem encodeScalar_iff {d a low x : Nat} (hx : base % 67108864 + (d * 1048576 + a * 16384 + low) = x)
    (hlt : x < 67108864) (hbase : base < 4294967296 := by decide) :
    encodeScalar base d a low = some [w] ↔ fld w.toNat 26 6 = base / 67108864 ∧ fld w.toNat 0 26 = x := by
  have hsum : base + d * 1048576 + a * 16384 + low = base / 67108864 * 67108864 + x := by omega
  rw [← fld_eq_iff 0 26 6 hlt, fld_word, encodeScalar, hsum, Option.some.injEq, List.cons.injEq, and_iff_left rfl,
    ← BitVec.toNat_inj, BitVec.toNat_ofNat, Nat.mod_eq_of_lt (by omega)]
  exact eq_comm

/-- Registers in [25:20] and [19:14], any value below. -/
theorem encodeScalar_dal (d a : BitVec 6) {low x : Nat} (hx : base % 67108864 + low = x) (hlt : x < 16384 := by decide)
    (hbase : base < 4294967296 := by decide) :
    encodeScalar base d.toNat a.toNat low = some [w] ↔ fld w.toNat 26 6 = base / 67108864 ∧
      fldBits w.toNat 20 6 = d ∧ fldBits w.toNat 14 6 = a ∧ fld w.toNat 0 14 = x := by
  rw [encodeScalar_iff (x := (d.toNat * 64 + a.toNat) * 16384 + x) (by omega) (by omega) hbase,
    fld_eq_iff 0 14 12 hlt, fld_eq_iff 14 6 6 a.isLt, fldBits_eq_iff, fldBits_eq_iff, and_assoc]

/-- Three registers over a selector. -/
theorem encodeScalar_dab (d a b : BitVec 6)
    (hsel : base % 67108864 < 256 := by decide) (hbase : base < 4294967296 := by decide) :
    encodeScalar base d.toNat a.toNat (b.toNat * 256) = some [w] ↔ fld w.toNat 26 6 = base / 67108864 ∧
      fldBits w.toNat 20 6 = d ∧ fldBits w.toNat 14 6 = a ∧ fldBits w.toNat 8 6 = b ∧
      fld w.toNat 0 8 = base % 67108864 := by
  rw [encodeScalar_dal d a (Nat.add_comm ..) (by omega) hbase, fld_eq_iff 0 8 6 hsel, fldBits_eq_iff _ _ b]

/-- Registers in [25:20] and [19:14], an immediate below. -/
theorem encodeScalar_dai (d a : BitVec 6) (i : BitVec 14)
    (hsel : base % 67108864 = 0 := by decide) (hbase : base < 4294967296 := by decide) :
    encodeScalar base d.toNat a.toNat i.toNat = some [w] ↔ fld w.toNat 26 6 = base / 67108864 ∧
      fldBits w.toNat 20 6 = d ∧ fldBits w.toNat 14 6 = a ∧ fldBits w.toNat 0 14 = i := by
  rw [encodeScalar_dal d a (x := i.toNat) (by omega) i.isLt hbase, fldBits_eq_iff _ _ i]

/-- A shift amount in the low bits of an immediate whose other bits are zero. -/
theorem encodeScalar_dash (d a i : BitVec 6)
    (hsel : base % 67108864 = 0 := by decide) (hbase : base < 4294967296 := by decide) :
    encodeScalar base d.toNat a.toNat i.toNat = some [w] ↔ fld w.toNat 26 6 = base / 67108864 ∧
      fldBits w.toNat 20 6 = d ∧ fldBits w.toNat 14 6 = a ∧ fld w.toNat 6 8 = 0 ∧ fldBits w.toNat 0 6 = i := by
  rw [encodeScalar_dal d a (x := i.toNat) (by omega) (by omega) hbase, fld_eq_low_iff 0 6 8 i.isLt, fldBits_eq_iff _ _ i]

/-- The registers of [19:14] and [13:8] over a selector, [25:20] zero. -/
theorem encodeScalar_ab (a b : BitVec 6)
    (hsel : base % 67108864 < 256 := by decide) (hbase : base < 4294967296 := by decide) :
    encodeScalar base 0 a.toNat (b.toNat * 256) = some [w] ↔ fld w.toNat 26 6 = base / 67108864 ∧
      fld w.toNat 20 6 = 0 ∧ fldBits w.toNat 14 6 = a ∧ fldBits w.toNat 8 6 = b ∧
      fld w.toNat 0 8 = base % 67108864 := by
  rw [← fldBits_eq_zero_iff _ 20]
  exact encodeScalar_dab 0 a b hsel hbase

/-- The registers of [25:20] and [19:14] over a selector, [13:8] zero. -/
theorem encodeScalar_da (d a : BitVec 6)
    (hsel : base % 67108864 < 256 := by decide) (hbase : base < 4294967296 := by decide) :
    encodeScalar base d.toNat a.toNat 0 = some [w] ↔ fld w.toNat 26 6 = base / 67108864 ∧
      fldBits w.toNat 20 6 = d ∧ fldBits w.toNat 14 6 = a ∧ fld w.toNat 8 6 = 0 ∧
      fld w.toNat 0 8 = base % 67108864 := by
  rw [← fldBits_eq_zero_iff _ 8]
  exact encodeScalar_dab d a 0 hsel hbase

/-- The register of [19:14] over a selector, [25:20] and [13:8] zero. -/
theorem encodeScalar_a (a : BitVec 6)
    (hsel : base % 67108864 < 256 := by decide) (hbase : base < 4294967296 := by decide) :
    encodeScalar base 0 a.toNat 0 = some [w] ↔ fld w.toNat 26 6 = base / 67108864 ∧
      fld w.toNat 20 6 = 0 ∧ fldBits w.toNat 14 6 = a ∧ fld w.toNat 8 6 = 0 ∧ fld w.toNat 0 8 = base % 67108864 := by
  rw [← fldBits_eq_zero_iff _ 20]
  exact encodeScalar_da 0 a hsel hbase

/-- The register of [19:14], [25:20] zero, any value below. -/
theorem encodeScalar_al (a : BitVec 6) {low x : Nat} (hx : base % 67108864 + low = x) (hlt : x < 16384 := by decide)
    (hbase : base < 4294967296 := by decide) :
    encodeScalar base 0 a.toNat low = some [w] ↔ fld w.toNat 26 6 = base / 67108864 ∧
      fld w.toNat 20 6 = 0 ∧ fldBits w.toNat 14 6 = a ∧ fld w.toNat 0 14 = x := by
  rw [← fldBits_eq_zero_iff _ 20]
  exact encodeScalar_dal 0 a hx hlt hbase

/-- The register of [19:14] over an immediate, [25:20] zero. -/
theorem encodeScalar_ai (a : BitVec 6) (i : BitVec 14)
    (hsel : base % 67108864 = 0 := by decide) (hbase : base < 4294967296 := by decide) :
    encodeScalar base 0 a.toNat i.toNat = some [w] ↔ fld w.toNat 26 6 = base / 67108864 ∧
      fld w.toNat 20 6 = 0 ∧ fldBits w.toNat 14 6 = a ∧ fldBits w.toNat 0 14 = i := by
  rw [← fldBits_eq_zero_iff _ 20]
  exact encodeScalar_dai 0 a i hsel hbase

/-- The register of [25:20] over an immediate, [19:14] zero. -/
theorem encodeScalar_di (d : BitVec 6) (i : BitVec 14)
    (hsel : base % 67108864 = 0 := by decide) (hbase : base < 4294967296 := by decide) :
    encodeScalar base d.toNat 0 i.toNat = some [w] ↔ fld w.toNat 26 6 = base / 67108864 ∧
      fldBits w.toNat 20 6 = d ∧ fld w.toNat 14 6 = 0 ∧ fldBits w.toNat 0 14 = i := by
  rw [← fldBits_eq_zero_iff _ 14]
  exact encodeScalar_dai d 0 i hsel hbase

/-- The register of [19:14] and a channel: COPY. -/
theorem encodeScalar_copy (a : BitVec 6) (c : BitVec 3)
    (hsel : base % 67108864 = 0 := by decide) (hbase : base < 4294967296 := by decide) :
    encodeScalar base 0 a.toNat c.toNat = some [w] ↔ fld w.toNat 26 6 = base / 67108864 ∧
      fld w.toNat 20 6 = 0 ∧ fldBits w.toNat 14 6 = a ∧ fld w.toNat 3 11 = 0 ∧ fldBits w.toNat 0 3 = c := by
  rw [encodeScalar_al a (x := c.toNat) (by omega) (by omega) hbase, fld_eq_low_iff 0 3 11 c.isLt, fldBits_eq_iff _ _ c]

/-- The register of [25:20], any value below. -/
theorem encodeScalar_dl (d : BitVec 6) {low x : Nat} (hx : base % 67108864 + low = x) (hlt : x < 1048576 := by decide)
    (hbase : base < 4294967296 := by decide) :
    encodeScalar base d.toNat 0 low = some [w] ↔ fld w.toNat 26 6 = base / 67108864 ∧
      fldBits w.toNat 20 6 = d ∧ fld w.toNat 0 20 = x := by
  rw [encodeScalar_iff (x := d.toNat * 1048576 + x) (by omega) (by omega) hbase, fld_eq_iff 0 20 6 hlt, fldBits_eq_iff]

/-- The register of [25:20] and a long immediate: LIH, ORL. -/
theorem encodeScalar_dlong (d : BitVec 6) (i : BitVec 20)
    (hsel : base % 67108864 = 0 := by decide) (hbase : base < 4294967296 := by decide) :
    encodeScalar base d.toNat 0 i.toNat = some [w] ↔ fld w.toNat 26 6 = base / 67108864 ∧
      fldBits w.toNat 20 6 = d ∧ fldBits w.toNat 0 20 = i := by
  rw [encodeScalar_dl d (x := i.toNat) (by omega) i.isLt hbase, fldBits_eq_iff _ _ i]

/-- The register of [25:20] over a selector, [19:8] zero: KLEN_REJECT. -/
theorem encodeScalar_d (d : BitVec 6)
    (hsel : base % 67108864 < 256 := by decide) (hbase : base < 4294967296 := by decide) :
    encodeScalar base d.toNat 0 0 = some [w] ↔ fld w.toNat 26 6 = base / 67108864 ∧
      fldBits w.toNat 20 6 = d ∧ fld w.toNat 8 12 = 0 ∧ fld w.toNat 0 8 = base % 67108864 := by
  rw [encodeScalar_dl d (x := base % 67108864) rfl (by omega) hbase, fld_eq_low_iff 0 8 12 hsel]

/-- The register of [13:8] over a selector, [25:14] zero: XFLUSH. -/
theorem encodeScalar_b (b : BitVec 6)
    (hsel : base % 67108864 < 256 := by decide) (hbase : base < 4294967296 := by decide) :
    encodeScalar base 0 0 (b.toNat * 256) = some [w] ↔ fld w.toNat 26 6 = base / 67108864 ∧
      fld w.toNat 14 12 = 0 ∧ fldBits w.toNat 8 6 = b ∧ fld w.toNat 0 8 = base % 67108864 := by
  rw [encodeScalar_iff (x := b.toNat * 256 + base % 67108864) (by omega) (by omega) hbase,
    fld_eq_low_iff (N := 16384) 0 14 12 (by omega), fld_eq_iff 0 8 6 hsel, fldBits_eq_iff]

/-- A selector alone, [25:14] zero: FTSW. -/
theorem encodeScalar_sel (hsel : base % 67108864 < 16384 := by decide) (hbase : base < 4294967296 := by decide) :
    encodeScalar base 0 0 0 = some [w] ↔ fld w.toNat 26 6 = base / 67108864 ∧
      fld w.toNat 14 12 = 0 ∧ fld w.toNat 0 14 = base % 67108864 := by
  rw [encodeScalar_iff (x := base % 67108864) rfl (by omega) hbase, fld_eq_low_iff 0 14 12 hsel]

/-- An opcode alone. -/
theorem encodeScalar_op (hsel : base % 67108864 = 0 := by decide) (hbase : base < 4294967296 := by decide) :
    encodeScalar base 0 0 0 = some [w] ↔ fld w.toNat 26 6 = base / 67108864 ∧ fld w.toNat 0 26 = 0 :=
  encodeScalar_iff (by omega) (by omega) hbase

/-- A 26-bit field: B, CALL, LRUN. -/
theorem encodeScalar_o (o : BitVec 26)
    (hsel : base % 67108864 = 0 := by decide) (hbase : base < 4294967296 := by decide) :
    encodeScalar base 0 0 o.toNat = some [w] ↔ fld w.toNat 26 6 = base / 67108864 ∧ fldBits w.toNat 0 26 = o := by
  rw [encodeScalar_iff (x := o.toNat) (by omega) o.isLt hbase, fldBits_eq_iff]

/-- A 16-bit field: PMARK. -/
theorem encodeScalar_pmark (n : BitVec 16)
    (hsel : base % 67108864 = 0 := by decide) (hbase : base < 4294967296 := by decide) :
    encodeScalar base 0 0 n.toNat = some [w] ↔ fld w.toNat 26 6 = base / 67108864 ∧
      fld w.toNat 16 10 = 0 ∧ fldBits w.toNat 0 16 = n := by
  rw [encodeScalar_iff (x := n.toNat) (by omega) (by omega) hbase, fld_eq_low_iff 0 16 10 n.isLt, fldBits_eq_iff]

/-- An 8-bit field: TRAP. -/
theorem encodeScalar_trap (n : BitVec 8)
    (hsel : base % 67108864 = 0 := by decide) (hbase : base < 4294967296 := by decide) :
    encodeScalar base 0 0 n.toNat = some [w] ↔ fld w.toNat 26 6 = base / 67108864 ∧
      fld w.toNat 8 18 = 0 ∧ fldBits w.toNat 0 8 = n := by
  rw [encodeScalar_iff (x := n.toNat) (by omega) (by omega) hbase, fld_eq_low_iff 0 8 18 n.isLt, fldBits_eq_iff]

/-- A kind and a scope: FENCE. -/
theorem encodeScalar_fence (k : BitVec 2) (p : BitVec 3)
    (hsel : base % 67108864 = 0 := by decide) (hbase : base < 4294967296 := by decide) :
    encodeScalar base 0 0 (k.toNat * 8 + p.toNat) = some [w] ↔ fld w.toNat 26 6 = base / 67108864 ∧
      fld w.toNat 5 21 = 0 ∧ fldBits w.toNat 3 2 = k ∧ fldBits w.toNat 0 3 = p := by
  rw [encodeScalar_iff (x := k.toNat * 8 + p.toNat) (by omega) (by omega) hbase,
    fld_eq_low_iff (N := 32) 0 5 21 (by omega), fld_eq_iff 0 3 2 p.isLt, fldBits_eq_iff, fldBits_eq_iff]

/-- A register pair, numbered by its even register: CLK. -/
theorem encodeScalar_clk (d : BitVec 5)
    (hsel : base % 67108864 = 0 := by decide) (hbase : base < 4294967296 := by decide) :
    encodeScalar base 0 0 (d.toNat * 2097152) = some [w] ↔ fld w.toNat 26 6 = base / 67108864 ∧
      fldBits w.toNat 21 5 = d ∧ fld w.toNat 14 7 = 0 ∧ fld w.toNat 0 14 = 0 := by
  rw [encodeScalar_iff (x := d.toNat * 2097152 + 0) (by omega) (by omega) hbase,
    fld_eq_iff (N := 2097152) 0 21 5 (by omega),
    fld_eq_low_iff (N := 16384) 0 14 7 (by omega), fldBits_eq_iff]

/-- Two registers, a condition and an offset: BC. -/
theorem encodeScalar_bc (a b : BitVec 6) (o : BitVec 11) (hsel : base % 2048 = 0 ∧ base % 67108864 < 16384 := by decide)
    (hbase : base < 4294967296 := by decide) :
    encodeScalar base a.toNat b.toNat o.toNat = some [w] ↔ fld w.toNat 26 6 = base / 67108864 ∧
      fldBits w.toNat 20 6 = a ∧ fldBits w.toNat 14 6 = b ∧ fld w.toNat 11 3 = base % 67108864 / 2048 ∧
      fldBits w.toNat 0 11 = o := by
  rw [encodeScalar_dal a b (x := base % 67108864 / 2048 * 2048 + o.toNat) (by omega) (by omega) hbase,
    fld_eq_iff 0 11 3 o.isLt, fldBits_eq_iff _ _ o]

/-- Two registers, size, space and offset: SLD, SST. -/
theorem encodeScalar_mem (d b : BitVec 6) (z s : BitVec 2) (o : BitVec 10) (hsel : base % 67108864 = 0 := by decide)
    (hbase : base < 4294967296 := by decide) :
    encodeScalar base d.toNat b.toNat (z.toNat * 4096 + s.toNat * 1024 + o.toNat) = some [w] ↔
      fld w.toNat 26 6 = base / 67108864 ∧ fldBits w.toNat 20 6 = d ∧ fldBits w.toNat 14 6 = b ∧
      fldBits w.toNat 12 2 = z ∧ fldBits w.toNat 10 2 = s ∧ fldBits w.toNat 0 10 = o := by
  rw [encodeScalar_dal d b (x := (z.toNat * 4 + s.toNat) * 1024 + o.toNat) (by omega) (by omega) hbase,
    fld_eq_iff 0 10 4 o.isLt, fld_eq_iff 10 2 2 s.isLt, fldBits_eq_iff _ _ z, fldBits_eq_iff _ _ s, fldBits_eq_iff _ _ o,
    and_assoc]

/-- The same with a scope: SLD_ACQ, SST_REL. -/
theorem encodeScalar_scoped (d b : BitVec 6) (z s : BitVec 2) (p : BitVec 3) (o : BitVec 7)
    (hsel : base % 67108864 = 0 := by decide)
    (hbase : base < 4294967296 := by decide) :
    encodeScalar base d.toNat b.toNat (z.toNat * 4096 + s.toNat * 1024 + p.toNat * 128 + o.toNat) = some [w] ↔
      fld w.toNat 26 6 = base / 67108864 ∧ fldBits w.toNat 20 6 = d ∧ fldBits w.toNat 14 6 = b ∧
      fldBits w.toNat 12 2 = z ∧ fldBits w.toNat 10 2 = s ∧ fldBits w.toNat 7 3 = p ∧ fldBits w.toNat 0 7 = o := by
  rw [encodeScalar_dal d b (x := (z.toNat * 4 + s.toNat) * 1024 + (p.toNat * 128 + o.toNat)) (by omega) (by omega) hbase,
    fld_eq_iff 0 10 4 (by omega), fld_eq_iff 10 2 2 s.isLt, fld_eq_iff 0 7 3 o.isLt, fldBits_eq_iff _ _ z,
    fldBits_eq_iff _ _ s, fldBits_eq_iff _ _ p, fldBits_eq_iff _ _ o, and_assoc]

/-- Three registers, operation, kind and scope: SATOM. -/
theorem encodeScalar_satom (d a b : BitVec 6) (o : BitVec 3) (k : BitVec 2) (p : BitVec 3)
    (hsel : base % 67108864 = 0 := by decide)
    (hbase : base < 4294967296 := by decide) :
    encodeScalar base d.toNat a.toNat (b.toNat * 256 + o.toNat * 32 + k.toNat * 8 + p.toNat) = some [w] ↔
      fld w.toNat 26 6 = base / 67108864 ∧ fldBits w.toNat 20 6 = d ∧ fldBits w.toNat 14 6 = a ∧
      fldBits w.toNat 8 6 = b ∧ fldBits w.toNat 5 3 = o ∧ fldBits w.toNat 3 2 = k ∧ fldBits w.toNat 0 3 = p := by
  rw [encodeScalar_dal d a (x := b.toNat * 256 + ((o.toNat * 4 + k.toNat) * 8 + p.toNat)) (by omega) (by omega) hbase,
    fld_eq_iff 0 8 6 (by omega), fld_eq_iff 0 3 5 p.isLt, fld_eq_iff 3 2 3 k.isLt, fldBits_eq_iff _ _ b,
    fldBits_eq_iff _ _ o, fldBits_eq_iff _ _ k, fldBits_eq_iff _ _ p, and_assoc]

end Layouts

/-! ## Scalar words are the encodings of what they decode to -/

/-- A value of an alternative is the value of one of its branches. -/
theorem of_ite_eq_some {c P : Prop} [Decidable c] {x y : Option Instr} {i : Instr} (h : (if c then x else y) = some i)
    (hpos : c → x = some i → P) (hneg : y = some i → P) : P := by
  by_cases hc : c
  · exact hpos hc (by rwa [if_pos hc] at h)
  · exact hneg (by rwa [if_neg hc] at h)

section Encodes
variable {w : W32} {i : Instr}

theorem of_some_eq_some {j : Instr} (h : some j = some i) (hj : encode j = some [w]) : encode i = some [w] :=
  Option.some.inj h ▸ hj

theorem of_guard_eq_some {c : Prop} [Decidable c] {j : Instr} (h : (if c then some j else none) = some i)
    (hj : c → encode j = some [w]) : encode i = some [w] := by
  obtain ⟨hc, hji⟩ := Option.ite_none_right_eq_some.mp h
  exact of_some_eq_some hji (hj hc)

theorem encode_of_decodeScalar00 (hop : fld w.toNat 26 6 = 0x00) (h : decodeScalar00 w.toNat = some i) :
    encode i = some [w] := by
  unfold decodeScalar00 at h
  split at h <;> cases h
  all_goals exact (encodeScalar_dab _ _ _).mpr ⟨hop, rfl, rfl, rfl, ‹_›⟩

theorem encode_of_decodeScalar11 (hop : fld w.toNat 26 6 = 0x11) (h : decodeScalar11 w.toNat = some i) :
    encode i = some [w] := by
  unfold decodeScalar11 at h
  split at h <;> cases h
  all_goals exact (encodeScalar_bc _ _ _).mpr ⟨hop, rfl, rfl, ‹_›, rfl⟩

theorem encode_of_decodeScalar22 (hop : fld w.toNat 26 6 = 0x22) (h : decodeScalar22 w.toNat = some i) :
    encode i = some [w] := by
  unfold decodeScalar22 at h
  split at h <;> cases h
  all_goals exact (encodeScalar_dl _ rfl).mpr ⟨hop, rfl, ‹_›⟩

theorem encode_of_decodeScalar2A (hop : fld w.toNat 26 6 = 0x2A) (h : decodeScalar2A w.toNat = some i) :
    encode i = some [w] := by
  unfold decodeScalar2A at h
  split at h
  case h_4 hsel =>
    exact of_guard_eq_some h fun hz => (encodeScalar_d _).mpr ⟨hop, rfl, hz, hsel⟩
  case h_5 hsel | h_6 hsel =>
    exact of_some_eq_some h <| (encodeScalar_dab _ _ _).mpr ⟨hop, rfl, rfl, rfl, hsel⟩
  case h_8 => cases h
  all_goals
    exact of_guard_eq_some h fun hz => (encodeScalar_da _ _).mpr ⟨hop, rfl, rfl, hz, ‹_›⟩

theorem encode_of_decodeScalar2C (hop : fld w.toNat 26 6 = 0x2C) (h : decodeScalar2C w.toNat = some i) :
    encode i = some [w] := by
  unfold decodeScalar2C at h
  split at h
  case h_2 hsel =>
    exact of_some_eq_some h <| (encodeScalar_dab _ _ _).mpr ⟨hop, rfl, rfl, rfl, hsel⟩
  case h_5 hsel =>
    exact of_guard_eq_some h fun hz => (encodeScalar_b _).mpr ⟨hop, hz, rfl, hsel⟩
  case h_7 => cases h
  all_goals
    exact of_guard_eq_some h fun hz => (encodeScalar_ab _ _).mpr ⟨hop, hz, rfl, rfl, ‹_›⟩

theorem encode_of_decodeScalar2D (hop : fld w.toNat 26 6 = 0x2D) (h : decodeScalar2D w.toNat = some i) :
    encode i = some [w] := by
  unfold decodeScalar2D at h
  split at h
  case h_1 hsel =>
    exact of_guard_eq_some h fun hz => (encodeScalar_clk _).mpr ⟨hop, rfl, hz, hsel⟩
  case h_2 hsel =>
    exact of_guard_eq_some h fun hz => (encodeScalar_al _ rfl).mpr ⟨hop, hz, rfl, hsel⟩
  case h_3 => cases h

theorem encode_of_decodeScalar2E (hop : fld w.toNat 26 6 = 0x2E) (h : decodeScalar2E w.toNat = some i) :
    encode i = some [w] := by
  unfold decodeScalar2E at h
  split at h
  case h_1 hsel =>
    exact of_guard_eq_some h fun hz => (encodeScalar_al _ rfl).mpr ⟨hop, hz, rfl, hsel⟩
  case h_2 hsel =>
    exact of_guard_eq_some h fun hz => (encodeScalar_sel).mpr ⟨hop, hz, hsel⟩
  case h_3 => cases h

theorem encode_of_decodeScalar3A (hop : fld w.toNat 26 6 = 0x3A) (h : decodeScalar3A w.toNat = some i) :
    encode i = some [w] := by
  unfold decodeScalar3A at h
  split at h
  case h_3 hsel =>
    exact of_guard_eq_some h fun hz => (encodeScalar_da _ _).mpr ⟨hop, rfl, rfl, hz, hsel⟩
  case h_5 => cases h
  all_goals
    exact of_some_eq_some h <| (encodeScalar_dab _ _ _).mpr ⟨hop, rfl, rfl, rfl, ‹_›⟩

theorem encode_of_decodeScalar3B (hop : fld w.toNat 26 6 = 0x3B) (h : decodeScalar3B w.toNat = some i) :
    encode i = some [w] := by
  unfold decodeScalar3B at h
  split at h
  case h_1 hsel | h_5 hsel =>
    exact of_guard_eq_some h fun hz => (encodeScalar_da _ _).mpr ⟨hop, rfl, rfl, hz, hsel⟩
  case h_2 hsel | h_3 hsel =>
    exact of_guard_eq_some h fun ⟨hb, hd⟩ => (encodeScalar_a _).mpr ⟨hop, hd, rfl, hb, hsel⟩
  case h_4 hsel =>
    exact of_guard_eq_some h fun hz => (encodeScalar_ab _ _).mpr ⟨hop, hz, rfl, rfl, hsel⟩
  case h_6 hsel =>
    exact of_some_eq_some h <| (encodeScalar_dab _ _ _).mpr ⟨hop, rfl, rfl, rfl, hsel⟩
  case h_7 => cases h

/-- A word that names an instruction is that instruction's encoding, whatever its opcode (R51). -/
theorem encode_of_decodeScalarRaw (h : decodeScalarRaw w.toNat = some i) : encode i = some [w] := by
  unfold decodeScalarRaw scalarInstr at h
  refine of_ite_eq_some h encode_of_decodeScalar00 fun h => ?_
  refine of_ite_eq_some h (fun hop h => of_some_eq_some h <|
    (encodeScalar_dai _ _ _).mpr ⟨hop, rfl, rfl, rfl⟩) fun h => ?_
  refine of_ite_eq_some h (fun hop h => of_some_eq_some h <|
    (encodeScalar_dai _ _ _).mpr ⟨hop, rfl, rfl, rfl⟩) fun h => ?_
  refine of_ite_eq_some h (fun hop h => of_some_eq_some h <|
    (encodeScalar_dai _ _ _).mpr ⟨hop, rfl, rfl, rfl⟩) fun h => ?_
  refine of_ite_eq_some h (fun hop h => of_some_eq_some h <|
    (encodeScalar_dai _ _ _).mpr ⟨hop, rfl, rfl, rfl⟩) fun h => ?_
  refine of_ite_eq_some h (fun hop h => of_guard_eq_some h fun hz =>
    (encodeScalar_dash _ _ _).mpr ⟨hop, rfl, rfl, hz, rfl⟩) fun h => ?_
  refine of_ite_eq_some h (fun hop h => of_guard_eq_some h fun hz =>
    (encodeScalar_dash _ _ _).mpr ⟨hop, rfl, rfl, hz, rfl⟩) fun h => ?_
  refine of_ite_eq_some h (fun hop h => of_guard_eq_some h fun hz =>
    (encodeScalar_dash _ _ _).mpr ⟨hop, rfl, rfl, hz, rfl⟩) fun h => ?_
  refine of_ite_eq_some h (fun hop h => of_guard_eq_some h fun hz =>
    (encodeScalar_di _ _).mpr ⟨hop, rfl, hz, rfl⟩) fun h => ?_
  refine of_ite_eq_some h (fun hop h => of_some_eq_some h <| (encodeScalar_dlong _ _).mpr ⟨hop, rfl, rfl⟩) fun h => ?_
  refine of_ite_eq_some h (fun hop h => of_some_eq_some h <| (encodeScalar_dlong _ _).mpr ⟨hop, rfl, rfl⟩) fun h => ?_
  refine of_ite_eq_some h (fun hop h => of_some_eq_some h <| (encodeScalar_o _).mpr ⟨hop, rfl⟩) fun h => ?_
  refine of_ite_eq_some h encode_of_decodeScalar11 fun h => ?_
  refine of_ite_eq_some h (fun hop h => of_some_eq_some h <| (encodeScalar_o _).mpr ⟨hop, rfl⟩) fun h => ?_
  refine of_ite_eq_some h (fun hop h => of_guard_eq_some h fun hz => (encodeScalar_op).mpr ⟨hop, hz⟩) fun h => ?_
  refine of_ite_eq_some h (fun hop h => of_guard_eq_some h fun ⟨hz, hd⟩ =>
    (encodeScalar_al _ rfl).mpr ⟨hop, hd, rfl, hz⟩) fun h => ?_
  refine of_ite_eq_some h (fun hop h => of_some_eq_some h <|
    (encodeScalar_mem _ _ _ _ _).mpr ⟨hop, rfl, rfl, rfl, rfl, rfl⟩) fun h => ?_
  refine of_ite_eq_some h (fun hop h => of_some_eq_some h <|
    (encodeScalar_mem _ _ _ _ _).mpr ⟨hop, rfl, rfl, rfl, rfl, rfl⟩) fun h => ?_
  refine of_ite_eq_some h (fun hop h => of_some_eq_some h <|
    (encodeScalar_scoped _ _ _ _ _ _).mpr ⟨hop, rfl, rfl, rfl, rfl, rfl, rfl⟩) fun h => ?_
  refine of_ite_eq_some h (fun hop h => of_some_eq_some h <|
    (encodeScalar_scoped _ _ _ _ _ _).mpr ⟨hop, rfl, rfl, rfl, rfl, rfl, rfl⟩) fun h => ?_
  refine of_ite_eq_some h (fun hop h => of_some_eq_some h <|
    (encodeScalar_satom _ _ _ _ _ _).mpr ⟨hop, rfl, rfl, rfl, rfl, rfl, rfl⟩) fun h => ?_
  refine of_ite_eq_some h (fun hop h => of_some_eq_some h <| (encodeScalar_o _).mpr ⟨hop, rfl⟩) fun h => ?_
  refine of_ite_eq_some h (fun hop h => of_guard_eq_some h fun hz => (encodeScalar_op).mpr ⟨hop, hz⟩) fun h => ?_
  refine of_ite_eq_some h encode_of_decodeScalar22 fun h => ?_
  refine of_ite_eq_some h (fun hop h => of_guard_eq_some h fun ⟨hz, hd⟩ =>
    (encodeScalar_ab _ _).mpr ⟨hop, hd, rfl, rfl, hz⟩) fun h => ?_
  refine of_ite_eq_some h (fun hop h => of_guard_eq_some h fun ⟨hz, hd⟩ =>
    (encodeScalar_ab _ _).mpr ⟨hop, hd, rfl, rfl, hz⟩) fun h => ?_
  refine of_ite_eq_some h (fun hop h => of_guard_eq_some h fun ⟨hz, hd⟩ =>
    (encodeScalar_al _ rfl).mpr ⟨hop, hd, rfl, hz⟩) fun h => ?_
  refine of_ite_eq_some h (fun hop h => of_guard_eq_some h fun hd =>
    (encodeScalar_ai _ _).mpr ⟨hop, hd, rfl, rfl⟩) fun h => ?_
  refine of_ite_eq_some h (fun hop h => of_guard_eq_some h fun hd =>
    (encodeScalar_ai _ _).mpr ⟨hop, hd, rfl, rfl⟩) fun h => ?_
  refine of_ite_eq_some h (fun hop h => of_guard_eq_some h fun ⟨hz, hd⟩ =>
    (encodeScalar_copy _ _).mpr ⟨hop, hd, rfl, hz, rfl⟩) fun h => ?_
  refine of_ite_eq_some h (fun hop h => of_guard_eq_some h fun ⟨hz, hd⟩ =>
    (encodeScalar_al _ rfl).mpr ⟨hop, hd, rfl, hz⟩) fun h => ?_
  refine of_ite_eq_some h encode_of_decodeScalar2A fun h => ?_
  refine of_ite_eq_some h (fun hop h => of_guard_eq_some h fun hz =>
    (encodeScalar_pmark _).mpr ⟨hop, hz, rfl⟩) fun h => ?_
  refine of_ite_eq_some h encode_of_decodeScalar2C fun h => ?_
  refine of_ite_eq_some h encode_of_decodeScalar2D fun h => ?_
  refine of_ite_eq_some h encode_of_decodeScalar2E fun h => ?_
  refine of_ite_eq_some h (fun hop h => of_guard_eq_some h fun hz =>
    (encodeScalar_di _ _).mpr ⟨hop, rfl, hz, rfl⟩) fun h => ?_
  refine of_ite_eq_some h (fun hop h => of_guard_eq_some h fun hd =>
    (encodeScalar_ai _ _).mpr ⟨hop, hd, rfl, rfl⟩) fun h => ?_
  refine of_ite_eq_some h (fun hop h => of_guard_eq_some h fun hz =>
    (encodeScalar_fence _ _).mpr ⟨hop, hz, rfl, rfl⟩) fun h => ?_
  refine of_ite_eq_some h (fun hop h => of_guard_eq_some h fun hz =>
    (encodeScalar_trap _).mpr ⟨hop, hz, rfl⟩) fun h => ?_
  refine of_ite_eq_some h (fun hop h => of_guard_eq_some h fun hz => (encodeScalar_op).mpr ⟨hop, hz⟩) fun h => ?_
  refine of_ite_eq_some h (fun hop h => of_guard_eq_some h fun hz => (encodeScalar_op).mpr ⟨hop, hz⟩) fun h => ?_
  refine of_ite_eq_some h (fun hop h => of_guard_eq_some h fun hz =>
    (encodeScalar_dal _ _ rfl).mpr ⟨hop, rfl, rfl, hz⟩) fun h => ?_
  refine of_ite_eq_some h (fun hop h => of_guard_eq_some h fun hz => (encodeScalar_op).mpr ⟨hop, hz⟩) fun h => ?_
  refine of_ite_eq_some h (fun hop h => of_guard_eq_some h fun hz =>
    (encodeScalar_dab _ _ _).mpr ⟨hop, rfl, rfl, rfl, hz⟩) fun h => ?_
  refine of_ite_eq_some h (fun hop h => of_guard_eq_some h fun ⟨hz, hd⟩ =>
    (encodeScalar_ab _ _).mpr ⟨hop, hd, rfl, rfl, hz⟩) fun h => ?_
  refine of_ite_eq_some h encode_of_decodeScalar3A fun h => ?_
  refine of_ite_eq_some h encode_of_decodeScalar3B fun h => ?_
  refine of_ite_eq_some h (fun hop h => of_guard_eq_some h fun hz =>
    (encodeScalar_dab _ _ _).mpr ⟨hop, rfl, rfl, rfl, hz⟩) fun h => ?_
  cases h

end Encodes

/-! ## The encoding of a scalar instruction names it -/

/-- The word of an instruction names it, whatever its fields hold (R40, R51). -/
theorem decodeScalarRaw_of_encode {w : W32} {i : Instr} (h : encode i = some [w]) : decodeScalarRaw w.toNat = some i := by
  cases i
  case add d a b | sub d a b | mul d a b | mulh d a b | mulhn d a b | div d a b | divn d a b | rem d a b | remn d a b
    | and d a b | or d a b | xor d a b | shl d a b | shr d a b | sar d a b | min d a b | max d a b | minn d a b | maxn d a
    b | setcEq d a b | setcNe d a b | setcLt d a b | setcGe d a b | setcLtn d a b | setcGen d a b =>
    obtain ⟨hop, rfl, rfl, rfl, hsel⟩ := (encodeScalar_dab d a b).mp h
    simp [decodeScalarRaw, scalarInstr, hop, hsel, decodeScalar00]
  case krot d a b | kreq d a b | xlook d a b | digr d a b | errqRead d a b | errqLog d a b | lcmap d a b | grant d a b
    | wkill d a b =>
    obtain ⟨hop, rfl, rfl, rfl, hsel⟩ := (encodeScalar_dab d a b).mp h
    simp [decodeScalarRaw, scalarInstr, hop, hsel, decodeScalar2A, decodeScalar2C, decodeScalar38, decodeScalar3A,
      decodeScalar3B, decodeScalar3C]
  case xmap a b | xfill a b | xevict a b | xfillX24 a b | binit a b | barrive a b | gate a b | scan a b =>
    obtain ⟨hop, hd, rfl, rfl, hsel⟩ := (encodeScalar_ab a b).mp h
    simp [decodeScalarRaw, scalarInstr, hop, hd, hsel, decodeScalar23, decodeScalar24, decodeScalar2C,
      decodeScalar39, decodeScalar3B]
  case kseqLd d a | kseqSt d a | klenCommit d a | ksum d a | errqRepair d a | corectlDrain d a | scanwt d a =>
    obtain ⟨hop, rfl, rfl, hb, hsel⟩ := (encodeScalar_da d a).mp h
    simp [decodeScalarRaw, scalarInstr, hop, hb, hsel, decodeScalar2A, decodeScalar3A, decodeScalar3B]
  case corectlIsolate a | corectlRelease a =>
    obtain ⟨hop, hd, rfl, hb, hsel⟩ := (encodeScalar_a a).mp h
    simp [decodeScalarRaw, scalarInstr, hop, hd, hb, hsel, decodeScalar3B]
  case launch d a =>
    obtain ⟨hop, rfl, rfl, hz⟩ := (encodeScalar_dal d a rfl).mp h
    simp [decodeScalarRaw, scalarInstr, hop, hz, decodeScalar36]
  case jmpr a | bwait a | mloop a | cwait a | ftld a =>
    obtain ⟨hop, hd, rfl, hsel⟩ := (encodeScalar_al a rfl).mp h
    simp [decodeScalarRaw, scalarInstr, hop, hd, hsel, decodeScalar14, decodeScalar25, decodeScalar29,
      decodeScalar2D, decodeScalar2E]
  case addi d a i | andi d a i | ori d a i | xori d a i =>
    obtain ⟨hop, rfl, rfl, rfl⟩ := (encodeScalar_dai d a i).mp h
    simp [decodeScalarRaw, scalarInstr, hop, decodeScalar01, decodeScalar02, decodeScalar03, decodeScalar04]
  case shli d a i | shri d a i | sari d a i =>
    obtain ⟨hop, rfl, rfl, hz, rfl⟩ := (encodeScalar_dash d a i).mp h
    simp [decodeScalarRaw, scalarInstr, hop, hz, decodeScalar05, decodeScalar06, decodeScalar07]
  case li d i | srr d i =>
    obtain ⟨hop, rfl, ha, rfl⟩ := (encodeScalar_di d i).mp h
    simp [decodeScalarRaw, scalarInstr, hop, ha, decodeScalar08, decodeScalar30]
  case bcont a i | yieldC a i | srw a i =>
    obtain ⟨hop, hd, rfl, rfl⟩ := (encodeScalar_ai a i).mp h
    simp [decodeScalarRaw, scalarInstr, hop, hd, decodeScalar26, decodeScalar27, decodeScalar31]
  case copy a c =>
    obtain ⟨hop, hd, rfl, hz, rfl⟩ := (encodeScalar_copy a c).mp h
    simp [decodeScalarRaw, scalarInstr, hop, hd, hz, decodeScalar28]
  case lih d i | orl d i =>
    obtain ⟨hop, rfl, rfl⟩ := (encodeScalar_dlong d i).mp h
    simp [decodeScalarRaw, scalarInstr, hop, decodeScalar09, decodeScalar0A]
  case barBk d | barGg d | bareBk d | bareGg d =>
    obtain ⟨hop, rfl, hsel⟩ := (encodeScalar_dl d rfl).mp h
    simp [decodeScalarRaw, scalarInstr, hop, hsel, decodeScalar22]
  case klenReject d =>
    obtain ⟨hop, rfl, hz, hsel⟩ := (encodeScalar_d d).mp h
    simp [decodeScalarRaw, scalarInstr, hop, hz, hsel, decodeScalar2A]
  case xflush b =>
    obtain ⟨hop, hz, rfl, hsel⟩ := (encodeScalar_b b).mp h
    simp [decodeScalarRaw, scalarInstr, hop, hz, hsel, decodeScalar2C]
  case clk d =>
    obtain ⟨hop, rfl, hz, hsel⟩ := (encodeScalar_clk d).mp h
    simp [decodeScalarRaw, scalarInstr, hop, hz, hsel, decodeScalar2D]
  case ftsw =>
    obtain ⟨hop, hz, hsel⟩ := (encodeScalar_sel).mp h
    simp [decodeScalarRaw, scalarInstr, hop, hz, hsel, decodeScalar2E]
  case b o | call o | lrun o =>
    obtain ⟨hop, rfl⟩ := (encodeScalar_o o).mp h
    simp [decodeScalarRaw, scalarInstr, hop, decodeScalar10, decodeScalar12, decodeScalar20]
  case ret | lsync | eret | nop | exit =>
    obtain ⟨hop, hz⟩ := (encodeScalar_op).mp h
    simp [decodeScalarRaw, scalarInstr, hop, hz, decodeScalar13, decodeScalar21, decodeScalar34, decodeScalar35,
      decodeScalar37]
  case pmark n =>
    obtain ⟨hop, hz, rfl⟩ := (encodeScalar_pmark n).mp h
    simp [decodeScalarRaw, scalarInstr, hop, hz, decodeScalar2B]
  case trap n =>
    obtain ⟨hop, hz, rfl⟩ := (encodeScalar_trap n).mp h
    simp [decodeScalarRaw, scalarInstr, hop, hz, decodeScalar33]
  case fence k p =>
    obtain ⟨hop, hz, rfl, rfl⟩ := (encodeScalar_fence k p).mp h
    simp [decodeScalarRaw, scalarInstr, hop, hz, decodeScalar32]
  case bcEq a b o | bcNe a b o | bcLt a b o | bcGe a b o | bcLtn a b o | bcGen a b o | bcBs a b o | bcBc a b o =>
    obtain ⟨hop, rfl, rfl, hsel, rfl⟩ := (encodeScalar_bc a b o).mp h
    simp [decodeScalarRaw, scalarInstr, hop, hsel, decodeScalar11]
  case sld d b z s o | sst d b z s o =>
    obtain ⟨hop, rfl, rfl, rfl, rfl, rfl⟩ := (encodeScalar_mem d b z s o).mp h
    simp [decodeScalarRaw, scalarInstr, hop, decodeScalar18, decodeScalar19]
  case sldAcq d b z s p o | sstRel d b z s p o =>
    obtain ⟨hop, rfl, rfl, rfl, rfl, rfl, rfl⟩ := (encodeScalar_scoped d b z s p o).mp h
    simp [decodeScalarRaw, scalarInstr, hop, decodeScalar1A, decodeScalar1B]
  case satom d a b o k p =>
    obtain ⟨hop, rfl, rfl, rfl, rfl, rfl, rfl⟩ := (encodeScalar_satom d a b o k p).mp h
    simp [decodeScalarRaw, scalarInstr, hop, decodeScalar1C]
  all_goals cases h


/-! ## Lane words (R43, R52) -/

section LaneWords
variable {w0 w1 w2 : W32} {i : Instr}

/-- The second word of a lane instruction holds its registers and control field. -/
theorem laneWord1_iff (va vb : BitVec 8) (ctl : BitVec 16) :
    BitVec.ofNat 32 (va.toNat * 2 ^ 24 + vb.toNat * 2 ^ 16 + ctl.toNat) = w1 ↔
      fldBits w1.toNat 24 8 = va ∧ fldBits w1.toNat 16 8 = vb ∧ fldBits w1.toNat 0 16 = ctl := by
  have hsum : va.toNat * 2 ^ 24 + vb.toNat * 2 ^ 16 + ctl.toNat = (va.toNat * 256 + vb.toNat) * 65536 + ctl.toNat := by
    omega
  rw [hsum, ← BitVec.toNat_inj, BitVec.toNat_ofNat, Nat.mod_eq_of_lt (by omega), eq_comm, ← fld_word w1,
    fld_eq_iff 0 16 16 ctl.isLt, fld_eq_iff 16 8 8 vb.isLt, fldBits_eq_iff, fldBits_eq_iff, fldBits_eq_iff, and_assoc]
  simp only [fld_word]

/-- The third word of a lane instruction holds its opcode, form, guard, type and destination. -/
theorem laneWord2_iff {op : Nat} (hop : op < 256) (f : LaneF) :
    BitVec.ofNat 32 (op * 2 ^ 24 + f.la.toNat * 2 ^ 20 + f.g.toNat * 2 ^ 16 + f.gn.toNat * 2 ^ 15 +
        f.ty.toNat * 2 ^ 10 + f.lc.toNat * 2 ^ 9 + f.ab.toNat * 2 ^ 8 + f.vd.toNat) = w2 ↔
      fld w2.toNat 28 4 = op / 16 ∧ fld w2.toNat 24 4 = op % 16 ∧ fldBits w2.toNat 20 4 = f.la ∧
      fldBits w2.toNat 16 4 = f.g ∧ fldBits w2.toNat 15 1 = f.gn ∧ fldBits w2.toNat 10 5 = f.ty ∧
      fldBits w2.toNat 9 1 = f.lc ∧ fldBits w2.toNat 8 1 = f.ab ∧ fldBits w2.toNat 0 8 = f.vd := by
  have hsum : op * 2 ^ 24 + f.la.toNat * 2 ^ 20 + f.g.toNat * 2 ^ 16 + f.gn.toNat * 2 ^ 15 + f.ty.toNat * 2 ^ 10 +
        f.lc.toNat * 2 ^ 9 + f.ab.toNat * 2 ^ 8 + f.vd.toNat =
      (((((((op / 16 * 16 + op % 16) * 16 + f.la.toNat) * 16 + f.g.toNat) * 2 + f.gn.toNat) * 32 + f.ty.toNat) * 2 +
        f.lc.toNat) * 2 + f.ab.toNat) * 256 + f.vd.toNat := by
    omega
  rw [hsum, ← BitVec.toNat_inj, BitVec.toNat_ofNat, Nat.mod_eq_of_lt (by omega), eq_comm, ← fld_word w2,
    fld_eq_iff 0 8 24 f.vd.isLt, fld_eq_iff 8 1 23 f.ab.isLt, fld_eq_iff 9 1 22 f.lc.isLt, fld_eq_iff 10 5 17 f.ty.isLt,
    fld_eq_iff 15 1 16 f.gn.isLt, fld_eq_iff 16 4 12 f.g.isLt, fld_eq_iff 20 4 8 f.la.isLt,
    fld_eq_iff 24 4 4 (Nat.mod_lt op (by decide))]
  simp only [fldBits_eq_iff, fld_word, and_assoc]

/-- The words of a lane instruction hold its opcode and its fields, and nothing else. -/
theorem encodeLane_iff {op : Nat} (hop : op < 256) (f : LaneF) :
    encodeLane op f = [w0, w1, w2] ↔ fld w2.toNat 28 4 = op / 16 ∧ fld w2.toNat 24 4 = op % 16 ∧
      laneFields w0.toNat w1.toNat w2.toNat = f := by
  have hc : f.c = w0 ↔ fldBits w0.toNat 0 32 = f.c := by
    rw [fldBits_eq_iff, fld_word, BitVec.toNat_inj, eq_comm]
  rw [encodeLane, List.cons.injEq, List.cons.injEq, List.cons.injEq, hc, laneWord1_iff, laneWord2_iff hop]
  obtain ⟨la, g, gn, ty, lc, ab, vd, va, vb, ctl, c⟩ := f
  simp only [laneFields, LaneF.mk.injEq]
  tauto

/-- The instruction of a lane opcode is encoded with that opcode (R52). -/
theorem encode_of_laneInstr {hi lo : Nat} {f : LaneF} (h : laneInstr hi lo f = some i) :
    encode i = some (encodeLane (hi * 16 + lo) f) := by
  unfold laneInstr at h
  split at h
  case h_1 => unfold laneInstr0 at h; split at h <;> cases h <;> rfl
  case h_2 => unfold laneInstr1 at h; split at h <;> cases h <;> rfl
  case h_3 => unfold laneInstr4 at h; split at h <;> cases h <;> rfl
  case h_4 => unfold laneInstr5 at h; split at h <;> cases h <;> rfl
  case h_5 => unfold laneInstr6 at h; split at h <;> cases h <;> rfl
  case h_6 => unfold laneInstr7 at h; split at h <;> cases h <;> rfl
  case h_7 => unfold laneInstr8 at h; split at h <;> cases h <;> rfl
  case h_8 => unfold laneInstr9 at h; split at h <;> cases h <;> rfl
  case h_9 => unfold laneInstrC at h; split at h <;> cases h <;> rfl
  case h_10 => unfold laneInstrD at h; split at h <;> cases h <;> rfl
  case h_11 => unfold laneInstrE at h; split at h <;> cases h <;> rfl
  case h_12 => cases h

/-- The words of a lane encoding name the instruction of its opcode, over its fields. -/
theorem laneInstr_of_encodeLane {op : Nat} {f : LaneF} (hop : op < 256) (h : some (encodeLane op f) = some [w0, w1, w2]) :
    laneInstr (fld w2.toNat 28 4) (fld w2.toNat 24 4) (laneFields w0.toNat w1.toNat w2.toNat) =
      laneInstr (op / 16) (op % 16) f := by
  obtain ⟨hhi, hlo, hf⟩ := (encodeLane_iff hop f).mp (Option.some.inj h)
  rw [hhi, hlo, hf]

/-- The three words of an instruction name it. -/
theorem laneInstr_of_encode (h : encode i = some [w0, w1, w2]) :
    laneInstr (fld w2.toNat 28 4) (fld w2.toNat 24 4) (laneFields w0.toNat w1.toNat w2.toNat) = some i := by
  cases i
  case vadd f | vsub f | vmul f | vmulh f | vmad f | vand f | vor f | vxor f | vshl f | vshr f | vsar f | vmin f | vmax
    f | vabs f | vcnt f | vclz f | vbfx f | vbfi f | vsel f | vmov f | vwid f | vcmp f | mlog f | mcnt f | vbr f | lend f
    | vshuf f | vbcast f | vvote f | vrdl f | vscan f | vredx f | fadd f | fsub f | fmul f | ffma f | fmin f | fmax f |
    fdiv f | fsqrt f | frcp f | frsq f | fexp2 f | flog2 f | fcmp f | fclass f | fcvt f | vrot f | vft f | dadd f | dsub f
    | dmul f | dfma f | dqtz f | dcmp f | dcvt f | bqnt f | bdq f | vld f | vst f | vlds f | vsts f | vatom f | vcas f |
    mma f | mmaNs f | scacc f | attb f | attbResume f | kapp f | treq f | vstc f | vlda f =>
    exact laneInstr_of_encodeLane (by decide) h
  all_goals cases h

/-- Three words that name an instruction are that instruction's encoding. -/
theorem encode_of_laneInstr_words
    (h : laneInstr (fld w2.toNat 28 4) (fld w2.toNat 24 4) (laneFields w0.toNat w1.toNat w2.toNat) = some i) :
    encode i = some [w0, w1, w2] := by
  have hhi : fld w2.toNat 28 4 < 16 := Nat.mod_lt _ (by decide)
  have hlo : fld w2.toNat 24 4 < 16 := Nat.mod_lt _ (by decide)
  rw [encode_of_laneInstr h, (encodeLane_iff (by omega) _).mpr ⟨by omega, by omega, rfl⟩]

end LaneWords

/-! ## Decoding: the instruction a word names, where its fields have a meaning (R53) -/

theorem decodeScalar_eq_some_iff {w : W32} {i : Instr} :
    decodeScalar w = some i ↔ i.wf = true ∧ encode i = some [w] := by
  have hfilter : decodeScalar w = (decodeScalarRaw w.toNat).filter Instr.wf := by
    rw [decodeScalar]
    cases decodeScalarRaw w.toNat <;> rfl
  rw [hfilter, Option.filter_eq_some_iff, and_comm]
  exact and_congr_right' ⟨encode_of_decodeScalarRaw, decodeScalarRaw_of_encode⟩

theorem decodeLane_eq_some_iff {w0 w1 w2 : W32} {i : Instr} :
    decodeLane w0 w1 w2 = some i ↔ i.wf = true ∧ encode i = some [w0, w1, w2] := by
  have hfilter : decodeLane w0 w1 w2 = (laneInstr (fld w2.toNat 28 4) (fld w2.toNat 24 4)
      (laneFields w0.toNat w1.toNat w2.toNat)).filter Instr.wf := by
    rw [decodeLane]
    cases laneInstr _ _ _ <;> rfl
  rw [hfilter, Option.filter_eq_some_iff, and_comm]
  exact and_congr_right' ⟨encode_of_laneInstr_words, laneInstr_of_encode⟩

theorem encode_length {i : Instr} {ws : List W32} (h : encode i = some ws) : ws.length = 1 ∨ ws.length = 3 := by
  cases i
  all_goals cases h <;> simp [encodeLane]

/-- The words of a well-formed instruction, one or three of them, decode to it. -/
theorem decodeWords_encode {i : Instr} {ws : List W32} (hwf : i.wf = true) (h : encode i = some ws) :
    decodeWords ws = some i := by
  obtain hlen | hlen := encode_length h
  · obtain ⟨w, rfl⟩ := List.length_eq_one_iff.mp hlen
    exact decodeScalar_eq_some_iff.mpr ⟨hwf, h⟩
  · obtain ⟨w0, w1, w2, rfl⟩ := List.length_eq_three.mp hlen
    exact decodeLane_eq_some_iff.mpr ⟨hwf, h⟩

/-- Settles O47: a word, or three of them, decode to the well-formed instruction whose encoding they are. -/
theorem wordsAndInstructionsCorrespond : Obligations.WordsAndInstructionsCorrespond :=
  ⟨fun _ _ => decodeWords_encode, fun _ _ => decodeScalar_eq_some_iff.mp, fun _ _ _ _ => decodeLane_eq_some_iff.mp⟩

/-- Settles O48: the decoder evaluated on each word. -/
theorem wordsDecodeAsTheTablesSay : Obligations.WordsDecodeAsTheTablesSay := by
  refine ⟨?_, ?_, ?_, ?_, ?_, ?_, ?_, ?_, ?_, ?_, ?_, ?_, ?_, ?_⟩
  all_goals decide

end Sys2Proof
end

section
/-! O46: a turn that is taken runs the instruction of its stream's words. -/

namespace Sys2Proof.Machine

/- Proofs one after another: side by side, each takes the stack of a thread, and those of the whole text reach the
memory limit of the check. -/
set_option Elab.async false
open Sys2Proof.Claims

/-! ## Taking a turn -/

theorem step_of_turns {s : State} {t : Turn} {rest : List Turn} (h : s.turns = t :: rest) :
    step s = (turnState s t rest).move t.mover := by
  rw [step, State.nextTurn, h]
  rfl

/-- A stream that takes its turn runs its next instruction, and what goes with an issue follows. -/
theorem issue_of_takesTurn {u : State} {w which : Nat} (h : TakesTurn u w which) :
    u.issue w which = (u.runStream w which).map (u.afterRun w which) := by
  obtain ⟨-, hstop, hmirror⟩ := h
  rw [State.issue, if_neg (by rwa [Bool.and_eq_true]), hmirror]

theorem move_scalar {u : State} {w : Nat} (h : TakesTurn u w 2) :
    u.move (.scalar w) = (u.runScalar w).map (u.afterRun w 2) := by
  obtain ⟨hmay, hchosen⟩ := h.free
  rw [State.move, hmay, hchosen, Bool.and_self, if_pos rfl, issue_of_takesTurn h, State.runStream, if_pos rfl]

theorem laneTurn_of_takesTurn {u : State} {w p : Nat} (hp : p < 2) (h : TakesTurn u w p) :
    u.laneTurn w p = (u.runLane w p).map (u.afterRun w p) := by
  obtain ⟨hmay, hchosen⟩ := h.free
  rw [State.laneTurn, hmay, hchosen, decide_eq_true hp, Bool.and_self, Bool.and_self, if_pos rfl, issue_of_takesTurn h,
    State.runStream, if_neg (by omega)]

/-! ## Fetching -/

theorem codeWord_checked {u : State} {w : Nat} {va : W64} {word : W32} (h : CodeWord u w va word) :
    ∃ pa pte, u.check (u.launch (u.warp w).launch).ctx va 3 = .here pa pte ∧ u.poisoned pa 4 = false ∧
      BitVec.ofNat 32 (ofBytes (readBytes u.mem pa 4)) = word := by
  obtain ⟨pa, pte, hcheck, hpoison, hword⟩ := h.found
  exact ⟨pa, pte, hcheck, hpoison, by rw [hword, BitVec.ofNat_toNat, BitVec.setWidth_eq]⟩

theorem codeGot_one {u : State} {w : Nat} {va : W64} {w0 : W32} (h0 : CodeWord u w va w0) :
    u.codeGot w va 1 = .words [w0] := by
  obtain ⟨pa, pte, hcheck, hpoison, hword⟩ := codeWord_checked h0
  have hva : va + BitVec.ofNat 64 (4 * 0) = va := BitVec.add_zero va
  simp only [State.codeGot, List.range_one, List.foldl_cons, List.foldl_nil, hva, hcheck, hpoison, hword,
    Bool.false_eq_true, if_false, List.nil_append]

theorem codeGot_three {u : State} {w : Nat} {va : W64} {w0 w1 w2 : W32}
    (h0 : CodeWord u w (va + BitVec.ofNat 64 (4 * 0)) w0) (h1 : CodeWord u w (va + BitVec.ofNat 64 (4 * 1)) w1)
    (h2 : CodeWord u w (va + BitVec.ofNat 64 (4 * 2)) w2) : u.codeGot w va 3 = .words [w0, w1, w2] := by
  obtain ⟨pa0, pte0, hcheck0, hpoison0, hword0⟩ := codeWord_checked h0
  obtain ⟨pa1, pte1, hcheck1, hpoison1, hword1⟩ := codeWord_checked h1
  obtain ⟨pa2, pte2, hcheck2, hpoison2, hword2⟩ := codeWord_checked h2
  have hrange : List.range 3 = [0, 1, 2] := rfl
  simp only [State.codeGot, hrange, List.foldl_cons, List.foldl_nil, hcheck0, hpoison0, hword0, hcheck1, hpoison1, hword1,
    hcheck2, hpoison2, hword2, Bool.false_eq_true, if_false, List.nil_append, List.cons_append]

theorem runScalar_of_word {u : State} {w : Nat} {word : W32} {i : Instr}
    (hin : ((u.warp w).pc - (u.launch (u.warp w).launch).record.sbase).toNat + 4 ≤
      (u.launch (u.warp w).launch).record.sbytes)
    (hword : CodeWord u w (u.warp w).pc word) (hdec : decodeScalar word = some i) :
    u.runScalar w = exec i { u with cur := ⟨w, 0, word, 0, 0⟩ } := by
  have hgot : u.scalarWords w (u.warp w).pc = .words [word] := by
    rw [State.scalarWords, if_neg (Nat.not_lt.mpr hin), codeGot_one hword]
  simp only [State.runScalar, hgot, List.getD_cons_zero, hdec]

theorem runLane_of_words {u : State} {w p : Nat} {w0 w1 w2 : W32} {i : Instr}
    (hcont : (warpPath (u.warp w) p).cont = false)
    (hin : (warpPath (u.warp w) p).pc + 12 ≤ (u.launch (u.warp w).launch).record.lbytes)
    (hgot : u.codeGot w (laneCode (u.launch (u.warp w).launch).record (warpPath (u.warp w) p).pc) 3 =
      .words [w0, w1, w2]) (hdec : decodeLane w0 w1 w2 = some i) :
    u.runLane w p = exec i { u with cur := ⟨w, p, w0, w1, w2⟩ } := by
  have hwords : u.laneWords w (warpPath (u.warp w) p).pc = .words [w0, w1, w2] := by
    rw [State.laneWords, if_neg (Nat.not_lt.mpr hin), hgot]
  simp only [State.runLane, hcont, Bool.false_eq_true, if_false, hwords, List.getD_cons_zero, List.getD_cons_succ, hdec]

theorem runLane_of_cont {u : State} {w p : Nat} (hcont : (warpPath (u.warp w) p).cont = true) :
    u.runLane w p = exec (.attbReissue w p) u := by
  rw [State.runLane, if_pos hcont]
  rfl

/-! ## What goes with an issue -/

theorem mirrorOwes_of_no_mirror {s after : State} {w which : Nat} {y : Warp} (hy : kGet? after.warps w = some y)
    (hm : y.mirror = none) : s.mirrorOwes after w which = after := by
  simp only [State.mirrorOwes, hy, hm]

theorem afterRun_of_plain {s after : State} {w which : Nat} {y : Warp} (hy : kGet? after.warps w = some y)
    (hm : y.mirror = none) (hstep : (s.warp w).sstep = false) :
    s.afterRun w which after =
      if hasIssued s after w which then after.noteIssue (s.block (s.warp w).block).pcore w which else after := by
  rw [State.afterRun, mirrorOwes_of_no_mirror hy hm, hstep]
  cases hasIssued s after w which <;> rfl

theorem noteIssue_of_some {s : State} {c w which : Nat} {y : Warp} (hy : kGet? s.warps w = some y) :
    s.noteIssue c w which = if which = 2 then s.setWarp w { y with readyS := none, urgentS := false } else
      (s.setWarp w { y with readyL := none, urgentL := false }).setCore c { s.core c with
        lastLane := kSet (s.core c).lastLane (y.slot % 6) (w, false) } := by
  simp only [State.noteIssue, hy, State.setWarp_core]

/-- Settles O46: the mover of a turn that has been taken runs the instruction of its stream's words. -/
theorem stepRunsTheDecodedInstruction : Obligations.StepRunsTheDecodedInstruction := by
  refine ⟨?_, ?_, ?_, ?_, ?_⟩
  · intro s t rest w word i hturns hmover u r hturn hin hword hdec
    rw [step_of_turns hturns, hmover]
    exact (move_scalar hturn).trans (congrArg _ (runScalar_of_word hin hword hdec))
  · intro s t rest w p w0 w1 w2 i hturns hmover hp u r pc at_ hturn hcont hin h0 h1 h2 hdec
    rw [step_of_turns hturns, hmover]
    exact (laneTurn_of_takesTurn hp hturn).trans
      (congrArg _ (runLane_of_words hcont hin (codeGot_three h0 h1 h2) hdec))
  · intro s t rest i hturns hmover hevent hne
    rw [step_of_turns hturns, hmover, State.move, if_pos hevent]
    exact hne
  · intro s t rest w p hturns hmover hp u hcont hturn
    have hmove : u.move t.mover = u.laneTurn w p := by
      obtain hm | hm := hmover
      · rw [hm, State.move]
      · rw [hm, State.move, if_pos hcont]
    rw [step_of_turns hturns, hmove, laneTurn_of_takesTurn hp hturn, runLane_of_cont hcont]
  · intro s after w which y hy hm hstep c
    have hafter := afterRun_of_plain (which := which) hy hm hstep
    refine ⟨fun hno => ?_, fun hw hyes => ?_, fun hw hyes => ?_⟩
    · rw [hafter, hno, if_neg Bool.false_ne_true]
    · rw [hafter, hyes, if_pos rfl, noteIssue_of_some hy, if_pos hw]
    · rw [hafter, hyes, if_pos rfl, noteIssue_of_some hy, if_neg (by omega)]

end Sys2Proof.Machine
end

section
/-! O51: the lane integer, bit-field, select, move and VWID instructions, lane by lane. -/

namespace Sys2Proof.Machine

/- Proofs one after another: side by side, each takes the stack of a thread, and those of the whole text reach the
memory limit of the check. -/
set_option Elab.async false
open Sys2Proof.Claims

/-! ## Short lane instructions write the lanes they name (R45, R49, R79) -/

theorem laneRest_laneIssued (x : Warp) (p : Nat) : laneRest (laneIssued x p) p = laneRest x p := by
  unfold laneRest laneIssued setPath
  split <;> rfl

theorem warpPath_laneIssued (x : Warp) (p : Nat) : warpPath (laneIssued x p) p = stepPath (warpPath x p) := by
  unfold laneIssued setPath warpPath
  split <;> rfl

theorem laneIssued_v (x : Warp) (p : Nat) : (laneIssued x p).v = x.v := setPath_v ..
theorem laneIssued_m (x : Warp) (p : Nat) : (laneIssued x p).m = x.m := setPath_m ..
theorem laneIssued_s (x : Warp) (p : Nat) : (laneIssued x p).s = x.s := setPath_s ..

/-- A short instruction that has changed no more than registers and masks of its warp goes on. -/
theorem laneDone_goes {s : State} {x : Warp} (hpath : warpPath x s.cur.path = s.myPath)
    (hrest : laneRest x s.cur.path = laneRest s.me s.cur.path) : LaneGoes s (s.laneDone x) where
  frame := OnlyWarp.setMe ..
  path := by rw [State.laneDone, State.setMe_myPath, warpPath_laneIssued, hpath]
  rest := by rw [State.laneDone, State.setMe_me, laneRest_laneIssued, hrest]

theorem mem_lanesOf {m : W32} {l : Nat} : l ∈ lanesOf m ↔ hasLane m l = true := by
  rw [lanesOf, List.mem_filter, List.mem_range, and_iff_right_iff_imp]
  exact fun h => BitVec.lt_of_getLsbD h

theorem lt_of_hasLane {m : W32} {l : Nat} (h : hasLane m l = true) : l < 32 := BitVec.lt_of_getLsbD h

/-- The registers of one lane after its result. -/
theorem vreg_resultW (x : Warp) (pair : Bool) (n l v r k : Nat) (hl : l < 32) (hk : k < 32) :
    vreg (applyRegWrites x (resultW pair n l v)) r k =
      if k = l ∧ r = n then BitVec.ofNat 32 v
      else if k = l ∧ pair = true ∧ r = n + 1 then BitVec.ofNat 32 (v / 2 ^ 32) else vreg x r k := by
  cases pair
  · simp only [resultW, applyRegWrites, Bool.false_eq_true, if_false, List.foldl_cons, List.foldl_nil,
      vreg_setVreg _ hl hk, false_and, and_false]
    exact if_congr And.comm rfl rfl
  · simp only [resultW, applyRegWrites, if_true, List.foldl_cons, List.foldl_nil, vreg_setVreg _ hl hk, true_and]
    by_cases hkl : k = l <;> by_cases hr : r = n <;> simp [hkl, hr]

/-- The registers after the results of the lanes listed: each listed lane has its own, every other what it had. -/
theorem vreg_laneResults (x : Warp) (pair : Bool) (n : Nat) (val : Nat → Nat) {ls : List Nat} (hls : ∀ l ∈ ls, l < 32)
    {r k : Nat} (hk : k < 32) :
    vreg (applyRegWrites x (ls.flatMap fun l => resultW pair n l (val l))) r k =
      if k ∈ ls ∧ r = n then BitVec.ofNat 32 (val k)
      else if k ∈ ls ∧ pair = true ∧ r = n + 1 then BitVec.ofNat 32 (val k / 2 ^ 32) else vreg x r k := by
  induction ls generalizing x with
  | nil => simp [applyRegWrites]
  | cons l ls ih =>
    have happ : applyRegWrites x ((l :: ls).flatMap fun l => resultW pair n l (val l)) =
        applyRegWrites (applyRegWrites x (resultW pair n l (val l))) (ls.flatMap fun l => resultW pair n l (val l)) := by
      rw [List.flatMap_cons, applyRegWrites, List.foldl_append]
      rfl
    rw [happ, ih _ fun l hl => hls l (.tail _ hl), vreg_resultW x pair n l (val l) r k (hls l (.head _)) hk]
    by_cases hkl : k = l
    · subst hkl
      by_cases hr : r = n <;> by_cases hp : pair = true ∧ r = n + 1 <;> simp [hr, hp]
    · simp [hkl]

/-- One result for each active lane is what `LaneWrites` says. -/
theorem writeRegs_writes (s : State) (act : W32) (pair : Bool) (n : Nat) (val : Nat → Nat) :
    LaneWrites s (s.writeRegs ((lanesOf act).flatMap fun l => resultW pair n l (val l))) act pair n val := by
  have hls (l : Nat) (h : l ∈ lanesOf act) : l < 32 := lt_of_hasLane (mem_lanesOf.mp h)
  have hv (r l : Nat) (hl : l < 32) := vreg_laneResults s.me pair n val hls (r := r) hl
  have hme (ws : List RegW) (r l : Nat) : vreg (s.writeRegs ws).me r l = vreg (applyRegWrites s.me ws) r l := by
    rw [State.writeRegs, State.laneDone, State.setMe_me]
    exact vreg_of_v (laneIssued_v ..) r l
  simp only [mem_lanesOf] at hv
  refine ⟨laneDone_goes (warpPath_applyRegWrites ..) (laneRest_applyRegWrites ..), ?_, ?_, ?_, ?_, ?_⟩
  · intro l hl
    rw [hme, hv n l (lt_of_hasLane hl), if_pos ⟨hl, rfl⟩]
  · intro l hl hp
    rw [hme, hv (n + 1) l (lt_of_hasLane hl), if_neg (by omega), if_pos ⟨hl, hp, rfl⟩]
  · intro r l hl hne
    rw [hme, hv r l hl, if_neg fun h => (hne h.1).1 h.2, if_neg fun h => (hne h.1).2 h.2.1 h.2.2]
  · rw [State.writeRegs, State.laneDone, State.setMe_me, laneIssued_m, applyRegWrites_m]
  · rw [State.writeRegs, State.laneDone, State.setMe_me, laneIssued_s, applyRegWrites_s]

theorem laneRun_of_go {s : State} {regs masks : List Nat} (h : s.lanePre regs masks = .go) (body : State → State) :
    s.laneRun regs masks body = body s := by
  rw [State.laneRun, h]

/-- A short lane instruction by its value: it writes that to each active lane. -/
theorem laneMap_writes {s : State} {f : LaneF} {regs masks : List Nat} (h : Ready s f regs masks) (val : Warp → Nat → Nat) :
    LaneWrites s (s.laneMap f regs masks val) (act s f) (isPair f.ty) f.vd.toNat (val s.me) := by
  rw [State.laneMap, laneRun_of_go h]
  exact writeRegs_writes ..

/-! ## Packed elements (R46, R55) -/

theorem elemBits_pos (ty : Nat) : 0 < elemBits ty := by unfold elemBits; split <;> decide

/-- An element of a packed value is the element that was packed. -/
theorem elem_packElems (bits : Nat) (es : List Nat) (e : Nat) : elem bits (packElems bits es) e = es.getD e 0 % 2 ^ bits := by
  induction es generalizing e with
  | nil => simp [packElems, elem]
  | cons x es ih =>
    have hlow : x % 2 ^ bits < 2 ^ bits := Nat.mod_lt _ (Nat.two_pow_pos bits)
    cases e with
    | zero => simp [packElems, elem]
    | succ e =>
      have hdiv : (x % 2 ^ bits + 2 ^ bits * packElems bits es) / 2 ^ bits = packElems bits es := by
        rw [Nat.add_mul_div_left _ _ (Nat.two_pow_pos bits), Nat.div_eq_of_lt hlow, Nat.zero_add]
      rw [List.getD_cons_succ, ← ih e, packElems, elem, elem, Nat.mul_succ, Nat.add_comm _ bits, Nat.pow_add,
        ← Nat.div_div_eq_div_mul, hdiv]

theorem elem_packElems_map {bits count e : Nat} (he : e < count) (g : Nat → Nat) :
    elem bits (packElems bits ((List.range count).map g)) e = g e % 2 ^ bits := by
  rw [elem_packElems, List.getD_eq_getElem?_getD, List.getElem?_map, List.getElem?_range he]
  rfl

/-- Element by element: what an operation on packed operands gives. -/
theorem elemAt_elemMap {ty e : Nat} (he : e < elemCount ty) (op : Nat → Nat → Nat → Nat) (a b c : Nat) :
    elemAt ty (elemMap ty op a b c) e = op (elemAt ty a e) (elemAt ty b e) (elemAt ty c e) % 2 ^ elemBits ty :=
  elem_packElems_map he _

theorem elemAt_lt (ty a e : Nat) : elemAt ty a e < 2 ^ elemBits ty := Nat.mod_lt _ (Nat.two_pow_pos _)

/-! ## Integers (R84) -/

theorem intVal_signed {n : Nat} (hn : 0 < n) (x : Nat) : intVal n true x = (BitVec.ofNat n x).toInt := by
  have hpow : 2 ^ n = 2 * 2 ^ (n - 1) := by rw [← Nat.pow_succ']; congr 1; omega
  rw [BitVec.toInt_eq_toNat_cond, BitVec.toNat_ofNat, intVal, Bool.true_and]
  simp only [decide_eq_true_eq]
  by_cases h : 2 * (x % 2 ^ n) < 2 ^ n
  · rw [if_pos h, if_neg (by omega)]
  · rw [if_neg h, if_pos (by omega)]

theorem intVal_eq_readAs (ty x : Nat) : intVal (elemBits ty) (intSigned ty) x = readAs ty x := by
  unfold readAs intSigned
  by_cases h : ty % 2 = 0
  · rw [if_pos h, h]
    exact intVal_signed (elemBits_pos ty) x
  · rw [if_neg h, beq_eq_false_iff_ne.mpr h, intVal, Bool.false_and, if_neg Bool.false_ne_true]

/-- Narrowing an exact result is wrapping or saturating it. -/
theorem narrow_eq_settled (ty : Nat) (sat : Bool) (v : Int) :
    narrow (elemBits ty) (intSigned ty) sat v = settled ty sat v := by
  have hpos : (0 : Int) < 2 ^ (elemBits ty - 1) := by positivity
  have hpos' : (0 : Int) < 2 ^ elemBits ty := by positivity
  have hle : intLeast (elemBits ty) (intSigned ty) ≤ intGreatest (elemBits ty) (intSigned ty) := by
    unfold intLeast intGreatest
    split <;> push_cast <;> omega
  have hleast : intLeast (elemBits ty) (intSigned ty) = if ty % 2 = 0 then -2 ^ (elemBits ty - 1) else 0 := by
    unfold intLeast intSigned
    by_cases h : ty % 2 = 0 <;> simp [h]
  have hgreatest : intGreatest (elemBits ty) (intSigned ty) =
      if ty % 2 = 0 then 2 ^ (elemBits ty - 1) - 1 else 2 ^ elemBits ty - 1 := by
    unfold intGreatest intSigned
    by_cases h : ty % 2 = 0 <;> simp [h]
  unfold narrow settled intCode
  simp only [← hleast, ← hgreatest]
  generalize intLeast (elemBits ty) (intSigned ty) = least at *
  generalize intGreatest (elemBits ty) (intSigned ty) = greatest at *
  push_cast
  congr 2
  cases sat
  · simp
  · simp only [if_true, true_and]
    split_ifs <;> omega

theorem intCode_lt (bits : Nat) (v : Int) : intCode bits v < 2 ^ bits := by
  have hpos : (0 : Int) < (2 ^ bits : Nat) := by positivity
  have hlt := Int.emod_lt_of_pos v hpos
  rw [intCode]
  omega

theorem settled_lt (ty : Nat) (sat : Bool) (v : Int) : settled ty sat v < 2 ^ elemBits ty := by
  rw [← narrow_eq_settled]
  exact intCode_lt ..

/-- An integer operation by its exact result, element by element. -/
theorem elemAt_intOp {ty e : Nat} (he : e < elemCount ty) (sat : Bool) (op : Int → Int → Int → Int) (a b c : Nat) :
    elemAt ty (intOp ty sat op a b c) e =
      settled ty sat (op (readAs ty (elemAt ty a e)) (readAs ty (elemAt ty b e)) (readAs ty (elemAt ty c e))) := by
  rw [intOp, elemAt_elemMap he, narrow_eq_settled, intVal_eq_readAs, intVal_eq_readAs, intVal_eq_readAs,
    Nat.mod_eq_of_lt (settled_lt ..)]

theorem ctlN_bit (f : LaneF) (k : Nat) : (f.ctlN k 1 == 1) = f.ctl.getLsbD k := by
  rw [LaneF.ctlN, Nat.pow_one, BitVec.getLsbD, Nat.testBit_eq_decide_div_mod_eq]
  rfl

/-! ## One element of each integer instruction (R84) -/

theorem elemAt_and (ty a b e : Nat) : elemAt ty (a &&& b) e = elemAt ty a e &&& elemAt ty b e := by
  rw [elemAt, elemAt, elemAt, Nat.and_div_two_pow, Nat.and_mod_two_pow]
theorem elemAt_or (ty a b e : Nat) : elemAt ty (a ||| b) e = elemAt ty a e ||| elemAt ty b e := by
  rw [elemAt, elemAt, elemAt, Nat.or_div_two_pow, Nat.or_mod_two_pow]
theorem elemAt_xor (ty a b e : Nat) : elemAt ty (a ^^^ b) e = elemAt ty a e ^^^ elemAt ty b e := by
  rw [elemAt, elemAt, elemAt, Nat.xor_div_two_pow, Nat.xor_mod_two_pow]

theorem shlN_eq (n a b : Nat) : shlN n a b % 2 ^ n = a <<< (b % n) % 2 ^ n := by
  rw [shlN, Nat.mod_mod, Nat.shiftLeft_eq]

theorem shrN_eq {n a : Nat} (ha : a < 2 ^ n) (b : Nat) : shrN n a b % 2 ^ n = a >>> (b % n) := by
  rw [shrN, ← Nat.shiftRight_eq_div_pow, Nat.mod_eq_of_lt (Nat.lt_of_le_of_lt (Nat.shiftRight_le a _) ha)]

theorem intCode_eq_ofInt (n : Nat) (v : Int) : intCode n v = (BitVec.ofInt n v).toNat := (BitVec.toNat_ofInt v).symm

theorem sarN_eq {n : Nat} (hn : 0 < n) (a b : Nat) : sarN n a b % 2 ^ n = ((BitVec.ofNat n a).sshiftRight (b % n)).toNat := by
  rw [sarN, Nat.mod_eq_of_lt (intCode_lt ..), intCode_eq_ofInt, intVal_signed hn, BitVec.sshiftRight,
    Int.shiftRight_eq_div_pow]

theorem popCount_eq (n a : Nat) : popCount n a % 2 ^ n = (List.range n).countP fun i => a.testBit i := by
  rw [popCount, ← List.countP_eq_length_filter]
  exact Nat.mod_eq_of_lt (Nat.lt_of_le_of_lt (List.countP_le_length.trans_eq List.length_range) Nat.lt_two_pow_self)

theorem leadZeros_eq {n a : Nat} (ha : a < 2 ^ n) :
    leadZeros n a % 2 ^ n = if a = 0 then n else n - 1 - Nat.log2 a := by
  have hlt : leadZeros n a < 2 ^ n := Nat.lt_of_le_of_lt (Nat.sub_le ..) Nat.lt_two_pow_self
  rw [Nat.mod_eq_of_lt hlt, leadZeros, Nat.mod_eq_of_lt ha, bitLen]
  split_ifs <;> omega

theorem abs_eq_ite (v : Int) : |v| = if v < 0 then -v else v := by
  split_ifs with h
  · exact abs_of_neg h
  · exact abs_of_nonneg (not_lt.mp h)

/-! ## The instructions -/

section
variable {s : State} {f : LaneF} {regs : List Nat}

/-- A lane instruction by the elements of its value. -/
theorem elementsWritten {i : Instr} {val : Warp → Nat → Nat} {res : Nat → Nat → Nat} (h : Ready s f regs [])
    (hexec : exec i s = .next (s.laneMap f regs [] val))
    (hres : ∀ l e, e < elemCount f.ty.toNat → elemAt f.ty.toNat (val s.me l) e = res l e) :
    ∃ t, exec i s = .next t ∧ ElementsWritten s t f res :=
  ⟨_, hexec, _, laneMap_writes h val, fun l e _ he => hres l e he⟩

theorem laneRows_write (h : Ready s f (useDAB f) []) : ∀ r ∈ laneRows, ∃ t, exec (r.1 f) s = .next t ∧
    ElementsWritten s t f fun l e => r.2 f.ty.toNat (f.ctl.getLsbD 0) (elemAt f.ty.toNat (opA s.me f l) e)
      (elemAt f.ty.toNat (opB s.me f l) e) := by
  have hlt := elemAt_lt f.ty.toNat
  have hbits := elemBits_pos f.ty.toNat
  simp only [laneRows, List.forall_mem_cons, List.not_mem_nil, false_imp_iff, implies_true, and_true, ← ctlN_bit]
  refine ⟨?vadd, ?vsub, ?vmul, ?vmulh, ?vmin, ?vmax, ?vand, ?vor, ?vxor, ?vshl, ?vshr, ?vsar⟩
  case vadd => exact elementsWritten h rfl fun l e he => elemAt_intOp he ..
  case vsub => exact elementsWritten h rfl fun l e he => elemAt_intOp he ..
  case vmul => exact elementsWritten h rfl fun l e he => elemAt_intOp he ..
  case vmulh => exact elementsWritten h rfl fun l e he => (elemAt_intOp he ..).trans (by rw [Nat.cast_pow]; rfl)
  case vmin => exact elementsWritten h rfl fun l e he => elemAt_intOp he ..
  case vmax => exact elementsWritten h rfl fun l e he => elemAt_intOp he ..
  case vand => exact elementsWritten h rfl fun l e _ => elemAt_and ..
  case vor => exact elementsWritten h rfl fun l e _ => elemAt_or ..
  case vxor => exact elementsWritten h rfl fun l e _ => elemAt_xor ..
  case vshl => exact elementsWritten h rfl fun l e he => (elemAt_elemMap he ..).trans (shlN_eq ..)
  case vshr => exact elementsWritten h rfl fun l e he => (elemAt_elemMap he ..).trans (shrN_eq (hlt ..) _)
  case vsar => exact elementsWritten h rfl fun l e he => (elemAt_elemMap he ..).trans (sarN_eq hbits ..)

theorem laneRows1_write (h : Ready s f (useDA f) []) : ∀ r ∈ laneRows1, ∃ t, exec (r.1 f) s = .next t ∧
    ElementsWritten s t f fun l e => r.2 f.ty.toNat (f.ctl.getLsbD 0) (elemAt f.ty.toNat (opA s.me f l) e) := by
  simp only [laneRows1, List.forall_mem_cons, List.not_mem_nil, false_imp_iff, implies_true, and_true, ← ctlN_bit]
  refine ⟨?vabs, ?vcnt, ?vclz⟩
  case vabs => exact elementsWritten h rfl fun l e he => (elemAt_intOp he ..).trans (by rw [abs_eq_ite])
  case vcnt => exact elementsWritten h rfl fun l e he => (elemAt_elemMap he ..).trans (popCount_eq ..)
  case vclz => exact elementsWritten h rfl fun l e he => (elemAt_elemMap he ..).trans (leadZeros_eq (elemAt_lt ..))

end

theorem laneIntegersWriteTheirElements : LaneIntegersWriteTheirElements := fun _ _ =>
  ⟨fun r hr h => laneRows_write h r hr, fun r hr h => laneRows1_write h r hr,
    fun h => elementsWritten h rfl fun _ _ he => elemAt_intOp he ..⟩

/-! ## Fields, selection and moves (R85 to R87) -/

theorem bitsOf_zero (x w : Nat) : bitsOf x 0 w = x % 2 ^ w := by rw [bitsOf, Nat.pow_zero, Nat.div_one]

/-- A field extended by its sign, or by zeros. -/
theorem intCode_intVal {w : Nat} (hle : w ≤ 32) (signed : Bool) (y : Nat) :
    intCode 32 (intVal w signed y) =
      if signed = true ∧ 2 ^ (w - 1) ≤ y % 2 ^ w then y % 2 ^ w + (2 ^ 32 - 2 ^ w) else y % 2 ^ w := by
  have hpow : 2 ^ w ≤ 2 ^ 32 := Nat.pow_le_pow_right (by decide) hle
  have hlt : y % 2 ^ w < 2 ^ w := Nat.mod_lt _ (Nat.two_pow_pos w)
  simp only [intCode, intVal, Bool.and_eq_true, decide_eq_true_eq, ge_iff_le]
  generalize y % 2 ^ w = x at *
  generalize 2 ^ w = m at *
  split_ifs <;> omega

/-- VBFX's value: the field of `w` bits at `p`, cut at bit 31, with its sign where it is signed (R85). -/
theorem valVbfx_eq (signed : Bool) (a b c : Nat) :
    valVbfx signed a b c =
      (let p := bitsOf b 0 5
      let w := min (bitsOf c 0 6) (32 - p)
      let x := bitsOf a p w
      if signed = true ∧ w ≠ 0 ∧ 2 ^ (w - 1) ≤ x then x + (2 ^ 32 - 2 ^ w) else x) := by
  rw [valVbfx, bitsOf_zero, bitsOf_zero]
  generalize hw : min (c % 64) (32 - b % 32) = w
  have hle : w ≤ 32 := by omega
  by_cases h0 : w = 0
  · simp [hw, h0, bitsOf, Nat.mod_one]
  · simp only [hw, h0, if_false, intCode_intVal hle, bitsOf, ne_eq, not_false_eq_true, true_and, Nat.reducePow]

/-- VBFI's value, bit by bit: the field of A at `p`, B around it (R85). -/
theorem testBit_valVbfi (a b c i : Nat) :
    (valVbfi a b c).testBit i =
      (let p := bitsOf c 0 5
      let w := min (bitsOf c 8 6) (32 - p)
      if p ≤ i ∧ i < p + w then a.testBit (i - p) else b.testBit i) := by
  rw [valVbfi, bitsOf_zero, bitsOf]
  simp only [Nat.reducePow]
  generalize c % 32 = p
  generalize min (c / 256 % 64) (32 - p) = w
  have hsum : b / 2 ^ (p + w) * 2 ^ (p + w) + a % 2 ^ w * 2 ^ p + b % 2 ^ p =
      2 ^ p * (2 ^ w * (b / 2 ^ (p + w)) + a % 2 ^ w) + b % 2 ^ p := by ring
  rw [hsum, Nat.testBit_two_pow_mul_add _ (Nat.mod_lt _ (Nat.two_pow_pos p)),
    Nat.testBit_two_pow_mul_add _ (Nat.mod_lt _ (Nat.two_pow_pos w)), Nat.testBit_mod_two_pow, Nat.testBit_mod_two_pow,
    Nat.testBit_div_two_pow]
  by_cases hlow : i < p
  · rw [if_pos hlow, if_neg (by omega), decide_eq_true hlow, Bool.true_and]
  · rw [if_neg hlow]
    by_cases hfield : i - p < w
    · rw [if_pos hfield, if_pos (by omega), decide_eq_true hfield, Bool.true_and]
    · rw [if_neg hfield, if_neg (by omega), show i - p - w + (p + w) = i by omega]

theorem widField_eq (widths : List Nat) (id lv : Nat) : widField widths id lv = levelField widths id lv := by
  cases lv with
  | zero => exact (bitsOf_zero id 5).symm
  | succ k => rw [widField, if_neg (Nat.succ_ne_zero k), levelField, bitsOf, List.sum_eq_foldl, Nat.add_sub_cancel]

theorem opA_of_single {x : Warp} {f : LaneF} (h : isPair f.ty = false) (l : Nat) : opA x f l = (vreg x f.va.toNat l).toNat := by
  rw [opA, readV, h, if_neg Bool.false_ne_true]

/-- A lane instruction of single registers by its value. -/
theorem laneWrites_single {s : State} {f : LaneF} {regs masks : List Nat} {i : Instr} {val : Warp → Nat → Nat} {res : Nat → Nat}
    (hf : isPair f.ty = false) (h : Ready s f regs masks) (hexec : exec i s = .next (s.laneMap f regs masks val))
    (hres : ∀ l, val s.me l = res l) :
    ∃ t, exec i s = .next t ∧ LaneWrites s t (act s f) false f.vd.toNat res := by
  obtain rfl : val s.me = res := funext hres
  exact ⟨_, hexec, hf ▸ laneMap_writes h val⟩

theorem laneFieldsAndMovesWriteTheirValue : LaneFieldsAndMovesWriteTheirValue := by
  intro s f hf a
  have ha (l : Nat) : opA s.me f l = a l := opA_of_single hf l
  refine ⟨fun h => ?vbfx, fun h => ?vbfi, fun h => ?vsel, fun h => ?vmov, fun h => ?vwid⟩
  case vbfx =>
    refine laneWrites_single hf h rfl fun l => ?_
    rw [valVbfx_eq, ha]
    simp only [beq_iff_eq]
  case vbfi =>
    obtain ⟨t, hexec, hw⟩ := laneWrites_single (res := fun l => valVbfi (a l) (opReg s.me f l) (opC s.me f l)) hf h
      (i := .vbfi f) rfl fun l => by rw [ha]
    exact ⟨t, hexec, _, hw, fun l i _ _ => testBit_valVbfi ..⟩
  case vsel =>
    refine laneWrites_single hf h rfl fun l => ?_
    rw [ha, maskBit]
  case vmov =>
    have hregs : (f.vd.toNat :: if f.lc = 1 then [] else [f.va.toNat]) = if f.lc = 1 then [f.vd.toNat] else useDA f := by
      split_ifs
      · rfl
      · rw [useDA, hf]; rfl
    refine laneWrites_single hf (hregs ▸ h) rfl fun l => ?_
    rw [ha]
  case vwid =>
    refine laneWrites_single hf h rfl fun l => ?_
    dsimp only
    rw [bitsOf_zero, widField_eq]
    rfl

/-- Settles O51: each lane integer instruction by the elements of its value, each field and move by its value. -/
theorem laneIntegersAndFieldsWriteTheirLanes : Obligations.LaneIntegersAndFieldsWriteTheirLanes :=
  ⟨laneIntegersWriteTheirElements, laneFieldsAndMovesWriteTheirValue⟩

end Sys2Proof.Machine
end

section
/-! O27, O28: what the halt of a block's last warp leaves of its block. -/

namespace Sys2Proof.Machine

/- Proofs one after another: side by side, each takes the stack of a thread, and those of the whole text reach the
memory limit of the check. -/
set_option Elab.async false
open Sys2Proof.Claims

/-! ## A block whose last warp is halted (R72, R184, R190) -/

/-- Warp 0 with the record `x`, the only warp of block 0, the only block of launch 0, all else as at reset. -/
def loneWarp (x : Warp) : State :=
  { State.reset with
    warps := [(0, x)]
    blocks := [(0, default)]
    eng := { State.reset.eng with launches := [(0, default)] } }

/-- A warp that runs its handler. -/
def handling : Warp := { (default : Warp) with handler := true }

/-- A TRAP's fault, waiting to be delivered. -/
def trapPending : Pending := ⟨0x19, ⟨0x19, 0, 0, 0, 0, 0, 0⟩, false⟩

/-- The halt of a block's last warp completes the block, which is then no longer abandoned (R184). -/
theorem loneWarp_faultDelivery_block :
    ((opFaultDelivery 0 (loneWarp { handling with pend := some trapPending })).block 0).completed = true ∧
      ((opFaultDelivery 0 (loneWarp { handling with pend := some trapPending })).block 0).abandoned = false := by
  decide +kernel

/-- So does the halt of a handler that executes LSYNC (R191). -/
theorem loneWarp_lsync_block :
    ((opLsync (loneWarp handling)).block 0).completed = true ∧
      ((opLsync (loneWarp handling)).block 0).abandoned = false := by
  decide +kernel

/-- Refutes O27: it claims that the block of a halted warp is left abandoned, and a block completes when its last warp
goes (R72), which ends that (R184). The warp here is the only one of its block, in its handler with a fault pending. -/
theorem not_faultsEnterTheHandler : ¬ Obligations.FaultsEnterTheHandler := by
  unfold Obligations.FaultsEnterTheHandler
  rintro ⟨-, -, hpending, -⟩
  obtain ⟨-, hkills⟩ := hpending (loneWarp { handling with pend := some trapPending }) 0
    { handling with pend := some trapPending } trapPending rfl rfl rfl rfl rfl rfl
  obtain ⟨t, hexec, hhalted⟩ := hkills (.inl rfl)
  obtain rfl : opFaultDelivery 0 (loneWarp { handling with pend := some trapPending }) = t := Host.Outcome.next.inj hexec
  have habandoned : ((opFaultDelivery 0 (loneWarp { handling with pend := some trapPending })).block 0).abandoned = true :=
    hhalted.block
  rw [loneWarp_faultDelivery_block.2] at habandoned
  exact Bool.false_ne_true habandoned

/-- Refutes O28: the same of a handler that executes a waiting instruction. The warp here is the only one of its block and
executes LSYNC in its handler. -/
theorem not_refusedInstructionsFault : ¬ Obligations.RefusedInstructionsFault := by
  unfold Obligations.RefusedInstructionsFault
  rintro ⟨-, -, hhandler⟩
  obtain ⟨t, hexec, hhalted⟩ := hhandler (loneWarp handling) 0 0 0 .lsync (by simp [handlerRows]) rfl rfl rfl rfl
  obtain rfl : opLsync (loneWarp handling) = t := Host.Outcome.next.inj hexec
  have habandoned : ((opLsync (loneWarp handling)).block 0).abandoned = true := hhalted.block
  rw [loneWarp_lsync_block.2] at habandoned
  exact Bool.false_ne_true habandoned

end Sys2Proof.Machine
end

section
/-! Rounding (R55): the codes of a binary format in order of their magnitudes, and what Round gives. -/

namespace Sys2Proof.Machine

/- Proofs one after another: side by side, each takes the stack of a thread, and those of the whole text reach the
memory limit of the check. -/
set_option Elab.async false
open Sys2Proof.Claims

/-! ## The codes of a binary format in the order of their magnitudes (R98) -/

/-- A format with an exponent and a significand. -/
structure Fmt.Ok (f : Fmt) : Prop where
  exp : 1 ≤ f.w
  sig : 1 ≤ f.p

/-- The magnitude of a code without its sign, in units of the least one. -/
def codeUnits (p c : Nat) : Nat := if c / 2 ^ p = 0 then c % 2 ^ p else (c % 2 ^ p + 2 ^ p) * 2 ^ (c / 2 ^ p - 1)

/-- The magnitude of a code without its sign. -/
def codeMag (f : Fmt) (c : Nat) : ℚ := (codeUnits f.p c : ℚ) * (2 : ℚ) ^ (1 - f.bias - f.p : ℤ)

/-- A sign as a factor. -/
def signOf (neg : Bool) : ℚ := if neg then -1 else 1

/-- A significand `k` at `Q` doublings above the least unit, with the one above the greatest of its row. -/
theorem codeUnits_row {p Q k : Nat} (hlo : Q = 0 ∨ 2 ^ p ≤ k) (hhi : k ≤ 2 ^ (p + 1)) :
    codeUnits p (Q * 2 ^ p + k) = k * 2 ^ Q := by
  have hpos : 0 < 2 ^ p := Nat.two_pow_pos p
  rw [Nat.pow_succ] at hhi
  have hdiv : (Q * 2 ^ p + k) / 2 ^ p = Q + k / 2 ^ p := by rw [Nat.mul_comm, Nat.mul_add_div hpos]
  have hmod : (Q * 2 ^ p + k) % 2 ^ p = k % 2 ^ p := by rw [Nat.mul_comm, Nat.mul_add_mod]
  rw [codeUnits, hdiv, hmod]
  rcases Nat.lt_or_ge k (2 ^ p) with hk | hk
  · obtain rfl : Q = 0 := hlo.resolve_right (by omega)
    simp [Nat.div_eq_of_lt hk, Nat.mod_eq_of_lt hk]
  · rcases Nat.lt_or_ge k (2 ^ p * 2) with hk2 | hk2
    · have hone : k / 2 ^ p = 1 := Nat.div_eq_of_lt_le (by omega) (by omega)
      have hrem : k % 2 ^ p = k - 2 ^ p := by
        have := Nat.div_add_mod k (2 ^ p)
        rw [hone] at this
        omega
      rw [hone, hrem, if_neg (by omega), Nat.sub_add_cancel hk, Nat.add_sub_cancel]
    · obtain rfl : k = 2 ^ p * 2 := by omega
      rw [Nat.mul_div_cancel_left _ hpos, Nat.mul_mod_right, if_neg (by omega), Nat.zero_add,
        show Q + 2 - 1 = Q + 1 by omega, Nat.pow_succ]
      ring

/-- Each code stands in a row. -/
theorem exists_row (p c : Nat) : ∃ Q k, c = Q * 2 ^ p + k ∧ (Q = 0 ∨ 2 ^ p ≤ k) ∧ k < 2 ^ (p + 1) := by
  have hmod := Nat.mod_lt c (Nat.two_pow_pos p)
  have hdiv := Nat.div_add_mod c (2 ^ p)
  rcases Nat.eq_zero_or_pos (c / 2 ^ p) with h0 | hpos
  · refine ⟨0, c % 2 ^ p, ?_, .inl rfl, by rw [Nat.pow_succ]; omega⟩
    rw [h0] at hdiv
    omega
  · refine ⟨c / 2 ^ p - 1, c % 2 ^ p + 2 ^ p, ?_, .inr (by omega), by rw [Nat.pow_succ]; omega⟩
    obtain ⟨n, hn⟩ := Nat.exists_eq_add_of_lt hpos
    rw [hn, Nat.zero_add] at hdiv ⊢
    rw [Nat.add_sub_cancel]
    nlinarith

theorem codeUnits_strictMono (p : Nat) : StrictMono (codeUnits p) := by
  refine strictMono_nat_of_lt_succ fun c => ?_
  obtain ⟨Q, k, rfl, hlo, hhi⟩ := exists_row p c
  rw [codeUnits_row hlo hhi.le, Nat.add_assoc, codeUnits_row (hlo.imp_right fun h => by omega) hhi]
  exact Nat.mul_lt_mul_of_pos_right (Nat.lt_succ_self k) (Nat.two_pow_pos Q)

theorem codeUnits_zero (p : Nat) : codeUnits p 0 = 0 := by simp [codeUnits]

theorem codeMag_strictMono (f : Fmt) : StrictMono (codeMag f) := fun a b h => by
  have hunits : (codeUnits f.p a : ℚ) < codeUnits f.p b := by exact_mod_cast codeUnits_strictMono f.p h
  exact mul_lt_mul_of_pos_right hunits (by positivity)

theorem codeMag_zero (f : Fmt) : codeMag f 0 = 0 := by simp [codeMag, codeUnits_zero]

theorem codeMag_nonneg (f : Fmt) (c : Nat) : 0 ≤ codeMag f c := by unfold codeMag; positivity

/-! ## Which codes are finite, and what they stand for -/

theorem largestCode_lt (f : Fmt) : largestCode f < 2 ^ (f.w + f.p) := by
  have hpos := Nat.two_pow_pos (f.w + f.p)
  have hinf : (2 ^ f.w - 1) * 2 ^ f.p ≤ 2 ^ (f.w + f.p) := by
    rw [Nat.pow_add]
    exact Nat.mul_le_mul_right _ (Nat.sub_le _ _)
  unfold largestCode
  split <;> omega

/-- The fields of a code are those of the code without its sign. -/
theorem exponent_of_code (f : Fmt) (c : Nat) : c / 2 ^ f.p % 2 ^ f.w = c % 2 ^ (f.w + f.p) / 2 ^ f.p := by
  rw [Nat.add_comm, Nat.pow_add, Nat.mod_mul_right_div_self]

theorem significand_of_code (f : Fmt) (c : Nat) : c % 2 ^ f.p = c % 2 ^ (f.w + f.p) % 2 ^ f.p :=
  (Nat.mod_mod_of_dvd c (Nat.pow_dvd_pow 2 (Nat.le_add_left _ _))).symm

theorem negative_eq (f : Fmt) (c : Nat) : (c / 2 ^ (f.w + f.p) % 2 == 1) = negative f c := by
  rw [negative, Nat.testBit_eq_decide_div_mod_eq]
  rfl

/-- The kind of value by the code without its sign. -/
theorem le_largestCode_iff {f : Fmt} (h : f.Ok) {e m : Nat} (he : e < 2 ^ f.w) (hm : m < 2 ^ f.p) :
    2 ^ f.p * e + m ≤ largestCode f ↔
      ¬ (e = 2 ^ f.w - 1 ∧ f.special = 0) ∧ ¬ (e = 2 ^ f.w - 1 ∧ f.special = 1 ∧ m = 2 ^ f.p - 1) := by
  have hw : 2 ≤ 2 ^ f.w := by
    calc 2 = 2 ^ 1 := rfl
      _ ≤ 2 ^ f.w := Nat.pow_le_pow_right (by decide) h.exp
  obtain ⟨W, hW⟩ : ∃ W, 2 ^ f.w = W + 2 := ⟨2 ^ f.w - 2, by omega⟩
  have hP := Nat.two_pow_pos f.p
  unfold largestCode
  rw [Nat.pow_add]
  generalize 2 ^ f.p = P at *
  rw [hW] at he ⊢
  have hle : P * e ≤ P * (W + 1) := Nat.mul_le_mul_left P (by omega)
  have hlt (hne : e ≠ W + 1) : P * e + P ≤ P * (W + 1) := by
    calc P * e + P = P * (e + 1) := rfl
      _ ≤ P * (W + 1) := Nat.mul_le_mul_left P (by omega)
  have hfull : 0 < P * (W + 1) := by positivity
  have hmul : (W + 2) * P = P * (W + 1) + P := by ring
  split
  · next h0 =>
    simp only [h0, show W + 2 - 1 = W + 1 by omega, Nat.mul_comm (W + 1) P]
    rcases eq_or_ne e (W + 1) with rfl | hne
    · simp only [true_and, not_true_eq_false, false_and, iff_false]
      omega
    · have := hlt hne
      simp [hne]
      omega
  · next h1 =>
    rw [hmul, show W + 2 - 1 = W + 1 by omega]
    rcases eq_or_ne e (W + 1) with rfl | hne
    · simp only [h1, true_and, one_ne_zero, not_false_eq_true]
      omega
    · have := hlt hne
      simp only [hne, false_and, not_false_eq_true, and_self, iff_true]
      omega
  · next h0 h1 =>
    rw [hmul]
    exact iff_of_true (by omega) ⟨fun h => h0 h.2, fun h => h1 h.2.1⟩

/-- Val of a finite code (R55, R98). -/
theorem decodeF_of_le {f : Fmt} (h : f.Ok) {c : Nat} (hc : c % 2 ^ (f.w + f.p) ≤ largestCode f) :
    ∃ m e, decodeF f c = .fin (negative f c) m e ∧ (m : ℚ) * 2 ^ e = codeMag f (c % 2 ^ (f.w + f.p)) := by
  have he : c / 2 ^ f.p % 2 ^ f.w < 2 ^ f.w := Nat.mod_lt _ (Nat.two_pow_pos _)
  have hm : c % 2 ^ f.p < 2 ^ f.p := Nat.mod_lt _ (Nat.two_pow_pos _)
  have hsplit : c % 2 ^ (f.w + f.p) = 2 ^ f.p * (c / 2 ^ f.p % 2 ^ f.w) + c % 2 ^ f.p := by
    rw [exponent_of_code, significand_of_code, Nat.div_add_mod]
  rw [hsplit, le_largestCode_iff h he hm] at hc
  obtain ⟨hinf, hnan⟩ := hc
  rw [codeMag, codeUnits, ← significand_of_code, ← exponent_of_code]
  unfold decodeF
  simp only [if_neg hinf, if_neg hnan, negative_eq]
  split
  · exact ⟨_, _, rfl, rfl⟩
  · next h0 =>
    refine ⟨_, _, rfl, ?_⟩
    generalize c / 2 ^ f.p % 2 ^ f.w = E at *
    have hexp : ((E : ℤ) - f.bias - f.p) = ((E - 1 : ℕ) : ℤ) + (1 - f.bias - f.p) := by omega
    rw [hexp, zpow_add₀ (by norm_num), zpow_natCast]
    push_cast
    ring

/-- A code that is not finite stands for no number. -/
theorem decodeF_of_gt {f : Fmt} (h : f.Ok) {c : Nat} (hc : ¬ c % 2 ^ (f.w + f.p) ≤ largestCode f) :
    ∀ n m e, decodeF f c ≠ .fin n m e := by
  have he : c / 2 ^ f.p % 2 ^ f.w < 2 ^ f.w := Nat.mod_lt _ (Nat.two_pow_pos _)
  have hm : c % 2 ^ f.p < 2 ^ f.p := Nat.mod_lt _ (Nat.two_pow_pos _)
  have hsplit : c % 2 ^ (f.w + f.p) = 2 ^ f.p * (c / 2 ^ f.p % 2 ^ f.w) + c % 2 ^ f.p := by
    rw [exponent_of_code, significand_of_code, Nat.div_add_mod]
  rw [hsplit, le_largestCode_iff h he hm, not_and_or, not_not, not_not] at hc
  intro n m e
  unfold decodeF
  rcases hc with hc | hc
  · simp only [if_pos hc]
    split <;> nofun
  · have hnot : ¬ (c / 2 ^ f.p % 2 ^ f.w = 2 ^ f.w - 1 ∧ f.special = 0) := by omega
    simp only [if_neg hnot, if_pos hc]
    nofun

/-- What a code stands for (R98). -/
theorem denotes_iff {f : Fmt} (h : f.Ok) {c : Nat} {v : ℚ} : Denotes f c v ↔
    c % 2 ^ (f.w + f.p) ≤ largestCode f ∧ v = signOf (negative f c) * codeMag f (c % 2 ^ (f.w + f.p)) := by
  by_cases hc : c % 2 ^ (f.w + f.p) ≤ largestCode f
  · obtain ⟨m, e, hdec, hval⟩ := decodeF_of_le h hc
    rw [← hval, ← mul_assoc]
    constructor
    · rintro ⟨n, m', e', hdec', rfl⟩
      obtain ⟨rfl, rfl, rfl⟩ := FVal.fin.inj (hdec.symm.trans hdec')
      exact ⟨hc, rfl⟩
    · rintro ⟨-, rfl⟩
      exact ⟨_, m, e, hdec, rfl⟩
  · exact ⟨fun ⟨n, m, e, hdec, _⟩ => absurd hdec (decodeF_of_gt h hc n m e), fun hv => absurd hv.1 hc⟩

/-- A code with a sign put before it. -/
theorem signed_code {f : Fmt} {c : Nat} (neg : Bool) (hc : c < 2 ^ (f.w + f.p)) :
    (signCode f neg + c) % 2 ^ (f.w + f.p) = c ∧ negative f (signCode f neg + c) = neg := by
  unfold signCode
  cases neg
  · simp [negative, Nat.mod_eq_of_lt hc, Nat.testBit_lt_two_pow hc]
  · simp [negative, Nat.mod_eq_of_lt hc, Nat.testBit_two_pow_add_eq, Nat.testBit_lt_two_pow hc]

theorem denotes_signed {f : Fmt} (h : f.Ok) {c : Nat} (neg : Bool) (hc : c ≤ largestCode f) :
    Denotes f (signCode f neg + c) (signOf neg * codeMag f c) := by
  obtain ⟨hmod, hneg⟩ := signed_code neg (hc.trans_lt (largestCode_lt f))
  rw [denotes_iff h, hmod, hneg]
  exact ⟨hc, rfl⟩

/-! ## Rounding to one of two neighbours (R55) -/

/-- Where `X` stands to the middle of `a` and `b`: below it, on it, above it. -/
noncomputable def halfOf (X a b : ℝ) : Nat := if 2 * X < a + b then 0 else if 2 * X = a + b then 1 else 2

/-- Whether a magnitude `X` between the neighbours `a` and `b`, `a` with an odd code or not, is rounded to `b`. -/
noncomputable def goesUp (rm : Nat) (neg odd : Bool) (X a b : ℝ) : Bool :=
  !decide (X = a) && roundUp rm neg odd (halfOf X a b)

/-- The magnitude chosen. -/
noncomputable def chosen (rm : Nat) (neg odd : Bool) (X a b : ℝ) : ℝ := if goesUp rm neg odd X a b then b else a

theorem goesUp_self (rm : Nat) (neg odd : Bool) (a b : ℝ) : goesUp rm neg odd a a b = false := by simp [goesUp]

section
variable {rm : Nat} {neg odd : Bool} {X a b : ℝ}

/-- A mode that rounds to nearest goes up only from the middle on, and stays only up to it. -/
structure Nearest (rm : Nat) (neg odd : Bool) (X a b : ℝ) : Prop where
  up : goesUp rm neg odd X a b = true → a + b ≤ 2 * X
  stays : goesUp rm neg odd X a b = false → 2 * X ≤ a + b

theorem half_of_up {t : Nat} (ht : 1 ≤ t) (h : t ≤ halfOf X a b) : a + b ≤ 2 * X := by
  unfold halfOf at h
  split_ifs at h with h1 h2
  · omega
  · exact h2.ge
  · exact not_lt.mp h1

theorem half_of_stays (h : halfOf X a b ≤ 1) : 2 * X ≤ a + b := by
  unfold halfOf at h
  split_ifs at h with h1 h2
  · exact h1.le
  · exact h2.le
  · omega

/-- Ties to even. -/
theorem nearest_even (hab : a ≤ X ∧ X < b) : Nearest 0 neg odd X a b where
  up h := by
    simp only [goesUp, roundUp, Bool.and_eq_true, Bool.or_eq_true, decide_eq_true_eq] at h
    exact half_of_up le_rfl (by omega)
  stays h := by
    by_cases hX : X = a
    · linarith
    · simp only [goesUp, roundUp, hX, decide_false, Bool.not_false, Bool.true_and, Bool.or_eq_false_iff,
        decide_eq_false_iff_not] at h
      refine half_of_stays ?_
      have : halfOf X a b ≤ 2 := by unfold halfOf; split_ifs <;> decide
      omega

/-- Ties away from zero. -/
theorem nearest_away (hrm : 4 ≤ rm) (hab : a ≤ X ∧ X < b) : Nearest rm neg odd X a b where
  up h := by
    obtain ⟨n, rfl⟩ := Nat.exists_eq_add_of_le' hrm
    simp only [goesUp, roundUp, Bool.and_eq_true, decide_eq_true_eq] at h
    exact half_of_up le_rfl h.2
  stays h := by
    obtain ⟨n, rfl⟩ := Nat.exists_eq_add_of_le' hrm
    by_cases hX : X = a
    · linarith
    · simp only [goesUp, roundUp, hX, decide_false, Bool.not_false, Bool.true_and, decide_eq_false_iff_not] at h
      exact half_of_stays (by omega)

/-- To nearest, no value outside the neighbours is nearer. -/
theorem Nearest.le (h : Nearest rm neg odd X a b) (hab : a ≤ X ∧ X < b) {Z : ℝ} (hZ : Z ≤ a ∨ b ≤ Z) :
    |chosen rm neg odd X a b - X| ≤ |Z - X| := by
  obtain ⟨haX, hXb⟩ := hab
  unfold chosen
  cases hup : goesUp rm neg odd X a b
  · have hmid := h.stays hup
    rw [if_neg Bool.false_ne_true, abs_sub_comm, abs_of_nonneg (by linarith), le_abs]
    rcases hZ with hZ | hZ
    · exact .inr (by linarith)
    · exact .inl (by linarith)
  · have hmid := h.up hup
    rw [if_pos rfl, abs_of_nonneg (by linarith), le_abs]
    rcases hZ with hZ | hZ
    · exact .inr (by linarith)
    · exact .inl (by linarith)

/-- A value as near as the one chosen, and another than it, is the other neighbour or as far below. -/
theorem Nearest.tie (h : Nearest rm neg odd X a b) (hab : a ≤ X ∧ X < b) {Z : ℝ} (hZ : Z ≤ a ∨ b ≤ Z)
    (heq : |chosen rm neg odd X a b - X| = |Z - X|) (hne : Z ≠ chosen rm neg odd X a b) :
    2 * X = a + b ∧ (if goesUp rm neg odd X a b then Z = a else Z = b) := by
  obtain ⟨haX, hXb⟩ := hab
  unfold chosen at heq hne
  cases hup : goesUp rm neg odd X a b
  · have hmid := h.stays hup
    rw [hup, if_neg Bool.false_ne_true] at heq hne
    rw [abs_sub_comm, abs_of_nonneg (by linarith)] at heq
    rw [if_neg Bool.false_ne_true]
    rcases hZ with hZ | hZ
    · rw [abs_sub_comm, abs_of_nonneg (by linarith)] at heq
      exact absurd (by linarith) hne
    · rw [abs_of_nonneg (by linarith)] at heq
      exact ⟨by linarith, by linarith⟩
  · have hmid := h.up hup
    rw [hup, if_pos rfl] at heq hne
    rw [abs_of_nonneg (by linarith)] at heq
    rw [if_pos rfl]
    rcases hZ with hZ | hZ
    · rw [abs_sub_comm, abs_of_nonneg (by linarith)] at heq
      exact ⟨by linarith, by linarith⟩
    · rw [abs_of_nonneg (by linarith)] at heq
      exact absurd (by linarith) hne

/-- Ties to even: on a tie the code chosen is even. -/
theorem goesUp_even_tie (hX : X ≠ a) (htie : 2 * X = a + b) : goesUp 0 neg odd X a b = odd := by
  have hhalf : halfOf X a b = 1 := by unfold halfOf; rw [if_neg htie.not_lt, if_pos htie]
  simp [goesUp, roundUp, hX, hhalf]

/-- Ties away from zero. -/
theorem goesUp_away_tie (hrm : 4 ≤ rm) (hX : X ≠ a) (htie : 2 * X = a + b) : goesUp rm neg odd X a b = true := by
  have hhalf : halfOf X a b = 1 := by unfold halfOf; rw [if_neg htie.not_lt, if_pos htie]
  obtain ⟨n, rfl⟩ := Nat.exists_eq_add_of_le' hrm
  simp [goesUp, roundUp, hX, hhalf]

end

theorem goesUp_zero (neg odd : Bool) (X a b : ℝ) : goesUp 1 neg odd X a b = false := by simp [goesUp, roundUp]

theorem goesUp_plus (neg odd : Bool) (X a b : ℝ) : goesUp 2 neg odd X a b = (!decide (X = a) && !neg) := rfl

theorem goesUp_minus (neg odd : Bool) (X a b : ℝ) : goesUp 3 neg odd X a b = (!decide (X = a) && neg) := rfl

/-- Toward a magnitude's own side, the value chosen is the least that is not below it. -/
theorem chosen_least {rm : Nat} {neg odd : Bool} {X a b : ℝ} (h : goesUp rm neg odd X a b = !decide (X = a))
    (hab : a ≤ X ∧ X < b) {Z : ℝ} (hZ : Z ≤ a ∨ b ≤ Z) :
    X ≤ chosen rm neg odd X a b ∧ (X ≤ Z → chosen rm neg odd X a b ≤ Z) := by
  obtain ⟨haX, hXb⟩ := hab
  rw [chosen, h]
  by_cases hXa : X = a
  · simp [hXa]
  · have hlt : a < X := lt_of_le_of_ne haX (Ne.symm hXa)
    simp only [hXa, decide_false, Bool.not_false, if_true]
    exact ⟨hXb.le, fun hXZ => hZ.elim (fun h => by linarith) id⟩

/-- Toward zero, it is the greatest that is not above it. -/
theorem chosen_greatest {rm : Nat} {neg odd : Bool} {X a b : ℝ} (h : goesUp rm neg odd X a b = false)
    (hab : a ≤ X ∧ X < b) {Z : ℝ} (hZ : Z ≤ a ∨ b ≤ Z) :
    chosen rm neg odd X a b ≤ X ∧ (Z ≤ X → Z ≤ chosen rm neg odd X a b) := by
  obtain ⟨haX, hXb⟩ := hab
  rw [chosen, h, if_neg Bool.false_ne_true]
  exact ⟨haX, fun hZX => hZ.elim id fun h => by linarith⟩

/-! ## The code of a rounded magnitude -/

/-- A magnitude stands between code `c` and the next. -/
def Between (f : Fmt) (X : ℝ) (c : Nat) : Prop := (codeMag f c : ℝ) ≤ X ∧ X < (codeMag f (c + 1) : ℝ)

/-- Whether a magnitude just above code `c` is rounded to the next code. -/
noncomputable def codeUp (f : Fmt) (rm : Nat) (neg : Bool) (X : ℝ) (c : Nat) : Bool :=
  goesUp rm neg (c % 2 == 1) X (codeMag f c) (codeMag f (c + 1))

/-- The code that a magnitude between `c` and the next rounds to. -/
noncomputable def roundedCode (f : Fmt) (rm : Nat) (neg : Bool) (X : ℝ) (c : Nat) : Nat :=
  if codeUp f rm neg X c then c + 1 else c

theorem codeMag_roundedCode (f : Fmt) (rm : Nat) (neg : Bool) (X : ℝ) (c : Nat) :
    (codeMag f (roundedCode f rm neg X c) : ℝ) =
      chosen rm neg (c % 2 == 1) X (codeMag f c) (codeMag f (c + 1)) := by
  unfold roundedCode chosen codeUp
  split_ifs <;> rfl

theorem signOf_mul_self (neg : Bool) : signOf neg * signOf neg = 1 := by cases neg <;> norm_num [signOf]

theorem cast_signOf_mul_self (neg : Bool) : (signOf neg : ℝ) * signOf neg = 1 := by exact_mod_cast signOf_mul_self neg

theorem abs_signOf (neg : Bool) : |(signOf neg : ℝ)| = 1 := by cases neg <;> norm_num [signOf]

/-- Every finite value stands, seen from the sign `neg`, at or below code `c` or at or above the next. -/
theorem denotes_outside {f : Fmt} (hf : f.Ok) {c' : Nat} {v : ℚ} (h : Denotes f c' v) (neg : Bool) (c : Nat) :
    ∃ Z : ℝ, (v : ℝ) = signOf neg * Z ∧ (Z ≤ codeMag f c ∨ (codeMag f (c + 1) : ℝ) ≤ Z) := by
  obtain ⟨-, rfl⟩ := (denotes_iff hf).mp h
  generalize c' % 2 ^ (f.w + f.p) = k
  have hk := codeMag_nonneg f k
  have hc := codeMag_nonneg f c
  refine ⟨signOf neg * (signOf (negative f c') * codeMag f k), ?_, ?_⟩
  · rw [← mul_assoc, cast_signOf_mul_self, one_mul, Rat.cast_mul]
  · have hle : k ≤ c ∨ c + 1 ≤ k := by omega
    have hmono := (codeMag_strictMono f).monotone
    have hsign : signOf neg * signOf (negative f c') = 1 ∨ signOf neg * signOf (negative f c') = -1 := by
      cases neg <;> cases negative f c' <;> norm_num [signOf]
    rw [← mul_assoc, ← Rat.cast_mul, ← Rat.cast_mul]
    rcases hsign with h1 | h1
    · rw [h1, one_mul]
      exact hle.imp (fun h => by exact_mod_cast hmono h) fun h => by exact_mod_cast hmono h
    · rw [h1]
      exact .inl (by exact_mod_cast (by linarith : -1 * codeMag f k ≤ codeMag f c))

/-- The parity of a code is not changed by its sign. -/
theorem signed_code_even {f : Fmt} (hf : f.Ok) (neg : Bool) (c : Nat) : (signCode f neg + c) % 2 = c % 2 := by
  have heven : 2 ^ (f.w + f.p) % 2 = 0 := by
    obtain ⟨n, hn⟩ := Nat.exists_eq_add_of_le' (hf.sig.trans (Nat.le_add_left f.p f.w))
    rw [hn, Nat.pow_succ, Nat.mul_mod_left]
  unfold signCode
  split <;> omega

section
variable {f : Fmt} {rm : Nat} {neg : Bool} {X : ℝ} {c : Nat}

/-- R55: the code chosen is the value rounded. -/
theorem roundedTo_roundedCode (hf : f.Ok) (hX : 0 ≤ X) (hbetween : Between f X c)
    (hle : roundedCode f rm neg X c ≤ largestCode f) :
    RoundedTo f rm (signOf neg * X) (signCode f neg + roundedCode f rm neg X c) := by
  refine ⟨_, denotes_signed hf neg hle, fun c' v' h' => ?_⟩
  obtain ⟨Z, hv', hZ⟩ := denotes_outside hf h' neg c
  rw [hv', Rat.cast_mul, codeMag_roundedCode]
  have ha : (0 : ℝ) ≤ codeMag f c := by exact_mod_cast codeMag_nonneg f c
  have hone := abs_signOf neg
  have habs (u w : ℝ) : |signOf neg * u - signOf neg * w| = |u - w| := by rw [← mul_sub, abs_mul, hone, one_mul]
  have habs0 (u : ℝ) : |signOf neg * u| = |u| := by rw [abs_mul, hone, one_mul]
  have hmul (u w : ℝ) : (signOf neg * u) * (signOf neg * w) = u * w := by
    rw [mul_mul_mul_comm, cast_signOf_mul_self, one_mul]
  have hne : signOf neg ≠ 0 := by cases neg <;> norm_num [signOf]
  have heven := signed_code_even hf neg (roundedCode f rm neg X c)
  have hodd : roundedCode f rm neg X c = if codeUp f rm neg X c then c + 1 else c := rfl
  have hup : codeUp f rm neg X c = goesUp rm neg (c % 2 == 1) X (codeMag f c) (codeMag f (c + 1)) := rfl
  obtain ⟨haX, hXb⟩ := hbetween
  generalize (codeMag f c : ℝ) = a at *
  generalize (codeMag f (c + 1) : ℝ) = b at *
  match rm with
  | 0 =>
    simp only [habs]
    have hnear : Nearest 0 neg (c % 2 == 1) X a b := nearest_even ⟨haX, hXb⟩
    refine ⟨hnear.le ⟨haX, hXb⟩ hZ, fun heq hdiff => ?_⟩
    obtain ⟨htie, -⟩ := hnear.tie ⟨haX, hXb⟩ hZ heq fun h => hdiff (by rw [h])
    rw [heven, hodd, hup, goesUp_even_tie (by linarith) htie]
    simp only [beq_iff_eq]
    split <;> omega
  | 1 =>
    simp only [habs0, hmul, chosen, goesUp_zero, Bool.false_eq_true, if_false]
    refine ⟨by rwa [abs_of_nonneg ha, abs_of_nonneg hX], mul_nonneg hX ha, fun hle' hsign => ?_⟩
    rw [abs_of_nonneg hX] at hle'
    rw [abs_of_nonneg ha]
    rcases hX.eq_or_lt with rfl | hpos
    · linarith
    · have hZ0 : 0 ≤ Z := nonneg_of_mul_nonneg_right (by linarith) hpos
      rw [abs_of_nonneg hZ0] at hle' ⊢
      rcases hZ with hZ | hZ <;> linarith
  | 2 =>
    cases neg
    · simpa [signOf] using chosen_least (goesUp_plus false (c % 2 == 1) X a b |>.trans (Bool.and_true _)) ⟨haX, hXb⟩ hZ
    · simpa [signOf] using chosen_greatest (goesUp_plus true (c % 2 == 1) X a b |>.trans (Bool.and_false _)) ⟨haX, hXb⟩ hZ
  | 3 =>
    cases neg
    · simpa [signOf] using chosen_greatest (goesUp_minus false (c % 2 == 1) X a b |>.trans (Bool.and_false _)) ⟨haX, hXb⟩ hZ
    · simpa [signOf] using chosen_least (goesUp_minus true (c % 2 == 1) X a b |>.trans (Bool.and_true _)) ⟨haX, hXb⟩ hZ
  | n + 4 =>
    simp only [habs, habs0]
    have hnear : Nearest (n + 4) neg (c % 2 == 1) X a b := nearest_away (by omega) ⟨haX, hXb⟩
    refine ⟨hnear.le ⟨haX, hXb⟩ hZ, fun heq => ?_⟩
    by_cases hsame : Z = chosen (n + 4) neg (c % 2 == 1) X a b
    · rw [hsame]
    · obtain ⟨htie, hother⟩ := hnear.tie ⟨haX, hXb⟩ hZ heq hsame
      rw [goesUp_away_tie (by omega) (by linarith) htie, if_pos rfl] at hother
      rw [chosen, goesUp_away_tie (by omega) (by linarith) htie, if_pos rfl, hother, abs_of_nonneg ha,
        abs_of_nonneg (by linarith)]
      linarith

end

/-! ## Rounding a magnitude that is known exactly, or but for what its last bit records (R55) -/

/-- `mag × 2^e` is the magnitude `X`, or its last bit records that `X` is not a multiple of `2^(e+1)`, with more than `b`
bits above it. -/
def Approximates (b mag : Nat) (e : Int) (X : ℝ) : Prop :=
  X = mag * (2 : ℝ) ^ e ∨
    mag % 2 = 1 ∧ 2 ^ b ≤ mag ∧ ((mag : ℝ) - 1) * 2 ^ e < X ∧ X < ((mag : ℝ) + 1) * 2 ^ e

theorem goesUp_mul {s : ℝ} (hs : 0 < s) (rm : Nat) (neg odd : Bool) (X a b : ℝ) :
    goesUp rm neg odd (X * s) (a * s) (b * s) = goesUp rm neg odd X a b := by
  have hhalf : halfOf (X * s) (a * s) (b * s) = halfOf X a b := by
    simp only [halfOf, ← mul_assoc, ← add_mul, mul_lt_mul_iff_left₀ hs, mul_left_inj' hs.ne']
  simp only [goesUp, hhalf, mul_left_inj' hs.ne']

/-- A magnitude in units of its last bit, with that bit as a record of what lies below. -/
theorem roundShift_eq {X : ℝ} {mag t : Nat} (rm : Nat) (neg : Bool)
    (h : X = mag ∨ mag % 2 = 1 ∧ 2 ≤ t ∧ (mag : ℝ) - 1 < X ∧ X < mag + 1) :
    let k := mag / 2 ^ t
    let a : ℝ := (k : ℝ) * 2 ^ t
    let b : ℝ := ((k : ℝ) + 1) * 2 ^ t
    a ≤ X ∧ X < b ∧
      roundShift rm neg mag t = (if goesUp rm neg (k % 2 == 1) X a b then k + 1 else k, !decide (X = a)) := by
  intro k a b
  have hr : mag % 2 ^ t < 2 ^ t := Nat.mod_lt _ (Nat.two_pow_pos t)
  have hmag : (mag : ℝ) = a + (mag % 2 ^ t : Nat) := by
    have := Nat.div_add_mod mag (2 ^ t)
    calc (mag : ℝ) = ((2 ^ t * (mag / 2 ^ t) + mag % 2 ^ t : Nat) : ℝ) := by rw [this]
      _ = a + (mag % 2 ^ t : Nat) := by push_cast; ring
  have hb : b = a + (2 ^ t : Nat) := by simp only [a, b]; push_cast; ring
  have hodd (hmod : mag % 2 = 1) (ht : 2 ≤ t) : mag % 2 ^ t % 2 = 1 ∧ 2 ^ t % 4 = 0 := by
    refine ⟨by rw [Nat.mod_mod_of_dvd _ (dvd_pow_self 2 (by omega)), hmod], ?_⟩
    obtain ⟨n, rfl⟩ := Nat.exists_eq_add_of_le' ht
    rw [Nat.pow_add]
    exact Nat.mul_mod_left _ _
  have hzero : X = a ↔ mag % 2 ^ t = 0 := by
    rcases h with rfl | ⟨hmod, ht, hlo, hhi⟩
    · rw [hmag]
      simp
    · obtain ⟨hro, -⟩ := hodd hmod ht
      have : (1 : ℝ) ≤ (mag % 2 ^ t : Nat) := by exact_mod_cast (by omega : 1 ≤ mag % 2 ^ t)
      exact iff_of_false (by intro h; linarith) (by omega)
  have hlow : 2 * X < a + b ↔ 2 * (mag % 2 ^ t) < 2 ^ t := by
    rw [hb]
    rcases h with rfl | ⟨hmod, ht, hlo, hhi⟩
    · rw [hmag, ← Nat.cast_lt (α := ℝ)]
      push_cast
      constructor <;> intro h <;> linarith
    · obtain ⟨hro, hto⟩ := hodd hmod ht
      constructor <;> intro h
      · by_contra hge
        have : ((2 ^ t : Nat) : ℝ) + 2 ≤ 2 * (mag % 2 ^ t : Nat) := by
          exact_mod_cast (by omega : 2 ^ t + 2 ≤ 2 * (mag % 2 ^ t))
        linarith
      · have : (2 * (mag % 2 ^ t : Nat) : ℝ) + 2 ≤ (2 ^ t : Nat) := by
          exact_mod_cast (by omega : 2 * (mag % 2 ^ t) + 2 ≤ 2 ^ t)
        linarith
  have hmid : 2 * X = a + b ↔ 2 * (mag % 2 ^ t) = 2 ^ t := by
    rw [hb]
    rcases h with rfl | ⟨hmod, ht, hlo, hhi⟩
    · rw [hmag, ← Nat.cast_inj (R := ℝ)]
      push_cast
      constructor <;> intro h <;> linarith
    · obtain ⟨hro, hto⟩ := hodd hmod ht
      refine iff_of_false (fun h => ?_) (by omega)
      rcases Nat.lt_or_ge (2 * (mag % 2 ^ t)) (2 ^ t) with hlt | hge
      · have : (2 * (mag % 2 ^ t : Nat) : ℝ) + 2 ≤ (2 ^ t : Nat) := by
          exact_mod_cast (by omega : 2 * (mag % 2 ^ t) + 2 ≤ 2 ^ t)
        linarith
      · have : ((2 ^ t : Nat) : ℝ) + 2 ≤ 2 * (mag % 2 ^ t : Nat) := by
          exact_mod_cast (by omega : 2 ^ t + 2 ≤ 2 * (mag % 2 ^ t))
        linarith
  have hrr : ((mag % 2 ^ t : Nat) : ℝ) + 1 ≤ (2 ^ t : Nat) := by exact_mod_cast hr
  have hr0 : (0 : ℝ) ≤ (mag % 2 ^ t : Nat) := Nat.cast_nonneg _
  refine ⟨?_, ?_, ?_⟩
  · rcases h with rfl | ⟨hmod, ht, hlo, hhi⟩
    · linarith
    · have : (1 : ℝ) ≤ (mag % 2 ^ t : Nat) := by exact_mod_cast (by have := hodd hmod ht; omega : 1 ≤ mag % 2 ^ t)
      linarith
  · rcases h with rfl | ⟨hmod, ht, hlo, hhi⟩
    · linarith
    · linarith
  · unfold roundShift goesUp halfOf
    simp only [hzero, hlow, hmid]
    by_cases h0 : mag % 2 ^ t = 0
    · simp [h0, k]
    · simp [h0, k]

/-- A rounding to multiples of `2^q`. -/
theorem roundTo_eq {b mag : Nat} {e q : Int} {X : ℝ} (rm : Nat) (neg : Bool) (h : Approximates b mag e X)
    (hq : 2 ^ b ≤ mag → e + 2 ≤ q ∨ X = mag * (2 : ℝ) ^ e) :
    ∃ k : Nat, (k : ℝ) * 2 ^ q ≤ X ∧ X < ((k : ℝ) + 1) * 2 ^ q ∧
      roundTo rm neg mag e q =
        (if goesUp rm neg (k % 2 == 1) X ((k : ℝ) * 2 ^ q) (((k : ℝ) + 1) * 2 ^ q) then k + 1 else k,
          !decide (X = (k : ℝ) * 2 ^ q)) := by
  have hpos : (0 : ℝ) < 2 ^ e := by positivity
  rcases le_or_gt q e with hle | hlt
  · have hX : X = mag * (2 : ℝ) ^ e := h.elim id fun ⟨_, hb, _, _⟩ => (hq hb).resolve_left (by omega)
    have hk : X = ((mag * 2 ^ (e - q).toNat : Nat) : ℝ) * 2 ^ q := by
      have hsplit : (2 : ℝ) ^ e = 2 ^ (e - q).toNat * 2 ^ q := by
        rw [← zpow_natCast, ← zpow_add₀ (by norm_num)]
        congr 1
        omega
      rw [hX, hsplit]
      push_cast
      rw [mul_assoc]
    refine ⟨mag * 2 ^ (e - q).toNat, hk.ge, ?_, ?_⟩
    · rw [hk]
      exact mul_lt_mul_of_pos_right (lt_add_one _) (by positivity)
    · rw [roundTo, if_pos hle, ← hk, goesUp_self]
      simp
  · obtain ⟨t, ht⟩ : ∃ t : Nat, q = t + e := ⟨(q - e).toNat, by omega⟩
    obtain ⟨Y, rfl⟩ : ∃ Y, X = Y * 2 ^ e := ⟨X / 2 ^ e, by field_simp⟩
    have hY : Y = mag ∨ mag % 2 = 1 ∧ 2 ≤ t ∧ (mag : ℝ) - 1 < Y ∧ Y < mag + 1 := by
      rcases h with h | ⟨hodd, hb, hlo, hhi⟩
      · exact .inl (mul_right_cancel₀ hpos.ne' h)
      · rcases hq hb with hge | heq
        · exact .inr ⟨hodd, by omega, lt_of_mul_lt_mul_right hlo hpos.le, lt_of_mul_lt_mul_right hhi hpos.le⟩
        · exact .inl (mul_right_cancel₀ hpos.ne' heq)
    obtain ⟨hlo, hhi, heq⟩ := roundShift_eq rm neg hY
    refine ⟨mag / 2 ^ t, ?_, ?_, ?_⟩
    · rw [ht, zpow_add₀ (by norm_num), zpow_natCast, ← mul_assoc]
      exact mul_le_mul_of_nonneg_right hlo hpos.le
    · rw [ht, zpow_add₀ (by norm_num), zpow_natCast, ← mul_assoc]
      exact mul_lt_mul_of_pos_right hhi hpos
    · rw [roundTo, if_neg (by omega), show (q - e).toNat = t by omega, heq, ht, zpow_add₀ (by norm_num), zpow_natCast,
        ← mul_assoc, ← mul_assoc, goesUp_mul hpos]
      simp only [mul_left_inj' hpos.ne']

/-- The leading bit of a magnitude. -/
theorem two_pow_bitLen {n : Nat} (h : n ≠ 0) : 1 ≤ bitLen n ∧ 2 ^ (bitLen n - 1) ≤ n ∧ n < 2 ^ bitLen n := by
  rw [bitLen, if_neg h]
  exact ⟨by omega, Nat.log2_self_le h, Nat.lt_log2_self⟩

/-- The leading bit of what is approximated is that of the approximation. -/
theorem Approximates.top {b mag : Nat} {e : Int} {X : ℝ} (h : Approximates b mag e X) (hb : 1 ≤ b) (hmag : mag ≠ 0) :
    (2 : ℝ) ^ ((bitLen mag : Int) - 1 + e) ≤ X ∧ X < (2 : ℝ) ^ ((bitLen mag : Int) - 1 + e + 1) := by
  obtain ⟨hlen, hlo, hhi⟩ := two_pow_bitLen hmag
  have hpos : (0 : ℝ) < 2 ^ e := by positivity
  have hexp : (bitLen mag : Int) - 1 + e = ((bitLen mag - 1 : Nat) : Int) + e := by omega
  have hexp' : (bitLen mag : Int) - 1 + e + 1 = (bitLen mag : Int) + e := by omega
  rw [hexp', hexp, zpow_add₀ (by norm_num), zpow_add₀ (by norm_num), zpow_natCast, zpow_natCast]
  rcases h with rfl | ⟨hodd, hb2, hlow, hhigh⟩
  · refine ⟨mul_le_mul_of_nonneg_right (by exact_mod_cast hlo) hpos.le, mul_lt_mul_of_pos_right (by exact_mod_cast hhi) hpos⟩
  · have hlen2 : 1 ≤ bitLen mag - 1 := by
      by_contra hcon
      have : 2 ^ bitLen mag ≤ 2 ^ 1 := Nat.pow_le_pow_right (by decide) (by omega)
      have : 2 ^ 1 ≤ 2 ^ b := Nat.pow_le_pow_right (by decide) hb
      omega
    have heven (n : Nat) (hn : 1 ≤ n) : 2 ^ n % 2 = 0 := by
      obtain ⟨k, rfl⟩ := Nat.exists_eq_add_of_le' hn
      rw [Nat.pow_succ, Nat.mul_mod_left]
    have h1 := heven _ hlen2
    have h2 := heven _ hlen
    have hlo' : (2 : ℝ) ^ (bitLen mag - 1) ≤ (mag : ℝ) - 1 := by
      have : (2 : ℝ) ^ (bitLen mag - 1) + 1 ≤ mag := by exact_mod_cast (by omega : 2 ^ (bitLen mag - 1) + 1 ≤ mag)
      linarith
    have hhi' : (mag : ℝ) + 1 ≤ (2 : ℝ) ^ bitLen mag := by exact_mod_cast (by omega : mag + 1 ≤ 2 ^ bitLen mag)
    exact ⟨(mul_le_mul_of_nonneg_right hlo' hpos.le).trans hlow.le, hhigh.trans_le (mul_le_mul_of_nonneg_right hhi' hpos.le)⟩

/-! ## Round into a format (R55) -/

theorem codeMag_row {f : Fmt} {Q k : Nat} {q : Int} (hq : (Q : Int) + (1 - f.bias - f.p) = q) (hlo : Q = 0 ∨ 2 ^ f.p ≤ k)
    (hhi : k ≤ 2 ^ (f.p + 1)) : (codeMag f (Q * 2 ^ f.p + k) : ℝ) = (k : ℝ) * 2 ^ q := by
  rw [codeMag, codeUnits_row hlo hhi, ← hq, zpow_add₀ (by norm_num)]
  push_cast
  rw [zpow_natCast, mul_assoc]

/-- A format's unit for values whose leading bit is `top`. -/
def unitAt (f : Fmt) (top : Int) : Int := max top (1 - f.bias) - f.p

theorem parity_row {p Q k : Nat} (hp : 1 ≤ p) : (Q * 2 ^ p + k) % 2 = k % 2 := by
  obtain ⟨n, rfl⟩ := Nat.exists_eq_add_of_le' hp
  rw [Nat.pow_succ, ← Nat.mul_assoc, Nat.mul_comm, Nat.mul_add_mod]

/-- The code and the inexactness that rounding a significand gives. -/
theorem exists_between {f : Fmt} (hf : f.Ok) {mag : Nat} {e : Int} {X : ℝ} (rm : Nat) (neg : Bool)
    (h : Approximates (f.p + 2) mag e X) (hmag : mag ≠ 0) :
    let q := unitAt f ((bitLen mag : Int) - 1 + e)
    ∃ c, Between f X c ∧
      (q - (1 - f.bias - f.p)).toNat * 2 ^ f.p + (roundTo rm neg mag e q).1 = roundedCode f rm neg X c ∧
      (roundTo rm neg mag e q).2 = !decide (X = (codeMag f c : ℝ)) := by
  intro q
  obtain ⟨htop, htop1⟩ := h.top (by omega) hmag
  obtain ⟨hlen, hlo, hhi⟩ := two_pow_bitLen hmag
  have hq : q = max ((bitLen mag : Int) - 1 + e) (1 - f.bias) - f.p := rfl
  have hwide (hb : 2 ^ (f.p + 2) ≤ mag) : e + 2 ≤ q := by
    have : f.p + 2 < bitLen mag := (Nat.pow_lt_pow_iff_right (by decide)).mp (hb.trans_lt hhi)
    omega
  obtain ⟨k, hk, hk1, hround⟩ := roundTo_eq rm neg h fun hb => .inl (hwide hb)
  obtain ⟨Q, hQ⟩ : ∃ Q : Nat, (Q : Int) + (1 - f.bias - f.p) = q := ⟨(q - (1 - f.bias - f.p)).toNat, by omega⟩
  have hposq : (0 : ℝ) < 2 ^ q := by positivity
  have hsmall : k < 2 ^ (f.p + 1) := by
    have hlt : (k : ℝ) * 2 ^ q < (2 ^ (f.p + 1) : Nat) * 2 ^ q := by
      calc (k : ℝ) * 2 ^ q ≤ X := hk
        _ < 2 ^ ((bitLen mag : Int) - 1 + e + 1) := htop1
        _ ≤ 2 ^ (((f.p + 1 : Nat) : Int) + q) := zpow_le_zpow_right₀ (by norm_num) (by omega)
        _ = (2 ^ (f.p + 1) : Nat) * 2 ^ q := by rw [zpow_add₀ (by norm_num), zpow_natCast]; push_cast; rfl
    exact_mod_cast lt_of_mul_lt_mul_right hlt hposq.le
  have hrow : Q = 0 ∨ 2 ^ f.p ≤ k := by
    rcases Nat.eq_zero_or_pos Q with h0 | hpos
    · exact .inl h0
    · have hlt : ((2 ^ f.p : Nat) : ℝ) * 2 ^ q < ((k : ℝ) + 1) * 2 ^ q := by
        calc ((2 ^ f.p : Nat) : ℝ) * 2 ^ q = 2 ^ ((f.p : Int) + q) := by
              rw [zpow_add₀ (by norm_num), zpow_natCast]; push_cast; rfl
          _ ≤ 2 ^ ((bitLen mag : Int) - 1 + e) := zpow_le_zpow_right₀ (by norm_num) (by omega)
          _ ≤ X := htop
          _ < ((k : ℝ) + 1) * 2 ^ q := hk1
      have : 2 ^ f.p < k + 1 := by exact_mod_cast lt_of_mul_lt_mul_right hlt hposq.le
      exact .inr (by omega)
  have hc : (codeMag f (Q * 2 ^ f.p + k) : ℝ) = (k : ℝ) * 2 ^ q := codeMag_row hQ hrow hsmall.le
  have hc1 : (codeMag f (Q * 2 ^ f.p + k + 1) : ℝ) = ((k : ℝ) + 1) * 2 ^ q := by
    rw [Nat.add_assoc, codeMag_row hQ (hrow.imp_right fun h => by omega) hsmall]
    push_cast
    rfl
  refine ⟨Q * 2 ^ f.p + k, ⟨hc.trans_le hk, hk1.trans_eq hc1.symm⟩, ?_, ?_⟩
  · rw [hround, roundedCode, codeUp, hc, hc1, parity_row hf.sig, show (q - (1 - f.bias - f.p)).toNat = Q by omega]
    split <;> rfl
  · rw [hround, hc]

/-- What a rounding gives: the code chosen, or past the greatest one OF and NX; NX alone says that it is not exact. -/
structure RoundsTo (f : Fmt) (rm : Nat) (neg : Bool) (X : ℝ) (r : Nat × Nat) : Prop where
  code : ∃ d, d < 2 ^ (f.w + f.p) ∧ r.1 = signCode f neg + d
  none : r.2.testBit 4 = false → r.2 = 0
  flags : ∃ c, Between f X c ∧
    (largestCode f < roundedCode f rm neg X c ∧ r.2.testBit 2 = true ∧ r.2.testBit 4 = true ∨
      roundedCode f rm neg X c ≤ largestCode f ∧ r.1 = signCode f neg + roundedCode f rm neg X c ∧
        r.2.testBit 2 = false ∧ (r.2.testBit 4 = false ↔ X = (codeMag f c : ℝ)))

theorem infCode_lt {f : Fmt} : infCode f < 2 ^ (f.w + f.p) := by
  rw [infCode, Nat.pow_add]
  exact Nat.mul_lt_mul_of_pos_right (Nat.sub_lt (Nat.two_pow_pos _) Nat.one_pos) (Nat.two_pow_pos _)

theorem overflow_flags : (fOF ||| fNX).testBit 2 = true ∧ (fOF ||| fNX).testBit 4 = true := by decide

theorem roundF_fin {f : Fmt} (hf : f.Ok) {mag : Nat} {e : Int} {X : ℝ} (rm : Nat) (neg : Bool)
    (h : Approximates (f.p + 2) mag e X) (hmag : mag ≠ 0) :
    RoundsTo f rm neg X (roundF f (.fin neg mag e) rm) := by
  obtain ⟨c, hbetween, hcode, hinexact⟩ := exists_between hf rm neg h hmag
  have hlargest := largestCode_lt f
  unfold roundF
  simp only [if_neg hmag]
  change _ = roundedCode f rm neg X c at hcode
  simp only [unitAt] at hcode hinexact
  rw [hcode, hinexact]
  split
  · next hgt =>
    have hover := overflow_flags
    have hnone (h : (fOF ||| fNX).testBit 4 = false) : (fOF ||| fNX) = 0 := absurd h (by decide)
    split
    · exact ⟨⟨_, hlargest, rfl⟩, hnone, c, hbetween, .inl ⟨hgt, hover⟩⟩
    · exact ⟨⟨_, by split; exacts [infCode_lt, hlargest], rfl⟩, hnone, c, hbetween, .inl ⟨hgt, hover⟩⟩
  · next hle =>
    have hle' : roundedCode f rm neg X c ≤ largestCode f := not_lt.mp hle
    split
    · next hex =>
      exact ⟨⟨_, hle'.trans_lt hlargest, rfl⟩, fun _ => rfl, c, hbetween,
        .inr ⟨hle', rfl, Nat.zero_testBit 2, by simpa using hex⟩⟩
    · next hex =>
      have hbits (tiny : Bool) : (if tiny = true then fNX ||| fUF else fNX).testBit 4 = true ∧
          (if tiny = true then fNX ||| fUF else fNX).testBit 2 = false := by cases tiny <;> decide
      obtain ⟨h4, h2⟩ := hbits (decide ((bitLen (roundTo rm neg mag e ((bitLen mag : Int) - 1 + e - f.p)).1 : Int) - 1 +
        ((bitLen mag : Int) - 1 + e - f.p) < 1 - f.bias))
      simp only [decide_eq_true_eq] at h4 h2
      exact ⟨⟨_, hle'.trans_lt hlargest, rfl⟩, fun h => absurd (h4.symm.trans h) (by decide), c, hbetween,
        .inr ⟨hle', rfl, h2, iff_of_false (by rw [h4]; decide) (by simpa using hex)⟩⟩

/-! ## Correct results -/

section
variable {f : Fmt} {rm : Nat} {neg : Bool} {X : ℝ} {r : Nat × Nat}

theorem Between.unique {c d : Nat} (h : Between f X c) (h' : Between f X d) : c = d := by
  have hlt {a b : Nat} (ha : Between f X a) (hb : Between f X b) : a ≤ b := by
    have : codeMag f a < codeMag f (b + 1) := by exact_mod_cast ha.1.trans_lt hb.2
    have := (codeMag_strictMono f).lt_iff_lt.mp this
    omega
  exact (hlt h h').antisymm (hlt h' h)

theorem between_codeMag (f : Fmt) (c : Nat) : Between f (codeMag f c) c :=
  ⟨le_rfl, by exact_mod_cast codeMag_strictMono f (Nat.lt_succ_self c)⟩

theorem roundedCode_codeMag (f : Fmt) (rm : Nat) (neg : Bool) (c : Nat) : roundedCode f rm neg (codeMag f c) c = c := by
  rw [roundedCode, codeUp, goesUp_self, if_neg Bool.false_ne_true]

theorem le_roundedCode (f : Fmt) (rm : Nat) (neg : Bool) (X : ℝ) (c : Nat) : c ≤ roundedCode f rm neg X c := by
  unfold roundedCode
  split <;> omega

theorem signOf_ne_zero (neg : Bool) : signOf neg ≠ 0 := by cases neg <;> norm_num [signOf]

theorem signed_inj {neg : Bool} {x y : ℝ} (h : (signOf neg : ℝ) * x = signOf neg * y) : x = y :=
  mul_left_cancel₀ (by exact_mod_cast signOf_ne_zero neg) h

theorem denotes_unique {c : Nat} {v w : ℚ} (hf : f.Ok) (hv : Denotes f c v) (hw : Denotes f c w) : v = w :=
  ((denotes_iff hf).mp hv).2.trans ((denotes_iff hf).mp hw).2.symm

theorem RoundsTo.correct (hf : f.Ok) (hX : 0 ≤ X) (h : RoundsTo f rm neg X r) : Correct f rm (signOf neg * X) r := by
  intro hof
  obtain ⟨c, hbetween, ⟨-, hof', -⟩ | ⟨hle, hr, -, hnx⟩⟩ := h.flags
  · exact absurd (hof.symm.trans hof') (by decide)
  have hden := denotes_signed hf neg hle
  refine ⟨hr ▸ roundedTo_roundedCode hf hX hbetween hle, hnx.trans ⟨fun hXc => ?_, ?_⟩⟩
  · refine ⟨_, hr ▸ hden, ?_⟩
    rw [hXc, roundedCode_codeMag]
    push_cast
    rfl
  · rintro ⟨v, hv, hvx⟩
    rw [hr] at hv
    rw [denotes_unique hf hv hden, Rat.cast_mul] at hvx
    have heq := signed_inj hvx
    have hself := between_codeMag f (roundedCode f rm neg X c)
    rw [heq] at hself
    rw [hbetween.unique hself]
    exact heq.symm

/-- The sign of a rounded value stays. -/
theorem RoundsTo.negative (h : RoundsTo f rm neg X r) : negative f r.1 = neg := by
  obtain ⟨d, hd, hr⟩ := h.code
  rw [hr]
  exact (signed_code neg hd).2

/-- A value of the format is itself. -/
theorem RoundsTo.exact {d : Nat} (hd : d ≤ largestCode f) (h : RoundsTo f rm neg (codeMag f d) r) :
    r = (signCode f neg + d, 0) := by
  obtain ⟨c, hbetween, hflags⟩ := h.flags
  obtain rfl : c = d := hbetween.unique (between_codeMag f d)
  rw [roundedCode_codeMag] at hflags
  obtain ⟨hgt, -⟩ | ⟨-, hr, -, hnx⟩ := hflags
  · omega
  · exact Prod.ext hr (h.none (hnx.mpr rfl))

/-- A value from the one after the greatest on overflows. -/
theorem RoundsTo.overflow (h : RoundsTo f rm neg X r) (hX : (codeMag f (largestCode f + 1) : ℝ) ≤ X) :
    r.2.testBit 2 = true ∧ r.2.testBit 4 = true := by
  obtain ⟨c, hbetween, ⟨-, hflags⟩ | ⟨hle, -⟩⟩ := h.flags
  · exact hflags
  · have hlt : codeMag f (largestCode f + 1) < codeMag f (c + 1) := by exact_mod_cast hX.trans_lt hbetween.2
    have := (codeMag_strictMono f).lt_iff_lt.mp hlt
    have := le_roundedCode f rm neg X c
    omega

/-- Two values that round alike, and one of them exactly, are one. -/
theorem RoundsTo.inexact {Y : ℝ} (h : RoundsTo f rm neg X r) (h' : RoundsTo f rm neg Y r) (hne : X ≠ Y) :
    r.2.testBit 4 = true := by
  by_contra hcon
  rw [Bool.not_eq_true] at hcon
  obtain ⟨c, -, ⟨-, -, hx⟩ | ⟨-, hr, -, hnx⟩⟩ := h.flags
  · exact absurd (hcon.symm.trans hx) (by decide)
  obtain ⟨d, -, ⟨-, -, hx⟩ | ⟨-, hr', -, hnx'⟩⟩ := h'.flags
  · exact absurd (hcon.symm.trans hx) (by decide)
  have hX := hnx.mp hcon
  have hY := hnx'.mp hcon
  rw [hX, roundedCode_codeMag] at hr
  rw [hY, roundedCode_codeMag] at hr'
  have : c = d := by omega
  exact hne (hX.trans (this ▸ hY.symm))

end

/-- A zero keeps its sign. -/
theorem roundF_zero (f : Fmt) (neg : Bool) (e : Int) (rm : Nat) : roundF f (.fin neg 0 e) rm = (signCode f neg, 0) := by
  simp [roundF]

theorem correct_zero {f : Fmt} (hf : f.Ok) (rm : Nat) (neg : Bool) : Correct f rm 0 (signCode f neg, 0) := by
  have hbetween : Between f 0 0 := by
    have := between_codeMag f 0
    rwa [codeMag_zero, Rat.cast_zero] at this
  have hcode : roundedCode f rm neg 0 0 = 0 := by
    have := roundedCode_codeMag f rm neg 0
    rwa [codeMag_zero, Rat.cast_zero] at this
  have hround := roundedTo_roundedCode (rm := rm) (neg := neg) hf le_rfl hbetween (by rw [hcode]; exact Nat.zero_le _)
  rw [hcode, Nat.add_zero, mul_zero] at hround
  have hden := denotes_signed hf neg (Nat.zero_le (largestCode f))
  rw [codeMag_zero, mul_zero, Nat.add_zero] at hden
  exact fun _ => ⟨hround, iff_of_true (Nat.zero_testBit 4) ⟨0, hden, Rat.cast_zero⟩⟩

/-- R55: the result of rounding what is approximated closely enough is correct, and has its sign. -/
theorem correct_roundF {f : Fmt} (hf : f.Ok) {mag : Nat} {e : Int} {X : ℝ} (rm : Nat) (neg : Bool)
    (h : Approximates (f.p + 2) mag e X) :
    Correct f rm (signOf neg * X) (roundF f (.fin neg mag e) rm) := by
  rcases eq_or_ne mag 0 with rfl | hmag
  · have hX : X = 0 := by
      rcases h with rfl | ⟨hodd, -⟩
      · rw [Nat.cast_zero, zero_mul]
      · exact absurd hodd (by decide)
    rw [hX, mul_zero, roundF_zero]
    exact correct_zero hf rm neg
  · exact (roundF_fin hf rm neg h hmag).correct hf (le_trans (by positivity) (h.top (by omega) hmag).1)

theorem negative_roundF {f : Fmt} (hf : f.Ok) (mag : Nat) (e : Int) (rm : Nat) (neg : Bool) :
    negative f (roundF f (.fin neg mag e) rm).1 = neg := by
  rcases eq_or_ne mag 0 with rfl | hmag
  · rw [roundF_zero]
    have := (signed_code (f := f) neg (Nat.two_pow_pos _)).2
    rwa [Nat.add_zero] at this
  · exact (roundF_fin hf rm neg (.inl rfl) hmag).negative

/-! ## Values with a record of what was cut off -/

/-- The magnitude between `n` and `n + 1` units, or `n` units, with one more bit that says which. -/
theorem approximates_jam {b n : Nat} {e : Int} {X : ℝ} {sticky : Bool} (hb : 2 ^ b ≤ 2 * n)
    (h : if sticky then (n : ℝ) * 2 ^ e < X ∧ X < ((n : ℝ) + 1) * 2 ^ e else X = (n : ℝ) * 2 ^ e) :
    Approximates b (2 * n + (if sticky then 1 else 0)) (e - 1) X := by
  have hhalf : (2 : ℝ) ^ e = 2 * 2 ^ (e - 1) := by
    rw [show e = (e - 1) + 1 by omega, zpow_add_one₀ (by norm_num), mul_comm]
    simp
  rw [hhalf] at h
  cases sticky
  · left
    rw [if_neg Bool.false_ne_true] at h ⊢
    rw [h]
    push_cast
    ring
  · right
    rw [if_pos rfl] at h ⊢
    refine ⟨by omega, by omega, ?_, ?_⟩ <;> push_cast <;> linarith

end Sys2Proof.Machine
end

section
/-! The formats of arithmetic (R98, R99), and the operations on two and three operands (R102, R116 to R119). -/

namespace Sys2Proof.Machine

/- Proofs one after another: side by side, each takes the stack of a thread, and those of the whole text reach the
memory limit of the check. -/
set_option Elab.async false
open Sys2Proof.Claims

/-! ## The formats and what their codes stand for (R98, R99) -/

theorem decodeF_subnormal {f : Fmt} (hf : f.Ok) {c : Nat} (he : c / 2 ^ f.p % 2 ^ f.w = 0) :
    decodeF f c = .fin (negative f c) (c % 2 ^ f.p) (1 - f.bias - f.p) := by
  have hw : 2 ^ 1 ≤ 2 ^ f.w := Nat.pow_le_pow_right (by decide) hf.exp
  have hne : ¬ (0 = 2 ^ f.w - 1) := by omega
  simp only [decodeF, he, hne, false_and, if_false, if_true, negative_eq]

theorem decodeF_normal {f : Fmt} {c : Nat} (he : 0 < c / 2 ^ f.p % 2 ^ f.w)
    (hfin : c / 2 ^ f.p % 2 ^ f.w < 2 ^ f.w - 1 ∨ f.special = 2 ∨ f.special = 1 ∧ c % 2 ^ f.p ≠ 2 ^ f.p - 1) :
    decodeF f c = .fin (negative f c) (c % 2 ^ f.p + 2 ^ f.p) ((c / 2 ^ f.p % 2 ^ f.w : Nat) - f.bias - f.p) := by
  have h0 : ¬ (c / 2 ^ f.p % 2 ^ f.w = 2 ^ f.w - 1 ∧ f.special = 0) := by omega
  have h1 : ¬ (c / 2 ^ f.p % 2 ^ f.w = 2 ^ f.w - 1 ∧ f.special = 1 ∧ c % 2 ^ f.p = 2 ^ f.p - 1) := by omega
  simp only [decodeF, if_neg h0, if_neg h1, if_neg he.ne', negative_eq]

theorem decodeF_infinity {f : Fmt} {c : Nat} (he : c / 2 ^ f.p % 2 ^ f.w = 2 ^ f.w - 1) (h0 : f.special = 0)
    (hm : c % 2 ^ f.p = 0) : decodeF f c = .inf (negative f c) := by
  simp only [decodeF, he, h0, hm, and_self, if_true, negative_eq]

theorem decodeF_nan {f : Fmt} {c : Nat} (he : c / 2 ^ f.p % 2 ^ f.w = 2 ^ f.w - 1) (h0 : f.special = 0)
    (hm : c % 2 ^ f.p ≠ 0) : decodeF f c = .nan (decide (c % 2 ^ f.p < 2 ^ (f.p - 1))) := by
  simp only [decodeF, he, h0, hm, and_self, if_true, if_false]

theorem decodeF_single_nan {f : Fmt} {c : Nat} (he : c / 2 ^ f.p % 2 ^ f.w = 2 ^ f.w - 1) (h1 : f.special = 1)
    (hm : c % 2 ^ f.p = 2 ^ f.p - 1) : decodeF f c = .nan false := by
  simp only [decodeF, he, hm, h1, one_ne_zero, and_false, and_self, if_true, if_false]

/-- A row of the table of formats is the format of its type. -/
theorem fmtOf_row {r : Nat × Nat × Nat × Nat × Nat × Nat} (h : r ∈ formatRows) :
    fmtOf r.1 = ⟨r.2.1, r.2.2.1, r.2.2.2.1, r.2.2.2.2.1⟩ ∧ (fmtOf r.1).Ok ∧ qnan (fmtOf r.1) = r.2.2.2.2.2 ∧
      (fmtOf r.1).p ≤ 52 := by
  simp only [formatRows, List.mem_cons, List.not_mem_nil, or_false] at h
  rcases h with rfl | rfl | rfl | rfl | rfl | rfl | rfl | rfl | rfl | rfl | rfl <;>
    exact ⟨rfl, ⟨by decide, by decide⟩, by decide, by decide⟩

theorem codesStandForTheirValues : CodesStandForTheirValues := by
  intro r hr c
  obtain ⟨hfmt, hok, -⟩ := fmtOf_row hr
  obtain ⟨ty, w, p, bias, special, q⟩ := r
  dsimp only at hfmt ⊢
  have hw : (fmtOf ty).w = w := by rw [hfmt]
  have hp : (fmtOf ty).p = p := by rw [hfmt]
  have hbias : (fmtOf ty).bias = bias := by rw [hfmt]
  have hspecial : (fmtOf ty).special = special := by rw [hfmt]
  generalize fmtOf ty = f at *
  subst hw hp hbias hspecial
  have hsign : (if c / 2 ^ (f.w + f.p) % 2 = 1 then (-1 : ℚ) else 1) = if negative f c = true then -1 else 1 := by
    rw [← negative_eq]
    simp only [beq_iff_eq]
  have hneg : decide (c / 2 ^ (f.w + f.p) % 2 = 1) = negative f c := by rw [← negative_eq]; rfl
  have hunit (E : ℤ) : (2 : ℚ) ^ (E - f.p) = 2 ^ E / 2 ^ f.p := by rw [zpow_sub₀ (by norm_num), zpow_natCast]
  refine ⟨fun he => ⟨_, _, _, decodeF_subnormal hok he, ?_⟩, fun he hfin => ⟨_, _, _, decodeF_normal he hfin, ?_⟩,
    fun he h0 => ⟨fun hm => hneg ▸ decodeF_infinity he h0 hm, decodeF_nan he h0⟩, decodeF_single_nan⟩
  · rw [hsign, hunit, mul_div_assoc', mul_div_assoc', mul_right_comm]
  · rw [hsign, hunit]
    push_cast
    field_simp
    ring

/-- What the formats of arithmetic have in common (R99). -/
structure Fmt.Wide (f : Fmt) (q : Nat) : Prop extends f.Ok where
  infinities : f.special = 0
  quiet : qnan f = q
  narrow : f.p ≤ 52
  range : f.w ≤ 11 ∧ f.bias ≤ 1023
  balanced : 2 ^ f.w = 2 * f.bias + 2 ∧ f.p ≤ f.bias ∧ f.bias + f.p < 2 ^ (f.p + 1)

theorem wide_of_mem {w : Fmt × Nat} (h : w ∈ wideFormats) : w.1.Wide w.2 := by
  simp only [wideFormats, List.mem_cons, List.not_mem_nil, or_false] at h
  rcases h with rfl | rfl | rfl | rfl <;>
    exact ⟨⟨by decide, by decide⟩, rfl, by decide, by decide, by decide, by decide⟩

/-! ## Exact arithmetic on values (R102, R116) -/

/-- The sign of a value that is not a NaN is that of its code. -/
theorem sign_of_fin {f : Fmt} {c : Nat} {n : Bool} {m : Nat} {e : Int} (h : decodeF f c = .fin n m e) : n = negative f c := by
  unfold decodeF at h
  simp only [negative_eq] at h
  split_ifs at h <;> exact (FVal.fin.inj h).1.symm

theorem sign_of_inf {f : Fmt} {c : Nat} {n : Bool} (h : decodeF f c = .inf n) : n = negative f c := by
  unfold decodeF at h
  simp only [negative_eq] at h
  split_ifs at h
  exact (FVal.inf.inj h).symm

theorem denotes_fin {f : Fmt} {c : Nat} {x : ℚ} (h : Denotes f c x) :
    ∃ m e, decodeF f c = .fin (negative f c) m e ∧ x = signOf (negative f c) * (m : ℚ) * 2 ^ e := by
  obtain ⟨n, m, e, hdec, rfl⟩ := h
  obtain rfl := sign_of_fin hdec
  exact ⟨m, e, hdec, rfl⟩

theorem denotes_of_fin {f : Fmt} {c : Nat} {n : Bool} {m : Nat} {e : Int} (h : decodeF f c = .fin n m e) :
    Denotes f c (signOf n * (m : ℚ) * 2 ^ e) := ⟨n, m, e, h, rfl⟩

theorem denotes_zero_iff {f : Fmt} {c : Nat} : Denotes f c 0 ↔ isZero (decodeF f c) = true := by
  constructor
  · intro h
    obtain ⟨m, e, hdec, hx⟩ := denotes_fin h
    have hsign := signOf_ne_zero (negative f c)
    have hpow : (2 : ℚ) ^ e ≠ 0 := by positivity
    have hm : m = 0 := by simpa [hsign, hpow] using hx
    rw [hdec, hm]
    rfl
  · intro h
    match hdec : decodeF f c with
    | .nan _ => simp [hdec, isZero] at h
    | .inf _ => simp [hdec, isZero] at h
    | .fin n m e =>
      have hm : m = 0 := by simpa [hdec, isZero] using h
      have := denotes_of_fin hdec
      rwa [hm, Nat.cast_zero, mul_zero, zero_mul] at this

theorem signOf_not (n : Bool) : signOf (!n) = -signOf n := by cases n <;> norm_num [signOf]

theorem signOf_xor (n k : Bool) : signOf (n != k) = signOf n * signOf k := by cases n <;> cases k <;> norm_num [signOf]

theorem signed_eq_zero {n : Bool} {m : Nat} {e : Int} : signOf n * (m : ℚ) * 2 ^ e = 0 ↔ m = 0 := by
  have hpow : (2 : ℚ) ^ e ≠ 0 := by positivity
  simp [signOf_ne_zero, hpow]

theorem scaled_fin (n : Bool) (m : Nat) {e q : Int} (h : q ≤ e) :
    ((scaled (.fin n m e) q : Int) : ℚ) * 2 ^ q = signOf n * m * 2 ^ e := by
  have hsplit : (2 : ℚ) ^ e = 2 ^ (e - q).toNat * 2 ^ q := by
    rw [← zpow_natCast, ← zpow_add₀ (by norm_num)]
    congr 1
    omega
  rw [hsplit, scaled]
  cases n
  · simp [signOf, mul_assoc]
  · simp [signOf, mul_assoc]

theorem ofScaled_value (v q : Int) (z : Bool) :
    ∃ n m e, ofScaled v q z = .fin n m e ∧ signOf n * (m : ℚ) * 2 ^ e = v * 2 ^ q ∧ (v = 0 → n = z) := by
  unfold ofScaled
  split
  · next h0 => exact ⟨_, _, _, rfl, by simp [h0], fun _ => rfl⟩
  · next h0 =>
    refine ⟨_, _, _, rfl, ?_, fun h => absurd h h0⟩
    congr 1
    rcases lt_or_ge v 0 with hneg | hpos
    · rw [decide_eq_true hneg, signOf, if_pos rfl, ← Int.cast_natCast, Int.ofNat_natAbs_of_nonpos hneg.le]
      push_cast
      ring
    · rw [decide_eq_false (not_lt.mpr hpos), signOf, if_neg Bool.false_ne_true, ← Int.cast_natCast,
        Int.natAbs_of_nonneg hpos, one_mul]

/-- A sum of finite values is exact; a zero has the sign of R102. -/
theorem addF_fin (n k : Bool) (m l : Nat) (e g : Int) (rm : Nat) :
    ∃ s u t, addF (.fin n m e) (.fin k l g) rm = (.fin s u t, 0) ∧
      signOf s * (u : ℚ) * 2 ^ t = signOf n * m * 2 ^ e + signOf k * l * 2 ^ g ∧
      (signOf n * (m : ℚ) * 2 ^ e + signOf k * l * 2 ^ g = 0 → s = if m = 0 ∧ n = k then n else rm == 3) := by
  have ha := scaled_fin n m (min_le_left e g)
  have hb := scaled_fin k l (min_le_right e g)
  have hsum : ((scaled (.fin n m e) (min e g) + scaled (.fin k l g) (min e g) : Int) : ℚ) * 2 ^ min e g =
      signOf n * m * 2 ^ e + signOf k * l * 2 ^ g := by rw [Int.cast_add, add_mul, ha, hb]
  obtain ⟨s, u, t, heq, hval, hz⟩ := ofScaled_value (scaled (.fin n m e) (min e g) + scaled (.fin k l g) (min e g)) (min e g)
    (if isZero (.fin n m e) && isZero (.fin k l g) && n == k then n else rm == 3)
  refine ⟨s, u, t, by simp [addF, isNan, expOf, isNeg, ← heq], hval.trans hsum, fun h0 => ?_⟩
  have hpow : (2 : ℚ) ^ min e g ≠ 0 := by positivity
  have hv : scaled (.fin n m e) (min e g) + scaled (.fin k l g) (min e g) = 0 := by
    rw [← hsum] at h0
    exact_mod_cast (mul_eq_zero.mp h0).resolve_right hpow
  rw [hz hv]
  have hboth : m = 0 → l = 0 := fun hm => by
    rw [hm, Nat.cast_zero, mul_zero, zero_mul, zero_add] at h0
    exact signed_eq_zero.mp h0
  by_cases hm : m = 0
  · simp [isZero, hm, hboth hm]
  · simp [isZero, hm]

theorem mulF_fin (n k : Bool) (m l : Nat) (e g : Int) :
    mulF (.fin n m e) (.fin k l g) = (.fin (n != k) (m * l) (e + g), 0) ∧
      signOf (n != k) * ((m * l : Nat) : ℚ) * 2 ^ (e + g) = (signOf n * m * 2 ^ e) * (signOf k * l * 2 ^ g) := by
  refine ⟨by simp [mulF, isNan, isNeg], ?_⟩
  rw [signOf_xor, zpow_add₀ (by norm_num)]
  push_cast
  ring

theorem isSnan_eq_true {d : FVal} : isSnan d = true ↔ d = .nan true := by
  cases d <;> simp [isSnan]

/-- NV is raised exactly for a signalling NaN. -/
theorem signals_eq (f : Fmt) (cs : List Nat) : signals f cs = nvOf (cs.map (decodeF f)) := by
  have hiff : (cs.map (decodeF f)).any isSnan = true ↔ ∃ c ∈ cs, decodeF f c = .nan true := by
    simp [isSnan_eq_true]
  unfold signals nvOf fNV
  by_cases h : ∃ c ∈ cs, decodeF f c = .nan true
  · rw [if_pos h, if_pos (hiff.mpr h)]
  · rw [if_neg h, if_neg fun h' => h (hiff.mp h')]

/-! ## Results of the formats of arithmetic -/

section
variable {f : Fmt} {q : Nat}

theorem roundCode_nan (hf : f.Wide q) (rm : Nat) (s : Bool) (fl : Nat) : roundCode f rm (.nan s, fl) = (q, fl) := by
  simp [roundCode, roundF, hf.infinities, hf.quiet]

theorem roundCode_inf (h0 : f.special = 0) (rm : Nat) (n : Bool) (fl : Nat) :
    roundCode f rm (.inf n, fl) = (signCode f n + infCode f, fl) := by
  simp [roundCode, roundF, h0]

theorem roundCode_zero (rm : Nat) (n : Bool) (e : Int) (fl : Nat) : roundCode f rm (.fin n 0 e, fl) = (signCode f n, fl) := by
  simp [roundCode, roundF_zero]

theorem decodeF_signed_infCode (h0 : f.special = 0) (n : Bool) : decodeF f (signCode f n + infCode f) = .inf n := by
  obtain ⟨hmod, hneg⟩ := signed_code (f := f) n infCode_lt
  have hpos := Nat.two_pow_pos f.p
  have hw := Nat.two_pow_pos f.w
  have he : (signCode f n + infCode f) / 2 ^ f.p % 2 ^ f.w = 2 ^ f.w - 1 := by
    rw [exponent_of_code, hmod, infCode, Nat.mul_div_cancel _ hpos]
  have hm : (signCode f n + infCode f) % 2 ^ f.p = 0 := by
    rw [significand_of_code, hmod, infCode, Nat.mul_mod_left]
  rw [decodeF_infinity he h0 hm, hneg]

theorem denotes_signCode (hf : f.Ok) (n : Bool) : Denotes f (signCode f n) 0 ∧ negative f (signCode f n) = n := by
  have hden := denotes_signed hf n (Nat.zero_le (largestCode f))
  have hneg := (signed_code (f := f) n (Nat.two_pow_pos _)).2
  rw [codeMag_zero, mul_zero, Nat.add_zero] at hden
  rw [Nat.add_zero] at hneg
  exact ⟨hden, hneg⟩

/-- An exact result is rounded once. -/
theorem correct_exact (hf : f.Ok) (rm : Nat) {x : ℚ} {n : Bool} {m : Nat} {e : Int} (hx : signOf n * (m : ℚ) * 2 ^ e = x) :
    Correct f rm x (roundCode f rm (.fin n m e, 0)) := by
  have h := correct_roundF hf rm n (.inl rfl : Approximates (f.p + 2) m e ((m : ℝ) * 2 ^ e))
  have hcast : (x : ℝ) = signOf n * ((m : ℝ) * 2 ^ e) := by
    rw [← hx, mul_assoc]
    push_cast
    rfl
  rw [hcast]
  simpa [roundCode] using h

theorem negative_roundCode (hf : f.Ok) (rm : Nat) (n : Bool) (m : Nat) (e : Int) (fl : Nat) :
    negative f (roundCode f rm (.fin n m e, fl)).1 = n := negative_roundF hf m e rm n

end

/-! ## Two operands (R99, R102, R116, R117) -/

theorem isNan_negF (d : FVal) : isNan (negF d) = isNan d := by cases d <;> rfl
theorem isSnan_negF (d : FVal) : isSnan (negF d) = isSnan d := by cases d <;> rfl

theorem addF_nan {a b : FVal} (rm : Nat) (h : (isNan a || isNan b) = true) : addF a b rm = (.nan false, nvOf [a, b]) := by
  unfold addF
  exact if_pos h

theorem mulF_nan {a b : FVal} (h : (isNan a || isNan b) = true) : mulF a b = (.nan false, nvOf [a, b]) := by
  unfold mulF
  exact if_pos h

theorem divF_nan {a b : FVal} (h : (isNan a || isNan b) = true) : divF a b = (.nan false, nvOf [a, b]) := by
  unfold divF
  exact if_pos h

section
variable {f : Fmt} {q : Nat} {rm a b : Nat}

/-- A NaN operand gives the quiet NaN, with NV for a signalling one. -/
theorem two_nan (hf : f.Wide q) (h : (isNan (decodeF f a) || isNan (decodeF f b)) = true) :
    valFadd f rm a b = (q, signals f [a, b]) ∧ valFsub f rm a b = (q, signals f [a, b]) ∧
      valFmul f rm a b = (q, signals f [a, b]) ∧ valFdiv f rm a b = (q, signals f [a, b]) := by
  have hnv : nvOf [decodeF f a, negF (decodeF f b)] = nvOf [decodeF f a, decodeF f b] := by simp [nvOf, isSnan_negF]
  rw [signals_eq, List.map_cons, List.map_cons, List.map_nil]
  refine ⟨?_, ?_, ?_, ?_⟩
  · rw [valFadd, addCode, addF_nan rm h, roundCode_nan hf]
  · rw [valFsub, addF_nan rm (by rwa [isNan_negF]), hnv, roundCode_nan hf]
  · rw [valFmul, mulF_nan h, roundCode_nan hf]
  · rw [valFdiv, divF_nan h, roundCode_nan hf]

/-- Both operands infinite. -/
theorem two_infinite (hf : f.Wide q) {n k : Bool} (ha : decodeF f a = .inf n) (hb : decodeF f b = .inf k) :
    (if n = k then decodeF f (valFadd f rm a b).1 = .inf n ∧ (valFadd f rm a b).2 = 0 else valFadd f rm a b = (q, 1)) ∧
      (if n = k then valFsub f rm a b = (q, 1) else decodeF f (valFsub f rm a b).1 = .inf n ∧ (valFsub f rm a b).2 = 0) ∧
      valFdiv f rm a b = (q, 1) := by
  have hinf := decodeF_signed_infCode hf.infinities n
  simp only [valFadd, addCode, valFsub, valFdiv, ha, hb, addF, divF, negF, isNan, Bool.or_self, Bool.false_eq_true, if_false]
  cases n <;> cases k <;> simp [roundCode_nan hf, roundCode_inf hf.infinities, hinf, fNV]

/-- The first operand infinite, the second finite. -/
theorem first_infinite (hf : f.Wide q) {n : Bool} {y : ℚ} (ha : decodeF f a = .inf n) (hb : Denotes f b y) :
    decodeF f (valFadd f rm a b).1 = .inf n ∧ (valFadd f rm a b).2 = 0 ∧
      decodeF f (valFsub f rm a b).1 = .inf n ∧ (valFsub f rm a b).2 = 0 ∧
      decodeF f (valFdiv f rm a b).1 = .inf (negative f a != negative f b) ∧ (valFdiv f rm a b).2 = 0 := by
  obtain ⟨m, e, hb, -⟩ := denotes_fin hb
  have hn := sign_of_inf ha
  simp [valFadd, addCode, valFsub, valFdiv, ha, hb, addF, divF, negF, isNan, isNeg, roundCode_inf hf.infinities,
    decodeF_signed_infCode hf.infinities, ← hn]

/-- The second operand infinite, the first finite. -/
theorem second_infinite (hf : f.Wide q) {n : Bool} {x : ℚ} (ha : Denotes f a x) (hb : decodeF f b = .inf n) :
    decodeF f (valFadd f rm a b).1 = .inf n ∧ (valFadd f rm a b).2 = 0 ∧
      decodeF f (valFsub f rm a b).1 = .inf (!n) ∧ (valFsub f rm a b).2 = 0 ∧
      Denotes f (valFdiv f rm a b).1 0 ∧ (valFdiv f rm a b).2 = 0 := by
  obtain ⟨m, e, ha, -⟩ := denotes_fin ha
  simp [valFadd, addCode, valFsub, valFdiv, ha, hb, addF, divF, negF, isNan, isNeg, roundCode_inf hf.infinities, roundCode_zero,
    decodeF_signed_infCode hf.infinities, (denotes_signCode hf.toOk _).1]

/-- The sum of finite values. -/
theorem finite_sum (hf : f.Ok) {x y : ℚ} (ha : Denotes f a x) (hb : Denotes f b y) :
    Correct f rm (x + y : ℚ) (valFadd f rm a b) ∧
      (x + y = 0 → negative f (valFadd f rm a b).1 =
        if x = 0 ∧ negative f a = negative f b then negative f a else decide (rm = 3)) := by
  obtain ⟨m, e, hda, rfl⟩ := denotes_fin ha
  obtain ⟨l, g, hdb, rfl⟩ := denotes_fin hb
  obtain ⟨s, u, t, heq, hval, hz⟩ := addF_fin (negative f a) (negative f b) m l e g rm
  rw [valFadd, addCode, hda, hdb, heq]
  refine ⟨correct_exact hf rm hval, fun h0 => ?_⟩
  rw [negative_roundCode hf, hz h0]
  simp only [signed_eq_zero]
  rfl

/-- The difference of finite values. -/
theorem finite_difference (hf : f.Ok) {x y : ℚ} (ha : Denotes f a x) (hb : Denotes f b y) :
    Correct f rm (x - y : ℚ) (valFsub f rm a b) ∧
      (x - y = 0 → negative f (valFsub f rm a b).1 =
        if x = 0 ∧ negative f a = !negative f b then negative f a else decide (rm = 3)) := by
  obtain ⟨m, e, hda, rfl⟩ := denotes_fin ha
  obtain ⟨l, g, hdb, rfl⟩ := denotes_fin hb
  obtain ⟨s, u, t, heq, hval, hz⟩ := addF_fin (negative f a) (!negative f b) m l e g rm
  rw [signOf_not, neg_mul, neg_mul, ← sub_eq_add_neg] at hval hz
  rw [valFsub, hda, hdb, negF, heq]
  refine ⟨correct_exact hf rm hval, fun h0 => ?_⟩
  rw [negative_roundCode hf, hz h0]
  simp only [signed_eq_zero]
  rfl

/-- The product of finite values. -/
theorem finite_product (hf : f.Ok) {x y : ℚ} (ha : Denotes f a x) (hb : Denotes f b y) :
    Correct f rm (x * y : ℚ) (valFmul f rm a b) := by
  obtain ⟨m, e, hda, rfl⟩ := denotes_fin ha
  obtain ⟨l, g, hdb, rfl⟩ := denotes_fin hb
  obtain ⟨heq, hval⟩ := mulF_fin (negative f a) (negative f b) m l e g
  rw [valFmul, hda, hdb, heq]
  exact correct_exact hf rm hval

/-- The fused product of finite values. -/
theorem finite_fused (hf : f.Ok) {c : Nat} {x y z : ℚ} (ha : Denotes f a x) (hb : Denotes f b y) (hc : Denotes f c z) :
    Correct f rm (x * y + z : ℚ) (valFfma f rm a b c) := by
  obtain ⟨m, e, hda, rfl⟩ := denotes_fin ha
  obtain ⟨l, g, hdb, rfl⟩ := denotes_fin hb
  obtain ⟨k, h, hdc, rfl⟩ := denotes_fin hc
  obtain ⟨hmul, hmulval⟩ := mulF_fin (negative f a) (negative f b) m l e g
  obtain ⟨s, u, t, heq, hval, -⟩ := addF_fin (negative f a != negative f b) (negative f c) (m * l) k (e + g) h rm
  rw [hmulval] at hval
  have hfma : fmaF (decodeF f a) (decodeF f b) (decodeF f c) rm = (.fin s u t, 0) := by
    rw [hda, hdb, hdc, fmaF, hmul]
    simpa [isNan] using heq
  rw [valFfma, hfma]
  exact correct_exact hf rm hval

/-! ### Quotients -/

theorem bitLen_pow (k : Nat) : k < 2 ^ bitLen k := by
  rcases Nat.eq_zero_or_pos k with rfl | h
  · exact Nat.two_pow_pos _
  · exact (two_pow_bitLen h.ne').2.2

/-- A quotient to 70 bits and a record of the rest. -/
theorem correct_ratio (hf : f.Wide q) (rm : Nat) (n : Bool) {m k : Nat} (e g : Int) (hm : m ≠ 0) (hk : k ≠ 0) :
    Correct f rm (signOf n * ((m * 2 ^ e) / (k * 2 ^ g))) (roundF f (ratio n m e k g) rm) ∧
      negative f (roundF f (ratio n m e k g) rm).1 = n := by
  have hnarrow := hf.narrow
  have hbig : 2 ^ (f.p + 2) ≤ 2 * (m * 2 ^ (70 + bitLen k) / k) := by
    have : 2 ^ (f.p + 2) ≤ m * 2 ^ (70 + bitLen k) / k := by
      rw [Nat.le_div_iff_mul_le (Nat.pos_of_ne_zero hk), Nat.pow_add 2 70]
      calc 2 ^ (f.p + 2) * k ≤ 2 ^ 70 * 2 ^ bitLen k :=
            Nat.mul_le_mul (Nat.pow_le_pow_right (by decide) (by omega)) (bitLen_pow k).le
        _ ≤ m * (2 ^ 70 * 2 ^ bitLen k) := Nat.le_mul_of_pos_left _ (Nat.pos_of_ne_zero hm)
    omega
  have hkpos : (0 : ℝ) < k := by exact_mod_cast Nat.pos_of_ne_zero hk
  have hX : (m * (2 : ℝ) ^ e) / (k * 2 ^ g) = ((m * 2 ^ (70 + bitLen k) : Nat) : ℝ) / k * 2 ^ (e - g - (70 + bitLen k : Nat)) := by
    rw [zpow_sub₀ (by norm_num), zpow_sub₀ (by norm_num), zpow_natCast]
    push_cast
    field_simp
  have happ : Approximates (f.p + 2) _ _ ((m * (2 : ℝ) ^ e) / (k * 2 ^ g)) :=
    approximates_jam (e := e - g - (70 + bitLen k : Nat)) (sticky := m * 2 ^ (70 + bitLen k) % k != 0) hbig (by
      rw [hX]
      generalize m * 2 ^ (70 + bitLen k) = N
      have hdiv : (N : ℝ) = k * (N / k : Nat) + (N % k : Nat) := by exact_mod_cast (Nat.div_add_mod N k).symm
      have hlt : ((N % k : Nat) : ℝ) < k := by exact_mod_cast Nat.mod_lt N (Nat.pos_of_ne_zero hk)
      have hquot : (N : ℝ) / k = (N / k : Nat) + (N % k : Nat) / (k : ℝ) := by
        rw [div_eq_iff hkpos.ne', add_mul, div_mul_cancel₀ _ hkpos.ne', mul_comm]
        exact hdiv
      rw [hquot]
      by_cases h0 : N % k = 0
      · simp [h0]
      · have hpos : (0 : ℝ) < (N % k : Nat) := by exact_mod_cast Nat.pos_of_ne_zero h0
        rw [if_pos (by simpa using h0)]
        constructor
        · refine mul_lt_mul_of_pos_right ?_ (by positivity)
          have := div_pos hpos hkpos
          linarith
        · refine mul_lt_mul_of_pos_right ?_ (by positivity)
          have := (div_lt_one hkpos).mpr hlt
          linarith)
  exact ⟨correct_roundF hf.toOk rm n happ, negative_roundF hf.toOk _ _ rm n⟩

theorem roundCode_flagless (r : FVal) : roundCode f rm (r, 0) = roundF f r rm := by simp [roundCode]

/-- The quotient of finite values. -/
theorem finite_quotient (hf : f.Wide q) {x y : ℚ} (ha : Denotes f a x) (hb : Denotes f b y) :
    (y ≠ 0 → Correct f rm (x / y : ℚ) (valFdiv f rm a b)) ∧
      (y = 0 → x ≠ 0 → decodeF f (valFdiv f rm a b).1 = .inf (negative f a != negative f b) ∧ (valFdiv f rm a b).2 = 2) ∧
      (y = 0 → x = 0 → valFdiv f rm a b = (q, 1)) := by
  obtain ⟨m, e, hda, rfl⟩ := denotes_fin ha
  obtain ⟨l, g, hdb, rfl⟩ := denotes_fin hb
  simp only [ne_eq, signed_eq_zero]
  rw [valFdiv, hda, hdb]
  refine ⟨fun hl => ?_, fun hl hm => ?_, fun hl hm => ?_⟩
  · rcases eq_or_ne m 0 with rfl | hm
    · have h0 := correct_zero hf.toOk rm (negative f a != negative f b)
      simpa [divF, isNan, isNeg, hl, roundCode_zero] using h0
    · obtain ⟨hcor, -⟩ := correct_ratio hf rm (negative f a != negative f b) e g hm hl
      have hval : ((signOf (negative f a) * (m : ℚ) * 2 ^ e / (signOf (negative f b) * l * 2 ^ g) : ℚ) : ℝ) =
          signOf (negative f a != negative f b) * ((m * 2 ^ e) / (l * 2 ^ g)) := by
        have hsq : signOf (negative f b) * signOf (negative f b) = 1 := signOf_mul_self _
        have hb0 := signOf_ne_zero (negative f b)
        have hinv : (signOf (negative f b))⁻¹ = signOf (negative f b) := inv_eq_of_mul_eq_one_left hsq
        have hq : signOf (negative f a) * (m : ℚ) * 2 ^ e / (signOf (negative f b) * l * 2 ^ g) =
            signOf (negative f a != negative f b) * ((m * 2 ^ e) / (l * 2 ^ g)) := by
          rw [signOf_xor, ← hinv, div_eq_mul_inv, div_eq_mul_inv, hinv, mul_assoc (signOf (negative f b)), mul_inv, hinv]
          ring
        rw [hq]
        push_cast
        rfl
      rw [hval]
      simpa [divF, isNan, isNeg, hl, hm, roundCode_flagless] using hcor
  · simp [divF, isNan, isNeg, hl, hm, roundCode_inf hf.infinities, decodeF_signed_infCode hf.infinities, fDZ]
  · simp [divF, isNan, hl, hm, roundCode_nan hf, fNV]

end

/-! ## Values in order (R117, R118) -/

/-- The value of a code that is not a NaN, the infinities among them. -/
noncomputable def extended : FVal → EReal
  | .nan _ => 0
  | .inf n => if n then ⊥ else ⊤
  | .fin n m e => (((signOf n * m * 2 ^ e : ℚ) : ℝ) : EReal)

theorem stands_iff {f : Fmt} {c : Nat} {v : EReal} :
    Stands f c v ↔ isNan (decodeF f c) = false ∧ v = extended (decodeF f c) := by
  unfold Stands
  match hdec : decodeF f c with
  | .nan s => simp [isNan]
  | .inf n => simp [isNan, extended]
  | .fin n m e =>
    simp only [isNan, extended, true_and]
    constructor
    · rintro ⟨x, ⟨n', m', e', hdec', rfl⟩, rfl⟩
      obtain ⟨rfl, rfl, rfl⟩ := FVal.fin.inj (hdec.symm.trans hdec')
      rfl
    · rintro rfl
      exact ⟨_, denotes_of_fin hdec, rfl⟩

/-- Scaling to the lesser exponent keeps the order of finite values. -/
theorem scaled_order (n k : Bool) (m l : Nat) (e g : Int) :
    (scaled (.fin n m e) (min e g) < scaled (.fin k l g) (min e g) ↔
        signOf n * (m : ℚ) * 2 ^ e < signOf k * l * 2 ^ g) ∧
      (scaled (.fin n m e) (min e g) = scaled (.fin k l g) (min e g) ↔
        signOf n * (m : ℚ) * 2 ^ e = signOf k * l * 2 ^ g) := by
  have hpos : (0 : ℚ) < 2 ^ min e g := by positivity
  rw [← scaled_fin n m (min_le_left e g), ← scaled_fin k l (min_le_right e g), mul_lt_mul_iff_left₀ hpos,
    mul_left_inj' hpos.ne', Int.cast_lt, Int.cast_inj]
  exact ⟨Iff.rfl, Iff.rfl⟩

theorem ltF_iff {a b : FVal} (ha : isNan a = false) (hb : isNan b = false) :
    ltF a b = true ↔ extended a < extended b := by
  match a, b with
  | .inf n, .inf k => cases n <;> cases k <;> simp [ltF, extended]
  | .inf n, .fin k l g =>
    simp only [extended]
    generalize ((signOf k * l * 2 ^ g : ℚ) : ℝ) = y
    cases n <;> simp [ltF, EReal.bot_lt_coe]
  | .fin n m e, .inf k =>
    simp only [extended]
    generalize ((signOf n * m * 2 ^ e : ℚ) : ℝ) = x
    cases k <;> simp [ltF, EReal.coe_lt_top]
  | .fin n m e, .fin k l g =>
    rw [extended, extended, EReal.coe_lt_coe_iff, Rat.cast_lt, ← (scaled_order n k m l e g).1]
    exact decide_eq_true_iff

theorem eqF_iff {a b : FVal} (ha : isNan a = false) (hb : isNan b = false) :
    eqF a b = true ↔ extended a = extended b := by
  match a, b with
  | .inf n, .inf k => cases n <;> cases k <;> simp [eqF, extended]
  | .inf n, .fin k l g =>
    simp only [extended]
    generalize ((signOf k * l * 2 ^ g : ℚ) : ℝ) = y
    cases n <;> simp [eqF, (EReal.coe_ne_top y).symm, (EReal.coe_ne_bot y).symm]
  | .fin n m e, .inf k =>
    simp only [extended]
    generalize ((signOf n * m * 2 ^ e : ℚ) : ℝ) = x
    cases k <;> simp [eqF]
  | .fin n m e, .fin k l g =>
    rw [extended, extended, EReal.coe_eq_coe_iff, Rat.cast_inj, ← (scaled_order n k m l e g).2]
    simp [eqF, expOf]

/-- R118: a condition on values that are not NaN. -/
theorem condF_iff {a b : FVal} (ha : isNan a = false) (hb : isNan b = false) {cc : Nat} (hcc : cc ≤ 7) :
    condF cc a b = true ↔ holdsCond cc (extended a) (extended b) := by
  have hlt := ltF_iff ha hb
  have hgt := ltF_iff hb ha
  have heq := eqF_iff ha hb
  match cc, hcc with
  | 0, _ => simp [condF, holdsCond, ha, hb, heq]
  | 1, _ => simp only [condF, holdsCond, ha, hb, Bool.or_self, Bool.false_or, Bool.not_eq_true', ne_eq, ← heq, Bool.not_eq_true]
  | 2, _ => simp [condF, holdsCond, ha, hb, hlt]
  | 3, _ =>
    simp only [condF, holdsCond, ha, hb, Bool.or_self, Bool.not_false, Bool.true_and, Bool.or_eq_true, hgt, heq]
    exact (le_iff_lt_or_eq.trans (or_congr_right eq_comm)).symm
  | 4, _ => simp [condF, holdsCond, ha, hb, hlt, heq, le_iff_lt_or_eq]
  | 5, _ => simp [condF, holdsCond, ha, hb, hgt]
  | 6, _ => simp [condF, holdsCond, ha, hb]
  | 7, _ => simp [condF, holdsCond, ha, hb]

theorem condF_nan {a b : FVal} (h : (isNan a || isNan b) = true) {cc : Nat} (hcc : cc ≤ 7) :
    condF cc a b = decide (cc = 1 ∨ cc = 7) := by
  match cc, hcc with
  | 0, _ | 1, _ | 2, _ | 3, _ | 4, _ | 5, _ | 6, _ | 7, _ => simp [condF, h]

/-! ## Classes (R119) -/

/-- The significand of a code is below the hidden bit exactly for a magnitude below the least normal one. -/
theorem small_iff {f : Fmt} (hf : f.Ok) {c : Nat} {n : Bool} {m : Nat} {e : Int} (h : decodeF f c = .fin n m e) :
    |signOf n * (m : ℚ) * 2 ^ e| < 2 ^ (1 - (f.bias : ℤ)) ↔ m < 2 ^ f.p := by
  have habs : |signOf n * (m : ℚ) * 2 ^ e| = (m : ℚ) * 2 ^ e := by
    rw [mul_assoc, abs_mul, abs_of_nonneg (by positivity : (0 : ℚ) ≤ m * 2 ^ e)]
    cases n <;> norm_num [signOf]
  have hunit (E : ℤ) : (2 : ℚ) ^ E = (2 ^ f.p : Nat) * 2 ^ (E - f.p) := by
    push_cast
    rw [← zpow_natCast, ← zpow_add₀ (by norm_num)]
    congr 1
    omega
  rw [habs]
  rcases Nat.eq_zero_or_pos (c / 2 ^ f.p % 2 ^ f.w) with he | he
  · obtain ⟨-, rfl, rfl⟩ := FVal.fin.inj (h.symm.trans (decodeF_subnormal hf he))
    rw [hunit (1 - f.bias), mul_lt_mul_iff_left₀ (by positivity), Nat.cast_lt]
  · have hfin : decodeF f c = .fin (negative f c) (c % 2 ^ f.p + 2 ^ f.p) ((c / 2 ^ f.p % 2 ^ f.w : Nat) - f.bias - f.p) := by
      unfold decodeF at h ⊢
      simp only [negative_eq] at h ⊢
      split_ifs at h ⊢ with h1 h2 h3
      · omega
      · rfl
    obtain ⟨-, rfl, rfl⟩ := FVal.fin.inj (h.symm.trans hfin)
    refine iff_of_false (not_lt.mpr ?_) (by omega)
    rw [hunit (1 - f.bias)]
    refine mul_le_mul (by exact_mod_cast Nat.le_add_left _ _) ?_ (by positivity) (by positivity)
    exact zpow_le_zpow_right₀ (by norm_num) (by omega)

theorem valuesAreComparedAndClassified {f : Fmt} (hf : f.Ok) (a b : Nat) : ValuesAreComparedAndClassified f a b := by
  refine ⟨fun cc hcc => ⟨fun x y hx hy => ?_, fun h => condF_nan (by simpa using h) hcc⟩, fun n h => ?_, fun n h => ?_, fun x h => ?_⟩
  · obtain ⟨ha, rfl⟩ := stands_iff.mp hx
    obtain ⟨hb, rfl⟩ := stands_iff.mp hy
    exact condF_iff ha hb hcc
  · rw [classBit, h]
  · rw [classBit, h]
  · obtain ⟨m, e, hdec, rfl⟩ := denotes_fin h
    have hsmall := small_iff hf hdec
    rw [classBit, hdec]
    simp only [hsmall, signed_eq_zero]

/-! ## The lesser and the greater (R117) -/

section
variable {f : Fmt} {a b : Nat}

theorem isNeg_decodeF (h : isNan (decodeF f a) = false) : isNeg (decodeF f a) = negative f a := by
  match hdec : decodeF f a with
  | .nan s => rw [hdec] at h; exact absurd h (by simp [isNan])
  | .inf n => exact sign_of_inf hdec
  | .fin n m e => exact sign_of_fin hdec

/-- A value's sign, where it is not zero. -/
theorem negative_of_value {v : EReal} (h : Stands f a v) (h0 : v ≠ 0) : negative f a = decide (v < 0) := by
  obtain ⟨hnan, rfl⟩ := stands_iff.mp h
  match hdec : decodeF f a with
  | .nan s => rw [hdec] at hnan; exact absurd hnan (by simp [isNan])
  | .inf n =>
    rw [← sign_of_inf hdec]
    cases n <;> simp [extended]
  | .fin n m e =>
    rw [← sign_of_fin hdec]
    rw [hdec, extended, ← EReal.coe_zero, Ne, EReal.coe_eq_coe_iff] at h0
    have hm : m ≠ 0 := fun h => h0 (by exact_mod_cast signed_eq_zero.mpr h)
    have hpos : (0 : ℚ) < m * 2 ^ e := by positivity
    have hcast : extended (.fin n m e) < 0 ↔ signOf n * (m * 2 ^ e) < 0 := by
      rw [extended, ← EReal.coe_zero, EReal.coe_lt_coe_iff, ← mul_assoc]
      exact_mod_cast Iff.rfl
    cases n
    · simp only [hcast, signOf, Bool.false_eq_true, if_false, one_mul]
      simp [hpos.le]
    · simp only [hcast, signOf, if_true, neg_mul, one_mul]
      simp [hpos]

theorem minmax_nan (max : Bool) :
    (isNan (decodeF f a) = true → isNan (decodeF f b) = true → (minmaxF f max a b).1 = qnan f) ∧
      (isNan (decodeF f a) = true → isNan (decodeF f b) = false → (minmaxF f max a b).1 = b) ∧
      (isNan (decodeF f a) = false → isNan (decodeF f b) = true → (minmaxF f max a b).1 = a) := by
  refine ⟨fun ha hb => ?_, fun ha hb => ?_, fun ha hb => ?_⟩ <;> simp [minmaxF, ha, hb]

theorem minmax_flags (max : Bool) : (minmaxF f max a b).2 = signals f [a, b] := by
  rw [signals_eq, List.map_cons, List.map_cons, List.map_nil, minmaxF]
  simp only
  split_ifs <;> rfl

/-- Which of two values FMIN and FMAX take. -/
theorem minmax_choice {x y : EReal} (max : Bool) (ha : Stands f a x) (hb : Stands f b y) :
    (minmaxF f max a b).1 =
      if (decide (x < y) || decide (x = y) && negative f a && !negative f b) != max then a else b := by
  obtain ⟨hna, rfl⟩ := stands_iff.mp ha
  obtain ⟨hnb, rfl⟩ := stands_iff.mp hb
  have hlt : ltF (decodeF f a) (decodeF f b) = decide (extended (decodeF f a) < extended (decodeF f b)) := by
    rw [Bool.eq_iff_iff, ltF_iff hna hnb, decide_eq_true_eq]
  have heq : eqF (decodeF f a) (decodeF f b) = decide (extended (decodeF f a) = extended (decodeF f b)) := by
    rw [Bool.eq_iff_iff, eqF_iff hna hnb, decide_eq_true_eq]
  simp only [minmaxF, hna, hnb, Bool.false_and, Bool.false_eq_true, if_false, hlt, heq, isNeg_decodeF hna, isNeg_decodeF hnb]

theorem minmax_value {x y : EReal} (ha : Stands f a x) (hb : Stands f b y) :
    ((valFmin f a b).1 = a ∨ (valFmin f a b).1 = b) ∧ ((valFmax f a b).1 = a ∨ (valFmax f a b).1 = b) ∧
      Stands f (valFmin f a b).1 (min x y) ∧ Stands f (valFmax f a b).1 (max x y) ∧
      (x = y → negative f (valFmin f a b).1 = (negative f a || negative f b) ∧
        negative f (valFmax f a b).1 = (negative f a && negative f b)) := by
  have hsign (h : x = y) (h0 : x ≠ 0) : negative f a = negative f b := by
    rw [negative_of_value ha h0, negative_of_value hb (h ▸ h0), h]
  rw [valFmin, valFmax, minmax_choice false ha hb, minmax_choice true ha hb]
  rcases lt_trichotomy x y with h | h | h
  · simp [h, h.ne, min_eq_left h.le, max_eq_right h.le, ha, hb]
  · subst h
    cases hna : negative f a <;> cases hnb : negative f b <;> simp [ha, hb, hna, hnb]
  · simp [h.not_gt, h.ne', min_eq_right h.le, max_eq_left h.le, ha, hb]

end

/-! ## Products of infinities, and the signs of products and quotients (R116) -/

section
variable {f : Fmt} {q : Nat} {rm a b : Nat}

theorem isNan_of_isInf {x : FVal} (h : isInf x = true) : isNan x = false := by
  cases x <;> simp_all [isInf, isNan]

theorem isNan_of_isZero {x : FVal} (h : isZero x = true) : isNan x = false := by
  cases x <;> simp_all [isZero, isNan]

theorem mulF_inf {x y : FVal} (hx : isNan x = false) (hy : isNan y = false) (h : isInf x = true ∨ isInf y = true) :
    mulF x y = if isZero x || isZero y then (.nan false, fNV) else (.inf (isNeg x != isNeg y), 0) := by
  match x, y with
  | .inf n, .inf k => simp [mulF, isNan]
  | .inf n, .fin k l g => simp [mulF, isNan]
  | .fin n m e, .inf k => simp [mulF, isNan]
  | .fin n m e, .fin k l g => simp [isInf] at h

theorem infinite_product (hf : f.Wide q) (hna : isNan (decodeF f a) = false) (hnb : isNan (decodeF f b) = false)
    (hinf : isInf (decodeF f a) = true ∨ isInf (decodeF f b) = true) :
    (Denotes f a 0 ∨ Denotes f b 0 → valFmul f rm a b = (q, 1)) ∧
      (¬ Denotes f a 0 → ¬ Denotes f b 0 → decodeF f (valFmul f rm a b).1 = .inf (negative f a != negative f b) ∧
        (valFmul f rm a b).2 = 0) := by
  rw [denotes_zero_iff, denotes_zero_iff, valFmul, mulF_inf hna hnb hinf, isNeg_decodeF hna, isNeg_decodeF hnb]
  refine ⟨fun h => ?_, fun ha hb => ?_⟩
  · rw [if_pos (by simpa using h), roundCode_nan hf]
    rfl
  · rw [if_neg (by simp [ha, hb]), roundCode_inf hf.infinities]
    exact ⟨decodeF_signed_infCode hf.infinities _, rfl⟩

theorem isNan_qnan (hf : f.Wide q) : isNan (decodeF f q) = true := by
  have hP := Nat.two_pow_pos f.p
  have hW := Nat.two_pow_pos f.w
  have hhalf : 2 ^ f.p = 2 ^ (f.p - 1) * 2 := by
    rw [← Nat.pow_succ]
    congr 1
    have := hf.sig
    omega
  have hlt : 2 ^ (f.p - 1) < 2 ^ f.p := by
    have := Nat.two_pow_pos (f.p - 1)
    omega
  have hq : q = 2 ^ f.p * (2 ^ f.w - 1) + 2 ^ (f.p - 1) := by
    simp only [← hf.quiet, qnan, hf.infinities, Nat.mul_comm]
  have he : q / 2 ^ f.p % 2 ^ f.w = 2 ^ f.w - 1 := by
    rw [hq, Nat.mul_add_div hP, Nat.div_eq_of_lt hlt, Nat.add_zero, Nat.mod_eq_of_lt (Nat.sub_lt hW Nat.one_pos)]
  have hm : q % 2 ^ f.p = 2 ^ (f.p - 1) := by rw [hq, Nat.mul_add_mod, Nat.mod_eq_of_lt hlt]
  rw [decodeF_nan he hf.infinities (by rw [hm]; exact (Nat.two_pow_pos _).ne')]
  rfl

theorem isNan_cases (x : FVal) : isNan x = true ∨ (isInf x = true ∧ isNan x = false) ∨ ∃ n m e, x = .fin n m e := by
  match x with
  | .nan s => exact .inl rfl
  | .inf n => exact .inr (.inl ⟨rfl, rfl⟩)
  | .fin n m e => exact .inr (.inr ⟨n, m, e, rfl⟩)

theorem negative_signed_infCode (n : Bool) : negative f (signCode f n + infCode f) = n := (signed_code n infCode_lt).2

theorem negative_product (hf : f.Wide q) (hnan : isNan (decodeF f (valFmul f rm a b).1) = false)
    (hna : isNan (decodeF f a) = false) (hnb : isNan (decodeF f b) = false) :
    negative f (valFmul f rm a b).1 = (negative f a != negative f b) := by
  by_cases hinf : isInf (decodeF f a) = true ∨ isInf (decodeF f b) = true
  · rw [valFmul, mulF_inf hna hnb hinf, isNeg_decodeF hna, isNeg_decodeF hnb] at hnan ⊢
    by_cases hz : (isZero (decodeF f a) || isZero (decodeF f b)) = true
    · rw [if_pos hz, roundCode_nan hf, isNan_qnan hf] at hnan
      exact absurd hnan (by decide)
    · rw [if_neg hz, roundCode_inf hf.infinities, negative_signed_infCode]
  · obtain ⟨ha, hb⟩ := not_or.mp hinf
    obtain ⟨n, m, e, hda⟩ := ((isNan_cases _).resolve_left (by simp [hna])).resolve_left fun h => ha h.1
    obtain ⟨k, l, g, hdb⟩ := ((isNan_cases _).resolve_left (by simp [hnb])).resolve_left fun h => hb h.1
    rw [valFmul, hda, hdb, (mulF_fin n k m l e g).1, negative_roundCode hf.toOk, sign_of_fin hda, sign_of_fin hdb]

theorem negative_signCode (hf : f.Ok) (n : Bool) : negative f (signCode f n) = n := (denotes_signCode hf n).2

theorem negative_quotient (hf : f.Wide q) (hnan : isNan (decodeF f (valFdiv f rm a b).1) = false)
    (hna : isNan (decodeF f a) = false) (hnb : isNan (decodeF f b) = false) :
    negative f (valFdiv f rm a b).1 = (negative f a != negative f b) := by
  rw [← isNeg_decodeF hna, ← isNeg_decodeF hnb]
  rw [valFdiv] at hnan ⊢
  have hq := isNan_qnan hf
  generalize decodeF f a = x at *
  generalize decodeF f b = y at *
  match x, y with
  | .inf n, .inf k => simp [show divF (.inf n) (.inf k) = (.nan false, fNV) from rfl, roundCode_nan hf, hq] at hnan
  | .inf n, .fin k l g => simp [divF, isNan, isNeg, roundCode_inf hf.infinities, negative_signed_infCode]
  | .fin n m e, .inf k => simp [divF, isNan, isNeg, roundCode_zero, negative_signCode hf.toOk]
  | .fin n m e, .fin k l g =>
    by_cases hl : l = 0
    · by_cases hm : m = 0
      · simp [hl, hm, show divF (.fin n 0 e) (.fin k 0 g) = (.nan false, fNV) from rfl, roundCode_nan hf, hq] at hnan
      · simp [divF, isNan, isNeg, hl, hm, roundCode_inf hf.infinities, negative_signed_infCode]
    · by_cases hm : m = 0
      · simp [divF, isNan, isNeg, hl, hm, roundCode_zero, negative_signCode hf.toOk]
      · simp [divF, isNan, isNeg, hl, hm, roundCode_flagless, (correct_ratio hf rm (n != k) e g hm hl).2]

theorem twoOperandsGiveTheirValue (hf : f.Wide q) (rm a b : Nat) : TwoOperandsGiveTheirValue f q rm a b := by
  have hboth (h : (isNan (decodeF f a) || isNan (decodeF f b)) = false) :
      isNan (decodeF f a) = false ∧ isNan (decodeF f b) = false := by simpa using h
  refine ⟨fun h => ?_, fun n k => two_infinite hf, fun n y => first_infinite hf, fun n x => second_infinite hf,
    fun x y ha hb => ?_, fun h => infinite_product hf (hboth h).1 (hboth h).2,
    fun hnan h => negative_product hf hnan (hboth h).1 (hboth h).2,
    fun hnan h => negative_quotient hf hnan (hboth h).1 (hboth h).2, fun ha hb => ?_, fun ha hb => ?_, fun ha hb => ?_,
    minmax_flags false, minmax_flags true, fun x y => minmax_value⟩
  · obtain ⟨hadd, hsub, hmul, hdiv⟩ := two_nan (rm := rm) hf h
    rw [hadd, hsub, hmul, hdiv]
    exact ⟨rfl, rfl, rfl, rfl⟩
  · obtain ⟨hdiv, hpole, hzero⟩ := finite_quotient (rm := rm) hf ha hb
    exact ⟨(finite_sum hf.toOk ha hb).2, (finite_difference hf.toOk ha hb).2,
      fun h => by exact_mod_cast hdiv h, hpole, hzero⟩
  · rw [← hf.quiet]
    exact ⟨(minmax_nan false).1 ha hb, (minmax_nan true).1 ha hb⟩
  · exact ⟨(minmax_nan false).2.1 ha hb, (minmax_nan true).2.1 ha hb⟩
  · exact ⟨(minmax_nan false).2.2 ha hb, (minmax_nan true).2.2 ha hb⟩

/-! ## Fused products (R116) -/

theorem fused_nan (hf : f.Wide q) {c : Nat}
    (h : isNan (decodeF f a) = true ∨ isNan (decodeF f b) = true ∨ isNan (decodeF f c) = true) :
    valFfma f rm a b c = (q, signals f [a, b, c]) := by
  have hnan : (isNan (decodeF f a) || isNan (decodeF f b) || isNan (decodeF f c)) = true := by simpa [or_assoc] using h
  rw [valFfma, fmaF, if_pos hnan, roundCode_nan hf, signals_eq]
  rfl

theorem fused_invalid (hf : f.Wide q) {c : Nat} (hc : isNan (decodeF f c) = false)
    (h : (isInf (decodeF f a) = true ∧ Denotes f b 0) ∨ (Denotes f a 0 ∧ isInf (decodeF f b) = true)) :
    valFfma f rm a b c = (q, 1) := by
  rw [denotes_zero_iff, denotes_zero_iff] at h
  have hmul : isNan (decodeF f a) = false ∧ isNan (decodeF f b) = false ∧ mulF (decodeF f a) (decodeF f b) = (.nan false, fNV) := by
    rcases h with ⟨hi, hz⟩ | ⟨hz, hi⟩
    · refine ⟨isNan_of_isInf hi, isNan_of_isZero hz, ?_⟩
      rw [mulF_inf (isNan_of_isInf hi) (isNan_of_isZero hz) (.inl hi), hz, Bool.or_true, if_pos rfl]
    · refine ⟨isNan_of_isZero hz, isNan_of_isInf hi, ?_⟩
      rw [mulF_inf (isNan_of_isZero hz) (isNan_of_isInf hi) (.inr hi), hz, Bool.true_or, if_pos rfl]
  obtain ⟨ha, hb, hmul⟩ := hmul
  rw [valFfma, fmaF, ha, hb, hc, hmul]
  exact roundCode_nan hf rm false fNV

end

end Sys2Proof.Machine
end

section
/-! Roots, the exponential and the logarithm (R116, log 11): what their fixed-point computations keep to. -/

namespace Sys2Proof.Machine

/- Proofs one after another: side by side, each takes the stack of a thread, and those of the whole text reach the
memory limit of the check. -/
set_option Elab.async false
open Sys2Proof.Claims

/-! ## The integer square root -/

/-- Newton's step does not fall below the root, and above it halves the distance. -/
theorem newton_step {n x : Nat} (hx : Nat.sqrt n ≤ x) (hpos : 0 < x) :
    Nat.sqrt n ≤ (x + n / x) / 2 ∧ (Nat.sqrt n < x → (x + n / x) / 2 ≤ (x + Nat.sqrt n) / 2) := by
  have hle : Nat.sqrt n * Nat.sqrt n ≤ n := Nat.sqrt_le n
  have hlt : n < (Nat.sqrt n + 1) * (Nat.sqrt n + 1) := Nat.lt_succ_sqrt n
  generalize Nat.sqrt n = s at *
  constructor
  · have hquot : 2 * s - x ≤ n / x := by
      rw [Nat.le_div_iff_mul_le hpos]
      refine le_trans ?_ hle
      rcases Nat.lt_or_ge (2 * s) x with h | h
      · simp [Nat.sub_eq_zero_of_le h.le]
      · obtain ⟨d, rfl⟩ := Nat.exists_eq_add_of_le hx
        have : 2 * s - (s + d) = s - d := by omega
        rw [this]
        obtain ⟨t, ht⟩ : ∃ t, s = t + d := ⟨s - d, by omega⟩
        rw [ht, Nat.add_sub_cancel]
        nlinarith
    omega
  · intro h
    have hquot : n / x ≤ s := by
      rw [← Nat.lt_succ_iff, Nat.div_lt_iff_lt_mul hpos]
      exact hlt.trans_le (Nat.mul_le_mul_left _ h)
    omega

theorem isqrtFrom_eq {n : Nat} (hn : n ≠ 0) (fuel x : Nat) (hx : Nat.sqrt n ≤ x) (hfuel : x - Nat.sqrt n < 2 ^ fuel) :
    isqrtFrom fuel n x = Nat.sqrt n := by
  induction fuel generalizing x with
  | zero =>
    rw [isqrtFrom]
    rw [Nat.pow_zero] at hfuel
    omega
  | succ k ih =>
    have hpos : 0 < x := lt_of_lt_of_le (Nat.sqrt_pos.mpr (Nat.pos_of_ne_zero hn)) hx
    obtain ⟨hge, hhalf⟩ := newton_step hx hpos
    rw [isqrtFrom]
    rw [Nat.pow_succ] at hfuel
    split
    · next hlt => exact ih _ hge (by have := hhalf (hge.trans_lt hlt); omega)
    · next hlt =>
      by_contra hne
      have := hhalf (lt_of_le_of_ne hx fun h => hne h.symm)
      omega

theorem isqrt_eq (n : Nat) : isqrt n = Nat.sqrt n := by
  rw [isqrt]
  split
  · next h => rw [h, Nat.sqrt_zero]
  · next h =>
    have hlt := bitLen_pow n
    have hstart : Nat.sqrt n ≤ 2 ^ (bitLen n / 2 + 1) := by
      refine (Nat.sqrt_lt'.mpr ?_).le
      rw [← Nat.pow_mul]
      exact hlt.trans_le (Nat.pow_le_pow_right (by decide) (by omega))
    have hpow : 2 ^ (bitLen n / 2 + 1) < 2 ^ (bitLen n + 8) := Nat.pow_lt_pow_right (by decide) (by omega)
    exact isqrtFrom_eq h _ _ hstart (by omega)

theorem isqrt_bounds (n : Nat) : isqrt n * isqrt n ≤ n ∧ n < (isqrt n + 1) * (isqrt n + 1) := by
  rw [isqrt_eq]
  exact ⟨Nat.sqrt_le n, Nat.lt_succ_sqrt n⟩

theorem two_pow_le_isqrt {n k : Nat} (h : 2 ^ (2 * k) ≤ n) : 2 ^ k ≤ isqrt n := by
  rw [isqrt_eq, Nat.le_sqrt', ← Nat.pow_mul, Nat.mul_comm]
  exact h

/-! ## Roots (R116) -/

section
variable {f : Fmt} {q : Nat}

/-- An even exponent is a square's. -/
theorem sqrt_mul_even (x : ℝ) {g h : Int} (hg : g = h + h) : Real.sqrt (x * 2 ^ g) = Real.sqrt x * 2 ^ h := by
  rw [hg, zpow_add₀ (by norm_num), Real.sqrt_mul' _ (by positivity), Real.sqrt_mul_self (by positivity)]

/-- An integer root of a real radicand, with a record of whether it is the root. -/
theorem approximates_root {b r : Nat} {h : Int} {ρ : ℝ} {sticky : Bool} (hb : 2 ^ b ≤ 2 * r) (hlo : (r : ℝ) * r ≤ ρ)
    (hhi : ρ < ((r : ℝ) + 1) * (r + 1)) (hs : sticky = true ↔ (r : ℝ) * r ≠ ρ) :
    Approximates b (2 * r + (if sticky then 1 else 0)) (h - 1) (Real.sqrt ρ * 2 ^ h) := by
  have hr : (0 : ℝ) ≤ r := Nat.cast_nonneg r
  have hρ : 0 ≤ ρ := (mul_nonneg hr hr).trans hlo
  refine approximates_jam hb ?_
  cases sticky
  · have heq : (r : ℝ) * r = ρ := not_not.mp fun h => Bool.false_ne_true (hs.mpr h)
    rw [if_neg Bool.false_ne_true, ← heq, Real.sqrt_mul_self hr]
  · have hlt : (r : ℝ) * r < ρ := lt_of_le_of_ne hlo (hs.mp rfl)
    rw [if_pos rfl]
    constructor
    · exact mul_lt_mul_of_pos_right (Real.lt_sqrt_of_sq_lt (by rwa [sq])) (by positivity)
    · exact mul_lt_mul_of_pos_right ((Real.sqrt_lt' (by positivity)).mpr (by rwa [sq])) (by positivity)

/-- The radicand that FSQRT takes the integer root of. -/
theorem rootF_radicand (m : Nat) (e : Int) (hm : m ≠ 0) : ∃ (n : Nat) (h : Int),
    rootF m e = jam false (isqrt n) h (isqrt n * isqrt n != n) ∧ 2 ^ (2 * 64) ≤ n ∧
      (m : ℝ) * 2 ^ e = n * 2 ^ (h + h) := by
  have hbig (k : Nat) (hk : k ≠ 0) : 2 ^ (2 * 64) ≤ k * 2 ^ 128 := Nat.le_mul_of_pos_left _ (Nat.pos_of_ne_zero hk)
  have hval (k : Nat) (t h : Int) (ht : h + h = t - 128) : (k : ℝ) * 2 ^ t = (k * 2 ^ 128 : Nat) * 2 ^ (h + h) := by
    rw [ht, zpow_sub₀ (by norm_num)]
    push_cast
    field_simp
    norm_num
  by_cases hodd : e % 2 ≠ 0
  · refine ⟨2 * m * 2 ^ 128, (e - 1 - 128) / 2, by simp [rootF, hodd], hbig _ (by omega), ?_⟩
    rw [← hval _ (e - 1) _ (by omega), zpow_sub_one₀ (by norm_num)]
    push_cast
    ring
  · exact ⟨m * 2 ^ 128, (e - 128) / 2, by simp [rootF, hodd], hbig m hm, hval m e _ (by omega)⟩

theorem correct_rootF (hf : f.Wide q) (rm : Nat) {m : Nat} (e : Int) (hm : m ≠ 0) :
    Correct f rm (Real.sqrt (m * 2 ^ e)) (roundF f (rootF m e) rm) := by
  have hnarrow := hf.narrow
  obtain ⟨n, h, hroot, hbig, hval⟩ := rootF_radicand m e hm
  obtain ⟨hlo, hhi⟩ := isqrt_bounds n
  have hr : 2 ^ (f.p + 2) ≤ 2 * isqrt n := by
    have hpow : 2 ^ (f.p + 2) ≤ 2 ^ 64 := Nat.pow_le_pow_right (by decide) (by omega)
    have := two_pow_le_isqrt hbig
    omega
  have happ : Approximates (f.p + 2) _ _ (Real.sqrt n * 2 ^ h) :=
    approximates_root (h := h) (sticky := isqrt n * isqrt n != n) hr
      (by exact_mod_cast hlo) (by exact_mod_cast hhi) (by rw [bne_iff_ne]; exact_mod_cast Iff.rfl)
  have hcor := correct_roundF hf.toOk rm false happ
  rw [hroot, hval, sqrt_mul_even _ rfl]
  simpa [signOf, jam] using hcor

/-- The radicand that FRSQ takes the integer root of. -/
theorem rsqF_radicand (m : Nat) (e : Int) (hm : m ≠ 0) : ∃ (l k : Nat) (h : Int), l ≠ 0 ∧ k = 96 + bitLen l ∧
    rsqF (.fin false m e) = (jam false (isqrt (2 ^ (2 * k) / l)) h (isqrt (2 ^ (2 * k) / l) * isqrt (2 ^ (2 * k) / l) * l != 2 ^ (2 * k)), 0) ∧
      1 / ((m : ℝ) * 2 ^ e) = 2 ^ (2 * k) / l * 2 ^ (h + h) := by
  have hval (l k : Nat) (t h : Int) (hl : l ≠ 0) (ht : h + h = -(2 * k : Nat) - t) :
      1 / ((l : ℝ) * 2 ^ t) = 2 ^ (2 * k) / l * 2 ^ (h + h) := by
    have hl' : (l : ℝ) ≠ 0 := Nat.cast_ne_zero.mpr hl
    rw [ht, zpow_sub₀ (by norm_num), zpow_neg, zpow_natCast]
    field_simp
  by_cases hodd : e % 2 ≠ 0
  · refine ⟨2 * m, _, -(96 + bitLen (2 * m) : Nat) - (e - 1) / 2, by omega, rfl, by simp [rsqF, hodd, hm], ?_⟩
    rw [← hval _ _ (e - 1) _ (by omega) (by push_cast; omega), zpow_sub_one₀ (by norm_num)]
    push_cast
    congr 1
    ring
  · exact ⟨m, _, -(96 + bitLen m : Nat) - e / 2, hm, rfl, by simp [rsqF, hodd, hm],
      hval m _ e _ hm (by push_cast; omega)⟩

theorem correct_rsqF (hf : f.Wide q) (rm : Nat) {m : Nat} (e : Int) (hm : m ≠ 0) :
    Correct f rm (1 / Real.sqrt (m * 2 ^ e)) (roundCode f rm (rsqF (.fin false m e))) := by
  have hnarrow := hf.narrow
  obtain ⟨l, k, h, hl, hk, hroot, hval⟩ := rsqF_radicand m e hm
  obtain ⟨hlo, hhi⟩ := isqrt_bounds (2 ^ (2 * k) / l)
  have hlpos : (0 : ℝ) < l := by exact_mod_cast Nat.pos_of_ne_zero hl
  have hbig : 2 ^ (2 * 96) ≤ 2 ^ (2 * k) / l := by
    rw [Nat.le_div_iff_mul_le (Nat.pos_of_ne_zero hl)]
    calc 2 ^ (2 * 96) * l ≤ 2 ^ (2 * 96) * 2 ^ bitLen l := Nat.mul_le_mul_left _ (bitLen_pow l).le
      _ ≤ 2 ^ (2 * k) := by rw [← Nat.pow_add]; exact Nat.pow_le_pow_right (by decide) (by omega)
  have hroots := two_pow_le_isqrt hbig
  generalize isqrt (2 ^ (2 * k) / l) = r at *
  have hr : 2 ^ (f.p + 2) ≤ 2 * r := by
    have hpow : 2 ^ (f.p + 2) ≤ 2 ^ 96 := Nat.pow_le_pow_right (by decide) (by omega)
    omega
  have hlo' : (r : ℝ) * r ≤ 2 ^ (2 * k) / l := by
    rw [le_div_iff₀ hlpos]
    exact_mod_cast (Nat.le_div_iff_mul_le (Nat.pos_of_ne_zero hl)).mp hlo
  have hhi' : (2 : ℝ) ^ (2 * k) / l < ((r : ℝ) + 1) * (r + 1) := by
    rw [div_lt_iff₀ hlpos]
    exact_mod_cast (Nat.div_lt_iff_lt_mul (Nat.pos_of_ne_zero hl)).mp hhi
  have happ : Approximates (f.p + 2) _ _ (Real.sqrt (2 ^ (2 * k) / l) * 2 ^ h) :=
    approximates_root (h := h) (sticky := r * r * l != 2 ^ (2 * k)) hr hlo' hhi'
      (by rw [bne_iff_ne, Ne, Ne, eq_div_iff hlpos.ne']; exact_mod_cast Iff.rfl)
  have hcor := correct_roundF hf.toOk rm false happ
  rw [hroot, roundCode_flagless, ← Real.sqrt_one, ← Real.sqrt_div (by norm_num), hval, sqrt_mul_even _ rfl]
  simpa [signOf, jam] using hcor

end

/-! ## Results known to be inexact, and those below half the least magnitude -/

/-- A value with a record of a part cut off, and bits enough above it, is never of the format. -/
theorem inexact_of_odd {f : Fmt} (hf : f.Ok) {mag : Nat} (e : Int) (rm : Nat) (neg : Bool) (hodd : mag % 2 = 1)
    (hb : 2 ^ (f.p + 2) ≤ mag) : (roundF f (.fin neg mag e) rm).2.testBit 4 = true := by
  have hmag : mag ≠ 0 := by omega
  have hpos : (0 : ℝ) < 2 ^ e := by positivity
  have hnear : Approximates (f.p + 2) mag e (((mag : ℝ) + 1 / 2) * 2 ^ e) :=
    .inr ⟨hodd, hb, mul_lt_mul_of_pos_right (by linarith) hpos, mul_lt_mul_of_pos_right (by linarith) hpos⟩
  refine (roundF_fin hf rm neg (.inl rfl) hmag).inexact (roundF_fin hf rm neg hnear hmag) fun h => ?_
  have := mul_right_cancel₀ hpos.ne' h
  linarith

/-- All magnitudes below half the least one round alike. -/
theorem RoundsTo.tiny {f : Fmt} {rm : Nat} {neg : Bool} {X Y : ℝ} {r : Nat × Nat} (h : RoundsTo f rm neg X r) (hX : 0 < X)
    (hX1 : 2 * X < codeMag f 1) (hY : 0 < Y) (hY1 : 2 * Y < codeMag f 1) : RoundsTo f rm neg Y r := by
  have hbetween {Z : ℝ} (hZ : 0 < Z) (hZ1 : 2 * Z < codeMag f 1) : Between f Z 0 := by
    refine ⟨by rw [codeMag_zero, Rat.cast_zero]; exact hZ.le, ?_⟩
    rw [Nat.zero_add]
    linarith
  have hcode {Z : ℝ} (hZ : 0 < Z) (hZ1 : 2 * Z < codeMag f 1) :
      roundedCode f rm neg Z 0 = if roundUp rm neg false 0 then 1 else 0 := by
    have hhalf : halfOf Z (codeMag f 0) (codeMag f (0 + 1)) = 0 := by
      rw [halfOf, if_pos (by rw [codeMag_zero, Rat.cast_zero]; simpa using hZ1)]
    rw [roundedCode, codeUp, goesUp, hhalf, codeMag_zero, Rat.cast_zero]
    simp [hZ.ne']
  obtain ⟨c, hc, hflags⟩ := h.flags
  obtain rfl : c = 0 := hc.unique (hbetween hX hX1)
  refine ⟨h.code, h.none, 0, hbetween hY hY1, ?_⟩
  rw [hcode hX hX1] at hflags
  rw [hcode hY hY1]
  refine hflags.imp_right fun ⟨hle, hr, hof, hnx⟩ => ⟨hle, hr, hof, hnx.trans ?_⟩
  rw [codeMag_zero, Rat.cast_zero]
  exact iff_of_false hX.ne' hY.ne'

theorem codeMag_one {f : Fmt} (hf : f.Ok) : (codeMag f 1 : ℝ) = 2 ^ (1 - f.bias - f.p : ℤ) := by
  have hone : 1 < 2 ^ f.p := Nat.one_lt_two_pow (by have := hf.sig; omega)
  rw [codeMag, codeUnits, Nat.div_eq_of_lt hone, if_pos rfl, Nat.mod_eq_of_lt hone]
  push_cast
  ring

/-- The infinities of a format of arithmetic stand where 2 to the exponent of their codes would. -/
theorem codeMag_infCode {f : Fmt} {q : Nat} (hf : f.Wide q) :
    (codeMag f (largestCode f + 1) : ℝ) = 2 ^ ((2 ^ f.w - 2 : Nat) + 1 - f.bias : ℤ) := by
  have hw : 2 ^ 1 ≤ 2 ^ f.w := Nat.pow_le_pow_right (by decide) hf.exp
  have hP := Nat.two_pow_pos f.p
  have hcode : largestCode f + 1 = (2 ^ f.w - 2) * 2 ^ f.p + 2 ^ f.p := by
    have hpos : 0 < (2 ^ f.w - 1) * 2 ^ f.p := Nat.mul_pos (by omega) hP
    have hsucc : 2 ^ f.w - 1 = 2 ^ f.w - 2 + 1 := by omega
    simp only [largestCode, hf.infinities]
    rw [Nat.sub_add_cancel hpos, hsucc, Nat.succ_mul]
  rw [hcode, codeMag_row rfl (.inr le_rfl) (by rw [Nat.pow_succ]; omega), Nat.cast_pow, Nat.cast_ofNat, ← zpow_natCast,
    ← zpow_add₀ (by norm_num)]
  congr 1
  ring

/-- The significand and the exponent of a finite code. -/
theorem decodeF_bounds {f : Fmt} {c : Nat} {n : Bool} {m : Nat} {e : Int} (h : decodeF f c = .fin n m e) :
    m < 2 ^ (f.p + 1) ∧ (1 - f.bias - f.p : ℤ) ≤ e := by
  have hm : c % 2 ^ f.p < 2 ^ f.p := Nat.mod_lt _ (Nat.two_pow_pos _)
  rw [Nat.pow_succ]
  unfold decodeF at h
  dsimp only at h
  split_ifs at h with h1 h2 h3 h4
  · obtain ⟨-, rfl, rfl⟩ := FVal.fin.inj h
    exact ⟨by omega, le_rfl⟩
  · obtain ⟨-, rfl, rfl⟩ := FVal.fin.inj h
    exact ⟨by omega, by omega⟩

/-! ## The product of roots of two (log 11) -/

/-- The exponent that a list of fraction bits stands for, the first of them worth `u / 2`. -/
noncomputable def bitsValue (u : ℝ) : List Bool → ℝ
  | [] => 0
  | b :: t => (if b then u / 2 else 0) + bitsValue (u / 2) t

theorem fracBits_succ (x n : Nat) : fracBits x (n + 1) = (x / 2 ^ n % 2 == 1) :: fracBits x n := by
  simp only [fracBits, List.range_succ_eq_map, List.map_cons, List.map_map, Nat.add_sub_cancel, Nat.sub_zero]
  congr 1
  refine List.map_congr_left fun i hi => ?_
  simp only [Function.comp_apply]
  rw [show n - (i + 1) = n - 1 - i by omega]

theorem bitsValue_fracBits (x n : Nat) (u : ℝ) : bitsValue u (fracBits x n) = u * ((x % 2 ^ n : Nat) / 2 ^ n) := by
  induction n generalizing u with
  | zero => simp [fracBits, bitsValue, Nat.mod_one]
  | succ n ih =>
    have hmod : x % 2 ^ (n + 1) = x % 2 ^ n + 2 ^ n * (x / 2 ^ n % 2) := Nat.mod_pow_succ
    have hbit : x / 2 ^ n % 2 = 0 ∨ x / 2 ^ n % 2 = 1 := Nat.mod_two_eq_zero_or_one _
    rw [fracBits_succ, bitsValue, ih, hmod, pow_succ]
    push_cast
    rcases hbit with h | h
    · simp [h]
      field_simp
    · simp [h]
      field_simp
      ring

theorem two_rpow_half (u : ℝ) : (2 : ℝ) ^ (u / 2) * 2 ^ (u / 2) = 2 ^ u := by
  rw [← Real.rpow_add (by norm_num), add_halves]

theorem one_le_two_rpow {u : ℝ} (h : 0 ≤ u) : (1 : ℝ) ≤ 2 ^ u := Real.one_le_rpow (by norm_num) h

theorem bitsValue_nonneg {u : ℝ} (h : 0 ≤ u) (bits : List Bool) : 0 ≤ bitsValue u bits := by
  induction bits generalizing u with
  | nil => exact le_rfl
  | cons b t ih =>
    have := ih (u := u / 2) (by linarith)
    rw [bitsValue]
    split <;> linarith

/-- Each root is at most 3 units below the true one. -/
theorem root_step {T : Nat} (hT : 4 ≤ T) {u : ℝ} (hu : 0 ≤ u) {root : Nat} (hlo : T * (2 : ℝ) ^ u - 3 ≤ root)
    (hhi : (root : ℝ) ≤ T * 2 ^ u) :
    T * (2 : ℝ) ^ (u / 2) - 3 ≤ isqrt (root * T) ∧ ((isqrt (root * T) : Nat) : ℝ) ≤ T * 2 ^ (u / 2) := by
  obtain ⟨hle, hlt⟩ := isqrt_bounds (root * T)
  generalize isqrt (root * T) = r at *
  have hle' : (r : ℝ) * r ≤ root * T := by exact_mod_cast hle
  have hlt' : (root : ℝ) * T < (r + 1) * (r + 1) := by exact_mod_cast hlt
  have hT' : (4 : ℝ) ≤ T := by exact_mod_cast hT
  have hone := one_le_two_rpow (u := u / 2) (by linarith)
  have hsq : (T * (2 : ℝ) ^ (u / 2)) * (T * 2 ^ (u / 2)) = (T * 2 ^ u) * T := by
    rw [← two_rpow_half u]
    ring
  have hbig : (T : ℝ) ≤ T * 2 ^ (u / 2) := le_mul_of_one_le_right (by linarith) hone
  generalize (T : ℝ) * 2 ^ (u / 2) = S at *
  have hr : (0 : ℝ) ≤ r := Nat.cast_nonneg r
  constructor
  · by_contra hcon
    have hcon' : (r : ℝ) + 1 < S - 2 := by linarith
    nlinarith
  · nlinarith

/-- The product of the roots for the bits that are set lies below the true power by at most 4 units for each bit. -/
theorem exp2Bits_bounds (bits : List Bool) {u A δ : ℝ} {root acc : Nat} (hu : 0 ≤ u) (hδ : 0 ≤ δ)
    (hroot : 2 ^ tBits * (2 : ℝ) ^ u - 3 ≤ root ∧ (root : ℝ) ≤ 2 ^ tBits * 2 ^ u) (hA : 2 ^ tBits ≤ A)
    (hacc : A * (1 - δ) ≤ acc ∧ (acc : ℝ) ≤ A) :
    A * 2 ^ bitsValue u bits * (1 - δ - 4 * bits.length / 2 ^ tBits) ≤ exp2Bits bits root acc ∧
      (exp2Bits bits root acc : ℝ) ≤ A * 2 ^ bitsValue u bits := by
  induction bits generalizing u A δ root acc with
  | nil => simpa [bitsValue, exp2Bits] using hacc
  | cons b t ih =>
    have hT : (4 : ℝ) ≤ 2 ^ tBits := by norm_num [tBits]
    have hA0 : 0 ≤ A := by linarith
    have hTcast : ((2 ^ tBits : Nat) : ℝ) = 2 ^ tBits := by push_cast; rfl
    have hstep := root_step (T := 2 ^ tBits) (root := root) (by decide) hu (by rw [hTcast]; exact hroot.1) (by rw [hTcast]; exact hroot.2)
    rw [hTcast] at hstep
    rw [exp2Bits, bitsValue, List.length_cons]
    generalize isqrt (root * 2 ^ tBits) = r at *
    obtain ⟨hrlo, hrhi⟩ := hstep
    have hone := one_le_two_rpow (u := u / 2) (by linarith)
    cases b
    · have hi := ih (u := u / 2) (by linarith) hδ ⟨hrlo, hrhi⟩ hA hacc
      have hpos := bitsValue_nonneg (u := u / 2) (by linarith) t
      rw [if_neg Bool.false_ne_true, if_neg Bool.false_ne_true, zero_add]
      refine ⟨le_trans (mul_le_mul_of_nonneg_left ?_ (by positivity)) hi.1, hi.2⟩
      push_cast
      have : (4 : ℝ) * t.length / 2 ^ tBits ≤ 4 * (t.length + 1) / 2 ^ tBits := by gcongr; linarith
      linarith
    · have hdiv := Nat.div_add_mod (acc * r) (2 ^ tBits)
      have hmod := Nat.mod_lt (acc * r) (Nat.two_pow_pos tBits)
      have hdiv' : (2 ^ tBits : ℝ) * (acc * r / 2 ^ tBits : Nat) + (acc * r % 2 ^ tBits : Nat) = acc * r := by exact_mod_cast hdiv
      have hmod' : ((acc * r % 2 ^ tBits : Nat) : ℝ) < 2 ^ tBits := by exact_mod_cast hmod
      have hmod0 : (0 : ℝ) ≤ (acc * r % 2 ^ tBits : Nat) := Nat.cast_nonneg _
      generalize acc * r / 2 ^ tBits = acc' at *
      generalize ((acc * r % 2 ^ tBits : Nat) : ℝ) = ρ at *
      have hacc0 : (0 : ℝ) ≤ acc := Nat.cast_nonneg acc
      have hA' : 2 ^ tBits ≤ A * 2 ^ (u / 2) := hA.trans (le_mul_of_one_le_right (by linarith) hone)
      have hnew : A * 2 ^ (u / 2) * (1 - (δ + 4 / 2 ^ tBits)) ≤ acc' ∧ (acc' : ℝ) ≤ A * 2 ^ (u / 2) := by
        have hTpos : (0 : ℝ) < 2 ^ tBits := by positivity
        have hAA : A ≤ A * 2 ^ (u / 2) := le_mul_of_one_le_right (by linarith) hone
        have hS : A * (2 ^ tBits * 2 ^ (u / 2)) = 2 ^ tBits * (A * 2 ^ (u / 2)) := by ring
        have hS0 : (0 : ℝ) ≤ 2 ^ tBits * 2 ^ (u / 2) := by positivity
        constructor
        · refine le_of_mul_le_mul_left ?_ hTpos
          have h1 : acc * (2 ^ tBits * 2 ^ (u / 2) - 3) ≤ (acc : ℝ) * r := mul_le_mul_of_nonneg_left hrlo hacc0
          have h2 : A * (1 - δ) * (2 ^ tBits * 2 ^ (u / 2)) ≤ acc * (2 ^ tBits * 2 ^ (u / 2)) :=
            mul_le_mul_of_nonneg_right hacc.1 hS0
          have h3 : (2 : ℝ) ^ tBits * (A * 2 ^ (u / 2) * (1 - (δ + 4 / 2 ^ tBits))) =
              A * (1 - δ) * (2 ^ tBits * 2 ^ (u / 2)) - 4 * (A * 2 ^ (u / 2)) := by field_simp; ring
          linarith
        · refine le_of_mul_le_mul_left ?_ hTpos
          have h1 : (acc : ℝ) * r ≤ A * (2 ^ tBits * 2 ^ (u / 2)) := mul_le_mul hacc.2 hrhi (Nat.cast_nonneg r) (by linarith)
          linarith
      have hi := ih (u := u / 2) (δ := δ + 4 / 2 ^ tBits) (by linarith) (by positivity) ⟨hrlo, hrhi⟩ hA' hnew
      rw [if_pos rfl, if_pos rfl, Real.rpow_add (by norm_num), ← mul_assoc]
      refine ⟨le_trans (le_of_eq ?_) hi.1, hi.2⟩
      push_cast
      ring

/-! ## The exponential (R116, log 11) -/

/-- An argument as an integer over a power of two. -/
theorem exp2_argument (neg : Bool) (m : Nat) (e : Int) :
    signOf neg * (m : ℚ) * 2 ^ e =
      (((if neg then -1 else 1) * ((m * 2 ^ (max 0 e).toNat : Nat) : Int) : Int) : ℚ) / 2 ^ (max 0 (-e)).toNat := by
  have hpow : (2 : ℚ) ^ e = 2 ^ (max 0 e).toNat / 2 ^ (max 0 (-e)).toNat := by
    rw [← zpow_natCast, ← zpow_natCast, ← zpow_sub₀ (by norm_num)]
    congr 1
    omega
  rw [hpow]
  cases neg
  · simp [signOf]
    ring
  · simp [signOf]
    ring

/-- The integer and the fraction of an argument, and what FEXP2 makes of them. -/
theorem exp2Fin_parts (neg : Bool) {m : Nat} {e : Int} (hlo : -150 ≤ (bitLen m : Int) - 1 + e) (hhi : (bitLen m : Int) - 1 + e < 20) :
    ∃ (i : Int) (t k : Nat), k < 2 ^ t ∧ (t : Int) ≤ max 0 (-e) ∧ signOf neg * (m : ℚ) * 2 ^ e = i + (k : ℚ) / 2 ^ t ∧
      exp2Fin neg m e = if k = 0 then .fin false 1 i
        else jam false (exp2Bits (fracBits k t) (2 ^ (tBits + 1)) (2 ^ tBits)) (i - tBits) true := by
  have harg := exp2_argument neg m e
  have hdef : exp2Fin neg m e =
      let t := (max 0 (-e)).toNat
      let v : Int := (if neg then -1 else 1) * ((m * 2 ^ (max 0 e).toNat : Nat) : Int)
      if (v % (2 ^ t : Nat)).toNat = 0 then .fin false 1 (v / (2 ^ t : Nat))
        else jam false (exp2Bits (fracBits (v % (2 ^ t : Nat)).toNat t) (2 ^ (tBits + 1)) (2 ^ tBits)) (v / (2 ^ t : Nat) - tBits) true := by
    rw [exp2Fin]
    simp only [ge_iff_le, not_le.mpr hhi, not_lt.mpr hlo, if_false]
  dsimp only at hdef
  generalize (if neg then -1 else 1) * ((m * 2 ^ (max 0 e).toNat : Nat) : Int) = v at *
  obtain ⟨t, ht⟩ : ∃ t, t = (max 0 (-e)).toNat := ⟨_, rfl⟩
  rw [← ht] at harg hdef
  have hpos : (0 : Int) < (2 ^ t : Nat) := by exact_mod_cast Nat.two_pow_pos t
  have hmod0 := Int.emod_nonneg v hpos.ne'
  have hmodlt := Int.emod_lt_of_pos v hpos
  have hdiv := Int.mul_ediv_add_emod v (2 ^ t : Nat)
  refine ⟨v / (2 ^ t : Nat), t, (v % (2 ^ t : Nat)).toNat, by omega, by omega, ?_, hdef⟩
  have hk : (((v % (2 ^ t : Nat)).toNat : Nat) : ℚ) = ((v % (2 ^ t : Nat) : Int) : ℚ) := by
    rw [← Int.cast_natCast, Int.toNat_of_nonneg hmod0]
  have hv : (v : ℚ) = 2 ^ t * ((v / (2 ^ t : Nat) : Int) : ℚ) + ((v % (2 ^ t : Nat) : Int) : ℚ) := by
    exact_mod_cast hdiv.symm
  rw [harg, hk, eq_comm, ← sub_eq_zero]
  field_simp
  rw [hv]
  ring

/-- The fraction is zero exactly for an integer argument. -/
theorem fraction_zero_iff {x : ℚ} {i : Int} {t k : Nat} (hk : k < 2 ^ t) (hx : x = i + (k : ℚ) / 2 ^ t) :
    (∃ z : ℤ, x = z) ↔ k = 0 := by
  have hpos : (0 : ℚ) < 2 ^ t := by positivity
  constructor
  · rintro ⟨z, rfl⟩
    have hz : ((z - i : ℤ) : ℚ) = (k : ℚ) / 2 ^ t := by push_cast; linarith
    have hlt : (k : ℚ) / 2 ^ t < 1 := by
      rw [div_lt_one hpos]
      exact_mod_cast hk
    have h0 : (0 : ℚ) ≤ (k : ℚ) / 2 ^ t := by positivity
    have h1 : z - i < 1 := by exact_mod_cast hz.trans_lt hlt
    have h2 : 0 ≤ z - i := by exact_mod_cast h0.trans_eq hz.symm
    have hzero : z - i = 0 := by omega
    rw [hzero, Int.cast_zero, eq_comm, div_eq_zero_iff] at hz
    exact_mod_cast hz.resolve_right hpos.ne'
  · rintro rfl
    exact ⟨i, by rw [hx]; simp⟩

theorem two_rpow_parts {x : ℚ} {i : Int} {t k : Nat} (hx : x = i + (k : ℚ) / 2 ^ t) :
    (2 : ℝ) ^ (x : ℝ) = 2 ^ i * 2 ^ ((k : ℝ) / 2 ^ t) := by
  rw [hx]
  push_cast
  rw [Real.rpow_add (by norm_num), Real.rpow_intCast]

/-- The product of roots is close to the power of two of the fraction. -/
theorem exp2Bits_close {t k : Nat} (hk : k < 2 ^ t) (ht : t ≤ 2 ^ 16) :
    |(exp2Bits (fracBits k t) (2 ^ (tBits + 1)) (2 ^ tBits) : ℝ) + 1 / 2 - 2 ^ tBits * 2 ^ ((k : ℝ) / 2 ^ t)| ≤
      2 ^ tBits * 2 ^ ((k : ℝ) / 2 ^ t) / 2 ^ 100 := by
  have hone := one_le_two_rpow (u := (k : ℝ) / 2 ^ t) (by positivity)
  have hbounds := exp2Bits_bounds (fracBits k t) (u := 1) (A := 2 ^ tBits) (δ := 0) (root := 2 ^ (tBits + 1))
    (acc := 2 ^ tBits) zero_le_one le_rfl (by norm_num [tBits]) le_rfl (by norm_num [tBits])
  rw [bitsValue_fracBits, Nat.mod_eq_of_lt hk, one_mul] at hbounds
  have hlen : (fracBits k t).length = t := by simp [fracBits]
  rw [hlen] at hbounds
  have ht' : (t : ℝ) ≤ 2 ^ 16 := by exact_mod_cast ht
  obtain ⟨hlo, hhi⟩ := hbounds
  have hbig : (2 : ℝ) ^ tBits ≤ 2 ^ tBits * 2 ^ ((k : ℝ) / 2 ^ t) := le_mul_of_one_le_right (by positivity) hone
  generalize (exp2Bits (fracBits k t) (2 ^ (tBits + 1)) (2 ^ tBits) : ℝ) = acc at *
  generalize (2 : ℝ) ^ tBits * 2 ^ ((k : ℝ) / 2 ^ t) = B at *
  have hB : (2 : ℝ) ^ 192 ≤ B := hbig
  have hsmall : B * (4 * t / 2 ^ tBits) ≤ B * (1 / 2 ^ 101) := by
    refine mul_le_mul_of_nonneg_left ?_ (by linarith [show (0 : ℝ) < 2 ^ 192 by positivity])
    rw [div_le_div_iff₀ (by positivity) (by positivity)]
    norm_num [tBits]
    linarith
  rw [abs_le]
  constructor
  · linarith
  · have : (1 : ℝ) / 2 ≤ B / 2 ^ 100 := by
      rw [div_le_div_iff₀ (by norm_num) (by positivity)]
      norm_num at hB ⊢
      linarith
    linarith

section
variable {f : Fmt} {q : Nat}

theorem abs_signed (n : Bool) (m : Nat) (e : Int) : |((signOf n * m * 2 ^ e : ℚ) : ℝ)| = (m : ℝ) * 2 ^ e := by
  push_cast
  rw [mul_assoc, abs_mul, abs_signOf, one_mul, abs_of_nonneg (by positivity)]

/-- The leading bit of a finite value. -/
theorem abs_top (n : Bool) {m : Nat} (e : Int) (hm : m ≠ 0) :
    (2 : ℝ) ^ ((bitLen m : Int) - 1 + e) ≤ |((signOf n * m * 2 ^ e : ℚ) : ℝ)| ∧
      |((signOf n * m * 2 ^ e : ℚ) : ℝ)| < (2 : ℝ) ^ ((bitLen m : Int) - 1 + e + 1) := by
  rw [abs_signed]
  exact (Approximates.top (b := 1) (.inl rfl)) le_rfl hm

theorem two_zpow_le {i j : Int} (h : i ≤ j) : (2 : ℝ) ^ i ≤ 2 ^ j := zpow_le_zpow_right₀ (by norm_num) h

theorem exp2Fin_large {neg : Bool} {m : Nat} {e : Int} (h : 20 ≤ (bitLen m : Int) - 1 + e) :
    exp2Fin neg m e = .fin false 3 ((if neg then -5000 else 5000) - 1) := by
  rw [exp2Fin]
  simp [h, jam]

/-- An argument of 2^20 or more overflows. -/
theorem exp_overflows (hf : f.Wide q) (rm : Nat) :
    (roundF f (.fin false 3 (5000 - 1)) rm).2.testBit 2 = true := by
  refine ((roundF_fin hf.toOk rm false (.inl rfl) (by decide)).overflow ?_).1
  obtain ⟨hw, -⟩ := hf.range
  have hpow : 2 ^ f.w ≤ 2 ^ 11 := Nat.pow_le_pow_right (by decide) hw
  rw [codeMag_infCode hf]
  calc (2 : ℝ) ^ (((2 ^ f.w - 2 : Nat) : ℤ) + 1 - f.bias) ≤ 2 ^ (5000 - 1 : ℤ) := two_zpow_le (by omega)
    _ ≤ (3 : Nat) * 2 ^ (5000 - 1 : ℤ) := le_mul_of_one_le_left (by positivity) (by norm_num)

/-- An argument of -2^20 or less gives what every value below half the least magnitude gives. -/
theorem exp_vanishes (hf : f.Wide q) (rm : Nat) {x : ℝ} (hx : x ≤ -2 ^ 20) :
    Correct f rm ((2 : ℝ) ^ x) (roundF f (.fin false 3 (-5000 - 1)) rm) := by
  obtain ⟨-, hbias⟩ := hf.range
  have hp := hf.narrow
  have hleast : (2 : ℝ) ^ (-1074 : ℤ) ≤ codeMag f 1 := by
    rw [codeMag_one hf.toOk]
    exact two_zpow_le (by omega)
  have hsmall : (2 : ℝ) ^ x ≤ 2 ^ (-2000 : ℤ) := by
    rw [← Real.rpow_intCast]
    exact Real.rpow_le_rpow_of_exponent_le (by norm_num) (by push_cast; linarith)
  have hlt : (2 : ℝ) * 2 ^ (-2000 : ℤ) < 2 ^ (-1074 : ℤ) := by
    rw [mul_comm, ← zpow_add_one₀ (by norm_num)]
    exact zpow_lt_zpow_right₀ (by norm_num) (by norm_num)
  have hlt' : (2 : ℝ) * ((3 : Nat) * 2 ^ (-5000 - 1 : ℤ)) < 2 ^ (-1074 : ℤ) := by
    calc (2 : ℝ) * ((3 : Nat) * 2 ^ (-5000 - 1 : ℤ)) ≤ 2 ^ (3 : ℤ) * 2 ^ (-5000 - 1 : ℤ) := by
          rw [← mul_assoc]
          exact mul_le_mul_of_nonneg_right (by norm_num) (by positivity)
      _ < 2 ^ (-1074 : ℤ) := by
          rw [← zpow_add₀ (by norm_num)]
          exact zpow_lt_zpow_right₀ (by norm_num) (by norm_num)
  have hround := (roundF_fin (X := (3 : Nat) * 2 ^ (-5000 - 1 : ℤ)) hf.toOk rm false (.inl rfl) (by decide)).tiny
    (by positivity) (hlt'.trans_le hleast) (Y := 2 ^ x) (by positivity) (by linarith)
  have hcor := hround.correct hf.toOk (by positivity)
  simpa [signOf] using hcor

/-- Near zero the power of two is near 1. -/
theorem two_rpow_near_one {x : ℝ} (h : |x| ≤ 1 / 2) : |(2 : ℝ) ^ x - 1| ≤ 2 * |x| := by
  have hlog0 : 0 < Real.log 2 := Real.log_pos (by norm_num)
  have hlog1 : Real.log 2 ≤ 1 := by
    have := Real.log_two_lt_d9
    linarith
  have hexp : (2 : ℝ) ^ x = Real.exp (Real.log 2 * x) := Real.rpow_def_of_pos (by norm_num) x
  have hsmall : |Real.log 2 * x| ≤ |x| := by
    rw [abs_mul, abs_of_pos hlog0]
    exact mul_le_of_le_one_left (abs_nonneg x) hlog1
  rw [hexp]
  have := Real.abs_exp_sub_one_le (x := Real.log 2 * x) (by linarith)
  linarith

theorem exp2Fin_tiny {neg : Bool} {m : Nat} {e : Int} (h : (bitLen m : Int) - 1 + e < -150) :
    ∃ k : Nat, exp2Fin neg m e = .fin false (2 * k + 1) (-192 - 1) ∧ 2 ^ 190 ≤ k ∧
      |((2 * k + 1 : Nat) : ℝ) * 2 ^ (-192 - 1 : ℤ) - 1| ≤ 1 / 2 ^ 192 := by
  have hlt : ¬ 20 ≤ (bitLen m : Int) - 1 + e := by omega
  rw [exp2Fin]
  cases neg
  · refine ⟨2 ^ 192, by simp [hlt, h, jam], by norm_num, ?_⟩
    norm_num [abs_le]
  · refine ⟨2 ^ 192 - 1, by simp [hlt, h, jam], by norm_num, ?_⟩
    norm_num [abs_le]

end

section
variable {f : Fmt} {q : Nat} {rm a : Nat}

theorem valFexp2_fin {n : Bool} {m : Nat} {e : Int} (h : decodeF f a = .fin n m e) (hm : m ≠ 0) :
    valFexp2 f rm a = roundF f (exp2Fin n m e) rm := by
  rw [valFexp2, h, exp2F]
  simp [hm, roundCode_flagless]

/-- An argument that is an integer, or far below zero, has its power of two rounded. -/
theorem exp_integer (hf : f.Wide q) {x : ℚ} (ha : Denotes f a x) (hx : (∃ z : ℤ, x = z) ∨ x ≤ -2 ^ 20) :
    Correct f rm ((2 : ℝ) ^ (x : ℝ)) (valFexp2 f rm a) := by
  have hpower (i : Int) : Correct f rm ((2 : ℝ) ^ i) (roundF f (.fin false 1 i) rm) := by
    have := correct_exact (rm := rm) hf.toOk (x := 2 ^ i) (n := false) (m := 1) (e := i) (by simp [signOf])
    rwa [roundCode_flagless, Rat.cast_zpow, Rat.cast_ofNat] at this
  obtain ⟨m, e, hdec, rfl⟩ := denotes_fin ha
  generalize negative f a = n at *
  rcases eq_or_ne m 0 with rfl | hm
  · have := hpower 0
    rw [valFexp2, hdec, exp2F]
    simpa [roundCode_flagless] using this
  obtain ⟨htop, htop1⟩ := abs_top n e hm
  rw [valFexp2_fin hdec hm]
  rcases le_or_gt 20 ((bitLen m : Int) - 1 + e) with h20 | h20
  · rw [exp2Fin_large h20]
    cases n
    · exact fun hof => absurd (hof.symm.trans (exp_overflows hf rm)) (by decide)
    · refine exp_vanishes hf rm ?_
      have hbig : (2 : ℝ) ^ 20 ≤ 2 ^ ((bitLen m : Int) - 1 + e) := by exact_mod_cast two_zpow_le h20
      rw [abs_signed] at htop
      push_cast
      rw [signOf, if_pos rfl]
      push_cast
      linarith
  · have hlt20 : |((signOf n * m * 2 ^ e : ℚ) : ℝ)| < 2 ^ 20 := by
      refine htop1.trans_le ?_
      exact_mod_cast two_zpow_le (by omega : (bitLen m : Int) - 1 + e + 1 ≤ 20)
    obtain ⟨z, hz⟩ : ∃ z : ℤ, signOf n * (m : ℚ) * 2 ^ e = z := by
      refine hx.resolve_right fun hle => ?_
      have : ((signOf n * m * 2 ^ e : ℚ) : ℝ) ≤ -2 ^ 20 := by exact_mod_cast hle
      rw [abs_lt] at hlt20
      linarith
    rcases lt_or_ge ((bitLen m : Int) - 1 + e) (-150) with h150 | h150
    · have hzlt : |(z : ℝ)| < 1 := by
        have hle := two_zpow_le (by omega : (bitLen m : Int) - 1 + e + 1 ≤ 0)
        rw [hz] at htop1
        rw [zpow_zero] at hle
        exact_mod_cast htop1.trans_le hle
      have hz0 : z = 0 := Int.abs_lt_one_iff.mp (by exact_mod_cast hzlt)
      rw [hz0, Int.cast_zero, signed_eq_zero] at hz
      exact absurd hz hm
    · obtain ⟨i, t, k, hk, -, hval, heq⟩ := exp2Fin_parts n h150 h20
      have hk0 := (fraction_zero_iff hk hval).mp ⟨z, hz⟩
      rw [heq, if_pos hk0, two_rpow_parts hval, hk0]
      simpa using hpower i

/-- Any other argument has a value within 2^-100 of its power of two rounded, and the result is inexact. -/
theorem exp_fraction (hf : f.Wide q) {x : ℚ} (ha : Denotes f a x) (hx : ∀ z : ℤ, x ≠ z) (hlt : |x| < 2 ^ 20) :
    (valFexp2 f rm a).2.testBit 4 = true ∧ ∃ y : ℝ, |y - (2 : ℝ) ^ (x : ℝ)| ≤ (2 : ℝ) ^ (x : ℝ) / 2 ^ 100 ∧
      Correct f rm y (valFexp2 f rm a) := by
  have hnarrow := hf.narrow
  obtain ⟨-, hbias⟩ := hf.range
  obtain ⟨m, e, hdec, rfl⟩ := denotes_fin ha
  obtain ⟨-, he⟩ := decodeF_bounds hdec
  generalize negative f a = n at *
  have hm : m ≠ 0 := fun h => hx 0 (by rw [Int.cast_zero]; exact signed_eq_zero.mpr h)
  obtain ⟨htop, htop1⟩ := abs_top n e hm
  rw [valFexp2_fin hdec hm]
  have hodd {k : Nat} (E : Int) (hk : 2 ^ 60 ≤ k) : (roundF f (.fin false (2 * k + 1) E) rm).2.testBit 4 = true :=
    inexact_of_odd hf.toOk E rm false (by omega)
      ((Nat.pow_le_pow_right (by decide) (by omega : f.p + 2 ≤ 60)).trans (by omega))
  have hcor (k : Nat) (E : Int) : Correct f rm (((2 * k + 1 : Nat) : ℝ) * 2 ^ E) (roundF f (.fin false (2 * k + 1) E) rm) := by
    have := correct_roundF hf.toOk rm false (.inl rfl : Approximates (f.p + 2) (2 * k + 1) E _)
    simpa [signOf] using this
  have h20 : (bitLen m : Int) - 1 + e < 20 := by
    have hlt' : |((signOf n * m * 2 ^ e : ℚ) : ℝ)| < (2 : ℝ) ^ (20 : ℤ) := by exact_mod_cast hlt
    exact (zpow_lt_zpow_iff_right₀ (by norm_num)).mp (htop.trans_lt hlt')
  rcases lt_or_ge ((bitLen m : Int) - 1 + e) (-150) with h150 | h150
  · obtain ⟨k, heq, hk, hnear⟩ := exp2Fin_tiny (neg := n) h150
    rw [heq]
    refine ⟨hodd _ (le_trans (by norm_num) hk), _, ?_, hcor k _⟩
    have hxlt : |((signOf n * m * 2 ^ e : ℚ) : ℝ)| < 1 / 2 ^ 150 := by
      have hle := two_zpow_le (by omega : (bitLen m : Int) - 1 + e + 1 ≤ -150)
      rw [one_div, ← zpow_natCast, ← zpow_neg]
      exact htop1.trans_le hle
    generalize ((signOf n * m * 2 ^ e : ℚ) : ℝ) = x at *
    have hhalf : (1 : ℝ) / 2 ^ 150 ≤ 1 / 2 := by norm_num
    have hone := two_rpow_near_one (hxlt.le.trans hhalf)
    have hpow : (1 : ℝ) / 2 ≤ 2 ^ x := by
      have := (abs_le.mp hone).1
      have : (1 : ℝ) / 2 ^ 150 ≤ 1 / 4 := by norm_num
      linarith
    have hsum : |((2 * k + 1 : Nat) : ℝ) * 2 ^ (-192 - 1 : ℤ) - 2 ^ x| ≤
        |((2 * k + 1 : Nat) : ℝ) * 2 ^ (-192 - 1 : ℤ) - 1| + |2 ^ x - 1| := by
      rw [abs_sub_comm (2 ^ x) 1]
      exact abs_sub_le _ _ _
    have hbound : (1 : ℝ) / 2 ^ 192 + 2 * (1 / 2 ^ 150) ≤ 1 / 2 / 2 ^ 100 := by norm_num
    have hscaled : (1 : ℝ) / 2 / 2 ^ 100 ≤ 2 ^ x / 2 ^ 100 := div_le_div_of_nonneg_right hpow (by positivity)
    have hdouble : 2 * |x| ≤ 2 * (1 / 2 ^ 150) := mul_le_mul_of_nonneg_left hxlt.le zero_le_two
    exact hsum.trans ((add_le_add hnear (hone.trans hdouble)).trans (hbound.trans hscaled))
  · obtain ⟨i, t, k, hk, ht, hval, heq⟩ := exp2Fin_parts n h150 h20
    have hk0 : k ≠ 0 := fun h => by
      obtain ⟨z, hz⟩ := (fraction_zero_iff hk hval).mpr h
      exact hx z hz
    have ht' : t ≤ 2 ^ 16 := by omega
    have hclose := exp2Bits_close hk ht'
    have hone := one_le_two_rpow (u := (k : ℝ) / 2 ^ t) (by positivity)
    rw [heq, if_neg hk0, jam, if_pos rfl]
    generalize exp2Bits (fracBits k t) (2 ^ (tBits + 1)) (2 ^ tBits) = acc at *
    refine ⟨hodd _ ?_, _, ?_, hcor acc _⟩
    · have hge : (2 : ℝ) ^ 60 ≤ acc := by
        have hlow := (abs_le.mp hclose).1
        have hbig : (2 : ℝ) ^ tBits ≤ 2 ^ tBits * 2 ^ ((k : ℝ) / 2 ^ t) := le_mul_of_one_le_right (by positivity) hone
        generalize (2 : ℝ) ^ tBits * 2 ^ ((k : ℝ) / 2 ^ t) = B at *
        have hB : (2 : ℝ) ^ 64 ≤ B := le_trans (by norm_num [tBits]) hbig
        have hpart : B / 2 ^ 100 ≤ B / 2 := div_le_div_of_nonneg_left (le_trans (by norm_num) hB) zero_lt_two (by norm_num)
        have h60 : (2 : ℝ) ^ 60 ≤ 2 ^ 64 / 2 - 1 / 2 := by norm_num
        linarith only [hlow, hpart, hB, h60]
      exact_mod_cast hge
    · have hsplit : (2 : ℝ) ^ (i - tBits - 1 : ℤ) = 2 ^ i / 2 ^ tBits / 2 := by
        rw [zpow_sub_one₀ (by norm_num), zpow_sub₀ (by norm_num), zpow_natCast, div_eq_mul_inv _ (2 : ℝ)]
      have hi : (0 : ℝ) < 2 ^ i / 2 ^ tBits := by positivity
      rw [two_rpow_parts hval, hsplit]
      have hleft : ((2 * acc + 1 : Nat) : ℝ) * (2 ^ i / 2 ^ tBits / 2) - 2 ^ i * 2 ^ ((k : ℝ) / 2 ^ t) =
          2 ^ i / 2 ^ tBits * ((acc : ℝ) + 1 / 2 - 2 ^ tBits * 2 ^ ((k : ℝ) / 2 ^ t)) := by
        push_cast
        field_simp
      have hright : (2 : ℝ) ^ i * 2 ^ ((k : ℝ) / 2 ^ t) / 2 ^ 100 =
          2 ^ i / 2 ^ tBits * (2 ^ tBits * 2 ^ ((k : ℝ) / 2 ^ t) / 2 ^ 100) := by
        field_simp
      rw [hleft, hright, abs_mul, abs_of_pos hi]
      exact mul_le_mul_of_nonneg_left hclose hi.le

/-- From 2^20 on the result overflows. -/
theorem exp_large (hf : f.Wide q) {x : ℚ} (ha : Denotes f a x) (hx : 2 ^ 20 ≤ x) : (valFexp2 f rm a).2.testBit 2 = true := by
  obtain ⟨m, e, hdec, rfl⟩ := denotes_fin ha
  generalize negative f a = n at *
  have hm : m ≠ 0 := fun h => by
    rw [signed_eq_zero.mpr h] at hx
    norm_num at hx
  obtain ⟨htop, htop1⟩ := abs_top n e hm
  have hge : (2 : ℝ) ^ (20 : ℤ) ≤ ((signOf n * m * 2 ^ e : ℚ) : ℝ) := by exact_mod_cast hx
  have h20 : 20 ≤ (bitLen m : Int) - 1 + e := by
    have := (zpow_lt_zpow_iff_right₀ (by norm_num)).mp ((hge.trans (le_abs_self _)).trans_lt htop1)
    omega
  have hn : n = false := by
    cases n
    · rfl
    · have hneg : signOf true * (m : ℚ) * 2 ^ e ≤ 0 := by
        rw [signOf, if_pos rfl, mul_assoc, neg_one_mul, neg_nonpos]
        positivity
      have := hx.trans hneg
      norm_num at this
  rw [valFexp2_fin hdec hm, exp2Fin_large h20, hn]
  exact exp_overflows hf rm

end

/-! ## The logarithm, bit by bit (R116, log 11) -/

/-- The logarithm of an integer part. -/
theorem logb_floor {w : Nat} {v : ℝ} (hw : 2 ^ 201 ≤ w) (hlo : (w : ℝ) ≤ v) (hhi : v < w + 1) :
    Real.logb 2 w ≤ Real.logb 2 v ∧ Real.logb 2 v ≤ Real.logb 2 w + 1 / 2 ^ 200 := by
  have hw' : (2 : ℝ) ^ 201 ≤ w := by exact_mod_cast hw
  have hpos : (0 : ℝ) < w := lt_of_lt_of_le (by positivity) hw'
  refine ⟨Real.logb_le_logb_of_le (by norm_num) hpos hlo, ?_⟩
  have hratio : Real.log v ≤ Real.log w + 1 / 2 ^ 201 := by
    have hv : v ≤ w * (1 + 1 / w) := by
      rw [mul_add, mul_one, mul_one_div_cancel hpos.ne']
      exact hhi.le
    have hlog1 : Real.log (1 + 1 / w) ≤ 1 / w := by
      have := Real.log_le_sub_one_of_pos (x := 1 + 1 / (w : ℝ)) (by positivity)
      linarith
    have hinv : (1 : ℝ) / w ≤ 1 / 2 ^ 201 := one_div_le_one_div_of_le (by positivity) hw'
    calc Real.log v ≤ Real.log (w * (1 + 1 / w)) := Real.log_le_log (hpos.trans_le hlo) hv
      _ = Real.log w + Real.log (1 + 1 / w) := Real.log_mul hpos.ne' (by positivity)
      _ ≤ Real.log w + 1 / 2 ^ 201 := by linarith
  have hlog2 : (1 : ℝ) / 2 ≤ Real.log 2 := by
    have := Real.log_two_gt_d9
    linarith
  rw [Real.logb, Real.logb, div_le_iff₀ (by linarith), add_mul, div_mul_cancel₀ _ (by linarith)]
  have : (1 : ℝ) / 2 ^ 201 ≤ 1 / 2 ^ 200 * Real.log 2 := by
    calc (1 : ℝ) / 2 ^ 201 = 1 / 2 ^ 200 * (1 / 2) := by norm_num
      _ ≤ 1 / 2 ^ 200 * Real.log 2 := mul_le_mul_of_nonneg_left hlog2 (by positivity)
  linarith

/-- The logarithm of a fixed-point number between 1 and 2. -/
noncomputable def fixedLog (x : Nat) : ℝ := Real.logb 2 x - 320

theorem fixedLog_bounds {x : Nat} (hx : 2 ^ 320 ≤ x ∧ x < 2 ^ 321) : 0 ≤ fixedLog x ∧ fixedLog x < 1 := by
  have hlo : (2 : ℝ) ^ (320 : ℝ) ≤ x := by
    rw [show (320 : ℝ) = ((320 : Nat) : ℝ) by norm_num, Real.rpow_natCast]
    exact_mod_cast hx.1
  have hhi : (x : ℝ) < (2 : ℝ) ^ (321 : ℝ) := by
    rw [show (321 : ℝ) = ((321 : Nat) : ℝ) by norm_num, Real.rpow_natCast]
    exact_mod_cast hx.2
  have hpos : (0 : ℝ) < x := lt_of_lt_of_le (by positivity) hlo
  have h1 := (Real.le_logb_iff_rpow_le (by norm_num) hpos).mpr hlo
  have h2 := (Real.logb_lt_iff_lt_rpow (by norm_num) hpos).mpr hhi
  unfold fixedLog
  constructor <;> linarith

/-- One squaring gives the next bit of the logarithm. -/
theorem log2_step {x : Nat} (hx : 2 ^ 320 ≤ x ∧ x < 2 ^ 321) :
    let y := x * x / 2 ^ 320
    let b : Nat := if y ≥ 2 ^ 321 then 1 else 0
    let x' := if y ≥ 2 ^ 321 then y / 2 else y
    (2 ^ 320 ≤ x' ∧ x' < 2 ^ 321) ∧ 0 ≤ 2 * fixedLog x - b - fixedLog x' ∧
      2 * fixedLog x - b - fixedLog x' ≤ 1 / 2 ^ 200 := by
  intro y b x'
  have hlo : 2 ^ 320 * 2 ^ 320 ≤ x * x := Nat.mul_le_mul hx.1 hx.1
  have hhi : x * x < 2 ^ 321 * 2 ^ 321 := Nat.mul_lt_mul'' hx.2 hx.2
  have hy1 : 2 ^ 320 ≤ y := (Nat.le_div_iff_mul_le (by positivity)).mpr hlo
  have hdouble : 2 ^ 321 = 2 * 2 ^ 320 := by omega
  have hy2 : y < 2 ^ 321 * 2 := (Nat.div_lt_iff_lt_mul (by positivity)).mpr (hhi.trans_eq (by rw [Nat.mul_assoc, ← hdouble]))
  have hdiv := Nat.div_add_mod (x * x) (2 ^ 320)
  have hmod := Nat.mod_lt (x * x) (show 0 < 2 ^ 320 by positivity)
  have hlow : (y : ℝ) ≤ (x : ℝ) * x / 2 ^ 320 := by
    rw [le_div_iff₀ (by positivity)]
    exact_mod_cast Nat.div_mul_le_self (x * x) (2 ^ 320)
  have hhigh : (x : ℝ) * x / 2 ^ 320 < y + 1 := by
    rw [div_lt_iff₀ (by positivity)]
    exact_mod_cast Nat.lt_succ_iff.mpr le_rfl |>.trans_le (Nat.lt_mul_of_div_lt (Nat.lt_succ_self y) (by positivity))
  have hxpos : (0 : ℝ) < x := by
    have : 0 < x := lt_of_lt_of_le (by positivity) hx.1
    exact_mod_cast this
  have hlog : Real.logb 2 ((x : ℝ) * x / 2 ^ 320) = 2 * Real.logb 2 x - 320 := by
    rw [Real.logb_div (by positivity) (by positivity), Real.logb_mul hxpos.ne' hxpos.ne', Real.logb_pow, Real.logb_self_eq_one (by norm_num)]
    push_cast
    ring
  by_cases hbit : y ≥ 2 ^ 321
  · have hb : b = 1 := if_pos hbit
    have hx' : x' = y / 2 := if_pos hbit
    rw [hb, hx']
    have hlow' : ((y / 2 : Nat) : ℝ) ≤ (x : ℝ) * x / 2 ^ 320 / 2 :=
      Nat.cast_div_le.trans (div_le_div_of_nonneg_right hlow zero_le_two)
    have hhigh' : (x : ℝ) * x / 2 ^ 320 / 2 < (y / 2 : Nat) + 1 := by
      have : (y : ℝ) + 1 ≤ ((y / 2 : Nat) + 1) * 2 := by exact_mod_cast (by omega : y + 1 ≤ (y / 2 + 1) * 2)
      exact (div_lt_iff₀ zero_lt_two).mpr (hhigh.trans_le this)
    obtain ⟨h1, h2⟩ := logb_floor (le_trans (Nat.pow_le_pow_right (by decide) (by decide : 201 ≤ 320))
      (by omega : 2 ^ 320 ≤ y / 2)) hlow' hhigh'
    rw [Real.logb_div (by positivity) (by norm_num), hlog, Real.logb_self_eq_one (by norm_num)] at h1 h2
    unfold fixedLog
    refine ⟨by omega, ?_, ?_⟩ <;> push_cast <;> linarith
  · have hb : b = 0 := if_neg hbit
    have hx' : x' = y := if_neg hbit
    rw [hb, hx']
    obtain ⟨h1, h2⟩ := logb_floor (le_trans (Nat.pow_le_pow_right (by decide) (by decide)) hy1) hlow hhigh
    rw [hlog] at h1 h2
    unfold fixedLog
    refine ⟨by omega, ?_, ?_⟩ <;> push_cast <;> linarith

/-- The bits of the logarithm fall short of it by less than one unit and the error of the squarings. -/
theorem log2Bits_bounds (n : Nat) {x : Nat} (acc : Nat) (hx : 2 ^ 320 ≤ x ∧ x < 2 ^ 321) :
    0 ≤ (acc + fixedLog x) * 2 ^ n - log2Bits n x acc ∧
      (acc + fixedLog x) * 2 ^ n - log2Bits n x acc ≤ 1 + (2 ^ n - 1) / 2 ^ 200 := by
  induction n generalizing x acc with
  | zero =>
    obtain ⟨h0, h1⟩ := fixedLog_bounds hx
    rw [log2Bits]
    constructor <;> norm_num <;> linarith
  | succ n ih =>
    obtain ⟨hx', hlo, hhi⟩ := log2_step hx
    have hstep : log2Bits (n + 1) x acc = log2Bits n (if x * x / 2 ^ 320 ≥ 2 ^ 321 then x * x / 2 ^ 320 / 2 else x * x / 2 ^ 320)
        (2 * acc + if x * x / 2 ^ 320 ≥ 2 ^ 321 then 1 else 0) := by
      rw [log2Bits]
      split <;> rfl
    rw [hstep]
    obtain ⟨ih1, ih2⟩ := ih (2 * acc + if x * x / 2 ^ 320 ≥ 2 ^ 321 then 1 else 0) hx'
    generalize (if x * x / 2 ^ 320 ≥ 2 ^ 321 then x * x / 2 ^ 320 / 2 else x * x / 2 ^ 320) = x' at *
    generalize (if x * x / 2 ^ 320 ≥ 2 ^ 321 then 1 else 0) = b at *
    generalize (log2Bits n x' (2 * acc + b) : ℝ) = r at *
    push_cast at ih1 ih2
    have hpos : (0 : ℝ) < 2 ^ n := by positivity
    have hsplit : (acc + fixedLog x) * 2 ^ (n + 1) - r =
        ((2 * acc + b + fixedLog x') * 2 ^ n - r) + (2 * fixedLog x - b - fixedLog x') * 2 ^ n := by
      rw [pow_succ]
      ring
    rw [hsplit]
    have hm := mul_nonneg hlo hpos.le
    have hm' := mul_le_mul_of_nonneg_right hhi hpos.le
    refine ⟨by linarith, ?_⟩
    have hsum : (1 : ℝ) + (2 ^ n - 1) / 2 ^ 200 + 1 / 2 ^ 200 * 2 ^ n = 1 + (2 ^ (n + 1) - 1) / 2 ^ 200 := by
      rw [pow_succ]
      ring
    linarith

/-- The logarithm of a significand that is not a power of two keeps away from 0 and 1. -/
theorem logb_significand {m n : Nat} (hlo : 2 ^ n < m) (hhi : m < 2 ^ (n + 1)) (hn : n ≤ 52) :
    1 / 2 ^ 53 ≤ Real.logb 2 ((m : ℝ) / 2 ^ n) ∧ Real.logb 2 ((m : ℝ) / 2 ^ n) ≤ 1 - 1 / 2 ^ 53 := by
  have hP : (0 : ℝ) < 2 ^ n := by positivity
  have hPn : (2 : ℝ) ^ n ≤ 2 ^ 52 := pow_le_pow_right₀ (by norm_num) hn
  have hlo' : (2 : ℝ) ^ n + 1 ≤ m := by exact_mod_cast hlo
  have hhi' : (m : ℝ) + 1 ≤ 2 * 2 ^ n := by exact_mod_cast (by rw [Nat.pow_succ] at hhi; omega : m + 1 ≤ 2 * 2 ^ n)
  have hlog0 : 0 < Real.log 2 := Real.log_pos (by norm_num)
  have hlog1 : Real.log 2 ≤ 1 := by
    have := Real.log_two_lt_d9
    linarith
  generalize (2 : ℝ) ^ n = P at *
  have hm : (0 : ℝ) < m := by linarith
  constructor
  · have hinv := Real.one_sub_inv_le_log_of_pos (div_pos hm hP)
    have hge : 1 / 2 ^ 53 ≤ 1 - ((m : ℝ) / P)⁻¹ := by
      rw [inv_div, le_sub_comm, div_le_iff₀ hm]
      have : P * (1 / 2 ^ 53) ≤ 1 / 2 := by norm_num at hPn ⊢; linarith
      have : (m : ℝ) ≤ 2 * P := by linarith
      nlinarith
    rw [Real.logb, le_div_iff₀ hlog0]
    calc 1 / 2 ^ 53 * Real.log 2 ≤ 1 / 2 ^ 53 * 1 := mul_le_mul_of_nonneg_left hlog1 (by positivity)
      _ ≤ Real.log (m / P) := by linarith
  · have hle := Real.log_le_sub_one_of_pos (x := (m : ℝ) / P / 2) (by positivity)
    have hhalf : (m : ℝ) / P / 2 - 1 ≤ -(1 / 2 ^ 53) := by
      rw [sub_le_iff_le_add, div_div, div_le_iff₀ (by positivity)]
      have : P * 2 * (1 / 2 ^ 53) ≤ 1 := by norm_num at hPn ⊢; linarith
      nlinarith
    have hsplit : Real.log ((m : ℝ) / P / 2) = Real.log (m / P) - Real.log 2 := Real.log_div (by positivity) (by norm_num)
    have hscale : 1 / 2 ^ 53 * Real.log 2 ≤ 1 / 2 ^ 53 * 1 := mul_le_mul_of_nonneg_left hlog1 (by positivity)
    rw [Real.logb, div_le_iff₀ hlog0]
    linarith

/-- The bits that FLOG2 takes of a significand. -/
theorem log2Bits_significand {m n : Nat} (hlo : 2 ^ n < m) (hhi : m < 2 ^ (n + 1)) (hn : n ≤ 52) :
    let B := log2Bits 128 (m * 2 ^ 320 / 2 ^ n) 0
    2 ^ 60 ≤ B ∧ B + 2 ^ 60 < 2 ^ 128 ∧
      |((B : ℝ) + 1 / 2) / 2 ^ 128 - Real.logb 2 ((m : ℝ) / 2 ^ n)| ≤ 1 / 2 ^ 120 := by
  intro B
  have hP := Nat.two_pow_pos n
  have hx : 2 ^ 320 ≤ m * 2 ^ 320 / 2 ^ n ∧ m * 2 ^ 320 / 2 ^ n < 2 ^ 321 := by
    constructor
    · refine (Nat.le_div_iff_mul_le hP).mpr ?_
      calc 2 ^ 320 * 2 ^ n = 2 ^ n * 2 ^ 320 := Nat.mul_comm _ _
        _ ≤ m * 2 ^ 320 := Nat.mul_le_mul_right _ hlo.le
    · refine (Nat.div_lt_iff_lt_mul hP).mpr ?_
      calc m * 2 ^ 320 < 2 ^ (n + 1) * 2 ^ 320 := Nat.mul_lt_mul_of_pos_right hhi (Nat.two_pow_pos _)
        _ = 2 ^ 321 * 2 ^ n := by rw [← Nat.pow_add, ← Nat.pow_add]; congr 1; omega
  have hP' : (0 : ℝ) < 2 ^ n := by positivity
  have hm : (0 : ℝ) < m := by exact_mod_cast lt_trans hP hlo
  have hfloor := logb_floor (w := m * 2 ^ 320 / 2 ^ n) (v := (m : ℝ) / 2 ^ n * 2 ^ 320)
    ((Nat.pow_le_pow_right (by decide) (by decide : 201 ≤ 320)).trans hx.1)
    (by
      rw [div_mul_eq_mul_div, le_div_iff₀ hP']
      exact_mod_cast Nat.div_mul_le_self (m * 2 ^ 320) (2 ^ n))
    (by
      rw [div_mul_eq_mul_div, div_lt_iff₀ hP']
      exact_mod_cast Nat.lt_mul_of_div_lt (Nat.lt_succ_self _) hP)
  have hlogv : Real.logb 2 ((m : ℝ) / 2 ^ n * 2 ^ 320) = Real.logb 2 ((m : ℝ) / 2 ^ n) + 320 := by
    rw [Real.logb_mul (by positivity) (by positivity), Real.logb_pow, Real.logb_self_eq_one (by norm_num)]
    norm_num
  rw [hlogv] at hfloor
  obtain ⟨hb1, hb2⟩ := log2Bits_bounds 128 0 hx
  obtain ⟨hl1, hl2⟩ := logb_significand hlo hhi hn
  obtain ⟨hf1, hf2⟩ := hfloor
  have hfixed : fixedLog (m * 2 ^ 320 / 2 ^ n) = Real.logb 2 (m * 2 ^ 320 / 2 ^ n : Nat) - 320 := rfl
  change _ ≤ _ - (B : ℝ) at hb1
  change _ - (B : ℝ) ≤ _ at hb2
  rw [Nat.cast_zero, zero_add] at hb1 hb2
  generalize Real.logb 2 ((m : ℝ) / 2 ^ n) = L at *
  generalize fixedLog (m * 2 ^ 320 / 2 ^ n) = F at *
  generalize Real.logb 2 (m * 2 ^ 320 / 2 ^ n : Nat) = W at *
  have hFL : F ≤ L := by linarith
  have hLF : L ≤ F + 1 / 2 ^ 200 := by linarith
  have hsmall : (1 : ℝ) + (2 ^ 128 - 1) / 2 ^ 200 ≤ 2 := by norm_num
  have hBlo : F * 2 ^ 128 - 2 ≤ B := by linarith
  have hBhi : (B : ℝ) ≤ L * 2 ^ 128 := by
    have := mul_le_mul_of_nonneg_right hFL (by positivity : (0 : ℝ) ≤ 2 ^ 128)
    linarith
  have hBlo' : L * 2 ^ 128 - 3 ≤ B := by
    have := mul_le_mul_of_nonneg_right hLF (by positivity : (0 : ℝ) ≤ 2 ^ 128)
    have : (1 : ℝ) / 2 ^ 200 * 2 ^ 128 ≤ 1 := by norm_num
    linarith
  refine ⟨?_, ?_, ?_⟩
  · have h1 := mul_le_mul_of_nonneg_right hl1 (by positivity : (0 : ℝ) ≤ 2 ^ 128)
    have h2 : (2 : ℝ) ^ 60 ≤ 1 / 2 ^ 53 * 2 ^ 128 - 3 := by norm_num
    exact_mod_cast (by linarith : (2 : ℝ) ^ 60 ≤ B)
  · have h1 := mul_le_mul_of_nonneg_right hl2 (by positivity : (0 : ℝ) ≤ 2 ^ 128)
    have h2 : (1 - 1 / 2 ^ 53 : ℝ) * 2 ^ 128 < 2 ^ 128 - 2 ^ 60 := by norm_num
    exact_mod_cast (by linarith : (B : ℝ) + 2 ^ 60 < 2 ^ 128)
  · have hdiff : ((B : ℝ) + 1 / 2) / 2 ^ 128 - L = (B + 1 / 2 - L * 2 ^ 128) / 2 ^ 128 := by field_simp
    rw [hdiff, abs_div, abs_of_pos (by positivity : (0 : ℝ) < 2 ^ 128), div_le_iff₀ (by positivity), abs_le]
    have : (4 : ℝ) ≤ 1 / 2 ^ 120 * 2 ^ 128 := by norm_num
    constructor <;> linarith

section
variable {f : Fmt} {q : Nat} {rm a : Nat}

/-- A positive value's logarithm is the exponent of its leading bit and that of its significand. -/
theorem logb_value {m n : Nat} (hm : m ≠ 0) (e : Int) :
    Real.logb 2 ((m : ℝ) * 2 ^ e) = (n + e : Int) + Real.logb 2 ((m : ℝ) / 2 ^ n) := by
  have hm' : (0 : ℝ) < m := by exact_mod_cast Nat.pos_of_ne_zero hm
  rw [Real.logb_mul hm'.ne' (by positivity), Real.logb_div hm'.ne' (by positivity), ← Real.rpow_intCast,
    Real.logb_rpow (by norm_num) (by norm_num), Real.logb_pow, Real.logb_self_eq_one (by norm_num)]
  push_cast
  ring

/-- FLOG2 of a value that is not a power of two: a magnitude with a record of what was cut off, close to the logarithm. -/
theorem log2Fin_fraction {m : Nat} (e : Int) (hm : m ≠ 0) (hne : m ≠ 2 ^ (bitLen m - 1)) (hn : bitLen m - 1 ≤ 52) :
    ∃ (s : Bool) (K : Nat), log2Fin m e = .fin s (2 * K + 1) (-128 - 1) ∧ 2 ^ 60 ≤ K ∧
      |(signOf s : ℝ) * ((2 * K + 1 : Nat) * 2 ^ (-128 - 1 : ℤ)) - Real.logb 2 (m * 2 ^ e)| ≤ 1 / 2 ^ 100 := by
  obtain ⟨hlen, hlo, hhi⟩ := two_pow_bitLen hm
  have hlt : 2 ^ (bitLen m - 1) < m := lt_of_le_of_ne hlo (Ne.symm hne)
  obtain ⟨hB1, hB2, hB⟩ := log2Bits_significand hlt (by rwa [Nat.sub_add_cancel hlen]) hn
  rw [logb_value (n := bitLen m - 1) hm, show ((bitLen m - 1 : Nat) : Int) + e = (bitLen m : Int) - 1 + e by omega, log2Fin]
  simp only [if_neg hne, jam, if_true]
  generalize Real.logb 2 ((m : ℝ) / 2 ^ (bitLen m - 1)) = L at *
  generalize log2Bits 128 (m * 2 ^ 320 / 2 ^ (bitLen m - 1)) 0 = B at *
  generalize (bitLen m : Int) - 1 + e = k at *
  have hunit : (2 : ℝ) ^ (-128 - 1 : ℤ) = 1 / 2 ^ 128 / 2 := by norm_num
  have hclose (y : ℝ) (hy : y = k + ((B : ℝ) + 1 / 2) / 2 ^ 128) : |y - (k + L)| ≤ 1 / 2 ^ 100 := by
    rw [hy, add_sub_add_left_eq_sub]
    exact hB.trans (by norm_num)
  split
  · next hk =>
    refine ⟨_, _, rfl, by omega, hclose _ ?_⟩
    obtain ⟨j, rfl⟩ := Int.eq_ofNat_of_zero_le hk
    rw [signOf, hunit]
    push_cast
    simp
    ring
  · next hk =>
    obtain ⟨j, rfl⟩ : ∃ j : Nat, k = -((j : Int) + 1) := ⟨(-k - 1).toNat, by omega⟩
    have habs : (-((j : Int) + 1)).natAbs = j + 1 := by omega
    obtain ⟨K, hK⟩ : ∃ K, (j + 1) * 2 ^ 128 - B - 1 = K ∧ K + B + 1 = (j + 1) * 2 ^ 128 := ⟨_, rfl, by omega⟩
    rw [habs, hK.1]
    refine ⟨_, K, rfl, by omega, hclose _ ?_⟩
    have hcast : (K : ℝ) = (j + 1) * 2 ^ 128 - B - 1 := by
      have : (K : ℝ) + B + 1 = (j + 1) * 2 ^ 128 := by exact_mod_cast hK.2
      linarith
    rw [signOf, hunit]
    push_cast
    rw [hcast]
    simp
    ring

theorem valFlog2_fin {m : Nat} {e : Int} (h : decodeF f a = .fin false m e) (hm : m ≠ 0) :
    valFlog2 f rm a = roundF f (log2Fin m e) rm := by
  rw [valFlog2, h, log2F]
  simp [hm, roundCode_flagless]

theorem positive_fin {x : ℚ} (ha : Denotes f a x) (hx : 0 < x) :
    ∃ m e, decodeF f a = .fin false m e ∧ m ≠ 0 ∧ x = (m : ℚ) * 2 ^ e := by
  obtain ⟨m, e, hdec, rfl⟩ := denotes_fin ha
  generalize negative f a = n at *
  have hm : m ≠ 0 := fun h => by
    rw [signed_eq_zero.mpr h] at hx
    exact lt_irrefl _ hx
  cases n
  · exact ⟨m, e, hdec, hm, by simp [signOf]⟩
  · have : signOf true * (m : ℚ) * 2 ^ e ≤ 0 := by
      rw [signOf, if_pos rfl, mul_assoc, neg_one_mul, neg_nonpos]
      positivity
    exact absurd hx this.not_gt

theorem log_fraction (hf : f.Wide q) {x : ℚ} (ha : Denotes f a x) (hx : 0 < x) (hne : ∀ k : ℤ, x ≠ (2 : ℚ) ^ k) :
    (valFlog2 f rm a).2.testBit 4 = true ∧
      ∃ y : ℝ, |y - Real.logb 2 x| ≤ 1 / 2 ^ 100 ∧ Correct f rm y (valFlog2 f rm a) := by
  have hnarrow := hf.narrow
  obtain ⟨m, e, hdec, hm, rfl⟩ := positive_fin ha hx
  obtain ⟨hbound, -⟩ := decodeF_bounds hdec
  obtain ⟨hlen, hlo, hhi⟩ := two_pow_bitLen hm
  have hn : bitLen m - 1 ≤ 52 := by
    have : bitLen m - 1 < f.p + 1 := (Nat.pow_lt_pow_iff_right (by decide)).mp (hlo.trans_lt hbound)
    omega
  have hpow : m ≠ 2 ^ (bitLen m - 1) := fun h => by
    refine hne ((bitLen m - 1 : Nat) + e) ?_
    rw [zpow_add₀ (by norm_num), zpow_natCast]
    congr 1
    exact_mod_cast h
  obtain ⟨s, K, heq, hK, hclose⟩ := log2Fin_fraction e hm hpow hn
  rw [valFlog2_fin hdec hm, heq]
  refine ⟨inexact_of_odd hf.toOk _ rm s (by omega)
    ((Nat.pow_le_pow_right (by decide) (by omega : f.p + 2 ≤ 60)).trans (by omega)), _, ?_,
    correct_roundF hf.toOk rm s (.inl rfl)⟩
  push_cast at hclose ⊢
  exact hclose

/-- An integer of few enough bits is of the format. -/
theorem exists_code_of_nat (hf : f.Wide q) {N : Nat} (hN : N ≠ 0) (hlt : N < 2 ^ (f.p + 1)) :
    ∃ d ≤ largestCode f, codeMag f d = N := by
  obtain ⟨hlen, hlo, hhi⟩ := two_pow_bitLen hN
  obtain ⟨hw, hpb, -⟩ := hf.balanced
  have hP := Nat.two_pow_pos f.p
  have hp := hf.sig
  have hb : bitLen N - 1 < f.p + 1 := (Nat.pow_lt_pow_iff_right (by decide)).mp (hlo.trans_lt hlt)
  have hlow : 2 ^ f.p ≤ N * 2 ^ (f.p - (bitLen N - 1)) := by
    calc 2 ^ f.p = 2 ^ (bitLen N - 1) * 2 ^ (f.p - (bitLen N - 1)) := by rw [← Nat.pow_add]; congr 1; omega
      _ ≤ _ := Nat.mul_le_mul_right _ hlo
  have hhigh : N * 2 ^ (f.p - (bitLen N - 1)) < 2 ^ (f.p + 1) := by
    calc N * 2 ^ (f.p - (bitLen N - 1)) < 2 ^ bitLen N * 2 ^ (f.p - (bitLen N - 1)) :=
          Nat.mul_lt_mul_of_pos_right hhi (Nat.two_pow_pos _)
      _ = 2 ^ (f.p + 1) := by rw [← Nat.pow_add]; congr 1; omega
  refine ⟨(bitLen N - 1 + f.bias - 1) * 2 ^ f.p + N * 2 ^ (f.p - (bitLen N - 1)), ?_, ?_⟩
  · have hle : (bitLen N - 1 + f.bias - 1 + 2) * 2 ^ f.p ≤ (2 ^ f.w - 1) * 2 ^ f.p := Nat.mul_le_mul_right _ (by omega)
    simp only [largestCode, hf.infinities]
    rw [Nat.pow_succ] at hhigh
    rw [Nat.add_mul] at hle
    omega
  · have hrow : (codeMag f ((bitLen N - 1 + f.bias - 1) * 2 ^ f.p + N * 2 ^ (f.p - (bitLen N - 1))) : ℝ) =
        ((N * 2 ^ (f.p - (bitLen N - 1)) : Nat) : ℝ) * 2 ^ (-((f.p - (bitLen N - 1) : Nat) : ℤ)) :=
      codeMag_row (by omega) (.inr hlow) hhigh.le
    have hcancel : ((N * 2 ^ (f.p - (bitLen N - 1)) : Nat) : ℝ) * 2 ^ (-((f.p - (bitLen N - 1) : Nat) : ℤ)) = N := by
      rw [zpow_neg, zpow_natCast]
      push_cast
      field_simp
    exact_mod_cast hrow.trans hcancel

/-- A power of two that a code stands for has an exponent of few bits. -/
theorem power_bounds (hf : f.Wide q) {k : Int} (ha : Denotes f a ((2 : ℚ) ^ k)) : k.natAbs < 2 ^ (f.p + 1) := by
  obtain ⟨hw, -, hlogs⟩ := hf.balanced
  obtain ⟨hle, hval⟩ := (denotes_iff hf.toOk).mp ha
  obtain ⟨m, e, hdec, hm, hx⟩ := positive_fin ha (by positivity)
  obtain ⟨-, he⟩ := decodeF_bounds hdec
  rw [← sign_of_fin hdec, signOf, if_neg Bool.false_ne_true, one_mul] at hval
  have hupper : k ≤ f.bias := by
    have hlt := codeMag_strictMono f (Nat.lt_succ_of_le hle)
    have hlt' : (2 : ℝ) ^ k < 2 ^ (((2 ^ f.w - 2 : Nat) : ℤ) + 1 - f.bias) := by
      rw [← codeMag_infCode hf]
      rw [← hval, ← Rat.cast_lt (K := ℝ), Rat.cast_zpow, Rat.cast_ofNat] at hlt
      exact hlt
    have := (zpow_lt_zpow_iff_right₀ (by norm_num)).mp hlt'
    omega
  have hlower : e ≤ k := by
    have hge : (2 : ℚ) ^ e ≤ 2 ^ k := by
      rw [hx]
      exact le_mul_of_one_le_left (by positivity) (by exact_mod_cast Nat.pos_of_ne_zero hm)
    exact (zpow_le_zpow_iff_right₀ (by norm_num)).mp hge
  omega

/-- The logarithm of a power of two is exact. -/
theorem log_power (hf : f.Wide q) {k : Int} (ha : Denotes f a ((2 : ℚ) ^ k)) :
    Denotes f (valFlog2 f rm a).1 k ∧ (valFlog2 f rm a).2 = 0 ∧ (k = 0 → negative f (valFlog2 f rm a).1 = false) := by
  obtain ⟨m, e, hdec, hm, hx⟩ := positive_fin ha (by positivity)
  obtain ⟨hlen, hlo, hhi⟩ := two_pow_bitLen hm
  have hk : k = (bitLen m : Int) - 1 + e := by
    have htop := Approximates.top (b := 1) (.inl rfl : Approximates 1 m e ((m : ℝ) * 2 ^ e)) le_rfl hm
    have hx' : (2 : ℝ) ^ k = (m : ℝ) * 2 ^ e := by
      have := congrArg (Rat.cast (K := ℝ)) hx
      push_cast at this
      exact this
    rw [← hx'] at htop
    have h1 := (zpow_le_zpow_iff_right₀ (by norm_num)).mp htop.1
    have h2 := (zpow_lt_zpow_iff_right₀ (by norm_num)).mp htop.2
    omega
  have hm2 : m = 2 ^ (bitLen m - 1) := by
    have hexp : k = ((bitLen m - 1 : Nat) : Int) + e := by omega
    rw [hexp, zpow_add₀ (by norm_num), zpow_natCast] at hx
    have := mul_right_cancel₀ (by positivity) hx
    exact_mod_cast this.symm
  have hlog : log2Fin m e = .fin (decide (k < 0)) k.natAbs 0 := by
    rw [log2Fin, if_pos hm2, hk]
  rw [valFlog2_fin hdec hm, hlog]
  rcases eq_or_ne k 0 with rfl | hk0
  · obtain ⟨hzero, hneg⟩ := denotes_signCode hf.toOk false
    have hround : roundF f (.fin (decide ((0 : Int) < 0)) (Int.natAbs 0) 0) rm = (signCode f false, 0) := roundF_zero ..
    rw [hround]
    exact ⟨by exact_mod_cast hzero, rfl, fun _ => hneg⟩
  · obtain ⟨d, hd, hmag⟩ := exists_code_of_nat hf (Int.natAbs_ne_zero.mpr hk0) (power_bounds hf ha)
    have hround := roundF_fin (X := codeMag f d) hf.toOk rm (decide (k < 0)) (mag := k.natAbs) (e := 0)
      (.inl (by rw [hmag]; push_cast; rw [zpow_zero, mul_one])) (Int.natAbs_ne_zero.mpr hk0)
    have hden := denotes_signed hf.toOk (decide (k < 0)) hd
    rw [hround.exact hd]
    refine ⟨?_, rfl, fun h => absurd h hk0⟩
    rw [hmag] at hden
    have hval : signOf (decide (k < 0)) * ((k.natAbs : Nat) : ℚ) = k := by
      rcases lt_or_ge k 0 with h | h
      · rw [decide_eq_true h, signOf, if_pos rfl, ← Int.cast_natCast, Int.ofNat_natAbs_of_nonpos h.le]
        push_cast
        ring
      · rw [decide_eq_false h.not_gt, signOf, if_neg Bool.false_ne_true, ← Int.cast_natCast, Int.natAbs_of_nonneg h, one_mul]
    rwa [hval] at hden

end

end Sys2Proof.Machine
end

section
/-! O36: the operations on one operand, and the statement. -/

namespace Sys2Proof.Machine

/- Proofs one after another: side by side, each takes the stack of a thread, and those of the whole text reach the
memory limit of the check. -/
set_option Elab.async false
open Sys2Proof.Claims

/-! ## One operand (R116) -/

section
variable {f : Fmt} {q : Nat} {rm a : Nat}

theorem one_nan (hf : f.Wide q) (h : isNan (decodeF f a) = true) :
    ∀ r ∈ [valFsqrt f rm a, valFrcp f rm a, valFrsq f rm a, valFexp2 f rm a, valFlog2 f rm a], r = (q, signals f [a]) := by
  obtain ⟨s, hs⟩ : ∃ s, decodeF f a = .nan s := by
    match hdec : decodeF f a with
    | .nan s => exact ⟨s, rfl⟩
    | .inf n => simp [hdec, isNan] at h
    | .fin n m e => simp [hdec, isNan] at h
  have hsig : signals f [a] = if s then fNV else 0 := by
    rw [signals_eq, List.map_cons, List.map_nil, hs]
    simp [nvOf, isSnan]
  simp [valFsqrt, valFrcp, valFrsq, valFexp2, valFlog2, hs, sqrtF, rcpF, rsqF, exp2F, log2F, roundCode_nan hf, hsig]

theorem one_infinite (hf : f.Wide q) {n : Bool} (h : decodeF f a = .inf n) :
    Denotes f (valFrcp f rm a).1 0 ∧ negative f (valFrcp f rm a).1 = n ∧ (valFrcp f rm a).2 = 0 ∧
    (n = true → valFsqrt f rm a = (q, 1) ∧ valFrsq f rm a = (q, 1) ∧ valFlog2 f rm a = (q, 1) ∧
      Denotes f (valFexp2 f rm a).1 0 ∧ negative f (valFexp2 f rm a).1 = false ∧ (valFexp2 f rm a).2 = 0) ∧
    (n = false → decodeF f (valFsqrt f rm a).1 = .inf false ∧ (valFsqrt f rm a).2 = 0 ∧
      Denotes f (valFrsq f rm a).1 0 ∧ negative f (valFrsq f rm a).1 = false ∧ (valFrsq f rm a).2 = 0 ∧
      decodeF f (valFlog2 f rm a).1 = .inf false ∧ (valFlog2 f rm a).2 = 0 ∧
      decodeF f (valFexp2 f rm a).1 = .inf false ∧ (valFexp2 f rm a).2 = 0) := by
  obtain ⟨hzero, hneg⟩ := denotes_signCode hf.toOk n
  obtain ⟨hplus, hpos⟩ := denotes_signCode hf.toOk false
  have hinf := decodeF_signed_infCode hf.infinities n
  rw [valFrcp, valFsqrt, valFrsq, valFlog2, valFexp2, h]
  cases n
  · simp [rcpF, sqrtF, rsqF, log2F, exp2F, roundCode_zero, roundCode_inf hf.infinities, hzero, hneg, hinf]
  · simp [rcpF, sqrtF, rsqF, log2F, exp2F, roundCode_zero, roundCode_nan hf, hzero, hneg, hplus, hpos, fNV]

theorem one_zero (hf : f.Wide q) (h : Denotes f a 0) :
    Denotes f (valFsqrt f rm a).1 0 ∧ negative f (valFsqrt f rm a).1 = negative f a ∧ (valFsqrt f rm a).2 = 0 ∧
      decodeF f (valFrcp f rm a).1 = .inf (negative f a) ∧ (valFrcp f rm a).2 = 2 ∧
      decodeF f (valFrsq f rm a).1 = .inf (negative f a) ∧ (valFrsq f rm a).2 = 2 ∧
      decodeF f (valFlog2 f rm a).1 = .inf true ∧ (valFlog2 f rm a).2 = 2 := by
  obtain ⟨m, e, hdec, hx⟩ := denotes_fin h
  obtain rfl := signed_eq_zero.mp hx.symm
  obtain ⟨hzero, hneg⟩ := denotes_signCode hf.toOk (negative f a)
  rw [valFsqrt, valFrcp, valFrsq, valFlog2, hdec]
  simp [sqrtF, rcpF, rsqF, log2F, roundCode_zero, roundCode_inf hf.infinities, decodeF_signed_infCode hf.infinities, hzero, hneg, fDZ]

theorem one_below_zero (hf : f.Wide q) {x : ℚ} (h : Denotes f a x) (hx : x < 0) :
    valFsqrt f rm a = (q, 1) ∧ valFrsq f rm a = (q, 1) ∧ valFlog2 f rm a = (q, 1) := by
  obtain ⟨m, e, hdec, rfl⟩ := denotes_fin h
  generalize negative f a = n at *
  have hm : m ≠ 0 := fun h0 => by
    rw [signed_eq_zero.mpr h0] at hx
    exact lt_irrefl _ hx
  have hn : n = true := by
    cases n
    · have : 0 ≤ signOf false * (m : ℚ) * 2 ^ e := by
        rw [signOf, if_neg Bool.false_ne_true, one_mul]
        positivity
      exact absurd hx this.not_gt
    · rfl
  rw [valFsqrt, valFrsq, valFlog2, hdec, hn]
  simp [sqrtF, rsqF, log2F, hm, roundCode_nan hf, fNV]

theorem one_root (hf : f.Wide q) {x : ℚ} (h : Denotes f a x) (hx : 0 < x) :
    Correct f rm (Real.sqrt x) (valFsqrt f rm a) ∧ Correct f rm (1 / Real.sqrt x) (valFrsq f rm a) := by
  obtain ⟨m, e, hdec, hm, rfl⟩ := positive_fin h hx
  have hroot := correct_rootF hf rm e hm
  have hrsq := correct_rsqF hf rm e hm
  rw [valFsqrt, valFrsq, hdec]
  push_cast
  refine ⟨?_, hrsq⟩
  simpa [sqrtF, hm, roundCode_flagless] using hroot

theorem one_reciprocal (hf : f.Wide q) {x : ℚ} (h : Denotes f a x) (hx : x ≠ 0) :
    Correct f rm (1 / x : ℝ) (valFrcp f rm a) ∧ negative f (valFrcp f rm a).1 = negative f a := by
  obtain ⟨m, e, hdec, rfl⟩ := denotes_fin h
  have hm : m ≠ 0 := fun h0 => hx (signed_eq_zero.mpr h0)
  obtain ⟨hcor, hneg⟩ := correct_ratio hf rm (negative f a) 0 e one_ne_zero hm
  have hval : (1 / ((signOf (negative f a) * m * 2 ^ e : ℚ) : ℝ)) = signOf (negative f a) * (((1 : Nat) * 2 ^ (0 : ℤ)) / (m * 2 ^ e)) := by
    have hsq := cast_signOf_mul_self (negative f a)
    push_cast
    rw [zpow_zero, mul_one, mul_assoc, one_div, mul_inv, inv_eq_of_mul_eq_one_left hsq, one_div]
  rw [hval, valFrcp, hdec]
  simp only [rcpF, hm, if_false, roundCode_flagless]
  exact ⟨hcor, hneg⟩

theorem oneOperandGivesItsValue (hf : f.Wide q) (rm a : Nat) : OneOperandGivesItsValue f q rm a :=
  ⟨one_nan hf, fun _ => one_infinite hf, fun _ h => ⟨one_below_zero hf h, fun hx => one_zero hf (hx ▸ h), one_root hf h,
    one_reciprocal hf h, exp_integer hf h, exp_fraction hf h, exp_large hf h, fun _ hx => log_power hf (hx ▸ h),
    log_fraction hf h⟩⟩

end

/-- Settles O36: every result is the exact one, or one known but for a record of what lies below its last bit, rounded
once; the roots, the exponential and the logarithm by the bounds on their fixed-point computations. -/
theorem arithmeticRoundsTheExactResult : Obligations.ArithmeticRoundsTheExactResult := by
  refine ⟨codesStandForTheirValues, fun w hw rm _ a b => ?_, fun w hw rm _ a b c => ?_, fun w hw rm _ a b c => ?_⟩
  · have hf := wide_of_mem hw
    exact ⟨twoOperandsGiveTheirValue hf rm a b, oneOperandGivesItsValue hf rm a, valuesAreComparedAndClassified hf.toOk a b⟩
  · have hf := wide_of_mem hw
    refine ⟨fun hc => ?_, fun h => ?_, fused_invalid hf⟩
    · rw [fused_nan hf (.inr (.inr hc))]
    · rw [fused_nan hf h]
  · have hf := wide_of_mem hw
    refine ⟨fun x y z ha hb hc => ?_, fun h => ?_⟩
    · have hsum := (finite_sum (rm := rm) hf.toOk ha hb).1
      have hdifference := (finite_difference (rm := rm) hf.toOk ha hb).1
      have hproduct := finite_product (rm := rm) hf.toOk ha hb
      have hfused := finite_fused (rm := rm) hf.toOk ha hb hc
      push_cast at hsum hdifference hproduct hfused
      exact ⟨hsum, hdifference, hproduct, hfused⟩
    · obtain ⟨hadd, hsub, hmul, hdiv⟩ := two_nan (rm := rm) hf (by simpa using h)
      rw [hadd, hsub, hmul, hdiv, fused_nan hf (h.imp_right .inl)]
      exact ⟨rfl, rfl, rfl, rfl, rfl⟩

end Sys2Proof.Machine
end

section
/-! O53: the float, conversion, rotation and table-function instructions, lane by lane. -/

namespace Sys2Proof.Machine

/- Proofs one after another: side by side, each takes the stack of a thread, and those of the whole text reach the
memory limit of the check. -/
set_option Elab.async false
open Sys2Proof.Claims

/-! ## Flags ORed over lanes and elements (R56) -/

theorem foldl_or {α : Type} (g : α → Nat) (ls : List α) (a : Nat) :
    ls.foldl (fun a e => a ||| g e) a = a ||| ls.foldl (fun a e => a ||| g e) 0 := by
  induction ls generalizing a with
  | nil => simp
  | cons e t ih => rw [List.foldl_cons, List.foldl_cons, ih, ih (0 ||| g e), Nat.zero_or, Nat.or_assoc]

/-- The union over the lanes of the unions over their elements. -/
theorem flagsOver_eq (lanes : W32) (n : Nat) (g : Nat → Nat → Nat) :
    flagsOver lanes n g =
      (lanesOf lanes).foldl (fun a l => a ||| (List.range n).foldl (fun a e => a ||| g l e) 0) 0 := by
  have hstep (a l : Nat) : ((List.range n).map (g l)).foldl (· ||| ·) a =
      a ||| (List.range n).foldl (fun a e => a ||| g l e) 0 := by
    rw [List.foldl_map, foldl_or]
  simp only [flagsOver, List.foldl_flatMap, hstep]

theorem flagsOver_one (lanes : W32) (g : Nat → Nat) :
    flagsOver lanes 1 (fun l _ => g l) = (lanesOf lanes).foldl (fun a l => a ||| g l) 0 := by
  simp [flagsOver_eq]

/-! ## Instructions that end with their flags (R56, R132) -/

section
variable {s : State} {f : LaneF} {regs : List Nat} {pair : Bool} {val : Warp → Nat → Nat × Nat}
  {n : Nat} {g : Nat → Nat → Nat}

theorem withFp_me (s : State) (fl : Nat) :
    (withFp s fl).me = { s.me with fpflags := s.me.fpflags ||| BitVec.ofNat 64 fl } := by
  rw [withFp, State.setMe_me]

theorem fpEnd_eq (s : State) (fl : Nat) (done : State → State) :
    s.fpEnd fl done = if trapHit s.me.fptraps fl then (withFp s fl).laneFault 0x08 0 0 else done (withFp s fl) := rfl

/-- The flags of a float instruction's lanes. -/
theorem laneResults_eq (act : W32) (v : Nat → Nat × Nat)
    (hfl : ∀ l, (v l).2 = (List.range n).foldl (fun a e => a ||| g l e) 0) :
    laneResults act v = ((lanesOf act).map fun l => (l, (v l).1), flagsOver act n g) := by
  simp only [laneResults, List.map_map, List.foldl_map, hfl, flagsOver_eq]
  rfl

/-- A short float instruction writes its lanes, or traps. -/
theorem floatMap_done (h : Ready s f regs []) (hfl : ∀ l, (val s.me l).2 = (List.range n).foldl (fun a e => a ||| g l e) 0) :
    (trapHit s.me.fptraps (flagsOver (act s f) n g) = false →
      LaneWrites (withFp s (flagsOver (act s f) n g)) (s.floatMap f regs pair val) (act s f) pair f.vd.toNat
        fun l => (val s.me l).1) ∧
    (trapHit s.me.fptraps (flagsOver (act s f) n g) = true →
      s.floatMap f regs pair val = (withFp s (flagsOver (act s f) n g)).laneFault 0x08 0 0) := by
  have hgo : s.lanePre regs (guardMask f) = .go := by simpa [Ready] using h
  have hres := laneResults_eq (act s f) (val s.me) hfl
  rw [act] at hres
  rw [State.floatMap, laneRun_of_go hgo, hres]
  simp only [fpEnd_eq, List.flatMap_map]
  refine ⟨fun htrap => ?_, fun htrap => if_pos htrap⟩
  rw [← act, if_neg (by rw [htrap]; decide)]
  exact writeRegs_writes _ (act s f) pair f.vd.toNat fun l => (val s.me l).1

/-- A long instruction owes what its record says. -/
theorem laneLong_owes (s : State) (o : Outst) :
    LaneOwes s (s.laneLong o) o ∧ { s.laneLong o with warps := s.warps } = s := by
  refine ⟨⟨?_, ?_, ?_, ?_, ?_, ?_⟩, rfl⟩
  · exact (OnlyWarp.setMe ..).others
  · rw [State.laneLong, State.setMe_myPath, warpPath_setPath, warpPath_laneIssued]
    rfl
  · rw [State.laneLong, State.setMe_me, setPath_v, laneIssued_v]
  · rw [State.laneLong, State.setMe_me, setPath_m, laneIssued_m]
  · rw [State.laneLong, State.setMe_me, setPath_s, laneIssued_s]
  · rw [State.laneLong, State.setMe_me, laneRest_setPath, laneRest_laneIssued]

/-- A long float instruction owes its lanes, or traps. -/
theorem floatLong_done (can : Nat) (h : Ready s f regs [])
    (hfl : ∀ l, (val s.me l).2 = (List.range n).foldl (fun a e => a ||| g l e) 0) :
    (trapHit s.me.fptraps (flagsOver (act s f) n g) = false →
      LaneOwes (withFp s (flagsOver (act s f) n g)) (s.floatLong can f regs pair val)
        (owesIn s (lookahead s.me.fptraps can f) f pair fun l => (val s.me l).1) ∧
      { s.floatLong can f regs pair val with warps := s.warps } = s) ∧
    (trapHit s.me.fptraps (flagsOver (act s f) n g) = true →
      s.floatLong can f regs pair val = (withFp s (flagsOver (act s f) n g)).laneFault 0x08 0 0) := by
  have hgo : s.lanePre regs (guardMask f) = .go := by simpa [Ready] using h
  have hres := laneResults_eq (act s f) (val s.me) hfl
  rw [act] at hres
  rw [State.floatLong, laneRun_of_go hgo, hres]
  simp only [fpEnd_eq, List.flatMap_map]
  refine ⟨fun htrap => ?_, fun htrap => if_pos htrap⟩
  rw [← act, if_neg (by rw [htrap]; decide)]
  have howed : outst (lookOf (withFp s (flagsOver (act s f) n g)).me.fptraps can f.la.toNat) (regsOf pair f.vd) []
      ((lanesOf (act s f)).flatMap fun l => resultW pair f.vd.toNat l (val s.me l).1) [] =
      owesIn s (lookahead s.me.fptraps can f) f pair fun l => (val s.me l).1 := by
    rw [withFp_me]
    have hws (l v : Nat) : resultW pair f.vd.toNat l v = (⟨f.vd.toNat, l, BitVec.ofNat 32 v⟩ : RegW) ::
        if pair then [⟨f.vd.toNat + 1, l, BitVec.ofNat 32 (v / 2 ^ 32)⟩] else [] := by cases pair <;> rfl
    simp only [hws]
    rfl
  rw [State.longRegs, howed]
  obtain ⟨howes, hrest⟩ := laneLong_owes (withFp s (flagsOver (act s f) n g))
    (owesIn s (lookahead s.me.fptraps can f) f pair fun l => (val s.me l).1)
  exact ⟨howes, congrArg (fun t : State => { t with warps := s.warps }) hrest⟩

end

/-! ## The elements of a float instruction (R116) -/

section
variable (ty : Nat) (op : Fmt → Nat → Nat → Nat → Nat × Nat) (a b c : Nat)

theorem elemF_flags : (elemF ty op a b c).2 =
    (List.range (elemCount ty)).foldl
      (fun r e => r ||| (op (fmtOf ty) (elemAt ty a e) (elemAt ty b e) (elemAt ty c e)).2) 0 := by
  simp only [elemF, orFlags, List.foldl_map]
  rfl

theorem elemF_element {e : Nat} (he : e < elemCount ty) : elemAt ty (elemF ty op a b c).1 e =
    (op (fmtOf ty) (elemAt ty a e) (elemAt ty b e) (elemAt ty c e)).1 % 2 ^ elemBits ty := by
  rw [elemF]
  dsimp only
  rw [List.map_map]
  exact elem_packElems_map he _

end

section
variable {s : State} {f : LaneF} {regs : List Nat} {i : Instr} (op : Fmt → Nat → Nat → Nat → Nat × Nat)
  (A B C : Warp → Nat → Nat)

theorem floatDone_of (h : Ready s f regs [])
    (hexec : exec i s = .next (s.floatMap f regs (isPair f.ty) fun x l => elemF f.ty.toNat op (A x l) (B x l) (C x l))) :
    FloatDone s f i fun l e => op (fmtOf f.ty.toNat) (el f (A s.me l) e) (el f (B s.me l) e) (el f (C s.me l) e) := by
  obtain ⟨hdone, htrap⟩ := floatMap_done (pair := isPair f.ty) (n := elemCount f.ty.toNat)
    (val := fun x l => elemF f.ty.toNat op (A x l) (B x l) (C x l)) h fun l => elemF_flags ..
  exact ⟨fun hno => ⟨_, _, hexec, hdone hno, fun l e _ he => elemF_element _ op _ _ _ he⟩,
    fun hyes => hexec.trans (congrArg _ (htrap hyes))⟩

theorem floatOwed_of {can : Nat} (h : Ready s f regs [])
    (hexec : exec i s = .next (s.floatLong can f regs (isPair f.ty) fun x l => elemF f.ty.toNat op (A x l) (B x l) (C x l))) :
    FloatOwed s f i can fun l e => op (fmtOf f.ty.toNat) (el f (A s.me l) e) (el f (B s.me l) e) (el f (C s.me l) e) := by
  obtain ⟨hdone, htrap⟩ := floatLong_done can (pair := isPair f.ty) (n := elemCount f.ty.toNat)
    (val := fun x l => elemF f.ty.toNat op (A x l) (B x l) (C x l)) h fun l => elemF_flags ..
  exact ⟨fun hno => ⟨_, _, hexec, (hdone hno).1, (hdone hno).2, fun l e _ he => elemF_element _ op _ _ _ he⟩,
    fun hyes => hexec.trans (congrArg _ (htrap hyes))⟩

end

/-! ## Classes and comparisons (R118, R119) -/

theorem classBit_lt (f : Fmt) (c : Nat) : classBit f c < 16 := by
  unfold classBit
  split
  · split <;> decide
  · split <;> decide
  · split_ifs <;> decide

theorem valFclass_element (ty a : Nat) {e : Nat} (he : e < elemCount ty) :
    bitsOf (valFclass ty a) (16 * e) 16 = 2 ^ classBit (fmtOf ty) (elemAt ty a e) := by
  have hlt : 2 ^ classBit (fmtOf ty) (elemAt ty a e) < 2 ^ 16 := Nat.pow_lt_pow_right (by decide) (classBit_lt _ _)
  exact (elem_packElems_map he _).trans (Nat.mod_eq_of_lt hlt)

theorem setMask_frame (x : Warp) (k : Nat) (lanes bits : W32) (p : Nat) :
    warpPath (setMask x k lanes bits) p = warpPath x p ∧ laneRest (setMask x k lanes bits) p = laneRest x p ∧
      (setMask x k lanes bits).v = x.v ∧ (setMask x k lanes bits).s = x.s :=
  ⟨warpPath_applyMaskWrites x [⟨k, lanes, bits⟩] p, laneRest_applyMaskWrites x [⟨k, lanes, bits⟩] p,
    applyMaskWrites_v x [⟨k, lanes, bits⟩], applyMaskWrites_s x [⟨k, lanes, bits⟩]⟩

theorem hasLane_maskOf (ls : List Nat) (l : Nat) (hl : l < 32) : hasLane (maskOf ls) l = decide (l ∈ ls) := by
  have hgen (m : W32) : hasLane (ls.foldl (fun m l => m ||| (1#32 <<< l)) m) l = (hasLane m l || decide (l ∈ ls)) := by
    induction ls generalizing m with
    | nil => simp
    | cons k t ih =>
      rw [List.foldl_cons, ih]
      have hbit : hasLane (1#32 <<< k) l = decide (l = k) := by
        simp only [hasLane, BitVec.getLsbD_shiftLeft, BitVec.getLsbD_one]
        rw [Bool.eq_iff_iff]
        simp
        omega
      simp [hasLane] at hbit ⊢
      rw [hbit]
      simp [Bool.or_assoc]
  exact (hgen 0).trans (by simp [hasLane])

/-- A short instruction that writes a mask. -/
theorem writeMask_writes (s : State) (k : Nat) (lanes : W32) (val : Nat → Bool) :
    MaskWrites s (s.writeMask k lanes (maskOf ((lanesOf lanes).filter val))) lanes k val := by
  obtain ⟨hpath, hrest, hv, hs⟩ := setMask_frame s.me k lanes (maskOf ((lanesOf lanes).filter val)) s.cur.path
  have hm : (s.writeMask k lanes (maskOf ((lanesOf lanes).filter val))).me.m =
      (setMask s.me k lanes (maskOf ((lanesOf lanes).filter val))).m := by
    rw [State.writeMask, State.laneDone, State.setMe_me, laneIssued_m]
  have hzero (h0 : k = 0) : (setMask s.me k lanes (maskOf ((lanesOf lanes).filter val))).m = s.me.m := by
    rw [setMask, if_pos h0]
  refine ⟨laneDone_goes hpath hrest, fun l hk hl => ?_, fun l hl => ?_, fun j hj => ?_, fun h0 => hm.trans (hzero h0), ?_, ?_⟩
  · rw [hm, hasLane_setMask _ hk, if_pos ⟨rfl, hl⟩, hasLane_maskOf _ _ (lt_of_hasLane hl)]
    simp [mem_lanesOf, hl]
  · rw [hm]
    by_cases hk : k = 0
    · rw [hzero hk]
    · rw [hasLane_setMask _ hk, if_neg fun h => hl h.2]
  · rw [hm]
    by_cases hk : k = 0
    · rw [hzero hk]
    · rw [setMask, if_neg hk, spGet_spSet, if_neg hj]
  · rw [State.writeMask, State.laneDone, State.setMe_me, laneIssued_v, hv]
  · rw [State.writeMask, State.laneDone, State.setMe_me, laneIssued_s, hs]

theorem valFcmp_flags (ty cc a b : Nat) : (valFcmp ty cc a b).2 = (List.range (elemCount ty)).foldl
    (fun r e => r ||| nvOf [decodeF (fmtOf ty) (elemAt ty a e), decodeF (fmtOf ty) (elemAt ty b e)]) 0 := by
  simp only [valFcmp, List.foldl_map]
  rfl

theorem valFcmp_holds (ty cc a b : Nat) : (valFcmp ty cc a b).1 = true ↔
    ∀ e, e < elemCount ty → condF cc (decodeF (fmtOf ty) (elemAt ty a e)) (decodeF (fmtOf ty) (elemAt ty b e)) = true := by
  simp only [valFcmp, List.all_map, List.all_eq_true, List.mem_range]
  rfl

/-- FCMP writes its lanes' conditions, or traps. -/
theorem fcmp_done {s : State} {f : LaneF} (h : Ready s f (useAB f) (maskSet f.vd.toNat)) :
    let v (l : Nat) := valFcmp f.ty.toNat (f.ctlN 0 3) (opA s.me f l) (opB s.me f l)
    let fl := (lanesOf (act s f)).foldl (fun a l => a ||| (v l).2) 0
    (trapHit s.me.fptraps fl = false → MaskWrites (withFp s fl) (opFcmp f s) (act s f) f.vd.toNat fun l => (v l).1) ∧
    (trapHit s.me.fptraps fl = true → opFcmp f s = (withFp s fl).laneFault 0x08 0 0) := by
  intro v fl
  have hgo : s.lanePre (useAB f) (guardMask f ++ maskD f.vd.toNat) = .go := h
  have hop : opFcmp f s = s.fpEnd fl fun s' =>
      s'.writeMask f.vd.toNat (act s f) (maskOf ((lanesOf (act s f)).filter fun l => (v l).1)) := by
    rw [opFcmp, laneRun_of_go hgo]
    simp only [List.foldl_map, List.filter_map, List.map_map]
    congr
    funext s'
    congr
    exact List.map_id' _
  rw [hop, fpEnd_eq]
  refine ⟨fun htrap => ?_, fun htrap => if_pos htrap⟩
  rw [if_neg (by rw [htrap]; decide)]
  exact writeMask_writes _ _ _ _

theorem floatInstructionsWriteTheirResults : FloatInstructionsWriteTheirResults := by
  intro s f rm fm a b
  refine ⟨fun r hr h => ?_, fun h => floatDone_of (fun fm a b c => valFfma fm rm a b c) (opA · f) (opReg · f) (opC · f) h rfl,
    fun h => floatOwed_of (fun fm a b _ => valFdiv fm rm a b) (opA · f) (opB · f) (fun _ _ => 0) h rfl, fun r hr h => ?_,
    fun h => ?_, fun h => ?_⟩
  · simp only [floatRows, List.mem_cons, List.not_mem_nil, or_false] at hr
    rcases hr with rfl | rfl | rfl | rfl | rfl
    · exact floatDone_of (fun fm a b _ => valFadd fm rm a b) (opA · f) (opB · f) (fun _ _ => 0) h rfl
    · exact floatDone_of (fun fm a b _ => valFsub fm rm a b) (opA · f) (opB · f) (fun _ _ => 0) h rfl
    · exact floatDone_of (fun fm a b _ => valFmul fm rm a b) (opA · f) (opB · f) (fun _ _ => 0) h rfl
    · exact floatDone_of (fun fm a b _ => valFmin fm a b) (opA · f) (opB · f) (fun _ _ => 0) h rfl
    · exact floatDone_of (fun fm a b _ => valFmax fm a b) (opA · f) (opB · f) (fun _ _ => 0) h rfl
  · simp only [floatLongRows, List.mem_cons, List.not_mem_nil, or_false] at hr
    rcases hr with rfl | rfl | rfl | rfl | rfl
    · exact floatOwed_of (fun fm a _ _ => valFsqrt fm rm a) (opA · f) (fun _ _ => 0) (fun _ _ => 0) h rfl
    · exact floatOwed_of (fun fm a _ _ => valFrcp fm rm a) (opA · f) (fun _ _ => 0) (fun _ _ => 0) h rfl
    · exact floatOwed_of (fun fm a _ _ => valFrsq fm rm a) (opA · f) (fun _ _ => 0) (fun _ _ => 0) h rfl
    · exact floatOwed_of (fun fm a _ _ => valFexp2 fm rm a) (opA · f) (fun _ _ => 0) (fun _ _ => 0) h rfl
    · exact floatOwed_of (fun fm a _ _ => valFlog2 fm rm a) (opA · f) (fun _ _ => 0) (fun _ _ => 0) h rfl
  · exact ⟨_, _, rfl, laneMap_writes h _, fun l e _ he => valFclass_element _ _ he⟩
  · obtain ⟨hdone, htrap⟩ := fcmp_done h
    simp only [valFcmp_flags, ← flagsOver_eq] at hdone htrap
    exact ⟨fun hno => ⟨_, _, rfl, hdone hno, fun l _ => valFcmp_holds ..⟩, fun hyes => congrArg _ (htrap hyes)⟩

/-! ## Conversions, rotations and the function table (R120, R121, R125) -/

theorem packElems_lt (bits : Nat) (es : List Nat) : packElems bits es < 2 ^ (bits * es.length) := by
  induction es with
  | nil => simp [packElems]
  | cons e t ih =>
    have he : e % 2 ^ bits < 2 ^ bits := Nat.mod_lt _ (Nat.two_pow_pos bits)
    rw [packElems, List.length_cons, Nat.mul_succ, Nat.pow_add, Nat.mul_comm (2 ^ (bits * t.length))]
    calc e % 2 ^ bits + 2 ^ bits * packElems bits t < 2 ^ bits + 2 ^ bits * packElems bits t := by omega
      _ = 2 ^ bits * (packElems bits t + 1) := by ring
      _ ≤ 2 ^ bits * 2 ^ (bits * t.length) := Nat.mul_le_mul_left _ ih

theorem valFcvt_flags (dst src rm a : Nat) : (valFcvt dst src rm a).2 = (List.range (cvtCount src)).foldl
    (fun r e => r ||| (cvtElem dst src rm (bitsOf a (cvtBits src * e) (cvtBits src))).2) 0 := by
  simp only [valFcvt, orFlags, List.foldl_map]
  rfl

theorem valFcvt_element (dst src rm a : Nat) : (valFcvt dst src rm a).1 < 2 ^ (cvtBits dst * cvtCount src) ∧
    ∀ e, e < cvtCount src → bitsOf (valFcvt dst src rm a).1 (cvtBits dst * e) (cvtBits dst) =
      (cvtElem dst src rm (bitsOf a (cvtBits src * e) (cvtBits src))).1 % 2 ^ cvtBits dst := by
  rw [valFcvt]
  dsimp only
  rw [List.map_map]
  refine ⟨(packElems_lt _ _).trans_eq (by simp), fun e he => elem_packElems_map he _⟩

/-- A lane's rotated pair and flags (R121). -/
def turnedPair (s : State) (f : LaneF) (l : Nat) : Nat × Nat × Nat :=
  let wide := f.ty == 8
  let n := if wide then 32 else 16
  valVrot (fmtOf f.ty.toNat) (f.ctlN 13 3) (bitsOf (readV s.me wide f.va.toNat l) 0 n) (bitsOf (readV s.me wide f.va.toNat l) n n)
    (if f.ab = 1 then (areg s.me f.vb.toNat).toNat % 2 ^ 32 else (vreg s.me f.vb.toNat l).toNat) (areg s.me (f.ctlN 0 3))

/-- The value of a lane's pair. -/
def turnedValue (s : State) (f : LaneF) (l : Nat) : Nat :=
  let n := if f.ty == 8 then 32 else 16
  (turnedPair s f l).1 % 2 ^ n + 2 ^ n * ((turnedPair s f l).2.1 % 2 ^ n)

/-- VROT ends with its lanes' flags. -/
theorem opVrot_eq {s : State} {f : LaneF}
    (h : Ready s f (regsOf (f.ty == 8) f.vd ++ regsOf (f.ty == 8) f.va ++ (if f.ab = 1 then [] else [f.vb.toNat])) []) :
    opVrot f s = s.fpEnd (flagsOver (act s f) 1 fun l _ => (turnedPair s f l).2.2) fun s' =>
      s'.writeRegs ((lanesOf (act s f)).flatMap fun l => resultW (f.ty == 8) f.vd.toNat l (turnedValue s f l)) := by
  have hgo : s.lanePre (regsOf (f.ty == 8) f.vd ++ regsOf (f.ty == 8) f.va ++ (if f.ab = 1 then [] else [f.vb.toNat]))
      (guardMask f) = .go := by simpa [Ready] using h
  rw [opVrot]
  simp only [laneRun_of_go hgo, List.foldl_map, List.flatMap_map, flagsOver_one, packElems, Nat.mul_zero, Nat.add_zero]
  have helem (n x : Nat) : elem n x 0 = bitsOf x 0 n ∧ elem n x 1 = bitsOf x n n := by simp [elem, bitsOf]
  simp only [helem]
  rfl

theorem conversionsRotationsAndTables : ConversionsRotationsAndTables := by
  intro s f
  refine ⟨?_, ?_, ?_⟩
  · intro src n g fl h
    obtain ⟨hdone, htrap⟩ := floatMap_done (pair := isPair f.ty) (n := cvtCount src.toNat) (g := fun l e => (g l e).2)
      (val := fun x l => valFcvt f.ty.toNat src.toNat (f.ctlN 13 3) (readV x (isPair src) f.va.toNat l)) h
      fun l => valFcvt_flags ..
    exact ⟨fun hno => ⟨_, _, rfl, hdone hno, fun l _ => valFcvt_element ..⟩, fun hyes => congrArg _ (htrap hyes)⟩
  · intro wide n turned fl h
    have hop := opVrot_eq h
    rw [fpEnd_eq] at hop
    refine ⟨fun hno => ⟨opVrot f s, turnedValue s f, rfl, ?_, fun l _ => rfl⟩, fun hyes => ?_⟩
    · have hclear : trapHit s.me.fptraps (flagsOver (act s f) 1 fun l _ => (turnedPair s f l).2.2) = false := hno
      rw [hop, if_neg (by rw [hclear]; decide)]
      exact writeRegs_writes _ _ _ _ _
    · exact congrArg _ (hop.trans (if_pos hyes))
  · intro c bank found fl h howner hlaunch
    have hop : opVft f s = s.floatMap f [f.vd.toNat, f.va.toNat] false fun x l =>
        valVft bank (f.ctl.getLsbD 0) (vreg x f.va.toNat l).toNat := by
      have hne : ¬ (c.owner = 0 ∨ c.owner ≠ s.me.launch) := by simp [howner, hlaunch]
      simp only [opVft, ctlN_bit]
      exact if_neg hne
    obtain ⟨hdone, htrap⟩ := floatMap_done (pair := false) (n := 1) (g := fun l _ => (found l).2)
      (val := fun x l => valVft bank (f.ctl.getLsbD 0) (vreg x f.va.toNat l).toNat) h fun l => by simp [found]
    rw [← hop] at hdone htrap
    exact ⟨fun hno => ⟨_, rfl, hdone hno⟩, fun hyes => congrArg _ (htrap hyes)⟩

end Sys2Proof.Machine
end

section
/-! Conversions (R120), and table interpolation (R125). -/

namespace Sys2Proof.Machine

/- Proofs one after another: side by side, each takes the stack of a thread, and those of the whole text reach the
memory limit of the check. -/
set_option Elab.async false
open Sys2Proof.Claims

/-! ## Integers from finite values (R120) -/

theorem isInt_of_between {y z : ℤ} {x : ℚ} (h : |(y : ℚ) - x| ≤ 1 / 2) (h' : |(z : ℚ) - x| ≤ 1 / 2) (hne : y ≠ z) :
    |(y : ℚ) - x| = 1 / 2 ∧ |(z : ℚ) - x| = 1 / 2 ∧ (y = z + 1 ∨ z = y + 1) := by
  rw [abs_le] at h h'
  obtain ⟨h1, h2⟩ := h
  obtain ⟨h3, h4⟩ := h'
  rcases lt_or_gt_of_ne hne with hlt | hlt
  · have hle : (y : ℚ) + 1 ≤ z := by exact_mod_cast hlt
    have hz : (z : ℚ) = y + 1 := by linarith
    refine ⟨?_, ?_, .inr (by exact_mod_cast hz)⟩
    · rw [abs_of_nonpos (by linarith)]
      linarith
    · rw [abs_of_nonneg (by linarith)]
      linarith
  · have hle : (z : ℚ) + 1 ≤ y := by exact_mod_cast hlt
    have hy : (y : ℚ) = z + 1 := by linarith
    refine ⟨?_, ?_, .inl (by exact_mod_cast hy)⟩
    · rw [abs_of_nonneg (by linarith)]
      linarith
    · rw [abs_of_nonpos (by linarith)]
      linarith

/-- Ties away from zero, two integers beside a tie are not both at least as great as it. -/
theorem not_both_away {y : ℤ} {x : ℚ} (h : (y : ℚ) = x - 1 / 2) (hy : |x| ≤ |(y : ℚ)|)
    (hz : |x| ≤ |(y : ℚ) + 1|) : False := by
  have hx : x = y + 1 / 2 := by linarith
  rcases le_or_gt 0 y with h0 | h0
  · have h0' : (0 : ℚ) ≤ y := by exact_mod_cast h0
    rw [hx, abs_of_nonneg (by linarith), abs_of_nonneg h0'] at hy
    linarith
  · have h0' : (y : ℚ) + 1 ≤ 0 := by exact_mod_cast h0
    rw [hx, abs_of_nonpos (by linarith), abs_of_nonpos h0'] at hz
    linarith

/-- A value rounds to one integer. -/
theorem intRounded_unique {rm : Nat} {x : ℚ} {y z : ℤ} (hy : IntRounded rm x y) (hz : IntRounded rm x z) : y = z := by
  have hcast {a b : ℤ} (h : (a : ℚ) < b + 1) : a ≤ b := by
    have : a < b + 1 := by exact_mod_cast h
    omega
  match rm with
  | 0 =>
    by_contra hne
    obtain ⟨h1, h2, h3⟩ := isInt_of_between hy.1 hz.1 hne
    have := hy.2 h1
    have := hz.2 h2
    omega
  | 1 =>
    obtain ⟨hy1, hy2, hy3⟩ := hy
    obtain ⟨hz1, hz2, hz3⟩ := hz
    have habs : |y| = |z| := by
      have h1 : |y| ≤ |z| := hcast (by push_cast; linarith)
      have h2 : |z| ≤ |y| := hcast (by push_cast; linarith)
      omega
    rcases abs_eq_abs.mp habs with h | h
    · exact h
    · rcases eq_or_ne z 0 with rfl | hz0
      · simpa using h
      · have hz0' : (0 : ℚ) < |(z : ℚ)| := abs_pos.mpr (by exact_mod_cast hz0)
        have hx0 : x ≠ 0 := abs_pos.mp (hz0'.trans_le hz1)
        have hy3' : 0 ≤ -(x * z) := by
          rw [h] at hy3
          push_cast at hy3
          linarith
        have hzero : x * z = 0 := by linarith
        rcases mul_eq_zero.mp hzero with h | h
        · exact absurd h hx0
        · exact absurd (by exact_mod_cast h) hz0
  | 2 => exact le_antisymm (hcast (by linarith [hy.2, hz.1])) (hcast (by linarith [hz.2, hy.1]))
  | 3 => exact le_antisymm (hcast (by linarith [hy.1, hz.2])) (hcast (by linarith [hz.1, hy.2]))
  | n + 4 =>
    by_contra hne
    obtain ⟨h1, h2, h3⟩ := isInt_of_between hy.1 hz.1 hne
    have hyx := hy.2 h1
    have hzx := hz.2 h2
    rcases h3 with rfl | rfl
    · push_cast at h1 hyx
      refine not_both_away ?_ hzx hyx
      rcases (abs_eq (by norm_num)).mp h1 with h | h <;> rcases (abs_eq (by norm_num)).mp h2 with h' | h' <;> linarith
    · push_cast at h2 hzx
      refine not_both_away ?_ hyx hzx
      rcases (abs_eq (by norm_num)).mp h1 with h | h <;> rcases (abs_eq (by norm_num)).mp h2 with h' | h' <;> linarith

/-- The integer that a magnitude between `k` and `k + 1` rounds to. -/
noncomputable def roundedInt (rm : Nat) (neg : Bool) (X : ℝ) (k : Nat) : Nat :=
  if goesUp rm neg (k % 2 == 1) X k (k + 1) then k + 1 else k

theorem cast_roundedInt (rm : Nat) (neg : Bool) (X : ℝ) (k : Nat) :
    ((roundedInt rm neg X k : Nat) : ℝ) = chosen rm neg (k % 2 == 1) X k (k + 1) := by
  unfold roundedInt chosen
  split <;> push_cast <;> rfl

/-- A signed integer. -/
def signedInt (neg : Bool) (n : Nat) : ℤ := if neg then -(n : ℤ) else n

theorem cast_signedInt (neg : Bool) (n : Nat) : ((signedInt neg n : ℤ) : ℚ) = signOf neg * n := by
  cases neg <;> simp [signedInt, signOf]

/-- To nearest, the integer chosen is within half of the magnitude, and a tie is what the mode says. -/
theorem roundedInt_nearest {rm : Nat} {neg : Bool} {X : ℝ} {k : Nat} (hk : (k : ℝ) ≤ X ∧ X < k + 1)
    (hnear : Nearest rm neg (k % 2 == 1) X k (k + 1)) :
    |(roundedInt rm neg X k : ℝ) - X| ≤ 1 / 2 ∧
      (|(roundedInt rm neg X k : ℝ) - X| = 1 / 2 → X ≠ k ∧ 2 * X = k + (k + 1)) := by
  obtain ⟨hlo, hhi⟩ := hk
  rw [cast_roundedInt, chosen]
  cases hup : goesUp rm neg (k % 2 == 1) X k (k + 1)
  · have := hnear.stays hup
    rw [if_neg Bool.false_ne_true, abs_sub_comm, abs_of_nonneg (by linarith)]
    exact ⟨by linarith, fun h => ⟨fun h' => by linarith, by linarith⟩⟩
  · have := hnear.up hup
    have hne : X ≠ k := fun h => by rw [h, goesUp_self] at hup; exact Bool.false_ne_true hup
    rw [if_pos rfl, abs_of_nonneg (by linarith)]
    exact ⟨by linarith, fun h => ⟨hne, by linarith⟩⟩

theorem signedInt_even (neg : Bool) {n : Nat} (h : n % 2 = 0) : signedInt neg n % 2 = 0 := by
  cases neg <;> simp only [signedInt, if_true, Bool.false_eq_true, if_false] <;> omega

/-- The integer chosen is the value rounded (R120). -/
theorem intRounded_roundedInt (rm : Nat) (neg : Bool) {M : ℚ} {k : Nat} (hk : (k : ℝ) ≤ M ∧ (M : ℝ) < k + 1) :
    IntRounded rm (signOf neg * M) (signedInt neg (roundedInt rm neg M k)) := by
  have hlo : (k : ℚ) ≤ M := by exact_mod_cast hk.1
  have hhi : M < k + 1 := by exact_mod_cast hk.2
  have hk0 : (0 : ℚ) ≤ k := Nat.cast_nonneg k
  have habs (u w : ℚ) : |signOf neg * u - signOf neg * w| = |u - w| := by
    rw [← mul_sub, abs_mul]
    cases neg <;> simp [signOf]
  have habs0 (u : ℚ) : |signOf neg * u| = |u| := by
    rw [abs_mul]
    cases neg <;> simp [signOf]
  have hdist (N : Nat) : ((|(N : ℚ) - M| : ℚ) : ℝ) = |(N : ℝ) - M| := by push_cast; rfl
  have hhalf : ((1 / 2 : ℚ) : ℝ) = 1 / 2 := by norm_num
  have hcast (N : Nat) : |(N : ℚ) - M| = 1 / 2 ↔ |(N : ℝ) - M| = 1 / 2 := by rw [← hdist, ← hhalf, Rat.cast_inj]
  have hle (N : Nat) : |(N : ℚ) - M| ≤ 1 / 2 ↔ |(N : ℝ) - M| ≤ 1 / 2 := by rw [← hdist, ← hhalf, Rat.cast_le]
  match rm with
  | 0 =>
    have hnear := roundedInt_nearest hk (nearest_even (neg := neg) (odd := k % 2 == 1) hk)
    rw [IntRounded, cast_signedInt, habs]
    refine ⟨(hle _).mpr hnear.1, fun h => signedInt_even neg ?_⟩
    obtain ⟨hne, htie⟩ := hnear.2 ((hcast _).mp h)
    rw [roundedInt, goesUp_even_tie hne htie]
    simp only [beq_iff_eq]
    split <;> omega
  | 1 =>
    rw [IntRounded, cast_signedInt, roundedInt, goesUp_zero, if_neg Bool.false_ne_true, habs0, habs0, abs_of_nonneg hk0,
      abs_of_nonneg (hk0.trans hlo), mul_mul_mul_comm, signOf_mul_self, one_mul]
    exact ⟨hlo, hhi, mul_nonneg (hk0.trans hlo) hk0⟩
  | 2 =>
    rw [IntRounded, cast_signedInt, roundedInt, goesUp_plus]
    cases neg
    · by_cases hM : (M : ℝ) = k
      · have hM' : M = k := by exact_mod_cast hM
        simp [signOf, hM']
      · have hlt : (k : ℚ) < M := lt_of_le_of_ne hlo fun h => hM (by exact_mod_cast h.symm)
        simp [signOf, hM]
        exact ⟨hhi.le, hlt⟩
    · simp [signOf]
      exact ⟨hlo, by linarith⟩
  | 3 =>
    rw [IntRounded, cast_signedInt, roundedInt, goesUp_minus]
    cases neg
    · simp [signOf]
      exact ⟨hlo, hhi⟩
    · by_cases hM : (M : ℝ) = k
      · have hM' : M = k := by exact_mod_cast hM
        simp [signOf, hM']
      · have hlt : (k : ℚ) < M := lt_of_le_of_ne hlo fun h => hM (by exact_mod_cast h.symm)
        simp [signOf, hM]
        exact ⟨by linarith, by linarith⟩
  | n + 4 =>
    have hnear := roundedInt_nearest hk (nearest_away (neg := neg) (odd := k % 2 == 1) (rm := n + 4) (by omega) hk)
    rw [IntRounded, cast_signedInt, habs, habs0, habs0]
    · refine ⟨(hle _).mpr hnear.1, fun h => ?_⟩
      obtain ⟨hne, htie⟩ := hnear.2 ((hcast _).mp h)
      rw [roundedInt, goesUp_away_tie (by omega) hne htie, if_pos rfl, abs_of_nonneg (hk0.trans hlo),
        abs_of_nonneg (by positivity)]
      push_cast
      exact hhi.le
    all_goals omega

/-! ## Conversions into integers and formats (R101, R120) -/

theorem toInt_fin (rm : Nat) (n : Bool) (m : Nat) (e : Int) :
    ∃ k : Nat, ((k : ℝ) ≤ ((m * 2 ^ e : ℚ) : ℝ) ∧ ((m * 2 ^ e : ℚ) : ℝ) < k + 1) ∧
      toInt (.fin n m e) rm =
        (signedInt n (roundedInt rm n (m * 2 ^ e : ℚ) k), !decide (((m * 2 ^ e : ℚ) : ℝ) = k)) := by
  have hcast : ((m * 2 ^ e : ℚ) : ℝ) = (m : ℝ) * 2 ^ e := by push_cast; rfl
  obtain ⟨k, hlo, hhi, hround⟩ := roundTo_eq (b := 0) (q := 0) rm n (.inl rfl : Approximates 0 m e ((m : ℝ) * 2 ^ e))
    fun _ => .inr rfl
  rw [zpow_zero, mul_one] at hlo hhi hround
  rw [mul_one] at hround
  rw [hcast]
  refine ⟨k, ⟨hlo, hhi⟩, ?_⟩
  simp only [toInt, hround]
  rfl

theorem leastOf_eq (ty : Nat) : leastOf ty = intLeast (elemBits ty) (intSigned ty) := by
  unfold leastOf intLeast intSigned
  by_cases h : ty % 2 = 0 <;> simp [h]

theorem greatestOf_eq (ty : Nat) : greatestOf ty = intGreatest (elemBits ty) (intSigned ty) := by
  unfold greatestOf intGreatest intSigned
  by_cases h : ty % 2 = 0 <;> simp [h]

theorem codeOf_eq (ty : Nat) (z : ℤ) : codeOf ty z = intCode (elemBits ty) z := by
  unfold codeOf intCode
  push_cast
  rfl

theorem leastOf_le (ty : Nat) : leastOf ty ≤ greatestOf ty := by
  have h1 : (0 : ℤ) < 2 ^ (elemBits ty - 1) := by positivity
  have h2 : (0 : ℤ) < 2 ^ elemBits ty := by positivity
  unfold leastOf greatestOf
  split_ifs <;> omega

/-- R120: a finite value into an integer type. -/
theorem cvtInt_fin (ty rm : Nat) (n : Bool) (m : Nat) (e : Int) :
    ToInteger ty rm (signOf n * (m : ℚ) * 2 ^ e) (cvtInt (elemBits ty) (intSigned ty) (.fin n m e) rm) := by
  obtain ⟨k, hk, htoInt⟩ := toInt_fin rm n m e
  have hround := intRounded_roundedInt rm n hk
  rw [mul_assoc]
  generalize hM : ((m : ℚ) * 2 ^ e) = M at *
  have hexact : (((signedInt n (roundedInt rm n M k) : ℤ) : ℚ) = signOf n * M) ↔ (M : ℝ) = k := by
    rw [cast_signedInt, mul_right_inj' (signOf_ne_zero n)]
    constructor
    · intro h
      have h' : ((roundedInt rm n M k : Nat) : ℝ) = M := by exact_mod_cast h
      unfold roundedInt at h'
      split at h'
      · push_cast at h'
        linarith [hk.2]
      · exact h'.symm
    · intro h
      rw [roundedInt, h, goesUp_self, if_neg Bool.false_ne_true]
      exact_mod_cast h.symm
  intro z hz
  obtain rfl := intRounded_unique hz hround
  have hle := leastOf_le ty
  simp only [cvtInt, htoInt, ← leastOf_eq, ← greatestOf_eq, ← codeOf_eq]
  generalize signedInt n (roundedInt rm n M k) = z at *
  refine ⟨fun h => by rw [if_pos h]; rfl, fun h => ?_, fun h1 h2 => ?_⟩
  · rw [if_neg (by omega), if_pos h]
    rfl
  · rw [if_neg (by omega), if_neg (by omega)]
    refine ⟨rfl, fun h => ?_, fun h => ?_⟩
    · simp [hexact.mp h]
    · have : ¬ (M : ℝ) = k := fun h' => h (hexact.mpr h')
      simp [this, fNX]

theorem fmtOf_ok (ty : Nat) : (fmtOf ty).Ok := by
  unfold fmtOf
  split <;> exact ⟨by decide, by decide⟩

/-- The value that FCVT converts. -/
theorem convertedValue (src e : Nat) :
    (src ≤ 5 → ∃ m, (ofInt (intVal (cvtBits src) (intSigned src) e) = .fin (decide (readAs src e < 0)) m 0) ∧
      signOf (decide (readAs src e < 0)) * (m : ℚ) * 2 ^ (0 : ℤ) = readAs src e) := by
  intro h
  have hbits : cvtBits src = elemBits src := by simp [cvtBits, cvtInteger, h]
  rw [hbits, intVal_eq_readAs]
  refine ⟨(readAs src e).natAbs, rfl, ?_⟩
  generalize readAs src e = v
  rw [zpow_zero, mul_one, ← Int.cast_natCast]
  rcases lt_or_ge v 0 with hneg | hpos
  · rw [decide_eq_true hneg, signOf, if_pos rfl, Int.ofNat_natAbs_of_nonpos hneg.le]
    push_cast
    ring
  · rw [decide_eq_false hpos.not_gt, signOf, if_neg Bool.false_ne_true, Int.natAbs_of_nonneg hpos, one_mul]

/-- A conversion by the value converted. -/
theorem cvtElem_eq {dst src rm e : Nat} {v : FVal}
    (hv : (if cvtInteger src then ofInt (intVal (cvtBits src) (intSigned src) e) else decodeF (fmtOf src) e) = v) :
    (dst ≤ 5 → cvtElem dst src rm e = cvtInt (elemBits dst) (intSigned dst) v rm) ∧
      (8 ≤ dst → cvtElem dst src rm e = roundCode (fmtOf dst) rm (v, nvOf [v])) := by
  subst hv
  refine ⟨fun h => ?_, fun h => ?_⟩
  · have hd : cvtInteger dst = true := by simp [cvtInteger, h]
    simp only [cvtElem, cvtBits, hd, if_true]
  · have hd : cvtInteger dst = false := by simp [cvtInteger]; omega
    simp only [cvtElem, hd, Bool.false_eq_true, if_false]

/-- A finite value converts to the nearest integer, or is rounded. -/
theorem cvtElem_fin {dst src rm e : Nat} {n : Bool} {m : Nat} {t : Int}
    (hv : (if cvtInteger src then ofInt (intVal (cvtBits src) (intSigned src) e) else decodeF (fmtOf src) e) = .fin n m t) :
    (dst ≤ 5 → ToInteger dst rm (signOf n * (m : ℚ) * 2 ^ t) (cvtElem dst src rm e)) ∧
      (8 ≤ dst → Correct (fmtOf dst) rm ((signOf n * m * 2 ^ t : ℚ) : ℝ) (cvtElem dst src rm e) ∧
        negative (fmtOf dst) (cvtElem dst src rm e).1 = n) := by
  obtain ⟨hint, hfloat⟩ := cvtElem_eq (dst := dst) (rm := rm) hv
  refine ⟨fun h => ?_, fun h => ?_⟩
  · rw [hint h]
    exact cvtInt_fin dst rm n m t
  · rw [hfloat h]
    exact ⟨correct_exact (fmtOf_ok dst) rm rfl, negative_roundCode (fmtOf_ok dst) rm n m t _⟩

/-- No finite value is greater than that of the greatest code. -/
theorem abs_le_largest {f : Fmt} (hf : f.Ok) {c : Nat} {v : ℚ} (h : Denotes f c v) (n : Bool) :
    |v| ≤ |signOf n * codeMag f (largestCode f)| := by
  have habs (k : Bool) (u : ℚ) (hu : 0 ≤ u) : |signOf k * u| = u := by
    rw [abs_mul, abs_of_nonneg hu]
    cases k <;> simp [signOf]
  obtain ⟨hle, rfl⟩ := (denotes_iff hf).mp h
  rw [habs _ _ (codeMag_nonneg f _), habs _ _ (codeMag_nonneg f _)]
  exact (codeMag_strictMono f).monotone hle

theorem row_type : ∀ r ∈ formatRows, 8 ≤ r.1 := by decide

theorem largest_flags : (fOF ||| fNX).testBit 2 = true := by decide

theorem elementsConvert : ElementsConvert := by
  intro src dst rm e hsrc hdst hrm r sf df
  have hfloat (h : 8 ≤ src) : (if cvtInteger src then ofInt (intVal (cvtBits src) (intSigned src) e) else decodeF (fmtOf src) e) =
      decodeF sf e := if_neg (by simp [cvtInteger]; omega)
  refine ⟨fun x hx => ?_, fun h n hinf => ?_, fun h sig hnan => ?_⟩
  · by_cases h5 : src ≤ 5
    · rw [if_pos h5] at hx
      obtain ⟨m, hval, hxm⟩ := convertedValue src e h5
      have hv := (if_pos (by simp [cvtInteger, h5]) : (if cvtInteger src then ofInt (intVal (cvtBits src) (intSigned src) e)
        else decodeF (fmtOf src) e) = _).trans hval
      obtain ⟨hint, hround⟩ := cvtElem_fin (dst := dst) (rm := rm) hv
      rw [hxm, ← hx] at hint hround
      refine ⟨hint, fun h8 => ⟨(hround h8).1, fun h0 => (hround h8).2.trans ?_⟩⟩
      have hz : readAs src e = 0 := by
        rw [h0] at hx
        exact_mod_cast hx.symm
      have h8' : ¬ 8 ≤ src := by omega
      simp [hz, h8']
    · rw [if_neg h5] at hx
      have h8' : 8 ≤ src := by omega
      obtain ⟨m, t, hdec, rfl⟩ := denotes_fin hx
      obtain ⟨hint, hround⟩ := cvtElem_fin (dst := dst) (rm := rm) ((hfloat h8').trans hdec)
      refine ⟨hint, fun h8 => ⟨(hround h8).1, fun _ => (hround h8).2.trans ?_⟩⟩
      simp [h8']
  · obtain ⟨hint, hround⟩ := cvtElem_eq (dst := dst) (rm := rm) ((hfloat h).trans hinf)
    refine ⟨fun h5 => ?_, fun row hrow hty => ?_⟩
    · rw [codeOf_eq, leastOf_eq, greatestOf_eq]
      exact hint h5
    · subst hty
      obtain ⟨hfmt, hok, -, -⟩ := fmtOf_row hrow
      have hspecial : df.special = row.2.2.2.2.1 := congrArg Fmt.special hfmt
      have hr : r = roundCode df rm (.inf n, 0) := hround (row_type row hrow)
      rw [hr, ← hspecial]
      refine ⟨fun h0 => ?_, fun h0 => ?_⟩
      · rw [roundCode_inf h0]
        exact ⟨decodeF_signed_infCode h0 n, rfl⟩
      · have hlargest : roundCode df rm (.inf n, 0) = (signCode df n + largestCode df, fOF ||| fNX) := by
          simp [roundCode, roundF, h0]
        rw [hlargest]
        exact ⟨largest_flags, (signed_code n (largestCode_lt df)).2, _, denotes_signed hok n le_rfl,
          fun c' v' hv' => abs_le_largest hok hv' n⟩
  · obtain ⟨hint, hround⟩ := cvtElem_eq (dst := dst) (rm := rm) ((hfloat h).trans hnan)
    refine ⟨fun h5 => hint h5, fun row hrow hty => ?_⟩
    subst hty
    obtain ⟨hfmt, hok, hq, -⟩ := fmtOf_row hrow
    have hspecial : df.special = row.2.2.2.2.1 := congrArg Fmt.special hfmt
    have hr : r = roundCode df rm (.nan sig, nvOf [.nan sig]) := hround (row_type row hrow)
    rw [hr, ← hspecial, ← hq]
    by_cases h2 : df.special = 2 <;> cases sig <;> simp [roundCode, roundF, nvOf, isSnan, h2, fNV, df]

/-! ## Exact values under the operations, and table interpolation (R125) -/

/-- A decoded operand that stands for a rational. -/
def FVal.Is (d : FVal) (x : ℚ) : Prop := ∃ n m e, d = .fin n m e ∧ signOf n * (m : ℚ) * 2 ^ e = x

theorem is_of_denotes {f : Fmt} {c : Nat} {x : ℚ} (h : Denotes f c x) : (decodeF f c).Is x := by
  obtain ⟨m, e, hdec, rfl⟩ := denotes_fin h
  exact ⟨_, m, e, hdec, rfl⟩

section
variable {a b c : FVal} {x y z : ℚ}

theorem FVal.Is.negF (h : a.Is x) : (negF a).Is (-x) := by
  obtain ⟨n, m, e, rfl, rfl⟩ := h
  exact ⟨!n, m, e, rfl, by rw [signOf_not]; ring⟩

theorem FVal.Is.addF (ha : a.Is x) (hb : b.Is y) (rm : Nat) : ∃ s, addF a b rm = (s, 0) ∧ s.Is (x + y) := by
  obtain ⟨n, m, e, rfl, rfl⟩ := ha
  obtain ⟨k, l, g, rfl, rfl⟩ := hb
  obtain ⟨s, u, t, heq, hval, -⟩ := addF_fin n k m l e g rm
  exact ⟨_, heq, s, u, t, rfl, hval⟩

theorem FVal.Is.mulF (ha : a.Is x) (hb : b.Is y) : ∃ s, mulF a b = (s, 0) ∧ s.Is (x * y) := by
  obtain ⟨n, m, e, rfl, rfl⟩ := ha
  obtain ⟨k, l, g, rfl, rfl⟩ := hb
  obtain ⟨heq, hval⟩ := mulF_fin n k m l e g
  exact ⟨_, heq, _, _, _, rfl, hval⟩

theorem FVal.Is.isNan (h : a.Is x) : isNan a = false := by
  obtain ⟨n, m, e, rfl, -⟩ := h
  rfl

theorem FVal.Is.fmaF (ha : a.Is x) (hb : b.Is y) (hc : c.Is z) (rm : Nat) :
    ∃ s, fmaF a b c rm = (s, 0) ∧ s.Is (x * y + z) := by
  obtain ⟨p, hmul, hp⟩ := ha.mulF hb
  obtain ⟨s, hadd, hs⟩ := hp.addF hc rm
  exact ⟨s, by simp [Machine.fmaF, ha.isNan, hb.isNan, hc.isNan, hp.isNan, hmul, hadd], hs⟩

theorem FVal.Is.correct {f : Fmt} (hf : f.Ok) (rm : Nat) (h : a.Is x) : Correct f rm x (roundCode f rm (a, 0)) := by
  obtain ⟨n, m, e, rfl, hx⟩ := h
  exact correct_exact hf rm hx

end

/-- The fraction of an entry's index. -/
theorem fraction_is (m : Nat) : (FVal.fin false m (-24)).Is ((m : ℚ) / 2 ^ 24) :=
  ⟨false, m, -24, rfl, by norm_num [signOf, div_eq_mul_inv]⟩

theorem fmtF32_ok : fmtF32.Ok := ⟨by decide, by decide⟩

theorem tablesInterpolate : TablesInterpolate := by
  intro bank wrap a x y ha i j phi hx hy
  have hlt : i < 256 := by omega
  have hi : a / 2 ^ 24 % 256 = i := Nat.mod_eq_of_lt hlt
  have hj : (if i = 255 then (if wrap then 0 else 255) else i + 1) = j := by
    simp only [j, show i + 1 = 256 ↔ i = 255 by omega]
  have hix := is_of_denotes hx
  obtain ⟨s, hsub, hs⟩ := (is_of_denotes hy).addF hix.negF 0
  rw [← sub_eq_add_neg] at hs
  refine ⟨(roundCode fmtF32 0 (s, 0)).1, (roundCode fmtF32 0 (s, 0)).2,
    (roundCode fmtF32 0 (fmaF (.fin false (a % 2 ^ 24) (-24)) (decodeF fmtF32 (roundCode fmtF32 0 (s, 0)).1)
      (decodeF fmtF32 (spGet bank i).toNat) 0)).2, by exact_mod_cast hs.correct fmtF32_ok 0, ?_, fun z hz => ?_⟩
  · simp only [valVft, hi, hj, hsub]
  · obtain ⟨p, hfma, hp⟩ := (fraction_is (a % 2 ^ 24)).fmaF (is_of_denotes hz) hix 0
    have hcor := hp.correct fmtF32_ok 0
    simp only [valVft, hi, hj, hsub, hfma]
    exact_mod_cast hcor

/-! ## One coordinate of a rotation (R121) -/

theorem rotOne_nan {f : Fmt} {rm : Nat} {p c q s : FVal} (minus : Bool) (h : isNan p = true ∨ isNan q = true) :
    (rotOne f rm p c q s minus).1 = (roundCode f rm (.nan false, 0)).1 := by
  have hor : (isNan p || isNan q) = true := by simpa using h
  rw [rotOne, if_pos hor]
  rfl

theorem rotOne_finite {f : Fmt} (hf : f.Ok) (rm : Nat) {p c q s : FVal} {x u y v : ℚ} (hp : p.Is x) (hc : c.Is u)
    (hq : q.Is y) (hs : s.Is v) (minus : Bool) :
    Correct f rm (x * u + (if minus then -(y * v) else y * v) : ℚ) (rotOne f rm p c q s minus) := by
  obtain ⟨k, hk, hxk⟩ := hp.mulF hc
  obtain ⟨l, hl, hxl⟩ := hq.mulF hs
  have hterm : (if minus then negF l else l).Is (if minus then -(y * v) else y * v) := by
    cases minus
    · exact hxl
    · exact hxl.negF
  obtain ⟨w, hw, hxw⟩ := hxk.addF hterm rm
  have hrot : rotOne f rm p c q s minus = roundCode f rm (w, 0) := by
    simp [rotOne, hp.isNan, hq.isNan, hk, hl, hxk.isNan, hxl.isNan, hw]
  rw [hrot]
  exact hxw.correct hf rm

end Sys2Proof.Machine
end

section
/-! O53: the model's cosine and sine against the exact ones (R121, log 11), and the statement. -/

namespace Sys2Proof.Machine

/- Proofs one after another: side by side, each takes the stack of a thread, and those of the whole text reach the
memory limit of the check. -/
set_option Elab.async false
open Sys2Proof.Claims

/-! ## The series of the sine and the cosine (R121, log 11)

The model sums 25 terms of each series in units of 2^-192. A term of the model differs from the exact one by at most four units, and
the first term left out bounds what the sum leaves out. -/

/-- The magnitude of a term of the cosine's series (k = 0) or of the sine's (k = 1). -/
noncomputable def seriesTerm (k : Nat) (X : ℝ) (i : Nat) : ℝ := X ^ (2 * i + k) / (2 * i + k).factorial

/-- The sum of the first terms, with alternating signs. -/
noncomputable def seriesSum (k : Nat) (X : ℝ) (n : Nat) : ℝ := ∑ i ∈ Finset.range n, (-1) ^ i * seriesTerm k X i

theorem div_bounds (a : Nat) {b : Nat} (hb : 0 < b) : ((a / b : Nat) : ℝ) ≤ (a : ℝ) / b ∧
    (a : ℝ) / b < (a / b : Nat) + 1 := by
  rw [← Nat.floor_div_eq_div (K := ℝ)]
  exact ⟨Nat.floor_le (by positivity), Nat.lt_floor_add_one _⟩

theorem div_close (a : Nat) {b : Nat} (hb : 0 < b) : |((a / b : Nat) : ℝ) - (a : ℝ) / b| ≤ 1 := by
  obtain ⟨hlo, hhi⟩ := div_bounds a hb
  rw [abs_sub_le_iff]
  constructor <;> linarith

section
variable {k : Nat} {X : ℝ}

theorem seriesTerm_succ (i : Nat) :
    seriesTerm k X (i + 1) = seriesTerm k X i * X ^ 2 / (((2 * i + k + 1) * (2 * i + k + 2) : Nat) : ℝ) := by
  have hfac : (2 * (i + 1) + k).factorial = (2 * i + k + 1) * (2 * i + k + 2) * (2 * i + k).factorial := by
    rw [show 2 * (i + 1) + k = 2 * i + k + 1 + 1 by ring, Nat.factorial_succ, Nat.factorial_succ]
    ring
  have hpos : ((2 * i + k).factorial : ℝ) ≠ 0 := by positivity
  rw [seriesTerm, seriesTerm, hfac, Nat.cast_mul, show 2 * (i + 1) + k = 2 * i + k + 2 by ring, pow_add]
  field_simp

variable (h0 : 0 ≤ X) (h1 : X ≤ 1)
include h0

theorem seriesTerm_nonneg (i : Nat) : 0 ≤ seriesTerm k X i := by unfold seriesTerm; positivity

include h1

theorem seriesTerm_antitone : Antitone (seriesTerm k X) := antitone_nat_of_succ_le fun i => by
  have hnn := seriesTerm_nonneg (k := k) h0 i
  have hsq : X ^ 2 ≤ 1 := pow_le_one₀ h0 h1
  have hden : (1 : ℝ) ≤ (((2 * i + k + 1) * (2 * i + k + 2) : Nat) : ℝ) := by
    exact_mod_cast Nat.succ_le_of_lt (by positivity)
  rw [seriesTerm_succ]
  calc seriesTerm k X i * X ^ 2 / _ ≤ seriesTerm k X i * X ^ 2 := div_le_self (by positivity) hden
    _ ≤ seriesTerm k X i := mul_le_of_le_one_right hnn hsq

theorem seriesTerm_le (i : Nat) : seriesTerm k X i ≤ 1 / (2 * i).factorial := by
  have hfac : ((2 * i).factorial : ℝ) ≤ (2 * i + k).factorial := by exact_mod_cast Nat.factorial_le (by omega)
  exact div_le_div₀ zero_le_one (pow_le_one₀ h0 h1) (by positivity) hfac

/-- An alternating series is off by at most the first term left out. -/
theorem seriesSum_close {l : ℝ} (hl : Filter.Tendsto (seriesSum k X) Filter.atTop (nhds l)) :
    |seriesSum k X 25 - l| ≤ 1 / 2 ^ 200 := by
  have hanti := seriesTerm_antitone (k := k) h0 h1
  have hhi : l ≤ seriesSum k X (2 * 12 + 1) := hanti.tendsto_le_alternating_series hl 12
  have hlo : seriesSum k X (2 * 13) ≤ l := hanti.alternating_series_le_tendsto hl 13
  have hnext : seriesSum k X 26 = seriesSum k X 25 - seriesTerm k X 25 := by
    rw [seriesSum, Finset.sum_range_succ, ← seriesSum, Odd.neg_one_pow (by decide)]
    ring
  have hterm : seriesTerm k X 25 ≤ 1 / 2 ^ 200 := by
    have hfac : (2 : ℝ) ^ 200 ≤ (2 * 25).factorial := by exact_mod_cast (by decide : 2 ^ 200 ≤ (2 * 25).factorial)
    exact (seriesTerm_le h0 h1 25).trans (one_div_le_one_div_of_le (by positivity) hfac)
  rw [abs_sub_le_iff]
  constructor <;> linarith

/-- One more term: the error of a term stays within four units. -/
theorem term_close {B T x2 i : Nat} (hB : 0 < B) (hx2 : (x2 : ℝ) ≤ B * X ^ 2 ∧ B * X ^ 2 ≤ x2 + 1)
    (hT : |(T : ℝ) - B * seriesTerm k X i| ≤ 4) :
    |((T * x2 / B / ((2 * i + k + 1) * (2 * i + k + 2)) : Nat) : ℝ) - B * seriesTerm k X (i + 1)| ≤ 4 := by
  obtain ⟨hlo2, hhi2⟩ := hx2
  have hBpos : (0 : ℝ) < B := by exact_mod_cast hB
  have hnn := seriesTerm_nonneg (k := k) h0 i
  have hle : seriesTerm k X i ≤ 1 := (seriesTerm_le h0 h1 i).trans (by
    have : (1 : ℝ) ≤ (2 * i).factorial := by exact_mod_cast Nat.factorial_pos _
    exact (div_le_one (by positivity)).mpr this)
  have hsq : X ^ 2 ≤ 1 := pow_le_one₀ h0 h1
  have hx2B : (x2 : ℝ) / B ≤ 1 := (div_le_one hBpos).mpr (hlo2.trans (mul_le_of_le_one_right hBpos.le hsq))
  rw [seriesTerm_succ, Nat.div_div_eq_div_mul]
  have hden : 2 ≤ (2 * i + k + 1) * (2 * i + k + 2) := le_mul_of_one_le_of_le (by omega) (by omega)
  generalize (2 * i + k + 1) * (2 * i + k + 2) = D at *
  have hDpos : (2 : ℝ) ≤ D := by exact_mod_cast hden
  have hprod : |(T : ℝ) * (x2 / B) - B * (seriesTerm k X i * X ^ 2)| ≤ 5 := by
    have hsplit : (T : ℝ) * (x2 / B) - B * (seriesTerm k X i * X ^ 2) =
        (T - B * seriesTerm k X i) * (x2 / B) - seriesTerm k X i * (B * X ^ 2 - x2) := by
      field_simp
      ring
    have hleft : |(T - B * seriesTerm k X i) * ((x2 : ℝ) / B)| ≤ 4 := by
      rw [abs_mul, abs_of_nonneg (by positivity : (0 : ℝ) ≤ x2 / B)]
      exact (mul_le_of_le_one_right (abs_nonneg _) hx2B).trans hT
    have hright : |seriesTerm k X i * (B * X ^ 2 - x2)| ≤ 1 := by
      rw [abs_mul, abs_of_nonneg hnn, abs_of_nonneg (by linarith)]
      exact mul_le_one₀ hle (by linarith) (by linarith)
    rw [hsplit]
    exact (abs_sub _ _).trans (by linarith)
  have hquot : |((T * x2 : Nat) : ℝ) / ((B * D : Nat) : ℝ) - B * (seriesTerm k X i * X ^ 2 / D)| ≤ 5 / 2 := by
    have hscale : ((T * x2 : Nat) : ℝ) / ((B * D : Nat) : ℝ) - B * (seriesTerm k X i * X ^ 2 / D) =
        (T * (x2 / B) - B * (seriesTerm k X i * X ^ 2)) / D := by
      push_cast
      field_simp
    rw [hscale, abs_div, abs_of_pos (by linarith : (0 : ℝ) < D)]
    exact div_le_div₀ (by norm_num) hprod (by norm_num) hDpos
  have hfloor := div_close (T * x2) (b := B * D) (by positivity)
  calc |((T * x2 / (B * D) : Nat) : ℝ) - B * (seriesTerm k X i * X ^ 2 / D)| ≤ _ := abs_sub_le _ _ _
    _ ≤ 1 + 5 / 2 := add_le_add hfloor hquot
    _ ≤ 4 := by norm_num

/-- The model's sum is within four units of the exact one for each term it adds. -/
theorem taylor_close {x2 : Nat} (hx2 : (x2 : ℝ) ≤ 2 ^ tBits * X ^ 2 ∧ 2 ^ tBits * X ^ 2 ≤ x2 + 1) (fuel : Nat) :
    ∀ {i T : Nat} {acc : Int} {neg : Bool} {E : ℝ}, |(T : ℝ) - 2 ^ tBits * seriesTerm k X i| ≤ 4 →
      signOf neg = (-1) ^ (i + 1) → |(acc : ℝ) - 2 ^ tBits * seriesSum k X (i + 1)| ≤ E →
      |(taylor fuel (2 * i + k) T x2 acc neg : ℝ) - 2 ^ tBits * seriesSum k X (i + 1 + fuel)| ≤ E + 4 * fuel := by
  induction fuel with
  | zero =>
    intro i T acc neg E _ _ hacc
    simpa [taylor] using hacc
  | succ fuel ih =>
    intro i T acc neg E hT hneg hacc
    have hB : ((2 ^ tBits : Nat) : ℝ) = 2 ^ tBits := by push_cast; rfl
    have hnext := term_close h0 h1 (Nat.two_pow_pos tBits) (hB ▸ hx2) (hB ▸ hT)
    rw [hB] at hnext
    rw [taylor]
    generalize T * x2 / 2 ^ tBits / ((2 * i + k + 1) * (2 * i + k + 2)) = t at hnext
    have hcast : (((if neg then acc - t else acc + t) : Int) : ℝ) = acc + signOf neg * t := by
      cases neg <;> simp [signOf, sub_eq_add_neg]
    have hsign : ((signOf neg : ℚ) : ℝ) = (-1) ^ (i + 1) := by rw [hneg]; push_cast; rfl
    have hsum : |(((if neg then acc - t else acc + t) : Int) : ℝ) - 2 ^ tBits * seriesSum k X (i + 1 + 1)| ≤ E + 4 := by
      rw [hcast, hsign, seriesSum, Finset.sum_range_succ, ← seriesSum]
      have hsplit : (acc : ℝ) + (-1) ^ (i + 1) * t -
          2 ^ tBits * (seriesSum k X (i + 1) + (-1) ^ (i + 1) * seriesTerm k X (i + 1)) =
          (acc - 2 ^ tBits * seriesSum k X (i + 1)) + (-1) ^ (i + 1) * (t - 2 ^ tBits * seriesTerm k X (i + 1)) := by ring
      rw [hsplit]
      refine (abs_add_le _ _).trans (add_le_add hacc ?_)
      rw [abs_mul, abs_pow, abs_neg, abs_one, one_pow, one_mul]
      exact hnext
    have hnot : signOf (!neg) = (-1) ^ (i + 1 + 1) := by rw [signOf_not, hneg, pow_succ _ (i + 1)]; ring
    have h := ih hnext hnot hsum
    rw [show 2 * (i + 1) + k = 2 * i + k + 2 by ring, show i + 1 + 1 + fuel = i + 1 + (fuel + 1) by ring] at h
    refine h.trans_eq ?_
    push_cast
    ring

end

/-- The angle of the model's series, in units of 2^-192. -/
def angleUnits (t : Nat) : Nat := 2 * piBits * t / 2 ^ (256 + 48 - tBits)

/-- The angle itself. -/
noncomputable def modelAngle (t : Nat) : ℝ := (angleUnits t : ℝ) / 2 ^ tBits

theorem angleUnits_le {t : Nat} (ht : t ≤ 2 ^ 45) : angleUnits t ≤ 2 ^ tBits := by
  calc angleUnits t ≤ 2 * piBits * 2 ^ 45 / 2 ^ (256 + 48 - tBits) := Nat.div_le_div_right (Nat.mul_le_mul_left _ ht)
    _ ≤ 2 ^ tBits := by decide

theorem modelAngle_bounds {t : Nat} (ht : t ≤ 2 ^ 45) : 0 ≤ modelAngle t ∧ modelAngle t ≤ 1 := by
  have h : (angleUnits t : ℝ) ≤ 2 ^ tBits := by exact_mod_cast angleUnits_le ht
  exact ⟨by unfold modelAngle; positivity, (div_le_one (by positivity)).mpr h⟩

/-- A sum of the model against the function that its series goes to. -/
theorem taylor_limit {t k T : Nat} (ht : t ≤ 2 ^ 45) {l : ℝ} (hT : (T : ℝ) = 2 ^ tBits * seriesTerm k (modelAngle t) 0)
    (hl : Filter.Tendsto (seriesSum k (modelAngle t)) Filter.atTop (nhds l)) :
    |(taylor 24 k T (angleUnits t * angleUnits t / 2 ^ tBits) T true : ℝ) / 2 ^ tBits - l| ≤ 1 / 2 ^ 184 := by
  obtain ⟨h0, h1⟩ := modelAngle_bounds ht
  have hsq : (2 : ℝ) ^ tBits * modelAngle t ^ 2 = (angleUnits t * angleUnits t : Nat) / (2 ^ tBits : Nat) := by
    unfold modelAngle
    push_cast
    field_simp
  have hx2 := div_bounds (angleUnits t * angleUnits t) (Nat.two_pow_pos tBits)
  rw [← hsq] at hx2
  have hacc : |((T : Int) : ℝ) - 2 ^ tBits * seriesSum k (modelAngle t) (0 + 1)| ≤ 0 := by
    simp [seriesSum, hT]
  have h := taylor_close h0 h1 ⟨hx2.1, hx2.2.le⟩ 24 (i := 0) (T := T) (neg := true) (by norm_num [hT]) (by simp [signOf]) hacc
  rw [Nat.mul_zero, Nat.zero_add, Nat.zero_add] at h
  have hclose := seriesSum_close h0 h1 hl
  have hscale (x : ℝ) : x / 2 ^ tBits - l = (x - 2 ^ tBits * seriesSum k (modelAngle t) 25) / 2 ^ tBits +
      (seriesSum k (modelAngle t) 25 - l) := by field_simp; ring
  rw [hscale]
  refine (abs_add_le _ _).trans ((add_le_add ?_ hclose).trans (by norm_num [tBits] : (96 : ℝ) / 2 ^ tBits + 1 / 2 ^ 200 ≤ _))
  rw [abs_div, abs_of_pos (by positivity : (0 : ℝ) < 2 ^ tBits)]
  exact div_le_div_of_nonneg_right (h.trans_eq (by norm_num)) (by positivity)

theorem cosSinSmall_eq (t : Nat) : cosSinSmall t =
    (taylor 24 0 (2 ^ tBits) (angleUnits t * angleUnits t / 2 ^ tBits) (2 ^ tBits : Nat) true,
      taylor 24 1 (angleUnits t) (angleUnits t * angleUnits t / 2 ^ tBits) (angleUnits t) true) := rfl

/-- The model's cosine and sine of the angle that it takes. -/
theorem cosSinSmall_close {t : Nat} (ht : t ≤ 2 ^ 45) :
    |((cosSinSmall t).1 : ℝ) / 2 ^ tBits - Real.cos (modelAngle t)| ≤ 1 / 2 ^ 184 ∧
      |((cosSinSmall t).2 : ℝ) / 2 ^ tBits - Real.sin (modelAngle t)| ≤ 1 / 2 ^ 184 := by
  have hcos : Filter.Tendsto (seriesSum 0 (modelAngle t)) Filter.atTop (nhds (Real.cos (modelAngle t))) :=
    (Real.hasSum_cos (modelAngle t)).tendsto_sum_nat.congr fun n => Finset.sum_congr rfl fun i _ => mul_div_assoc _ _ _
  have hsin : Filter.Tendsto (seriesSum 1 (modelAngle t)) Filter.atTop (nhds (Real.sin (modelAngle t))) :=
    (Real.hasSum_sin (modelAngle t)).tendsto_sum_nat.congr fun n => Finset.sum_congr rfl fun i _ => mul_div_assoc _ _ _
  rw [cosSinSmall_eq]
  constructor
  · exact taylor_limit ht (by simp [seriesTerm]) hcos
  · exact taylor_limit ht (by simp [seriesTerm, modelAngle]; field_simp) hsin

/-! ## The model's π (log 11)

Where the model takes one eighth of a turn, its sine and its cosine agree but for a few units. The angle that it takes is so close to
π/4, and its π to π. -/

theorem eighth_agrees : (cosSinSmall (2 ^ 45)).1 ≤ (cosSinSmall (2 ^ 45)).2 + 2 ^ 8 ∧
    (cosSinSmall (2 ^ 45)).2 ≤ (cosSinSmall (2 ^ 45)).1 + 2 ^ 8 := by decide

theorem cos_sub_sin_eighth : |Real.cos (modelAngle (2 ^ 45)) - Real.sin (modelAngle (2 ^ 45))| ≤ 3 / 2 ^ 184 := by
  obtain ⟨hc, hs⟩ := cosSinSmall_close le_rfl
  obtain ⟨hle, hge⟩ := eighth_agrees
  generalize cosSinSmall (2 ^ 45) = p at *
  have hle' : (p.1 : ℝ) ≤ p.2 + 2 ^ 8 := by exact_mod_cast hle
  have hge' : (p.2 : ℝ) ≤ p.1 + 2 ^ 8 := by exact_mod_cast hge
  have hdiff : |(p.1 : ℝ) / 2 ^ tBits - p.2 / 2 ^ tBits| ≤ 1 / 2 ^ 184 := by
    rw [← sub_div, abs_div, abs_of_pos (by positivity : (0 : ℝ) < 2 ^ tBits), div_le_iff₀ (by positivity), abs_sub_le_iff]
    norm_num [tBits] at hle' hge' ⊢
    constructor <;> linarith
  rw [abs_sub_le_iff] at *
  constructor <;> linarith

/-- An angle up to one whose sine and cosine are close is close to π/4. -/
theorem eighth_close {q : ℝ} (h0 : 0 ≤ q) (h1 : q ≤ 1) : |Real.pi / 4 - q| ≤ 2 * |Real.cos q - Real.sin q| := by
  have hpi3 := Real.pi_gt_three
  have hpi4 := Real.pi_lt_four
  have hsmall : |Real.pi / 4 - q| ≤ Real.pi / 2 := by
    rw [abs_sub_le_iff]
    constructor <;> linarith
  have hsin : Real.sin (Real.pi / 4 - q) = √2 / 2 * (Real.cos q - Real.sin q) := by
    rw [Real.sin_sub, Real.sin_pi_div_four, Real.cos_pi_div_four]
    ring
  have hroot : |√2 / 2| ≤ (1 : ℝ) := by
    have : √2 ≤ (2 : ℝ) := Real.sqrt_le_iff.mpr ⟨by norm_num, by norm_num⟩
    rw [abs_of_nonneg (by positivity)]
    linarith
  have hjordan := Real.mul_abs_le_abs_sin hsmall
  have hhalf : 1 / 2 ≤ 2 / Real.pi := by
    rw [div_le_div_iff₀ (by norm_num) Real.pi_pos]
    linarith
  have hle : |Real.sin (Real.pi / 4 - q)| ≤ |Real.cos q - Real.sin q| := by
    rw [hsin, abs_mul]
    exact mul_le_of_le_one_left (abs_nonneg _) hroot
  have := mul_le_mul_of_nonneg_right hhalf (abs_nonneg (Real.pi / 4 - q))
  linarith

theorem modelAngle_units (t : Nat) : |modelAngle t - 2 * (piBits / 2 ^ 256) * (t / 2 ^ 48)| ≤ 1 / 2 ^ tBits := by
  have h := div_close (2 * piBits * t) (Nat.two_pow_pos (256 + 48 - tBits))
  have hsplit : modelAngle t - 2 * (piBits / 2 ^ 256) * (t / 2 ^ 48) =
      ((angleUnits t : ℝ) - (2 * piBits * t : Nat) / (2 ^ (256 + 48 - tBits) : Nat)) / 2 ^ tBits := by
    simp only [modelAngle, tBits]
    push_cast
    field_simp
    norm_num
    ring
  rw [hsplit, abs_div, abs_of_pos (by positivity : (0 : ℝ) < 2 ^ tBits)]
  exact div_le_div_of_nonneg_right h (by positivity)

theorem piBits_close : |Real.pi / 4 - piBits / 2 ^ 256 / 4| ≤ 1 / 2 ^ 180 := by
  obtain ⟨h0, h1⟩ := modelAngle_bounds (le_refl (2 ^ 45))
  have hangle := (eighth_close h0 h1).trans (mul_le_mul_of_nonneg_left cos_sub_sin_eighth zero_le_two)
  have hunits := modelAngle_units (2 ^ 45)
  have heighth : 2 * ((piBits : ℝ) / 2 ^ 256) * (((2 ^ 45 : Nat) : ℝ) / 2 ^ 48) = piBits / 2 ^ 256 / 4 := by
    push_cast
    ring
  rw [heighth] at hunits
  refine (abs_sub_le _ _ _).trans ((add_le_add hangle hunits).trans ?_)
  norm_num [tBits]

/-- The angle of the model is that of the position, up to one eighth of a turn. -/
theorem modelAngle_close {t : Nat} (ht : t ≤ 2 ^ 45) : |modelAngle t - 2 * Real.pi * (t / 2 ^ 48)| ≤ 1 / 2 ^ 179 := by
  have hunits := modelAngle_units t
  have hpi := piBits_close
  have hturn : (8 : ℝ) * (t / 2 ^ 48) ≤ 1 := by
    have : (t : ℝ) ≤ 2 ^ 45 := by exact_mod_cast ht
    linarith
  have hrest : |2 * ((piBits : ℝ) / 2 ^ 256) * (t / 2 ^ 48) - 2 * Real.pi * (t / 2 ^ 48)| ≤ 1 / 2 ^ 180 := by
    have hfactor : 2 * ((piBits : ℝ) / 2 ^ 256) * (t / 2 ^ 48) - 2 * Real.pi * (t / 2 ^ 48) =
        8 * (t / 2 ^ 48) * -(Real.pi / 4 - piBits / 2 ^ 256 / 4) := by ring
    rw [hfactor, abs_mul, abs_neg, abs_of_nonneg (by positivity)]
    exact (mul_le_of_le_one_left (abs_nonneg _) hturn).trans hpi
  refine (abs_sub_le _ _ _).trans ((add_le_add hunits hrest).trans ?_)
  norm_num [tBits]

/-! ## The cosine and the sine of a position (R121) -/

/-- The value of a component of the model's series, as an operand. -/
theorem component_is (x : Int) : (jam false x.toNat (-(tBits : Int)) true).Is ((2 * x.toNat + 1) / 2 ^ 193) :=
  ⟨false, 2 * x.toNat + 1, -193, rfl, by
    rw [zpow_neg]
    push_cast [signOf]
    norm_num [div_eq_mul_inv]⟩

/-- Its distance from a value that is not negative. -/
theorem component_close {x : Int} {y d : ℝ} (hy : 0 ≤ y) (h : |(x : ℝ) / 2 ^ tBits - y| ≤ d) :
    |(((2 * x.toNat + 1) / 2 ^ 193 : ℚ) : ℝ) - y| ≤ d + 1 / 2 ^ 193 := by
  have hcast : (((2 * x.toNat + 1) / 2 ^ 193 : ℚ) : ℝ) = (x.toNat : ℝ) / 2 ^ tBits + 1 / 2 ^ 193 := by
    push_cast
    norm_num [tBits]
    ring
  have hclip : |(x.toNat : ℝ) / 2 ^ tBits - y| ≤ d := by
    rcases le_total 0 x with hx | hx
    · have : ((x.toNat : ℤ) : ℝ) = x := by rw [Int.toNat_of_nonneg hx]
      rw [Int.cast_natCast] at this
      rwa [this]
    · have hneg : (x : ℝ) / 2 ^ tBits ≤ 0 := div_nonpos_of_nonpos_of_nonneg (by exact_mod_cast hx) (by positivity)
      rw [Int.toNat_eq_zero.mpr hx]
      rw [abs_sub_le_iff] at h
      rw [Nat.cast_zero, zero_div, zero_sub, abs_neg, abs_of_nonneg hy]
      linarith
  rw [hcast, add_sub_right_comm]
  refine (abs_add_le _ _).trans (add_le_add hclip ?_)
  rw [abs_of_pos (by positivity)]

/-- The angle of a position (R121). -/
noncomputable def turnAngle (t : Nat) : ℝ := 2 * Real.pi * ((t : ℝ) / 2 ^ 48)

/-- Operands for the cosine and the sine of an angle, exact ones where `exact` holds. -/
def CosSinOf (angle : ℝ) (exact : Prop) (p : FVal × FVal) : Prop :=
  ∃ zc zs : ℚ, p.1.Is zc ∧ p.2.Is zs ∧ |(zc : ℝ) - Real.cos angle| ≤ 1 / 2 ^ 150 ∧
    |(zs : ℝ) - Real.sin angle| ≤ 1 / 2 ^ 150 ∧
    (exact → (zc : ℝ) = Real.cos angle ∧ (zs : ℝ) = Real.sin angle)

/-- The components that the model takes up to one eighth of a turn. -/
def smallOperands (t : Nat) : FVal × FVal :=
  (jam false (cosSinSmall t).1.toNat (-(tBits : Int)) true, jam false (cosSinSmall t).2.toNat (-(tBits : Int)) true)

theorem turnAngle_eighth {t : Nat} (ht : t ≤ 2 ^ 45) : 0 ≤ turnAngle t ∧ turnAngle t ≤ Real.pi / 4 := by
  have hpi := Real.pi_pos
  have hle : (t : ℝ) / 2 ^ 48 ≤ 1 / 8 := by
    have : (t : ℝ) ≤ 2 ^ 45 := by exact_mod_cast ht
    linarith
  refine ⟨by unfold turnAngle; positivity, ?_⟩
  have := mul_le_mul_of_nonneg_left hle (by positivity : 0 ≤ 2 * Real.pi)
  unfold turnAngle
  linarith

theorem smallOperands_close {t : Nat} (ht : t ≤ 2 ^ 45) : CosSinOf (turnAngle t) False (smallOperands t) := by
  obtain ⟨hc, hs⟩ := cosSinSmall_close ht
  have hangle : |modelAngle t - turnAngle t| ≤ 1 / 2 ^ 179 := modelAngle_close ht
  obtain ⟨h0, h1⟩ := turnAngle_eighth ht
  have hpi := Real.pi_pos
  have hcos : 0 ≤ Real.cos (turnAngle t) := Real.cos_nonneg_of_mem_Icc ⟨by linarith, by linarith⟩
  have hsin : 0 ≤ Real.sin (turnAngle t) := Real.sin_nonneg_of_mem_Icc ⟨by linarith, by linarith⟩
  have hc' := (abs_sub_le _ _ _).trans (add_le_add hc ((Real.abs_cos_sub_cos_le _ _).trans hangle))
  have hs' := (abs_sub_le _ _ _).trans (add_le_add hs ((Real.abs_sin_sub_sin_le _ _).trans hangle))
  have hsum : (1 : ℝ) / 2 ^ 184 + 1 / 2 ^ 179 + 1 / 2 ^ 193 ≤ 1 / 2 ^ 150 := by norm_num
  exact ⟨_, _, component_is _, component_is _, (component_close hcos hc').trans hsum,
    (component_close hsin hs').trans hsum, False.elim⟩

section
variable {θ : ℝ} {exact : Prop} {c s : FVal}

/-- The cosine of what is left to a quarter of a turn is the sine. -/
theorem CosSinOf.reflect (h : CosSinOf θ exact (c, s)) : CosSinOf (Real.pi / 2 - θ) exact (s, c) := by
  obtain ⟨zc, zs, hc, hs, hzc, hzs, hex⟩ := h
  refine ⟨zs, zc, hs, hc, ?_, ?_, fun h => ?_⟩
  · rwa [Real.cos_pi_div_two_sub]
  · rwa [Real.sin_pi_div_two_sub]
  · rw [Real.cos_pi_div_two_sub, Real.sin_pi_div_two_sub]
    exact (hex h).symm

/-- The sign that the model gives a component: a zero keeps its own. -/
def turned (x : FVal) : FVal := if isZero x then x else negF x

theorem turned_is {x : FVal} {z : ℚ} (h : x.Is z) : (turned x).Is (-z) := by
  cases hz : isZero x
  · rw [turned, hz]
    exact h.negF
  · obtain ⟨n, m, e, rfl, rfl⟩ := h
    have hm : m = 0 := by simpa [isZero] using hz
    exact ⟨n, m, e, by rw [turned, hz]; rfl, by simp [hm]⟩

theorem neg_close {z x : ℝ} (h : |z - x| ≤ 1 / 2 ^ 150) : |-z - -x| ≤ 1 / 2 ^ 150 := by
  rwa [← neg_sub', abs_neg]

/-- A quarter of a turn further. -/
theorem CosSinOf.quarter (h : CosSinOf θ exact (c, s)) : CosSinOf (θ + Real.pi / 2) exact (turned s, c) := by
  obtain ⟨zc, zs, hc, hs, hzc, hzs, hex⟩ := h
  refine ⟨-zs, zc, turned_is hs, hc, ?_, ?_, fun h => ?_⟩
  · rw [Real.cos_add_pi_div_two, Rat.cast_neg]
    exact neg_close hzs
  · rwa [Real.sin_add_pi_div_two]
  · obtain ⟨hzc', hzs'⟩ := hex h
    rw [Real.cos_add_pi_div_two, Real.sin_add_pi_div_two, Rat.cast_neg, hzs']
    exact ⟨rfl, hzc'⟩

/-- Half a turn further. -/
theorem CosSinOf.half (h : CosSinOf θ exact (c, s)) : CosSinOf (θ + Real.pi) exact (turned c, turned s) := by
  obtain ⟨zc, zs, hc, hs, hzc, hzs, hex⟩ := h
  refine ⟨-zc, -zs, turned_is hc, turned_is hs, ?_, ?_, fun h => ?_⟩
  · rw [Real.cos_add_pi, Rat.cast_neg]
    exact neg_close hzc
  · rw [Real.sin_add_pi, Rat.cast_neg]
    exact neg_close hzs
  · obtain ⟨hzc', hzs'⟩ := hex h
    rw [Real.cos_add_pi, Real.sin_add_pi, Rat.cast_neg, Rat.cast_neg, hzc', hzs']
    exact ⟨rfl, rfl⟩

/-- Three quarters of a turn further. -/
theorem CosSinOf.threeQuarters (h : CosSinOf θ exact (c, s)) : CosSinOf (θ + 3 * Real.pi / 2) exact (s, turned c) := by
  obtain ⟨zc, zs, hc, hs, hzc, hzs, hex⟩ := h
  have hcos : Real.cos (θ + 3 * Real.pi / 2) = Real.sin θ := by
    rw [show θ + 3 * Real.pi / 2 = θ + Real.pi / 2 + Real.pi by ring, Real.cos_add_pi, Real.cos_add_pi_div_two, neg_neg]
  have hsin : Real.sin (θ + 3 * Real.pi / 2) = -Real.cos θ := by
    rw [show θ + 3 * Real.pi / 2 = θ + Real.pi / 2 + Real.pi by ring, Real.sin_add_pi, Real.sin_add_pi_div_two]
  refine ⟨zs, -zc, hs, turned_is hc, ?_, ?_, fun h => ?_⟩
  · rwa [hcos]
  · rw [hsin, Rat.cast_neg]
    exact neg_close hzc
  · obtain ⟨hzc', hzs'⟩ := hex h
    rw [hcos, hsin, Rat.cast_neg, hzc']
    exact ⟨hzs', rfl⟩

end

/-- The components within a quarter of a turn. -/
def quarterOperands (r : Nat) : FVal × FVal :=
  if r = 0 then (.fin false 1 0, .fin false 0 0)
  else if r ≤ 2 ^ 45 then smallOperands r else (smallOperands (2 ^ 46 - r)).swap

theorem quarterOperands_close {r : Nat} (hr : r < 2 ^ 46) : CosSinOf (turnAngle r) (r = 0) (quarterOperands r) := by
  unfold quarterOperands
  split
  · next h0 =>
    subst h0
    have h : turnAngle 0 = 0 := by simp [turnAngle]
    exact ⟨1, 0, ⟨false, 1, 0, rfl, by simp [signOf]⟩, ⟨false, 0, 0, rfl, by simp⟩, by simp [h], by simp [h],
      fun _ => by simp [h]⟩
  · next h0 =>
    have hweak {θ : ℝ} {p : FVal × FVal} (h : CosSinOf θ False p) : CosSinOf θ (r = 0) p := by
      obtain ⟨zc, zs, hc, hs, hzc, hzs, -⟩ := h
      exact ⟨zc, zs, hc, hs, hzc, hzs, fun h => absurd h h0⟩
    split
    · next hle => exact hweak (smallOperands_close hle)
    · next hgt =>
      have hrefl := (smallOperands_close (show 2 ^ 46 - r ≤ 2 ^ 45 by omega)).reflect
      have hangle : Real.pi / 2 - turnAngle (2 ^ 46 - r) = turnAngle r := by
        rw [turnAngle, turnAngle, Nat.cast_sub hr.le]
        push_cast
        ring
      rw [hangle] at hrefl
      exact hweak hrefl

/-- The components in each quarter of a turn, from those in the first. -/
def quadrant (quad : Nat) (p : FVal × FVal) : FVal × FVal :=
  match quad with
  | 0 => p
  | 1 => (turned p.2, p.1)
  | 2 => (turned p.1, turned p.2)
  | _ => (p.2, turned p.1)

theorem quadrant_close {θ : ℝ} {exact : Prop} {p : FVal × FVal} {quad : Nat} (h : CosSinOf θ exact p) (hquad : quad < 4) :
    CosSinOf (θ + quad * (Real.pi / 2)) exact (quadrant quad p) := by
  interval_cases quad
  · rwa [Nat.cast_zero, zero_mul, add_zero]
  · rw [Nat.cast_one, one_mul]
    exact h.quarter
  · rw [show ((2 : Nat) : ℝ) * (Real.pi / 2) = Real.pi by push_cast; ring]
    exact h.half
  · rw [show ((3 : Nat) : ℝ) * (Real.pi / 2) = 3 * Real.pi / 2 by push_cast; ring]
    exact h.threeQuarters

theorem cosSin_eq (t : Nat) : cosSin t = quadrant (t / 2 ^ 46) (quarterOperands (t % 2 ^ 46)) := by
  unfold cosSin quarterOperands
  generalize t / 2 ^ 46 = quad
  generalize t % 2 ^ 46 = r
  match quad with
  | 0 | 1 | 2 | _ + 3 => rfl

theorem cosSin_close {t : Nat} (ht : t < 2 ^ 48) : CosSinOf (turnAngle t) (4 * t % 2 ^ 48 = 0) (cosSin t) := by
  have hexact : (4 * t % 2 ^ 48 = 0) = (t % 2 ^ 46 = 0) := propext (by omega)
  have hangle : turnAngle t = turnAngle (t % 2 ^ 46) + (t / 2 ^ 46 : Nat) * (Real.pi / 2) := by
    have hsplit : (t : ℝ) = 2 ^ 46 * (t / 2 ^ 46 : Nat) + (t % 2 ^ 46 : Nat) := by
      exact_mod_cast (Nat.div_add_mod t (2 ^ 46)).symm
    rw [turnAngle, turnAngle, hsplit]
    ring
  rw [cosSin_eq, hexact, hangle]
  exact quadrant_close (quarterOperands_close (Nat.mod_lt _ (by decide))) (by omega)

/-! ## Rotations (R55, R121) -/

theorem codeMag_two : codeMag fmtF32 0x40000000 = 2 := by
  norm_num [codeMag, codeUnits, fmtF32]

/-- A value below 2 does not overflow in FP32. -/
theorem rounded_small {d : FVal} {z : ℚ} (h : d.Is z) (hz : |(z : ℝ)| < 2) : RoundedTo fmtF32 0 z (roundF fmtF32 d 0).1 := by
  have hcor := h.correct fmtF32_ok 0
  obtain ⟨n, m, e, rfl, rfl⟩ := h
  rw [roundCode_flagless] at hcor
  refine (hcor ?_).1
  rcases eq_or_ne m 0 with rfl | hm
  · rw [roundF_zero]
    exact Nat.zero_testBit 2
  have habs : |((signOf n * (m : ℚ) * 2 ^ e : ℚ) : ℝ)| = (m : ℝ) * 2 ^ e := by
    push_cast
    rw [abs_mul, abs_mul, abs_signOf, one_mul, abs_of_nonneg (by positivity), abs_of_pos (by positivity)]
  obtain ⟨c, ⟨hlo, -⟩, ⟨hgt, -, -⟩ | ⟨-, -, hof, -⟩⟩ :=
    (roundF_fin fmtF32_ok 0 n (.inl rfl) hm : RoundsTo _ _ _ ((m : ℝ) * 2 ^ e) _).flags
  · have hbelow : codeMag fmtF32 c < codeMag fmtF32 0x40000000 := by
      rw [codeMag_two]
      exact_mod_cast hlo.trans_lt (habs ▸ hz)
    have hc := (codeMag_strictMono fmtF32).lt_iff_lt.mp hbelow
    have hle : roundedCode fmtF32 0 n ((m : ℝ) * 2 ^ e) c ≤ c + 1 := by
      unfold roundedCode
      split <;> omega
    have hlargest : largestCode fmtF32 = 0x7F7FFFFF := by decide
    omega
  · exact hof

theorem component_small {z x : ℝ} (h : |z - x| ≤ 1 / 2 ^ 150) (hx : |x| ≤ 1) : |z| < 2 := by
  have hsplit : |z| ≤ |z - x| + |x| := by simpa using abs_add_le (z - x) x
  have : (1 : ℝ) / 2 ^ 150 < 1 := by norm_num
  linarith

theorem rotated_wide {ty : Nat} (h : ty ∈ [0x08, 0x0A, 0x0B]) : ∃ q, (fmtOf ty).Wide q := by
  simp only [List.mem_cons, List.not_mem_nil, or_false] at h
  rcases h with rfl | rfl | rfl
  · exact ⟨_, wide_of_mem (w := (fmtF32, 0x7FC00000)) (by decide)⟩
  · exact ⟨_, wide_of_mem (w := (fmtF16, 0x7E00)) (by decide)⟩
  · exact ⟨_, wide_of_mem (w := (fmtBF16, 0x7FC0)) (by decide)⟩

/-- What VROT computes, by the codes of its cosine and its sine. -/
theorem valVrot_eq (f : Fmt) (rm a b pos : Nat) (fr : W64) :
    let p := cosSin (pos * fr.toNat % 2 ^ 48)
    let c := decodeF fmtF32 (roundF fmtF32 p.1 0).1
    let s := decodeF fmtF32 (roundF fmtF32 p.2 0).1
    let x := rotOne f rm (decodeF f a) c (decodeF f b) s true
    let y := rotOne f rm (decodeF f a) s (decodeF f b) c false
    valVrot f rm a b pos fr = (x.1, y.1, (roundF fmtF32 p.1 0).2 ||| (roundF fmtF32 p.2 0).2 ||| x.2 ||| y.2) := rfl

theorem rotationsTurnTheirPair : RotationsTurnTheirPair := by
  intro ty hty rm hrm a b pos fr f r t angle
  have hr : r = _ := valVrot_eq f rm a b pos fr
  refine ⟨fun x y hx hy => ?_, fun row hrow hrowty hnan => ?_⟩
  · obtain ⟨zc, zs, hc, hs, hzc, hzs, hex⟩ := cosSin_close (Nat.mod_lt _ (by decide) : t < 2 ^ 48)
    have hcr := rounded_small hc (component_small hzc (Real.abs_cos_le_one _))
    have hsr := rounded_small hs (component_small hzs (Real.abs_sin_le_one _))
    obtain ⟨u, hu, -⟩ := id hcr
    obtain ⟨v, hv, -⟩ := id hsr
    refine ⟨zc, zs, _, _, u, v, hzc, hzs, hex, hcr, hsr, hu, hv, fun hof => ?_⟩
    have hx' := rotOne_finite (fmtOf_ok ty) rm (is_of_denotes hx) (is_of_denotes hu) (is_of_denotes hy) (is_of_denotes hv) true
    have hy' := rotOne_finite (fmtOf_ok ty) rm (is_of_denotes hx) (is_of_denotes hv) (is_of_denotes hy) (is_of_denotes hu) false
    rw [hr] at hof ⊢
    simp only [Nat.testBit_or, Bool.or_eq_false_iff] at hof
    obtain ⟨⟨-, hofx⟩, hofy⟩ := hof
    have hrx := (hx' hofx).1
    have hry := (hy' hofy).1
    rw [if_pos rfl, ← sub_eq_add_neg] at hrx
    rw [if_neg Bool.false_ne_true] at hry
    exact ⟨by exact_mod_cast hrx, by exact_mod_cast hry⟩
  · obtain ⟨q, hf⟩ := rotated_wide hty
    subst hrowty
    obtain ⟨-, -, hq, -⟩ := fmtOf_row hrow
    rw [hr, rotOne_nan _ hnan, rotOne_nan _ hnan, roundCode_nan hf, ← hq, hf.quiet]
    exact ⟨rfl, rfl⟩

/-- Settles O53: the forms go through `floatMap` and `floatLong`, whose writes are those of their elements; an element is an exact
value rounded once, and for a rotation the model's series keep to the cosine and the sine. -/
theorem floatsAndConversionsWriteTheirResults : Obligations.FloatsAndConversionsWriteTheirResults :=
  ⟨floatInstructionsWriteTheirResults, conversionsRotationsAndTables, elementsConvert, rotationsTurnTheirPair, tablesInterpolate⟩

end Sys2Proof.Machine
end

section
/-! O33, O34, O35: masks written and counted, votes, and one lane broadcast or read (R80 to R82, R88 to R90, R94, R95). -/

namespace Sys2Proof.Machine

/- Proofs one after another: side by side, each takes the stack of a thread, and those of the whole text reach the
memory limit of the check. -/
set_option Elab.async false
open Sys2Proof.Claims

/-! ## Instructions that write a mask (R81, R88, R89) -/

/-- A short instruction that writes a mask by its value: it writes that for each active lane. -/
theorem laneMask_writes {s : State} {f : LaneF} {regs masks : List Nat} (h : Ready s f regs (maskSet f.vd.toNat ++ masks))
    (val : Warp → Nat → Bool) : MaskWrites s (s.laneMask f regs masks val) (act s f) f.vd.toNat (val s.me) := by
  have hgo : s.lanePre regs (guardMask f ++ maskD f.vd.toNat ++ masks) = .go := by
    rw [List.append_assoc]
    exact h
  rw [State.laneMask, laneRun_of_go hgo]
  exact writeMask_writes ..

theorem condI_iff (cc : Nat) (a b : Int) : condI cc a b = true ↔ Claims.compare cc a b := by
  unfold condI Claims.compare
  split <;> simp

/-- VCMP's value: the condition holds of every element (R88). -/
theorem valVcmp_iff (ty cc a b : Nat) : valVcmp ty cc a b = true ↔
    ∀ e, e < elemCount ty → Claims.compare cc (readAs ty (elemAt ty a e)) (readAs ty (elemAt ty b e)) := by
  simp only [valVcmp, List.all_eq_true, List.mem_range, condI_iff, intVal_eq_readAs]
  rfl

/-- MLOG's index into its truth table (R89). -/
theorem truthIndex_eq (a b : Bool) : (if a then 2 else 0) + (if b then 1 else 0) = 2 * a.toNat + b.toNat := by
  cases a <;> cases b <;> rfl

/-! ## Instructions that write a return register (R31, R82) -/

theorem laneRest_setSreg (x : Warp) (d : BitVec 6) (v : W64) (p : Nat) : laneRest (setSreg x d v) p = laneRest x p := by
  unfold laneRest setSreg setPath
  split <;> split <;> rfl

theorem setSreg_v (x : Warp) (d : BitVec 6) (v : W64) : (setSreg x d v).v = x.v := by unfold setSreg; split <;> rfl
theorem setSreg_m (x : Warp) (d : BitVec 6) (v : W64) : (setSreg x d v).m = x.m := by unfold setSreg; split <;> rfl

theorem sreg_of_s {x y : Warp} (h : y.s = x.s) (r : BitVec 6) : sreg y r = sreg x r := by
  unfold sreg
  rw [h]

/-- A short instruction that writes a return register, where the other path does not hold it back. -/
theorem laneRet_writes {s : State} {f : LaneF} {regs masks : List Nat} (h : Ready s f regs masks) (hheld : s.retHeld = false)
    (val : Warp → W64) : ReturnWrites s (s.laneRet f regs masks val) (f.vd.setWidth 6) (val s.me) := by
  have hd : (f.vd.setWidth 6).toNat = f.vd.toNat % 64 := BitVec.toNat_setWidth ..
  rw [State.laneRet, laneRun_of_go h, hheld, if_neg Bool.false_ne_true, State.laneDone, ← hd]
  generalize f.vd.setWidth 6 = d
  generalize val s.me = v
  have hs (r : BitVec 6) : sreg (laneIssued (setPath (setSreg s.me d v) s.cur.path (loseRet s.myPath d.toNat)) s.cur.path) r =
      sreg (setSreg s.me d v) r := sreg_of_s (by rw [laneIssued_s, setPath_s]) r
  refine ⟨⟨OnlyWarp.setMe .., ?_, ?_⟩, ?_, fun r hr => ?_, ?_, ?_⟩
  · rw [State.setMe_myPath, warpPath_laneIssued, warpPath_setPath]
  · rw [State.setMe_me, laneRest_laneIssued, laneRest_setPath, laneRest_setSreg]
  · rw [State.setMe_me, hs, sreg_setSreg]
    by_cases h0 : d = 0 <;> simp [h0]
  · rw [State.setMe_me, hs, sreg_setSreg, if_neg hr]
    split_ifs with h0
    · rw [h0, sreg_zero]
    · rfl
  · rw [State.setMe_me, laneIssued_v, setPath_v, setSreg_v]
  · rw [State.setMe_me, laneIssued_m, setPath_m, setSreg_m]

/-- All active lanes are in a mask where no active lane is outside it (R95). -/
theorem and_eq_right_iff_outside (m act : W32) : m &&& act = act ↔ act &&& ~~~m = 0 := by
  simp only [BitVec.eq_of_getLsbD_eq_iff, BitVec.getLsbD_and, BitVec.getLsbD_not]
  refine forall₂_congr fun l hl => ?_
  cases m.getLsbD l <;> cases act.getLsbD l <;> simp [hl]

/-- Settles O33: VCMP and MLOG by the bit of each lane, VVOTE by its value. -/
theorem masksAreWrittenAndVotedOn : Obligations.MasksAreWrittenAndVotedOn := by
  intro s f ty d dst m
  refine ⟨fun h => ?vcmp, fun h => ?mlog, fun h hheld => ?vvote⟩
  case vcmp =>
    exact ⟨_, rfl, _, laneMask_writes ((List.append_nil _).symm ▸ h) _, fun l _ => valVcmp_iff ..⟩
  case mlog =>
    refine ⟨_, rfl, ?_⟩
    simp only [← truthIndex_eq]
    exact laneMask_writes h _
  case vvote =>
    have hw := laneRet_writes h hheld fun x => valVvote (f.ctlN 0 2) (mreg x s.cur.path f.va.toNat) (active x s.cur.path f)
    refine ⟨_, rfl, ?_⟩
    simp only [← and_eq_right_iff_outside]
    exact hw

/-! ## The fields of a lane word (R43) -/

/-- The words of a lane instruction start with its opcode and end with slot C. -/
theorem laneWords_of_decodeLane {w0 w1 w2 : W32} {i : Instr} {op : Nat} {f : LaneF} (hop : op < 256)
    (henc : encode i = some (encodeLane op f)) (h : decodeLane w0 w1 w2 = some i) :
    i.wf = true ∧ w2.toNat / 2 ^ 24 = op ∧ w0 = f.c := by
  obtain ⟨hwf, hwords⟩ := decodeLane_eq_some_iff.mp h
  have henc' : encodeLane op f = [w0, w1, w2] := Option.some.inj (henc.symm.trans hwords)
  obtain ⟨hhi, hlo, -⟩ := (encodeLane_iff hop f).mp henc'
  refine ⟨hwf, ?_, (List.cons.inj henc').1.symm⟩
  unfold fld at hhi hlo
  omega

/-! ## MCNT (R90) -/

theorem lanesOf_and_length (m a : W32) :
    (lanesOf (m &&& a)).length = (List.range 32).countP fun l => hasLane m l && hasLane a l := by
  simp only [lanesOf, hasLane, BitVec.getLsbD_and, List.countP_eq_length_filter]

/-- Settles O34: the word by the fields that make it an instruction, the count by the lanes counted. -/
theorem mcntCountsActiveMaskBits : Obligations.McntCountsActiveMaskBits := by
  refine fun s f => ⟨fun w0 w1 w2 h => ?_, fun h hheld => ?_⟩
  · obtain ⟨hwf, hop, rfl⟩ := laneWords_of_decodeLane (op := 0x42) (by decide) rfl h
    have hfields : wfMcnt f = true := hwf
    simp only [wfMcnt, noB, noC, Bool.and_eq_true, beq_iff_eq] at hfields
    obtain ⟨⟨⟨⟨⟨⟨-, hty⟩, -⟩, -⟩, hvb, -⟩, hc, -⟩, hctl⟩ := hfields
    exact ⟨hop, hty, hctl, hvb, hc⟩
  · have hw := laneRet_writes h hheld fun x =>
      BitVec.ofNat 64 (lanesOf (mreg x s.cur.path f.va.toNat &&& active x s.cur.path f)).length
    refine ⟨_, rfl, lanesOf_and_length .. ▸ hw, fun hnone => ?_⟩
    have hempty : mreg s.me s.cur.path f.va.toNat &&& active s.me s.cur.path f = 0 := by
      rw [← act, hnone]
      exact BitVec.and_zero
    rw [hempty] at hw
    exact hw

/-! ## VBCAST and VRDL (R80, R94) -/

theorem lanesOf_zero : lanesOf 0 = [] := List.filter_eq_nil_iff.mpr fun _ _ => by simp [hasLane]

/-- The lowest lane of a mask is the first of its lanes. -/
theorem lanesOf_headD {m : W32} {first : Nat} (h : hasLane m first = true) (hlow : ∀ l, l < first → ¬ hasLane m l = true) :
    (lanesOf m).headD 0 = first := by
  have hfind : (List.range 32).find? (fun l => hasLane m l) = some first :=
    List.find?_range_eq_some.mpr ⟨h, List.mem_range.mpr (lt_of_hasLane h), fun l hl => by simp [hlow l hl]⟩
  rw [List.headD_eq_head?_getD, lanesOf, List.head?_filter, hfind, Option.getD_some]

/-- The lane that VBCAST and VRDL read (R94). -/
theorem bcastLane_of_lowest {s : State} {f : LaneF} {first : Nat} (h : hasLane (act s f) first = true)
    (hlow : ∀ l, l < first → ¬ hasLane (act s f) l = true) : bcastLane s.me s.cur.path f = opB s.me f first % 32 := by
  rw [bcastLane, ← act, lanesOf_headD h hlow]

/-- With no active lane a short lane instruction writes no register. -/
theorem laneMap_none {s : State} {f : LaneF} {regs masks : List Nat} (h : Ready s f regs masks) (val : Warp → Nat → Nat)
    (hnone : act s f = 0) : (s.laneMap f regs masks val).me.v = s.me.v := by
  rw [State.laneMap, laneRun_of_go h, ← act, hnone, lanesOf_zero, State.writeRegs, State.laneDone, State.setMe_me, laneIssued_v]
  rfl

/-- Settles O35: the words by the fields that make them instructions, the values by the lane read. -/
theorem oneLaneIsBroadcastOrRead : Obligations.OneLaneIsBroadcastOrRead := by
  refine fun s f => ⟨fun w0 w1 w2 => ⟨fun h => ?_, fun h => ?_⟩, fun hty => ⟨fun h => ?vbcast, fun h hheld => ?vrdl⟩⟩
  · obtain ⟨hwf, hop, -⟩ := laneWords_of_decodeLane (op := 0x51) (by decide) rfl h
    have hfields : wfBcast f = true := hwf
    simp only [wfBcast, Bool.and_eq_true, beq_iff_eq] at hfields
    obtain ⟨⟨⟨-, htype⟩, -⟩, hctl⟩ := hfields
    exact ⟨hop, htype, hctl⟩
  · obtain ⟨hwf, hop, -⟩ := laneWords_of_decodeLane (op := 0x53) (by decide) rfl h
    have hfields : wfRdl f = true := hwf
    simp only [wfRdl, Bool.and_eq_true, beq_iff_eq] at hfields
    obtain ⟨⟨⟨⟨-, htype⟩, -⟩, -⟩, hctl⟩ := hfields
    exact ⟨hop, htype, hctl⟩
  case vbcast =>
    have hpair : isPair f.ty = false := by rw [hty]; rfl
    have hw := laneMap_writes h fun x _ => crossV x s.cur.path false f.va.toNat (bcastLane x s.cur.path f)
    refine ⟨_, rfl, fun hnone => ⟨hw.goes, laneMap_none h _ hnone⟩, fun first _ hfirst hlow => ?_⟩
    rw [hpair, bcastLane_of_lowest hfirst hlow] at hw
    exact hw
  case vrdl =>
    have hw := laneRet_writes h hheld fun x =>
      if active x s.cur.path f = 0 then 0
      else BitVec.ofNat 64 (crossV x s.cur.path false f.va.toNat (bcastLane x s.cur.path f))
    rw [← act] at hw
    refine ⟨_, rfl, fun hnone => ?_, fun first _ hfirst hlow => ?_⟩
    · rw [if_pos hnone] at hw
      exact hw
    · have hsome : act s f ≠ 0 := fun h0 => by simp [h0, hasLane] at hfirst
      rw [if_neg hsome, bcastLane_of_lowest hfirst hlow] at hw
      exact hw

end Sys2Proof.Machine
end

section
/-! O52: VSHUF moves lanes; VSCAN and VREDX combine them in the tree of R96 (R56, R80, R93, R96). -/

namespace Sys2Proof.Machine

/- Proofs one after another: side by side, each takes the stack of a thread, and those of the whole text reach the
memory limit of the check. -/
set_option Elab.async false
open Sys2Proof.Claims

/-! ## Long instructions that owe each active lane a value (R49, R56) -/

/-- What a long instruction owes is settled by its values in the active lanes. -/
theorem owes_congr {s : State} {f : LaneF} {pair : Bool} {val val' : Nat → Nat}
    (h : ∀ l, hasLane (act s f) l = true → val l = val' l) : owes s f pair val = owes s f pair val' := by
  unfold owes owesIn
  congr 1
  exact List.flatMap_congr fun l hl => by rw [h l (mem_lanesOf.mp hl)]

theorem resultW_eq (pair : Bool) (n l v : Nat) : resultW pair n l v = (⟨n, l, BitVec.ofNat 32 v⟩ : RegW) ::
    if pair then [⟨n + 1, l, BitVec.ofNat 32 (v / 2 ^ 32)⟩] else [] := by cases pair <;> rfl

/-- One held result for each lane active in `s` is what `owes` says. -/
theorem longRegs_owes (s u : State) (f : LaneF) (pair : Bool) (val : Nat → Nat) :
    let t := u.longRegs f.la.toNat (regsOf pair f.vd)
      ((lanesOf (act s f)).flatMap fun l => resultW pair f.vd.toNat l (val l))
    LaneOwes u t (owes s f pair val) ∧ { t with warps := u.warps } = u := by
  intro t
  have ht : t = u.laneLong (owes s f pair val) := by
    simp only [t, State.longRegs, resultW_eq]
    rfl
  exact ht ▸ laneLong_owes u _

/-- A long instruction raises the flags `fl`, and owes its active lanes their values or traps (R56). -/
def OwedOrTrapped (s : State) (f : LaneF) (i : Instr) (fl : Nat) (val : Nat → Nat) : Prop :=
  (trapHit s.me.fptraps fl = false → ∃ t, exec i s = .next t ∧ { t with warps := s.warps } = s ∧
    LaneOwes (withFp s fl) t (owes s f (isPair f.ty) val)) ∧
  (trapHit s.me.fptraps fl = true → exec i s = .next ((withFp s fl).laneFault 0x08 0 0))

theorem owedOrTrapped_of_fpEnd {s : State} {f : LaneF} {i : Instr} {fl : Nat} {val : Nat → Nat}
    (hexec : exec i s = .next (s.fpEnd fl fun u => u.longRegs f.la.toNat (regsOf (isPair f.ty) f.vd)
      ((lanesOf (act s f)).flatMap fun l => resultW (isPair f.ty) f.vd.toNat l (val l)))) :
    OwedOrTrapped s f i fl val := by
  rw [fpEnd_eq] at hexec
  refine ⟨fun htrap => ?_, fun htrap => by rw [hexec, if_pos htrap]⟩
  rw [if_neg (by rw [htrap]; decide)] at hexec
  obtain ⟨howes, hrest⟩ := longRegs_owes s (withFp s fl) f (isPair f.ty) val
  exact ⟨_, hexec, congrArg (fun t : State => { t with warps := s.warps }) hrest, howes⟩

theorem OwedOrTrapped.congr {s : State} {f : LaneF} {i : Instr} {fl : Nat} {val val' : Nat → Nat}
    (h : OwedOrTrapped s f i fl val) (hval : ∀ l, hasLane (act s f) l = true → val l = val' l) :
    OwedOrTrapped s f i fl val' := by
  rw [OwedOrTrapped, ← owes_congr hval]
  exact h

theorem trapHit_zero (traps : W64) : trapHit traps 0 = false := by simp [trapHit]

theorem withFp_zero_me (s : State) : (withFp s 0).me = s.me := by
  rw [withFp_me]
  exact congrArg (fun v => { s.me with fpflags := v }) BitVec.or_zero

/-- Where no flag is raised, what is owed is owed by the state itself. -/
theorem LaneOwes.of_withFp_zero {s t : State} {o : Outst} (h : LaneOwes (withFp s 0) t o) : LaneOwes s t o := by
  obtain ⟨hothers, hpath, hregs, hmasks, hscalars, hrest⟩ := h
  have hme := withFp_zero_me s
  have hmyPath : (withFp s 0).myPath = s.myPath := by rw [State.myPath, hme]; rfl
  rw [hme] at hpath hregs hmasks hscalars hrest
  rw [hmyPath] at hpath
  exact ⟨fun v hv => (hothers v hv).trans ((OnlyWarp.setMe ..).others v hv), hpath, hregs, hmasks, hscalars, hrest⟩

theorem OwedOrTrapped.of_no_flags {s : State} {f : LaneF} {i : Instr} {val : Nat → Nat} (h : OwedOrTrapped s f i 0 val) :
    ∃ t, exec i s = .next t ∧ { t with warps := s.warps } = s ∧ LaneOwes s t (owes s f (isPair f.ty) val) := by
  obtain ⟨t, hexec, hrest, howes⟩ := h.1 (trapHit_zero _)
  exact ⟨t, hexec, hrest, howes.of_withFp_zero⟩

theorem lanePre_of_ready {s : State} {f : LaneF} {regs : List Nat} (h : Ready s f regs []) :
    s.lanePre regs (guardMask f) = .go := by
  simpa [Ready] using h

/-! ## VSHUF (R80, R93) -/

theorem shufLane_eq {mode l b : Nat} (hl : l < 32) : shufLane mode l b = shuffled mode l b := by
  have hxor : (l ^^^ b % 32) % 32 = l ^^^ b % 32 :=
    Nat.mod_eq_of_lt (Nat.xor_lt_two_pow (n := 5) hl (Nat.mod_lt _ (by decide)))
  unfold shufLane shuffled
  split
  · rfl
  · rw [hxor]
  · by_cases h : b % 64 ≤ l
    · rw [if_pos h, if_neg (by omega)]
    · rw [if_neg h, if_pos (by omega)]
  · by_cases h : l + b % 64 ≤ 31
    · rw [if_pos h, if_neg (by omega)]
    · rw [if_neg h, if_pos (by omega)]

/-- What VSHUF gives a lane (R93). -/
def shuffledValue (s : State) (f : LaneF) (l : Nat) : Nat :=
  match shuffled (f.ctlN 0 2) l (opB s.me f l) with
  | some k => laneA s f k
  | none => (vreg s.me f.va.toNat l).toNat

theorem opVshuf_eq {s : State} {f : LaneF} (hf : isPair f.ty = false) (h : Ready s f (useDAB f) []) :
    opVshuf f s = s.longRegs f.la.toNat (regsOf false f.vd)
      ((lanesOf (act s f)).flatMap fun l => resultW false f.vd.toNat l (shuffledValue s f l)) := by
  rw [opVshuf, laneRun_of_go (lanePre_of_ready h)]
  refine congrArg (s.longRegs f.la.toNat [f.vd.toNat]) (List.flatMap_congr fun l hl => ?_)
  rw [shufLane_eq (lt_of_hasLane (mem_lanesOf.mp hl)), opA_of_single hf, shuffledValue]
  rfl

theorem lanesAreMoved : LanesAreMoved := by
  intro s f hf h
  obtain ⟨howes, hrest⟩ := longRegs_owes s s f false (shuffledValue s f)
  rw [← opVshuf_eq hf h] at howes hrest
  exact ⟨opVshuf f s, rfl, hrest, howes⟩

/-! ## Trees over lanes (R96) -/

section
variable {ty op rm : Nat} {join : Nat → Nat → Nat × Nat} {x : Nat → Option Nat}

theorem comb_eq (u w : Option Nat × Nat) : comb ty op rm u w =
    ((combined (combine ty op rm) u.1 w.1).1, u.2 ||| w.2 ||| (combined (combine ty op rm) u.1 w.1).2) := by
  obtain ⟨u, fu⟩ := u
  obtain ⟨w, fw⟩ := w
  cases u <;> cases w <;> simp [comb, combined]

/-- One level of VREDX's tree. -/
theorem redPairs_range (n : Nat) (g : Nat → Option Nat × Nat) :
    redPairs ty op rm ((List.range (2 * n)).map g) = (List.range n).map fun j => comb ty op rm (g (2 * j)) (g (2 * j + 1)) := by
  induction n generalizing g with
  | zero => rfl
  | succ n ih =>
    have hrange : (List.range (2 * (n + 1))).map g = g 0 :: g 1 :: (List.range (2 * n)).map fun j => g (j + 2) := by
      rw [Nat.mul_succ, List.range_succ_eq_map, List.range_succ_eq_map]
      simp [Function.comp_def]
    rw [hrange, redPairs, ih, List.range_succ_eq_map (n := n)]
    simp [Function.comp_def, Nat.mul_succ]

/-- The levels that are left of VREDX's tree. -/
theorem redTree_range (m k : Nat) :
    redTree ty op rm m ((List.range (2 ^ m)).map fun j => reduced (combine ty op rm) x k (j * 2 ^ k)) =
      [reduced (combine ty op rm) x (k + m) 0] := by
  induction m generalizing k with
  | zero => simp [redTree]
  | succ m ih =>
    have hpair (j : Nat) : comb ty op rm (reduced (combine ty op rm) x k (2 * j * 2 ^ k))
        (reduced (combine ty op rm) x k ((2 * j + 1) * 2 ^ k)) = reduced (combine ty op rm) x (k + 1) (j * 2 ^ (k + 1)) := by
      rw [comb_eq, reduced, show j * 2 ^ (k + 1) = 2 * j * 2 ^ k by ring, Nat.succ_mul (2 * j)]
    rw [redTree, Nat.pow_succ', redPairs_range]
    simp only [hpair]
    rw [ih, Nat.add_right_comm, Nat.add_assoc]

theorem valVredx_eq : valVredx ty op rm ((List.range 32).map x) =
    ((reduced (combine ty op rm) x 5 0).1.getD 0, (reduced (combine ty op rm) x 5 0).2) := by
  have htree := redTree_range (ty := ty) (op := op) (rm := rm) (x := x) 5 0
  simp only [reduced.eq_1, Nat.pow_zero, Nat.mul_one, Nat.zero_add] at htree
  rw [valVredx, List.map_map, Function.comp_def, show 32 = 2 ^ 5 from rfl, htree]

/-- The flags of step `k` of VSCAN's tree. -/
def stepFlags (join : Nat → Nat → Nat × Nat) (x : Nat → Option Nat) (k : Nat) : Nat :=
  (((List.range 32).filter fun i => 2 ^ k ≤ i).map fun i =>
    (combined join (scanned join x k (i - 2 ^ k)) (scanned join x k i)).2).foldl (· ||| ·) 0

theorem scanFlags_eq : scanFlags join x = (List.range 5).foldl (fun a k => a ||| stepFlags join x k) 0 := by
  have hstep (a k : Nat) : (((List.range 32).filter fun i => 2 ^ k ≤ i).map fun i =>
      (combined join (scanned join x k (i - 2 ^ k)) (scanned join x k i)).2).foldl (· ||| ·) a = a ||| stepFlags join x k := by
    rw [stepFlags, List.foldl_map, List.foldl_map, foldl_or]
  simp only [scanFlags, List.foldl_flatMap, hstep]

/-- Every lane of a list beside the lane `d` below it. -/
theorem zip_shifted (n d : Nat) (g : Nat → Option Nat) :
    ((List.range n).map g).zip (List.replicate d none ++ (List.range n).map g) =
      (List.range n).map fun i => (g i, if d ≤ i then g (i - d) else none) := by
  refine List.ext_getElem (by simp) fun i hi _ => ?_
  by_cases h : d ≤ i
  · simp [h]
  · simp [Nat.lt_of_not_le h, h]

/-- A lane and the lane `d` below it, where there is one, combined. -/
theorem combined_below (d i : Nat) (g : Nat → Option Nat) :
    combined join (if d ≤ i then g (i - d) else none) (g i) =
      if d ≤ i then combined join (g (i - d)) (g i) else (g i, 0) := by
  split_ifs
  · rfl
  · cases g i <;> rfl

theorem scanStep_range (k fl : Nat) :
    scanStep ty op rm (2 ^ k) ((List.range 32).map (scanned (combine ty op rm) x k)) fl =
      ((List.range 32).map (scanned (combine ty op rm) x (k + 1)), fl ||| stepFlags (combine ty op rm) x k) := by
  rw [scanStep, zip_shifted]
  simp only [List.map_map, List.foldl_map, Function.comp_def, comb_eq, combined_below, Nat.zero_or]
  rw [foldl_or]
  refine congrArg₂ Prod.mk (List.map_congr_left fun i _ => ?_) (congrArg (fl ||| ·) ?_)
  · rw [scanned]
    split_ifs <;> rfl
  · rw [stepFlags, List.foldl_map, List.foldl_filter]
    congr 1
    funext a i
    by_cases h : 2 ^ k ≤ i <;> simp [h]

/-- VSCAN's lanes and flags after its first `m` steps. -/
theorem scanSteps_range (m : Nat) :
    (List.range m).foldl (fun a k => scanStep ty op rm (2 ^ k) a.1 a.2) ((List.range 32).map x, 0) =
      ((List.range 32).map (scanned (combine ty op rm) x m),
        (List.range m).foldl (fun a k => a ||| stepFlags (combine ty op rm) x k) 0) := by
  induction m with
  | zero => rfl
  | succ m ih => rw [List.range_succ (n := m), List.foldl_concat, List.foldl_concat, ih, scanStep_range]

theorem valVscan_eq (excl : Bool) : valVscan ty op rm excl ((List.range 32).map x) =
    (((if excl then none :: ((List.range 32).map (scanned (combine ty op rm) x 5)).dropLast
      else (List.range 32).map (scanned (combine ty op rm) x 5)).map fun e => e.getD (identity ty op)),
      scanFlags (combine ty op rm) x) := by
  have hsteps : ([1, 2, 4, 8, 16] : List Nat).foldl (fun a d => scanStep ty op rm d a.1 a.2) ((List.range 32).map x, 0) = _ :=
    scanSteps_range 5
  rw [valVscan, hsteps, scanFlags_eq]

theorem valVscan_flags (excl : Bool) :
    (valVscan ty op rm excl ((List.range 32).map x)).2 = scanFlags (combine ty op rm) x := by rw [valVscan_eq]

/-- The value that VSCAN combines for a lane: the lanes up to it, or below it (R96). -/
def scanResult (join : Nat → Nat → Nat × Nat) (x : Nat → Option Nat) (excl : Bool) (l : Nat) : Option Nat :=
  if excl then (if l = 0 then none else scanned join x 5 (l - 1)) else scanned join x 5 l

theorem valVscan_lane (excl : Bool) {l : Nat} (hl : l < 32) :
    (valVscan ty op rm excl ((List.range 32).map x)).1.getD l 0 =
      (scanResult (combine ty op rm) x excl l).getD (identity ty op) := by
  rw [valVscan_eq, scanResult]
  cases excl
  · simp [hl]
  · cases l with
    | zero => simp
    | succ l => simp [show l < 31 by omega]

end

/-! ## The instructions by their trees (R96) -/

/-- The value of a lane as a scan's source: none where the lane is not active. -/
def sourceLane (s : State) (f : LaneF) (l : Nat) : Option Nat :=
  if l < 32 ∧ hasLane (act s f) l then some (opA s.me f l) else none

theorem scanSrc_eq (s : State) (f : LaneF) :
    scanSrc s.me f (active s.me s.cur.path f) = (List.range 32).map (sourceLane s f) :=
  List.map_congr_left fun l hl => by
    simp only [sourceLane, List.mem_range.mp hl, true_and]
    rfl

section
variable {s : State} {f : LaneF}

/-- The join of an instruction's type and operation, with its rounding. -/
abbrev joinOf (f : LaneF) : Nat → Nat → Nat × Nat := combine f.ty.toNat (f.ctlN 0 3) (f.ctlN 13 3)

theorem vredx_owes (h : Ready s f (useDA f) []) :
    OwedOrTrapped s f (.vredx f) (reduced (joinOf f) (sourceLane s f) 5 0).2
      fun _ => (reduced (joinOf f) (sourceLane s f) 5 0).1.getD 0 := by
  refine owedOrTrapped_of_fpEnd (congrArg Host.Outcome.next (show opVredx f s = _ from ?_))
  rw [opVredx, laneRun_of_go (lanePre_of_ready h)]
  dsimp only
  rw [scanSrc_eq, valVredx_eq]
  rfl

theorem vscan_owes (h : Ready s f (useDA f) []) :
    OwedOrTrapped s f (.vscan f) (scanFlags (joinOf f) (sourceLane s f)) fun l =>
      (scanResult (joinOf f) (sourceLane s f) (f.ctl.getLsbD 3) l).getD (identity f.ty.toNat (f.ctlN 0 3)) := by
  refine OwedOrTrapped.congr (owedOrTrapped_of_fpEnd (congrArg Host.Outcome.next (show opVscan f s = _ from ?_)))
    fun l hl => valVscan_lane _ (lt_of_hasLane hl)
  rw [opVscan, laneRun_of_go (lanePre_of_ready h)]
  dsimp only
  rw [scanSrc_eq, ctlN_bit, ← valVscan_flags (f.ctl.getLsbD 3)]
  rfl

end

/-! ## Scans and reductions of floats (R96, R116, R117) -/

theorem combine_float {ty op : Nat} (hty : ty = 8 ∨ ty = 9) (hop : op ≤ 2) (rm : Nat) :
    combine ty op rm = joinedF (fmtOf ty) op rm := by
  funext a b
  obtain rfl | rfl | rfl : op = 0 ∨ op = 1 ∨ op = 2 := by omega
  all_goals exact if_pos hty

theorem identity_float {ty op : Nat} (hty : ty = 8 ∨ ty = 9) (hop : op ≤ 2) : identity ty op = neutralF ty op := by
  obtain rfl | rfl | rfl : op = 0 ∨ op = 1 ∨ op = 2 := by omega
  all_goals obtain rfl | rfl := hty <;> decide

/-! ## Integer joins (R96) -/

/-- A join of codes below `bound` that is associative and has a neutral code. -/
structure Combines (j : Nat → Nat → Nat) (e bound : Nat) : Prop where
  neutral_lt : e < bound
  lt : ∀ a b, a < bound → b < bound → j a b < bound
  assoc : ∀ a b c, a < bound → b < bound → c < bound → j (j a b) c = j a (j b c)
  left : ∀ a, a < bound → j e a = a
  right : ∀ a, a < bound → j a e = a

section
variable {ty : Nat}

/-- A code is what it is read as, up to multiples of 2^n. -/
theorem readAs_emod (ty x : Nat) : readAs ty x % (2 ^ elemBits ty : Nat) = (x % 2 ^ elemBits ty : Nat) := by
  have hlt : x % 2 ^ elemBits ty < 2 ^ elemBits ty := Nat.mod_lt _ (Nat.two_pow_pos _)
  have hcode : ((x % 2 ^ elemBits ty : Nat) : Int) % (2 ^ elemBits ty : Nat) = (x % 2 ^ elemBits ty : Nat) :=
    Int.emod_eq_of_lt (by omega) (by omega)
  rw [← intVal_eq_readAs, intVal]
  split_ifs
  · rw [Int.sub_emod_right, hcode]
  · exact hcode

theorem settled_eq (ty : Nat) (v : Int) : settled ty false v = (v % (2 ^ elemBits ty : Nat)).toNat := by
  rw [← narrow_eq_settled, narrow, if_neg Bool.false_ne_true, intCode]

/-- Reading a code as an integer and settling it again gives the code. -/
theorem settled_readAs {x : Nat} (hx : x < 2 ^ elemBits ty) : settled ty false (readAs ty x) = x := by
  rw [settled_eq, readAs_emod, Nat.mod_eq_of_lt hx, Int.toNat_natCast]

theorem readAs_injective {a b : Nat} (ha : a < 2 ^ elemBits ty) (hb : b < 2 ^ elemBits ty)
    (h : readAs ty a = readAs ty b) : a = b := by
  rw [← settled_readAs ha, h, settled_readAs hb]

theorem joined_add (ty a b : Nat) : joined ty 0 a b = (a + b) % 2 ^ elemBits ty := by
  rw [joined, settled_eq, Int.add_emod, readAs_emod, readAs_emod, ← Int.natCast_add, ← Int.natCast_emod, Int.toNat_natCast,
    ← Nat.add_mod]

theorem joined_min {a b : Nat} (ha : a < 2 ^ elemBits ty) (hb : b < 2 ^ elemBits ty) :
    joined ty 1 a b = if readAs ty b < readAs ty a then b else a := by
  rw [joined, min_comm, min_def_lt]
  split_ifs
  · exact settled_readAs hb
  · exact settled_readAs ha

theorem joined_max {a b : Nat} (ha : a < 2 ^ elemBits ty) (hb : b < 2 ^ elemBits ty) :
    joined ty 2 a b = if readAs ty a < readAs ty b then b else a := by
  rw [joined, max_def_lt]
  split_ifs
  · exact settled_readAs hb
  · exact settled_readAs ha

/-- What the model combines is the join, and no flag is raised. -/
theorem combine_int {op rm a b : Nat} (hty : ty ≤ 3) (hop : op ≤ 5) (ha : a < 2 ^ elemBits ty) (hb : b < 2 ^ elemBits ty) :
    combine ty op rm a b = (joined ty op a b, 0) := by
  have hint : ¬ (ty = 8 ∨ ty = 9) := by omega
  obtain rfl | rfl | rfl | rfl | rfl | rfl : op = 0 ∨ op = 1 ∨ op = 2 ∨ op = 3 ∨ op = 4 ∨ op = 5 := by omega
  · rw [joined_add]
    exact if_neg hint
  · rw [joined_min ha hb, ← intVal_eq_readAs, ← intVal_eq_readAs]
    exact if_neg hint
  · rw [joined_max ha hb, ← intVal_eq_readAs, ← intVal_eq_readAs]
    exact if_neg hint
  all_goals rfl

theorem two_pow_elemBits (ty : Nat) : 2 ^ elemBits ty = 2 * 2 ^ (elemBits ty - 1) := by
  rw [← Nat.pow_succ', Nat.succ_eq_add_one, Nat.sub_add_cancel (elemBits_pos ty)]

theorem readAs_bounds (ty x : Nat) : intLeast (elemBits ty) (intSigned ty) ≤ readAs ty x ∧
    readAs ty x ≤ intGreatest (elemBits ty) (intSigned ty) := by
  have hlt : x % 2 ^ elemBits ty < 2 ^ elemBits ty := Nat.mod_lt _ (Nat.two_pow_pos _)
  rw [← intVal_eq_readAs, intVal, intLeast, intGreatest]
  generalize x % 2 ^ elemBits ty = y at *
  rw [two_pow_elemBits] at *
  generalize 2 ^ (elemBits ty - 1) = half at *
  cases intSigned ty
  · simp only [Bool.false_and, Bool.false_eq_true, if_false]
    omega
  · simp only [Bool.true_and, decide_eq_true_eq, if_true]
    split_ifs <;> omega

theorem neutral_lt (ty op : Nat) : neutral ty op < 2 ^ elemBits ty := by
  have hpow := two_pow_elemBits ty
  have hpos := Nat.two_pow_pos (elemBits ty - 1)
  unfold neutral
  dsimp only
  split
  · split_ifs <;> omega
  · split_ifs <;> omega
  · omega
  · omega

/-- The neutral code of the minimum is the greatest value. -/
theorem readAs_neutral_min (ty : Nat) : readAs ty (neutral ty 1) = intGreatest (elemBits ty) (intSigned ty) := by
  have hpow := two_pow_elemBits ty
  have hpos := Nat.two_pow_pos (elemBits ty - 1)
  rw [← intVal_eq_readAs, intVal, Nat.mod_eq_of_lt (neutral_lt ..), intGreatest, neutral, intSigned, hpow]
  by_cases h : ty % 2 = 0
  · simp only [h, BEq.rfl, Bool.true_and, decide_eq_true_eq, if_true]
    split_ifs <;> omega
  · simp only [h, beq_eq_false_iff_ne.mpr h, Bool.false_and, Bool.false_eq_true, if_false]
    omega

/-- The neutral code of the maximum is the least value. -/
theorem readAs_neutral_max (ty : Nat) : readAs ty (neutral ty 2) = intLeast (elemBits ty) (intSigned ty) := by
  have hpow := two_pow_elemBits ty
  have hpos := Nat.two_pow_pos (elemBits ty - 1)
  rw [← intVal_eq_readAs, intVal, Nat.mod_eq_of_lt (neutral_lt ..), intLeast, neutral, intSigned, hpow]
  by_cases h : ty % 2 = 0
  · simp only [h, BEq.rfl, Bool.true_and, decide_eq_true_eq, if_true]
    split_ifs <;> omega
  · simp only [h, beq_eq_false_iff_ne.mpr h, Bool.false_and, Bool.false_eq_true, if_false]
    omega

theorem identity_int {op : Nat} (hty : ty ≤ 3) (hop : op ≤ 5) : identity ty op = neutral ty op := by
  have hint : ¬ (ty = 8 ∨ ty = 9) := by omega
  obtain rfl | rfl | rfl | rfl | rfl | rfl : op = 0 ∨ op = 1 ∨ op = 2 ∨ op = 3 ∨ op = 4 ∨ op = 5 := by omega
  case inr.inl =>
    have h : identity ty 1 = intCode (elemBits ty) (intGreatest (elemBits ty) (intSigned ty)) := if_neg hint
    rw [h, ← readAs_neutral_min, intCode, ← settled_eq, settled_readAs (neutral_lt ..)]
  case inr.inr.inl =>
    have h : identity ty 2 = intCode (elemBits ty) (intLeast (elemBits ty) (intSigned ty)) := if_neg hint
    rw [h, ← readAs_neutral_max, intCode, ← settled_eq, settled_readAs (neutral_lt ..)]
  all_goals rfl

/-- A join of codes by a join of what they are read as. -/
theorem combines_of_readAs {j : Nat → Nat → Nat} {e : Nat} (g : Int → Int → Int) (he : e < 2 ^ elemBits ty)
    (hj : ∀ a b, a < 2 ^ elemBits ty → b < 2 ^ elemBits ty →
      j a b < 2 ^ elemBits ty ∧ readAs ty (j a b) = g (readAs ty a) (readAs ty b))
    (hassoc : ∀ u v w, g (g u v) w = g u (g v w)) (hleft : ∀ a, g (readAs ty e) (readAs ty a) = readAs ty a)
    (hright : ∀ a, g (readAs ty a) (readAs ty e) = readAs ty a) : Combines j e (2 ^ elemBits ty) where
  neutral_lt := he
  lt a b ha hb := (hj a b ha hb).1
  assoc a b c ha hb hc := by
    obtain ⟨hab, hrab⟩ := hj a b ha hb
    obtain ⟨hbc, hrbc⟩ := hj b c hb hc
    obtain ⟨hl, hrl⟩ := hj _ c hab hc
    obtain ⟨hr, hrr⟩ := hj a _ ha hbc
    exact readAs_injective hl hr (by rw [hrl, hrr, hrab, hrbc, hassoc])
  left a ha := by
    obtain ⟨hl, hrl⟩ := hj e a he ha
    exact readAs_injective hl ha (hrl.trans (hleft a))
  right a ha := by
    obtain ⟨hl, hrl⟩ := hj a e ha he
    exact readAs_injective hl ha (hrl.trans (hright a))

theorem joined_min_combines (ty : Nat) : Combines (joined ty 1) (neutral ty 1) (2 ^ elemBits ty) := by
  have hle (a : Nat) : readAs ty a ≤ readAs ty (neutral ty 1) := readAs_neutral_min ty ▸ (readAs_bounds ty a).2
  refine combines_of_readAs min (neutral_lt ..) (fun a b ha hb => ?_) min_assoc (fun a => min_eq_right (hle a))
    fun a => min_eq_left (hle a)
  rw [joined_min ha hb, min_comm, min_def_lt]
  split_ifs
  · exact ⟨hb, rfl⟩
  · exact ⟨ha, rfl⟩

theorem joined_max_combines (ty : Nat) : Combines (joined ty 2) (neutral ty 2) (2 ^ elemBits ty) := by
  have hle (a : Nat) : readAs ty (neutral ty 2) ≤ readAs ty a := readAs_neutral_max ty ▸ (readAs_bounds ty a).1
  refine combines_of_readAs max (neutral_lt ..) (fun a b ha hb => ?_) max_assoc (fun a => max_eq_right (hle a))
    fun a => max_eq_left (hle a)
  rw [joined_max ha hb, max_def_lt]
  split_ifs
  · exact ⟨hb, rfl⟩
  · exact ⟨ha, rfl⟩

theorem joined_add_combines (ty : Nat) : Combines (joined ty 0) (neutral ty 0) (2 ^ elemBits ty) where
  neutral_lt := Nat.two_pow_pos _
  lt a b _ _ := by
    rw [joined_add]
    exact Nat.mod_lt _ (Nat.two_pow_pos _)
  assoc a b c _ _ _ := by simp only [joined_add, Nat.mod_add_mod, Nat.add_mod_mod, Nat.add_assoc]
  left a ha := by rw [joined_add, show neutral ty 0 = 0 from rfl, Nat.zero_add, Nat.mod_eq_of_lt ha]
  right a ha := by rw [joined_add, show neutral ty 0 = 0 from rfl, Nat.add_zero, Nat.mod_eq_of_lt ha]

theorem joined_and_combines (ty : Nat) : Combines (joined ty 3) (neutral ty 3) (2 ^ elemBits ty) where
  neutral_lt := Nat.sub_lt (Nat.two_pow_pos _) Nat.one_pos
  lt _ _ _ hb := Nat.lt_of_le_of_lt Nat.and_le_right hb
  assoc a b c _ _ _ := Nat.and_assoc a b c
  left _ ha := (Nat.and_comm ..).trans (Nat.and_two_pow_sub_one_of_lt_two_pow ha)
  right _ ha := Nat.and_two_pow_sub_one_of_lt_two_pow ha

theorem joined_or_combines (ty : Nat) : Combines (joined ty 4) (neutral ty 4) (2 ^ elemBits ty) where
  neutral_lt := Nat.two_pow_pos _
  lt _ _ ha hb := Nat.or_lt_two_pow ha hb
  assoc a b c _ _ _ := Nat.or_assoc a b c
  left a _ := Nat.zero_or a
  right a _ := Nat.or_zero a

theorem joined_xor_combines (ty : Nat) : Combines (joined ty 5) (neutral ty 5) (2 ^ elemBits ty) where
  neutral_lt := Nat.two_pow_pos _
  lt _ _ ha hb := Nat.xor_lt_two_pow ha hb
  assoc a b c _ _ _ := Nat.xor_assoc a b c
  left a _ := Nat.zero_xor a
  right a _ := Nat.xor_zero a

theorem joined_combines {op : Nat} (hop : op ≤ 5) : Combines (joined ty op) (neutral ty op) (2 ^ elemBits ty) := by
  obtain rfl | rfl | rfl | rfl | rfl | rfl : op = 0 ∨ op = 1 ∨ op = 2 ∨ op = 3 ∨ op = 4 ∨ op = 5 := by omega
  exacts [joined_add_combines ty, joined_min_combines ty, joined_max_combines ty, joined_and_combines ty,
    joined_or_combines ty, joined_xor_combines ty]

end

/-! ## Trees over an associative join are folds (R96) -/

/-- The join of a list of codes taken one after the other; none of an empty one. -/
def foldedOpt (j : Nat → Nat → Nat) (e : Nat) (vs : List Nat) : Option Nat := if vs = [] then none else some (vs.foldl j e)

section
variable {j : Nat → Nat → Nat} {e bound : Nat} {join : Nat → Nat → Nat × Nat} {x : Nat → Option Nat}

theorem foldl_lt (hc : Combines j e bound) {vs : List Nat} (hvs : ∀ v ∈ vs, v < bound) : vs.foldl j e < bound := by
  have hgen (a : Nat) (ha : a < bound) : vs.foldl j a < bound := by
    induction vs generalizing a with
    | nil => exact ha
    | cons v vs ih => exact ih (fun u hu => hvs u (.tail _ hu)) _ (hc.lt _ _ ha (hvs v (.head _)))
  exact hgen e hc.neutral_lt

theorem foldl_from (hc : Combines j e bound) {vs : List Nat} (hvs : ∀ v ∈ vs, v < bound) {a : Nat} (ha : a < bound) :
    vs.foldl j a = j a (vs.foldl j e) := by
  induction vs generalizing a with
  | nil => exact (hc.right a ha).symm
  | cons v vs ih =>
    have hv := hvs v (.head _)
    have hrest (u : Nat) (hu : u ∈ vs) := hvs u (.tail _ hu)
    rw [List.foldl_cons, List.foldl_cons, ih hrest (hc.lt _ _ ha hv), hc.left v hv, ih hrest hv,
      hc.assoc _ _ _ ha hv (foldl_lt hc hrest)]

/-- The join of two lists is the join of their joins, without flags. -/
theorem combined_foldedOpt (hc : Combines j e bound) (hjoin : ∀ a b, a < bound → b < bound → join a b = (j a b, 0))
    {us vs : List Nat} (hus : ∀ u ∈ us, u < bound) (hvs : ∀ v ∈ vs, v < bound) :
    combined join (foldedOpt j e us) (foldedOpt j e vs) = (foldedOpt j e (us ++ vs), 0) := by
  by_cases hu : us = []
  · subst hu
    simp [foldedOpt, combined]
  · by_cases hv : vs = []
    · subst hv
      simp [foldedOpt, combined, hu]
    · have hlt := foldl_lt hc hus
      simp only [foldedOpt, hu, hv, if_false, List.append_eq_nil_iff, and_self, combined, hjoin _ _ hlt (foldl_lt hc hvs),
        List.foldl_append, foldl_from hc hvs hlt]

/-- The values of `n` lanes from lane `i`. -/
def window (x : Nat → Option Nat) (i n : Nat) : List Nat := (List.range' i n).filterMap x

theorem window_append (x : Nat → Option Nat) (i m n : Nat) : window x i m ++ window x (i + m) n = window x i (m + n) := by
  rw [window, window, window, ← List.filterMap_append, List.range'_append_1]

theorem window_lt (hx : ∀ i v, x i = some v → v < bound) (i n : Nat) : ∀ v ∈ window x i n, v < bound := by
  intro v hv
  obtain ⟨k, -, hk⟩ := List.mem_filterMap.mp hv
  exact hx k v hk

/-- The values of the `d` lanes up to lane `i`, as many as there are. -/
def runUpTo (x : Nat → Option Nat) (d i : Nat) : List Nat := window x (i + 1 - d) (min d (i + 1))

section
variable (hc : Combines j e bound) (hjoin : ∀ a b, a < bound → b < bound → join a b = (j a b, 0))
  (hx : ∀ i v, x i = some v → v < bound)
include hc hjoin hx

theorem combined_windows (i m n : Nat) :
    combined join (foldedOpt j e (window x i m)) (foldedOpt j e (window x (i + m) n)) =
      (foldedOpt j e (window x i (m + n)), 0) := by
  rw [combined_foldedOpt hc hjoin (window_lt hx _ _) (window_lt hx _ _), window_append]

omit hjoin in
theorem foldedOpt_window_one (i : Nat) : x i = foldedOpt j e (window x i 1) := by
  cases h : x i with
  | none => simp [window, foldedOpt, h]
  | some v => simp [window, foldedOpt, h, hc.left v (hx i v h)]

/-- VREDX's tree gives the join of its lanes. -/
theorem reduced_eq (k i : Nat) : reduced join x k i = (foldedOpt j e (window x i (2 ^ k)), 0) := by
  induction k generalizing i with
  | zero => rw [reduced, foldedOpt_window_one hc hx, Nat.pow_zero]
  | succ k ih => rw [reduced, ih, ih, combined_windows hc hjoin hx, ← Nat.two_mul, ← Nat.pow_succ', Nat.or_zero, Nat.or_zero]

/-- Two runs of `d` lanes, one after the other, make a run of twice as many. -/
theorem combined_runs {d i : Nat} (h : d ≤ i) :
    combined join (foldedOpt j e (runUpTo x d (i - d))) (foldedOpt j e (runUpTo x d i)) = (foldedOpt j e (runUpTo x (2 * d) i), 0) := by
  have hstart : i + 1 - d = (i + 1 - 2 * d) + min d (i - d + 1) := by omega
  have hlen : min d (i - d + 1) + min d (i + 1) = min (2 * d) (i + 1) := by omega
  rw [runUpTo, runUpTo, runUpTo, show i - d + 1 - d = i + 1 - 2 * d by omega, hstart, combined_windows hc hjoin hx, hlen]

/-- VSCAN's lanes after `k` steps have the join of the 2^k lanes up to them. -/
theorem scanned_eq (k i : Nat) : scanned join x k i = foldedOpt j e (runUpTo x (2 ^ k) i) := by
  induction k generalizing i with
  | zero =>
    rw [scanned, runUpTo, Nat.pow_zero, Nat.add_sub_cancel, min_eq_left (by omega)]
    exact foldedOpt_window_one hc hx i
  | succ k ih =>
    rw [scanned, ih, ih, Nat.pow_succ']
    split_ifs with h
    · rw [combined_runs hc hjoin hx h]
    · rw [runUpTo, runUpTo, show i + 1 - 2 ^ k = i + 1 - 2 * 2 ^ k by omega,
        show min (2 ^ k) (i + 1) = min (2 * 2 ^ k) (i + 1) by omega]

theorem stepFlags_zero (k : Nat) : stepFlags join x k = 0 := by
  have hstep (i : Nat) (hi : i ∈ (List.range 32).filter fun i => 2 ^ k ≤ i) :
      (combined join (scanned join x k (i - 2 ^ k)) (scanned join x k i)).2 = 0 := by
    rw [scanned_eq hc hjoin hx, scanned_eq hc hjoin hx,
      combined_runs hc hjoin hx (of_decide_eq_true (List.mem_filter.mp hi).2)]
  rw [stepFlags, List.map_congr_left hstep, List.foldl_map]
  simp only [Nat.or_zero]
  exact List.foldl_fixed _

theorem scanFlags_zero : scanFlags join x = 0 := by
  rw [scanFlags_eq]
  simp only [stepFlags_zero hc hjoin hx, Nat.or_zero]
  rfl

end

end

/-! ## Scans and reductions of integers (R96) -/

section
variable {s : State} {f : LaneF}

theorem elemBits_of_le_three : ∀ ty : BitVec 5, ty.toNat ≤ 3 → elemBits ty.toNat = if isPair ty then 64 else 32 := by
  decide

theorem opA_lt (x : Warp) (hty : f.ty.toNat ≤ 3) (l : Nat) : opA x f l < 2 ^ elemBits f.ty.toNat := by
  rw [elemBits_of_le_three _ hty, opA, readV]
  split_ifs
  · exact BitVec.isLt _
  · exact BitVec.isLt _

theorem sourceLane_lt (hty : f.ty.toNat ≤ 3) (l v : Nat) (h : sourceLane s f l = some v) : v < 2 ^ elemBits f.ty.toNat := by
  rw [sourceLane] at h
  split_ifs at h
  exact Option.some.inj h ▸ opA_lt s.me hty l

/-- The values of the active lanes below `n`. -/
theorem window_sourceLane (n : Nat) : window (sourceLane s f) 0 n =
    ((List.range n).filter fun l => hasLane (act s f) l).map fun l => opA s.me f l := by
  rw [window, ← List.range_eq_range']
  induction List.range n with
  | nil => rfl
  | cons l ls ih =>
    by_cases h : hasLane (act s f) l = true
    · simp [sourceLane, h, lt_of_hasLane h, ih]
    · simp [sourceLane, h, ih]

/-- An active lane is among the values below any lane after it. -/
theorem window_ne_nil {l n : Nat} (h : hasLane (act s f) l = true) (hl : l < n) : window (sourceLane s f) 0 n ≠ [] := by
  rw [window_sourceLane]
  exact List.ne_nil_of_mem (List.mem_map_of_mem (List.mem_filter.mpr ⟨List.mem_range.mpr hl, h⟩))

theorem foldedOpt_getD {j : Nat → Nat → Nat} {e d : Nat} {vs : List Nat} (h : vs = [] → d = e) :
    (foldedOpt j e vs).getD d = vs.foldl j e := by
  unfold foldedOpt
  split_ifs with hvs
  · rw [h hvs, hvs]
    rfl
  · rfl

section
variable (hty : f.ty.toNat ≤ 3) (hop : f.ctlN 0 3 ≤ 5)
include hty hop

/-- The joins of VSCAN and VREDX on integers. -/
theorem joinOf_eq (a b : Nat) (ha : a < 2 ^ elemBits f.ty.toNat) (hb : b < 2 ^ elemBits f.ty.toNat) :
    joinOf f a b = (joined f.ty.toNat (f.ctlN 0 3) a b, 0) := combine_int hty hop ha hb

/-- What VSCAN gives a lane: the join of the active lanes up to it, or below it. -/
theorem scanResult_eq {l : Nat} (hl : l < 32) (excl : Bool) :
    (scanResult (joinOf f) (sourceLane s f) excl l).getD (identity f.ty.toNat (f.ctlN 0 3)) =
      folded f.ty.toNat (f.ctlN 0 3) (window (sourceLane s f) 0 (if excl then l else l + 1)) := by
  have hscan (i : Nat) (hi : i < 32) : scanned (joinOf f) (sourceLane s f) 5 i =
      foldedOpt (joined f.ty.toNat (f.ctlN 0 3)) (neutral f.ty.toNat (f.ctlN 0 3)) (window (sourceLane s f) 0 (i + 1)) := by
    rw [scanned_eq (joined_combines hop) (joinOf_eq hty hop) (sourceLane_lt hty), runUpTo,
      show i + 1 - 2 ^ 5 = 0 by omega, show min (2 ^ 5) (i + 1) = i + 1 by omega]
  rw [identity_int hty hop, scanResult, folded]
  cases excl
  · exact (congrArg (Option.getD · _) (hscan l hl)).trans (foldedOpt_getD fun _ => rfl)
  · cases l with
    | zero => rfl
    | succ l => exact (congrArg (Option.getD · _) (hscan l (by omega))).trans (foldedOpt_getD fun _ => rfl)

theorem vredx_int (h : Ready s f (useDA f) []) :
    OwedOrTrapped s f (.vredx f) 0 fun _ => folded f.ty.toNat (f.ctlN 0 3) (window (sourceLane s f) 0 32) := by
  have howed := vredx_owes h
  rw [reduced_eq (joined_combines hop) (joinOf_eq hty hop) (sourceLane_lt hty)] at howed
  exact howed.congr fun l hl => foldedOpt_getD fun hnil => absurd hnil (window_ne_nil hl (lt_of_hasLane hl))

theorem vscan_int (h : Ready s f (useDA f) []) :
    OwedOrTrapped s f (.vscan f) 0 fun l => folded f.ty.toNat (f.ctlN 0 3)
      (window (sourceLane s f) 0 (if f.ctl.getLsbD 3 then l else l + 1)) := by
  have howed := vscan_owes h
  rw [scanFlags_zero (joined_combines hop) (joinOf_eq hty hop) (sourceLane_lt hty)] at howed
  exact howed.congr fun l hl => scanResult_eq hty hop (lt_of_hasLane hl) _

end

end

/-- Scans and reductions by their trees: on floats the tree itself, on integers the fold that it comes to. -/
theorem scansAndReductionsCombineTheLanes : ScansAndReductionsCombineTheLanes := by
  refine ⟨?_, ?_⟩
  · intro s f hty hop h ty op join x whole y
    have hjoin : joinOf f = join := combine_float hty hop _
    obtain ⟨hred, hredTrap⟩ := vredx_owes h
    obtain ⟨hscan, hscanTrap⟩ := vscan_owes h
    rw [hjoin] at hred hredTrap hscan hscanTrap
    rw [identity_float hty hop] at hscan
    exact ⟨hred, hredTrap, hscan, hscanTrap⟩
  · intro s f hty hop h ty op below
    have hbelow (n : Nat) : window (sourceLane s f) 0 n = below n := window_sourceLane n
    have hred := (vredx_int hty hop h).of_no_flags
    have hscan := (vscan_int hty hop h).of_no_flags
    simp only [hbelow] at hred hscan
    exact ⟨hred, hscan⟩

/-- Settles O52: a shuffle by the lane it reads; the trees of scans and reductions level by level, and on integers by the
associativity of their join. -/
theorem lanesAreMovedAndCombined : Obligations.LanesAreMovedAndCombined := ⟨lanesAreMoved, scansAndReductionsCombineTheLanes⟩

end Sys2Proof.Machine
end

section
/-! O38: the steps of the matrix engine, what MMA, MMA.ns and SCACC owe, and the energy budgets (R112, R113, R221 to R226,
R233, R234). -/

namespace Sys2Proof.Machine

/- Proofs one after another: side by side, each takes the stack of a thread, and those of the whole text reach the
memory limit of the check. -/
set_option Elab.async false
open Sys2Proof.Claims

/-! ## The sum of a window of 80 bits (R112, R113) -/

theorem FVal.Is.isInf {v : FVal} {z : ℚ} (h : v.Is z) : isInf v = false := by
  obtain ⟨n, m, e, rfl, -⟩ := h
  rfl

theorem abs_signOf_mul (n : Bool) {x : ℚ} (hx : 0 ≤ x) : |signOf n * x| = x := by
  rw [abs_mul, abs_of_nonneg hx]
  cases n <;> simp [signOf]

/-- A value below 2^b has its leading bit below b. -/
theorem topOf_lt {v : FVal} {z : ℚ} {t b : ℤ} (hv : v.Is z) (ht : topOf v = some t) (hz : |z| < 2 ^ b) : t < b := by
  obtain ⟨n, m, e, rfl, rfl⟩ := hv
  rcases eq_or_ne m 0 with rfl | hm
  · simp [topOf] at ht
  obtain ⟨hlen, hlo, -⟩ := two_pow_bitLen hm
  obtain rfl : (bitLen m : ℤ) - 1 + e = t := by simpa [topOf, hm] using ht
  rw [mul_assoc, abs_signOf_mul n (by positivity)] at hz
  have hm' : (2 : ℚ) ^ (bitLen m - 1) ≤ m := by exact_mod_cast hlo
  have hlt : (2 : ℚ) ^ ((bitLen m : ℤ) - 1 + e) < 2 ^ b := by
    calc (2 : ℚ) ^ ((bitLen m : ℤ) - 1 + e) = 2 ^ (bitLen m - 1) * 2 ^ e := by
          rw [← zpow_natCast, ← zpow_add₀ (by norm_num), Nat.cast_sub hlen, Nat.cast_one]
      _ ≤ m * 2 ^ e := mul_le_mul_of_nonneg_right hm' (by positivity)
      _ < 2 ^ b := hz
  exact (zpow_lt_zpow_iff_right₀ (by norm_num)).mp hlt

/-- A value without a leading bit is zero. -/
theorem eq_zero_of_topOf {v : FVal} {z : ℚ} (hv : v.Is z) (ht : topOf v = none) : z = 0 := by
  obtain ⟨n, m, e, rfl, rfl⟩ := hv
  obtain rfl : m = 0 := by simpa [topOf] using ht
  simp

/-- A multiple of the window's unit is cut to itself. -/
theorem cutTo_eq {v : FVal} {z : ℚ} {q k : ℤ} (hv : v.Is z) (hk : z = k * 2 ^ q) : cutTo q v = k := by
  obtain ⟨n, m, e, rfl, rfl⟩ := hv
  have hpos : (2 : ℚ) ^ q ≠ 0 := by positivity
  rcases le_or_gt q e with hle | hlt
  · have hcut : cutTo q (.fin n m e) = scaled (.fin n m e) q := by simp [cutTo, scaled, hle]
    rw [hcut]
    have := (scaled_fin n m hle).trans hk
    exact_mod_cast mul_right_cancel₀ hpos this
  · obtain ⟨d, hd⟩ : ∃ d : Nat, q = d + e := ⟨(q - e).toNat, by omega⟩
    have hm : signOf n * (m : ℚ) = k * 2 ^ d := by
      have hpose : (2 : ℚ) ^ e ≠ 0 := by positivity
      rw [hd, zpow_add₀ (by norm_num), zpow_natCast, ← mul_assoc] at hk
      exact mul_right_cancel₀ hpose hk
    have hcut : cutTo q (.fin n m e) = signedInt n (m / 2 ^ d) := by
      simp only [cutTo, if_neg (not_le.mpr hlt), show (q - e).toNat = d by omega]
      rfl
    have hint : signedInt n m = k * 2 ^ d := by
      have := (cast_signedInt n m).trans hm
      exact_mod_cast this
    rw [hcut]
    have hdvd : (2 ^ d : ℤ) ∣ (m : ℤ) := by
      cases n
      · exact ⟨k, by simpa [signedInt, mul_comm] using hint⟩
      · exact ⟨-k, by rw [mul_neg, mul_comm, ← hint]; simp [signedInt]⟩
    obtain ⟨l, rfl⟩ : 2 ^ d ∣ m := by exact_mod_cast hdvd
    have hpow : (2 : ℤ) ^ d ≠ 0 := by positivity
    rw [Nat.mul_div_cancel_left _ (Nat.two_pow_pos d)]
    refine mul_right_cancel₀ hpow (Eq.trans ?_ hint)
    cases n <;> simp [signedInt, mul_comm]

theorem foldl_max_le {b : ℤ} (ts : List ℤ) {t : ℤ} (ht : t ≤ b) (hts : ∀ x ∈ ts, x ≤ b) : ts.foldl max t ≤ b := by
  induction ts generalizing t with
  | nil => exact ht
  | cons x ts ih =>
    obtain ⟨hx, hts⟩ := List.forall_mem_cons.mp hts
    exact ih (max_le ht hx) hts

theorem foldl_cut (q : ℤ) (vs : List FVal) : vs.foldl (fun a v => a + cutTo q v) 0 = (vs.map (cutTo q)).sum := by
  rw [List.sum_eq_foldl, List.foldl_map]

/-- R112: finite products whose bits share a window of 80 bits are summed exactly. -/
theorem windowSum_exact {ks : List Nat} {p : Nat → FVal} {z : Nat → ℚ} {q : ℤ}
    (h : ∀ k ∈ ks, (p k).Is (z k) ∧ |z k| < 2 ^ (q + 80) ∧ ∃ n : ℤ, z k = n * 2 ^ q) :
    ∃ v, windowSum (ks.map fun k => (p k, 0)) = (v, 0) ∧ v.Is (ks.map z).sum := by
  have hinf : ∀ sign : FVal → Bool, ((ks.map p).any fun v => isInf v && sign v) = false := fun sign => by
    simp only [List.any_map, List.any_eq_false, Function.comp_apply]
    intro k hk
    simp [(h k hk).1.isInf]
  have hnan : ((ks.map p).any isNan) = false := by
    simp only [List.any_map, List.any_eq_false, Function.comp_apply]
    intro k hk
    simp [(h k hk).1.isNan]
  have hflags : (ks.map fun k => (p k, 0)).foldl (fun a e => a ||| e.2) 0 = 0 := by
    simp [List.foldl_map, List.foldl_fixed]
  have hfst : (ks.map fun k => (p k, 0)).map Prod.fst = ks.map p := by simp
  simp only [windowSum, hfst, hinf, hnan, hflags, Bool.and_self, Bool.or_self, Bool.false_eq_true, if_false]
  split
  · next hnone =>
    refine ⟨_, rfl, (ks.map p).all isNeg, 0, 0, rfl, ?_⟩
    have hzero : ks.map z = ks.map fun _ => 0 := List.map_congr_left fun k hk =>
      eq_zero_of_topOf (h k hk).1 (by simpa using List.filterMap_eq_nil_iff.mp hnone (p k) (List.mem_map_of_mem hk))
    simp [hzero]
  · next t ts hsome =>
    have htop : ∀ x ∈ t :: ts, x ≤ q + 79 := fun x hx => by
      rw [← hsome, List.mem_filterMap] at hx
      obtain ⟨v, hv, hx⟩ := hx
      obtain ⟨k, hk, rfl⟩ := List.mem_map.mp hv
      have := topOf_lt (h k hk).1 hx (h k hk).2.1
      omega
    obtain ⟨ht, hts⟩ := List.forall_mem_cons.mp htop
    have hmax := foldl_max_le ts ht hts
    generalize hu : ts.foldl max t - 79 = u
    have hcut : ∀ k ∈ ks, ((cutTo u (p k) : ℤ) : ℚ) * 2 ^ u = z k := fun k hk => by
      obtain ⟨his, -, n, hn⟩ := h k hk
      have hn' : z k = ((n * 2 ^ (q - u).toNat : ℤ) : ℚ) * 2 ^ u := by
        rw [hn]
        push_cast
        rw [mul_assoc, ← zpow_natCast, ← zpow_add₀ (by norm_num)]
        congr 2
        omega
      rw [cutTo_eq his hn', ← hn']
    rw [foldl_cut, List.map_map]
    obtain ⟨s, m, e, heq, hval, -⟩ := ofScaled_value (ks.map (cutTo u ∘ p)).sum u false
    refine ⟨_, rfl, s, m, e, heq, hval.trans ?_⟩
    rw [← List.map_congr_left hcut, Int.cast_list_sum, List.map_map, List.sum_map_mul_right]
    rfl

/-! ## The steps (R112, R113, R223 to R225) -/

theorem fragElem_byte {fmt kk : Nat} (h : fmt = 6 ∨ fmt = 7) (r : Nat → Nat → Nat) (l k : Nat) :
    fragElem fmt kk (r l) k = byteElem r l k := by
  have hw : fragBits fmt = 8 := by rcases h with rfl | rfl <;> rfl
  have hdiv : k * 8 / 32 = k / 4 := by omega
  have hmod : k * 8 % 32 = 8 * (k % 4) := by omega
  simp only [fragElem, hw, byteElem, bitsOf, hdiv, hmod]
  rfl

theorem intVal_byte {fmt : Nat} (h : fmt = 6 ∨ fmt = 7) (x : Nat) : intVal 8 (intSigned fmt) x = readAs fmt x := by
  rw [← intVal_eq_readAs]
  rcases h with rfl | rfl <;> rfl

section
variable {t : Step}

/-- The exact sum of an integer step (R112). -/
theorem intSum_eq (ha : t.afmt = 6 ∨ t.afmt = 7) (hb : t.bfmt = 6 ∨ t.bfmt = 7) (i j : Nat) :
    t.intSum (fragK t.afmt t.bfmt) i j = integerSum t i j := by
  have hk : fragK t.afmt t.bfmt = 32 := by rcases ha with h | h <;> rcases hb with h' | h' <;> rw [h, h'] <;> rfl
  simp only [Step.intSum, integerSum, hk, fragElem_byte ha, fragElem_byte hb, intVal_byte ha, intVal_byte hb]
  rw [List.sum_eq_foldl, List.foldl_map]

theorem integer_step (ha : t.afmt = 6 ∨ t.afmt = 7) (hb : t.bfmt = 6 ∨ t.bfmt = 7) (i j : Nat) :
    t.mma i j = (settled 0 true (readAs 0 (if t.z then 0 else t.d i j) + integerSum t i j), 0) ∧
      t.ns i j = (settled 0 false (integerSum t i j), 0) := by
  have hint : fragInt t.afmt = true := by rcases ha with h | h <;> rw [h] <;> rfl
  simp only [Step.mma, Step.ns, hint, if_true, intSum_eq ha hb, ← intVal_eq_readAs 0, ← narrow_eq_settled]
  have hclamp (l g v : ℤ) (h : l ≤ g) : min g (max l v) = max l (min v g) := by omega
  exact ⟨Prod.ext (congrArg (intCode 32) (hclamp _ _ _ (by decide))) rfl, rfl⟩

theorem fragK_pos (a b : Nat) : 0 < fragK a b := by
  unfold fragK
  split_ifs <;> decide

/-- R113, R223: the products of an unscaled floating step are summed exactly. -/
theorem sub_exact {i j : Nat} {x y : Nat → ℚ} {q : ℤ} (hmode : t.mode = 0)
    (h : ∀ k, k < fragK t.afmt t.bfmt →
      Denotes (fmtOf t.afmt) (fragElem t.afmt (fragK t.afmt t.bfmt) (t.a i) k) (x k) ∧
      Denotes (fmtOf t.bfmt) (fragElem t.bfmt (fragK t.afmt t.bfmt) (t.b j) k) (y k) ∧
      |x k * y k| < 2 ^ (q + 80) ∧ ∃ n : ℤ, x k * y k = n * 2 ^ q) :
    ∃ v, t.sub (fragK t.afmt t.bfmt) i j 0 (fragK t.afmt t.bfmt) 0 = (v, 0) ∧
      v.Is ((List.range (fragK t.afmt t.bfmt)).map fun k => x k * y k).sum := by
  generalize fragK t.afmt t.bfmt = kk at *
  have hproduct : ∀ k ∈ List.range kk, t.product kk i j (0 + k) = ((t.product kk i j k).1, 0) ∧
      (t.product kk i j k).1.Is (x k * y k) := fun k hk => by
    obtain ⟨hx, hy, -⟩ := h k (List.mem_range.mp hk)
    obtain ⟨s, hs, his⟩ := (is_of_denotes hx).mulF (is_of_denotes hy)
    have hp : t.product kk i j k = (s, 0) := by
      rw [Step.product]
      simp only [hmode]
      exact hs
    rw [Nat.zero_add, hp]
    exact ⟨rfl, his⟩
  obtain ⟨v, hv, his⟩ := windowSum_exact (ks := List.range kk) (p := fun k => (t.product kk i j k).1)
    (z := fun k => x k * y k) (q := q) fun k hk => ⟨(hproduct k hk).2, (h k (List.mem_range.mp hk)).2.2⟩
  refine ⟨v, ?_, his⟩
  rw [Step.sub, List.map_congr_left fun k hk => (hproduct k hk).1, hv]
  simp [hmode]

theorem floating_step {i j : Nat} {x y : Nat → ℚ} {q : ℤ} (hfloat : fragInt t.afmt = false) (hmode : t.mode = 0)
    (h : ∀ k, k < fragK t.afmt t.bfmt →
      Denotes (fmtOf t.afmt) (fragElem t.afmt (fragK t.afmt t.bfmt) (t.a i) k) (x k) ∧
      Denotes (fmtOf t.bfmt) (fragElem t.bfmt (fragK t.afmt t.bfmt) (t.b j) k) (y k) ∧
      |x k * y k| < 2 ^ (q + 80) ∧ ∃ n : ℤ, x k * y k = n * 2 ^ q) {c : ℚ} :
    (Denotes fmtF32 (if t.z then 0 else t.d i j) c →
      Correct fmtF32 0 ((c + ((List.range (fragK t.afmt t.bfmt)).map fun k => x k * y k).sum : ℚ) : ℝ) (t.mma i j)) ∧
    Correct fmtF32 0 (((List.range (fragK t.afmt t.bfmt)).map fun k => x k * y k).sum : ℚ) (t.ns i j) := by
  obtain ⟨v, hsub, hv⟩ := sub_exact hmode h
  have hone : fragK t.afmt t.bfmt / fragK t.afmt t.bfmt = 1 := Nat.div_self (fragK_pos _ _)
  refine ⟨fun hc => ?_, ?_⟩
  · obtain ⟨s, hadd, hs⟩ := (is_of_denotes hc).addF hv 0
    have hmma : t.mma i j = roundCode fmtF32 0 (s, 0) := by
      simp [Step.mma, hfloat, hmode, hone, hsub, hadd]
    rw [hmma]
    exact hs.correct fmtF32_ok 0
  · have hns : t.ns i j = roundCode fmtF32 0 (v, 0) := by simp [Step.ns, hfloat, hsub]
    rw [hns]
    exact hv.correct fmtF32_ok 0

end

/-- R225: SCACC rounds its product and sum once. -/
theorem scaleAcc_finite {p r c d : FVal} {x y z w : ℚ} (hp : p.Is x) (hr : r.Is y) (hc : c.Is z) (hd : d.Is w) (rm : Nat) :
    Correct fmtF32 rm ((x * y * z + w : ℚ) : ℝ) (scaleAcc p r c d rm) := by
  obtain ⟨k, hk, hxk⟩ := hp.mulF hr
  obtain ⟨l, hl, hxl⟩ := hxk.mulF hc
  obtain ⟨s, hs, hxs⟩ := hxl.addF hd rm
  have hscale : scaleAcc p r c d rm = roundCode fmtF32 rm (s, 0) := by
    simp [scaleAcc, hp.isNan, hr.isNan, hc.isNan, hd.isNan, hk, hxk.isNan, hl, hxl.isNan, hs]
  rw [hscale]
  exact hxs.correct fmtF32_ok rm

theorem stepsSumTheirProducts : StepsSumTheirProducts := by
  refine ⟨fun t i j ha hb => integer_step ha hb i j, ?_, ?_⟩
  · intro t i j x y c q hfloat hmode kk h sum
    obtain ⟨hmma, hns⟩ := floating_step (c := c) hfloat hmode h
    exact ⟨by exact_mod_cast hmma, hns⟩
  · intro rm p r c d x y z w _ hp hr hc hd
    exact_mod_cast scaleAcc_finite (is_of_denotes hp) (is_of_denotes hr) (is_of_denotes hc) (is_of_denotes hd) rm

/-! ## What MMA, MMA.ns and SCACC owe (R221 to R226, R233) -/

theorem flatMap_range_map {α : Type} (F : Nat → Nat → α) (a : Nat) {b : Nat} (hb : 0 < b) :
    (List.range a).flatMap (fun i => (List.range b).map (F i)) = (List.range (a * b)).map fun e => F (e / b) (e % b) := by
  induction a with
  | zero => simp
  | succ a ih =>
    rw [List.range_succ, List.flatMap_append, ih, List.flatMap_singleton, Nat.succ_mul, List.range_add, List.map_append,
      List.map_map]
    congr 1
    refine List.map_congr_left fun j hj => ?_
    have hj := List.mem_range.mp hj
    simp only [Function.comp_apply]
    rw [Nat.mul_comm a b, Nat.mul_add_div hb, Nat.mul_add_mod, Nat.div_eq_of_lt hj, Nat.mod_eq_of_lt hj, Nat.add_zero]

/-- The elements of a group in the order of its registers and lanes. -/
theorem tile_eq (g : Nat → Nat → Nat × Nat) :
    tile g = (List.range 1024).map fun e => (e / 32, e % 32, (g (e / 32) (e % 32)).1, (g (e / 32) (e % 32)).2) :=
  flatMap_range_map (fun i j => (i, j, (g i j).1, (g i j).2)) 32 (by decide)

/-- The flags of a group's elements. -/
def groupFlags (g : Nat → Nat → Nat × Nat) : Nat :=
  ((List.range 1024).map fun e => (g (e / 32) (e % 32)).2).foldl (· ||| ·) 0

theorem tileFlags_tile (g : Nat → Nat → Nat × Nat) : tileFlags (tile g) = groupFlags g := by
  rw [tileFlags, tile_eq, groupFlags, List.foldl_map, List.foldl_map]

theorem tileWrites_tile (d : Nat) (g : Nat → Nat → Nat × Nat) : tileWrites d (tile g) =
    (List.range 1024).map fun e => ⟨d + e / 32, e % 32, BitVec.ofNat 32 (g (e / 32) (e % 32)).1⟩ := by
  rw [tileWrites, tile_eq, List.map_map]
  rfl

/-- What a matrix instruction owes: the 32 registers of its group. -/
def owesGroup (d left : Nat) (g : Nat → Nat → Nat × Nat) : Outst :=
  outst left ((List.range 32).map (d + ·)) [] ((List.range 1024).map fun e =>
    ⟨d + e / 32, e % 32, BitVec.ofNat 32 (g (e / 32) (e % 32)).1⟩) []

theorem withFp_myPath (s : State) (fl : Nat) : (withFp s fl).myPath = s.myPath := by
  rw [State.myPath, withFp_me]
  rfl

theorem laneRest_fpflags (x : Warp) (v : W64) (p : Nat) :
    (laneRest x p).fpflags = x.fpflags ∧ laneRest { x with fpflags := v } p = { laneRest x p with fpflags := v } := by
  unfold laneRest setPath
  split <;> exact ⟨rfl, rfl⟩

/-- A budget has been debited, and a long instruction has raised the flags `fl` and owes `o`. -/
structure ChargedAndOwed (s t : State) (units fl : Nat) (o : Outst) : Prop where
  rest : { t with warps := s.warps, dies := s.dies } = s
  die : t.die s.myDie =
    { s.die s.myDie with energy := kSet (s.die s.myDie).energy s.myCtx (s.budget s.myDie s.myCtx - units) }
  dies : ∀ k, k ≠ s.myDie → kGet? t.dies k = kGet? s.dies k
  owed : LaneOwes (withFp s fl) t o

theorem debit_owes (s : State) (units fl : Nat) (o : Outst) :
    ChargedAndOwed s ((withFp (s.debit s.myDie s.myCtx units) fl).laneLong o) units fl o := by
  obtain ⟨howes, hrest⟩ := laneLong_owes (withFp (s.debit s.myDie s.myCtx units) fl) o
  have hdies : ((withFp (s.debit s.myDie s.myCtx units) fl).laneLong o).dies = (s.debit s.myDie s.myCtx units).dies := rfl
  refine ⟨congrArg (fun t : State => { t with warps := s.warps, dies := s.dies }) hrest, ?_, fun k hk => ?_, ?_⟩
  · rw [State.die, hdies]
    exact (State.die_setDie ..).trans (if_pos rfl)
  · rw [hdies, State.debit, State.setDie_dies, kGet?_kSet, if_neg hk]
  · obtain ⟨hothers, hpath, hregs, hmasks, hscalars, hrest⟩ := howes
    exact ⟨hothers, hpath, hregs, hmasks, hscalars, hrest⟩

/-- A matrix instruction whose registers are ready, on a full path, with sources apart from its group and a budget that covers
it. -/
structure MatrixReady (s : State) (f : LaneF) (srcs : List Nat) (units fl : Nat) : Prop where
  go : s.lanePre ((List.range 32).map (f.vd.toNat + ·) ++ srcs) [] = .go
  full : s.myPath.mask = BitVec.allOnes 32
  apart : ∀ n ∈ srcs, n < f.vd.toNat ∨ f.vd.toNat + 32 ≤ n
  covered : units ≤ s.budget s.myDie s.myCtx
  quiet : trapHit s.me.fptraps fl = false

theorem not_groupBad {s : State} {d : Nat} {srcs : List Nat} (hfull : s.myPath.mask = BitVec.allOnes 32)
    (hapart : ∀ n ∈ srcs, n < d ∨ d + 32 ≤ n) : s.groupBad (group d 32) srcs = false := by
  have hany : srcs.any (group d 32).contains = false := by
    rw [List.any_eq_false]
    intro n hn
    simp only [group, List.contains_eq_mem, List.mem_map, List.mem_range, decide_eq_true_eq]
    rintro ⟨i, hi, rfl⟩
    have := hapart _ hn
    omega
  simp [State.groupBad, hfull, hany]

/-- R221 to R226, R233: a matrix instruction debits its class, raises its elements' flags and owes its group. -/
theorem matrixRun_owes {s : State} {f : LaneF} {least : Nat} {srcs : List Nat} {flt : Bool} {g : Warp → Nat → Nat → Nat × Nat}
    (h : MatrixReady s f srcs (2 ^ max (f.ctlN 11 2) least) (groupFlags (g s.me))) :
    ChargedAndOwed s (s.matrixRun f least (group f.vd.toNat 32) srcs flt fun x => tile (g x))
      (2 ^ max (f.ctlN 11 2) least) (groupFlags (g s.me))
      (owesGroup f.vd.toNat (if flt = true ∧ trapHit s.me.fptraps 0x1D = true then 0 else f.la.toNat) (g s.me)) := by
  obtain ⟨hgo, hfull, hapart, hcovered, hquiet⟩ := h
  have hbad : (s.debit s.myDie s.myCtx (2 ^ max (f.ctlN 11 2) least)).groupBad (group f.vd.toNat 32) srcs = false :=
    not_groupBad (s := s.debit ..) hfull hapart
  have hrun : s.matrixRun f least (group f.vd.toNat 32) srcs flt (fun x => tile (g x)) =
      (withFp (s.debit s.myDie s.myCtx (2 ^ max (f.ctlN 11 2) least)) (groupFlags (g s.me))).laneLong
        (owesGroup f.vd.toNat (if flt = true ∧ trapHit s.me.fptraps 0x1D = true then 0 else f.la.toNat) (g s.me)) := by
    have hme : (s.debit s.myDie s.myCtx (2 ^ max (f.ctlN 11 2) least)).me = s.me := rfl
    rw [State.matrixRun, laneRun_of_go (show s.lanePre (group f.vd.toNat 32 ++ srcs) [] = .go from hgo)]
    simp only [State.charged, energyUnits, if_neg (not_lt.mpr hcovered), hbad, Bool.false_eq_true, if_false, tileFlags_tile,
      tileWrites_tile, hme, fpEnd_eq, hquiet, Bool.and_eq_true]
    rfl
  rw [hrun]
  exact debit_owes s _ _ _

theorem matrixInstructionsOweTheirGroup : MatrixInstructionsOweTheirGroup := by
  intro s f r hr d srcs units g fl hgo hfull hapart hcovered hquiet left
  have hready : MatrixReady s f srcs units fl := ⟨hgo, hfull, hapart, hcovered, hquiet⟩
  have hleft : left = if (!r.2.2.2.2 f) = true ∧ trapHit s.me.fptraps 0x1D = true then 0 else f.la.toNat := by
    simp only [left, Bool.not_eq_true']
  have howes : ∃ t, exec (r.1 f) s = .next t ∧ ChargedAndOwed s t units fl (owesGroup d left g) := by
    rw [hleft]
    simp only [matrixRows, List.mem_cons, List.not_mem_nil, or_false] at hr
    rcases hr with rfl | rfl | rfl
    · exact ⟨_, rfl, matrixRun_owes (g := fun x => (mmaStep x f).mma) hready⟩
    · exact ⟨_, rfl, matrixRun_owes (g := fun x => (mmaStep x f).ns) hready⟩
    · exact ⟨_, rfl, matrixRun_owes (g := fun x => scaccElem x f) hready⟩
  obtain ⟨t, hexec, hrest, hdie, hdies, howed⟩ := howes
  obtain ⟨hothers, hpath, hregs, hmasks, hscalars, hlane⟩ := howed
  rw [withFp_me] at hpath hregs hmasks hscalars hlane
  rw [withFp_myPath] at hpath
  obtain ⟨hflags, hrest'⟩ := laneRest_fpflags s.me (s.me.fpflags ||| BitVec.ofNat 64 fl) s.cur.path
  have hlane' := hlane.trans hrest'
  refine ⟨t, hexec, hrest, hdie, hdies, _, hpath, rfl, hregs, hmasks, hscalars,
    (laneRest_fpflags t.me 0 s.cur.path).1.symm.trans (congrArg Warp.fpflags hlane'), ?_, ?_⟩
  · rw [(laneRest_fpflags t.me 0 s.cur.path).2, (laneRest_fpflags s.me 0 s.cur.path).2]
    exact congrArg (fun x : Warp => { x with fpflags := 0 }) hlane'
  · exact fun w hw => (hothers w hw).trans ((OnlyWarp.setMe ..).others w hw)

/-! ## Refills (R234) -/

theorem refillCap_bounds (s : State) (die c : Nat) : 1200 ≤ s.refillCap die c ∧ s.refillCap die c ≤ 2800 ∧
    ((s.die die).hot = true → s.refillCap die c = 1200) := by
  unfold State.refillCap
  refine ⟨?_, ?_, fun h => if_pos h⟩ <;> dsimp only <;> split_ifs <;> omega

/-- Budgets set one after the other. -/
theorem kGet?_foldl_kSet {α : Type} (v : Nat → α) (cs : List Nat) (m : KMap α) (c : Nat) :
    kGet? (cs.foldl (fun m c => kSet m c (v c)) m) c = if c ∈ cs then some (v c) else kGet? m c := by
  induction cs generalizing m with
  | nil => simp
  | cons a cs ih =>
    rw [List.foldl_cons, ih, kGet?_kSet]
    by_cases hc : c ∈ cs
    · simp [hc]
    · by_cases ha : c = a
      · simp [ha]
      · simp [hc, ha]

theorem budgetsAreRefilled : BudgetsAreRefilled := by
  intro s die hdie d
  refine ⟨fun hlt => ?_, fun hge => ⟨refillCap_bounds s die, ?_⟩⟩
  · exact congrArg _ (if_pos (by simp [d] at hlt; simp [hlt]))
  · have hrun : exec (.energyRefill die) s = .next (s.setDie die { d with
        refillAt := d.refillAt + 100
        energy := (s.dieCtxs die).foldl (fun m c => kSet m c (min fullEnergy (s.budget die c +
          32000 * (s.refillCap die c - 1000) / 1800 / (s.dieCtxs die).length))) d.energy }) :=
      congrArg _ (if_neg (by simp [d] at hge; simp [hge, hdie]))
    refine ⟨_, hrun, ?_, fun c => ?_, ?_, fun k hk => ?_, rfl⟩
    · simp
    · simp only [State.budget, State.die_setDie, if_true, kGet?_foldl_kSet]
      split_ifs <;> rfl
    · simp
    · simp [hk]

/-- Settles O38: finite products are multiples of the window's unit, so the engine cuts nothing off and its sum is the exact one,
which is rounded once; the long instructions debit, then go through `fpEnd`; a refill sets one budget after the other. -/
theorem matrixInstructionsSumAndOwe : Obligations.MatrixInstructionsSumAndOwe :=
  ⟨stepsSumTheirProducts, matrixInstructionsOweTheirGroup, budgetsAreRefilled⟩

end Sys2Proof.Machine
end

section
/-! O54: the codes of decimal64 and RoundD64 (R55, R104, R105). -/

namespace Sys2Proof.Machine

/- Proofs one after another: side by side, each takes the stack of a thread, and those of the whole text reach the
memory limit of the check. -/
set_option Elab.async false
open Sys2Proof.Claims

/-! ## The codes of decimal64 (R104, R105) -/

/-- A code with a coefficient below 2^53 (R104). -/
theorem decodeD_small {b : W64} {neg : Bool} {e c : Nat} (hb : b.toNat = (if neg then 2 ^ 63 else 0) + e * 2 ^ 53 + c)
    (he : e ≤ 767) (hc : c < 2 ^ 53) : decodeD b = .fin neg c (e - 398) := by
  have h15 : b.toNat / 2 ^ 59 % 16 ≠ 15 := by split at hb <;> omega
  have h3 : b.toNat / 2 ^ 61 % 4 ≠ 3 := by split at hb <;> omega
  have hexp : b.toNat / 2 ^ 53 % 1024 = e := by split at hb <;> omega
  have hcoef : b.toNat % 2 ^ 53 = c := by split at hb <;> omega
  have hneg : (b.toNat / 2 ^ 63 == 1) = neg := by
    rw [hb]
    cases neg <;> simp <;> omega
  have hfit : ¬ (c > dMax ∨ e > 767) := by unfold dMax; omega
  simp only [decodeD, if_neg h15, if_neg h3, hexp, hcoef, hneg, if_neg hfit]

/-- A code with a greater coefficient (R104). -/
theorem decodeD_large {b : W64} {neg : Bool} {e r : Nat}
    (hb : b.toNat = (if neg then 2 ^ 63 else 0) + 3 * 2 ^ 61 + e * 2 ^ 51 + r) (he : e ≤ 767) (hr : 2 ^ 53 + r ≤ dMax) :
    decodeD b = .fin neg (2 ^ 53 + r) (e - 398) := by
  have hfit : ¬ (2 ^ 53 + r > dMax ∨ e > 767) := by omega
  unfold dMax at hr
  have h15 : b.toNat / 2 ^ 59 % 16 ≠ 15 := by split at hb <;> omega
  have h3 : b.toNat / 2 ^ 61 % 4 = 3 := by split at hb <;> omega
  have hexp : b.toNat / 2 ^ 51 % 1024 = e := by split at hb <;> omega
  have hcoef : b.toNat % 2 ^ 51 = r := by split at hb <;> omega
  have hneg : (b.toNat / 2 ^ 63 == 1) = neg := by
    rw [hb]
    cases neg <;> simp <;> omega
  simp only [decodeD, if_neg h15, if_pos h3, hexp, hcoef, hneg, if_neg hfit]

/-- The code of a coefficient and an exponent decodes to them. -/
theorem decodeD_encodeD {neg : Bool} {c : Nat} {q : Int} (hc : c ≤ dMax) (hlo : -398 ≤ q) (hhi : q ≤ 369) :
    decodeD (encodeD neg c q) = .fin neg c q := by
  obtain ⟨e, rfl⟩ : ∃ e : Nat, q = (e : Int) - 398 := ⟨(q + 398).toNat, by omega⟩
  have he : ((e : Int) - 398 + 398).toNat = e := by omega
  have hsign : (if neg then 2 ^ 63 else 0) ≤ 2 ^ 63 := by split <;> omega
  simp only [encodeD, he]
  by_cases hsmall : c < 2 ^ 53
  · rw [if_pos hsmall]
    refine decodeD_small ?_ (by omega) hsmall
    rw [BitVec.toNat_ofNat, Nat.mod_eq_of_lt (by omega)]
  · obtain ⟨r, rfl⟩ := Nat.exists_eq_add_of_le (not_lt.mp hsmall)
    rw [if_neg hsmall]
    refine decodeD_large ?_ (by omega) hc
    unfold dMax at hc
    rw [BitVec.toNat_ofNat, Nat.mod_eq_of_lt (by omega), Nat.add_sub_cancel_left]

/-- A finite code has a coefficient of 16 digits and an exponent from -398 to 369. -/
theorem decodeD_fin {b : W64} {n : Bool} {c : Nat} {q : Int} (h : decodeD b = .fin n c q) :
    c ≤ dMax ∧ -398 ≤ q ∧ q ≤ 369 := by
  have hb := b.isLt
  simp only [decodeD] at h
  generalize b.toNat = x at *
  by_cases h15 : x / 2 ^ 59 % 16 = 15
  · rw [if_pos h15] at h
    split at h <;> cases h
  · rw [if_neg h15] at h
    have hfields (e c' : Nat) (h' : (if c' > dMax ∨ e > 767 then DVal.fin (x / 2 ^ 63 == 1) 0 (min e 767 - 398)
        else DVal.fin (x / 2 ^ 63 == 1) c' (e - 398)) = .fin n c q) : c ≤ dMax ∧ -398 ≤ q ∧ q ≤ 369 := by
      unfold dMax at *
      split_ifs at h'
      · obtain ⟨-, rfl, rfl⟩ := DVal.fin.inj h'
        omega
      · obtain ⟨-, rfl, rfl⟩ := DVal.fin.inj h'
        omega
    split at h <;> exact hfields _ _ h

/-! ## Digits -/

theorem digitsFrom_eq {fuel n : Nat} (h : n < 2 ^ fuel) : digitsFrom fuel n = (Nat.digits 10 n).length := by
  induction fuel generalizing n with
  | zero =>
    obtain rfl : n = 0 := by simpa using h
    rfl
  | succ k ih =>
    rw [digitsFrom]
    split
    · next h0 => simp [h0]
    · next h0 =>
      rw [Nat.pow_succ] at h
      rw [Nat.digits_def' (by decide) (Nat.pos_of_ne_zero h0), List.length_cons, ih (by omega), Nat.add_comm]

theorem digits_eq (n : Nat) : digits n = (Nat.digits 10 n).length := digitsFrom_eq (bitLen_pow n)

theorem digits_le_iff {n k : Nat} : digits n ≤ k ↔ n < 10 ^ k := by
  rw [digits_eq]
  exact Nat.digits_length_le_iff (by decide) n

/-- A coefficient without its trailing zeros. -/
theorem stripZeros_eq {fuel n : Nat} (hn : n ≠ 0) (h : n < 2 ^ fuel) (e : Int) :
    ∃ m t : Nat, stripZeros fuel n e = (m, e + t) ∧ n = m * 10 ^ t ∧ m % 10 ≠ 0 := by
  induction fuel generalizing n e with
  | zero => omega
  | succ k ih =>
    rw [stripZeros]
    split
    · next h10 =>
      rw [Nat.pow_succ] at h
      obtain ⟨m, t, hs, hm, hlast⟩ := ih (n := n / 10) (by omega) (by omega) (e + 1)
      refine ⟨m, t + 1, by rw [hs]; push_cast; ring_nf, ?_, hlast⟩
      rw [Nat.pow_succ, ← Nat.mul_assoc, ← hm]
      omega
    · next h10 => exact ⟨n, 0, by simp, by simp, by omega⟩

/-! ## Rounding a coefficient (R55, R105) -/

/-- A magnitude `c × 10^q` rounded to a multiple of 10^r. -/
def roundAt10 (rm : Nat) (neg : Bool) (c : Nat) (q r : Int) : Nat × Bool :=
  if q ≥ r then (c * 10 ^ (q - r).toNat, false) else roundShift10 rm neg c (r - q).toNat

theorem roundedInt_self (rm : Nat) (neg : Bool) (k : Nat) : roundedInt rm neg k k = k := by
  rw [roundedInt, goesUp_self, if_neg Bool.false_ne_true]

theorem roundShift10_eq (rm : Nat) (neg : Bool) (n t : Nat) :
    let X : ℝ := (n : ℝ) / 10 ^ t
    ((n / 10 ^ t : Nat) : ℝ) ≤ X ∧ X < (n / 10 ^ t : Nat) + 1 ∧
      roundShift10 rm neg n t = (roundedInt rm neg X (n / 10 ^ t), !decide (X = (n / 10 ^ t : Nat))) := by
  intro X
  have hpos : 0 < 10 ^ t := by positivity
  have hP : (0 : ℝ) < (10 ^ t : Nat) := by exact_mod_cast hpos
  have hX : X = (n / 10 ^ t : Nat) + (n % 10 ^ t : Nat) / (10 ^ t : Nat) := by
    have hsplit : (n : ℝ) = (10 ^ t : Nat) * (n / 10 ^ t : Nat) + (n % 10 ^ t : Nat) := by
      exact_mod_cast (Nat.div_add_mod n (10 ^ t)).symm
    have hcast : ((10 : ℝ) ^ t) = (10 ^ t : Nat) := by push_cast; rfl
    simp only [X]
    rw [hcast]
    field_simp
    linarith
  have hr : n % 10 ^ t < 10 ^ t := Nat.mod_lt _ hpos
  unfold roundShift10 roundedInt goesUp halfOf
  generalize n / 10 ^ t = k at *
  generalize n % 10 ^ t = r at *
  generalize 10 ^ t = P at *
  have hr0 : (0 : ℝ) ≤ r / P := by positivity
  have hr1 : (r : ℝ) / P < 1 := (div_lt_one hP).mpr (by exact_mod_cast hr)
  have hzero : X = k ↔ r = 0 := by
    rw [hX]
    constructor
    · intro h
      have h0 : (r : ℝ) / P = 0 := by linarith
      exact_mod_cast (div_eq_zero_iff.mp h0).resolve_right hP.ne'
    · rintro rfl
      simp
  have hlow : 2 * X < k + (k + 1) ↔ 2 * r < P := by
    rw [hX, ← Nat.cast_lt (α := ℝ), ← div_lt_one hP]
    push_cast
    rw [mul_div_assoc]
    constructor <;> intro h <;> linarith
  have hmid : 2 * X = k + (k + 1) ↔ 2 * r = P := by
    rw [hX, ← Nat.cast_inj (R := ℝ), ← div_eq_one_iff_eq hP.ne']
    push_cast
    rw [mul_div_assoc]
    constructor <;> intro h <;> linarith
  refine ⟨by linarith, by linarith, ?_⟩
  simp only [hzero, hlow, hmid]
  by_cases h0 : r = 0
  · simp [h0]
  · simp [h0]

/-- R105, R120, R127: a magnitude rounded to an integer of the unit given, and whether that is inexact. -/
theorem roundAt10_eq (rm : Nat) (neg : Bool) (c : Nat) (q r : Int) :
    ∃ k : Nat, ((k : ℝ) ≤ ((c * 10 ^ (q - r) : ℚ) : ℝ) ∧ ((c * 10 ^ (q - r) : ℚ) : ℝ) < k + 1) ∧
      roundAt10 rm neg c q r =
        (roundedInt rm neg ((c * 10 ^ (q - r) : ℚ) : ℝ) k, !decide (((c * 10 ^ (q - r) : ℚ) : ℝ) = k)) := by
  unfold roundAt10
  split
  · next hge =>
    have hM : (c * 10 ^ (q - r) : ℚ) = ((c * 10 ^ (q - r).toNat : Nat) : ℚ) := by
      push_cast
      rw [← zpow_natCast, Int.toNat_of_nonneg (by omega)]
    refine ⟨c * 10 ^ (q - r).toNat, ?_, ?_⟩
    · rw [hM]
      exact ⟨by push_cast; rfl, by push_cast; linarith⟩
    · rw [hM, Rat.cast_natCast, roundedInt_self]
      simp
  · next hlt =>
    obtain ⟨hlo, hhi, hround⟩ := roundShift10_eq rm neg c (r - q).toNat
    have hM : ((c * 10 ^ (q - r) : ℚ) : ℝ) = (c : ℝ) / 10 ^ (r - q).toNat := by
      push_cast
      rw [div_eq_mul_inv, ← zpow_natCast, Int.toNat_of_nonneg (by omega), ← zpow_neg, neg_sub]
    rw [hM]
    exact ⟨_, ⟨hlo, hhi⟩, hround⟩

/-! ## The value that a decimal code rounds (R105) -/

/-- Every finite value stands, seen from the sign `neg`, at or below a coefficient of full length, or one at the least
exponent, or at or above the next. -/
theorem denotesD_outside {b : W64} {y : ℚ} (h : DenotesD b y) (neg : Bool) {c : Nat} {q : Int} (hrow : q = -398 ∨ 10 ^ 15 ≤ c) :
    ∃ W : ℚ, y = signOf neg * (W * 10 ^ q) ∧ (W ≤ c ∨ (c : ℚ) + 1 ≤ W) := by
  obtain ⟨n, d, r, hdec, rfl⟩ := h
  obtain ⟨hd, hr, -⟩ := decodeD_fin hdec
  have hpow : (10 : ℚ) ^ r = 10 ^ (r - q) * 10 ^ q := by rw [← zpow_add₀ (by norm_num), sub_add_cancel]
  refine ⟨signOf neg * (signOf n * (d * 10 ^ (r - q))), ?_, ?_⟩
  · rw [← mul_assoc, ← mul_assoc (signOf neg), signOf_mul_self, hpow]
    simp only [signOf]
    ring
  · have hc : (0 : ℚ) ≤ c := Nat.cast_nonneg c
    have hmag : (0 : ℚ) ≤ d * 10 ^ (r - q) := by positivity
    have hside : (d * 10 ^ (r - q) : ℚ) ≤ c ∨ (c : ℚ) + 1 ≤ d * 10 ^ (r - q) := by
      rcases le_or_gt q r with hle | hlt
      · have hint : (d * 10 ^ (r - q) : ℚ) = ((d * 10 ^ (r - q).toNat : Nat) : ℚ) := by
          push_cast
          rw [← zpow_natCast, Int.toNat_of_nonneg (by omega)]
        rw [hint]
        have : d * 10 ^ (r - q).toNat ≤ c ∨ c + 1 ≤ d * 10 ^ (r - q).toNat := by omega
        exact_mod_cast this
      · have hfull : 10 ^ 15 ≤ c := hrow.resolve_left (by omega)
        left
        have hd' : (d : ℚ) ≤ 10 ^ 16 := by
          have : d ≤ 10 ^ 16 := hd.trans (by decide)
          exact_mod_cast this
        have htenth : (10 : ℚ) ^ (r - q) ≤ 10 ^ (-1 : ℤ) := zpow_le_zpow_right₀ (by norm_num) (by omega)
        calc (d * 10 ^ (r - q) : ℚ) ≤ 10 ^ 16 * 10 ^ (-1 : ℤ) := mul_le_mul hd' htenth (by positivity) (by norm_num)
          _ = 10 ^ 15 := by norm_num
          _ ≤ c := by exact_mod_cast hfull
    have hsign : signOf neg * signOf n = 1 ∨ signOf neg * signOf n = -1 := by
      cases neg <;> cases n <;> norm_num [signOf]
    rw [← mul_assoc]
    rcases hsign with h1 | h1
    · rwa [h1, one_mul]
    · rw [h1]
      exact .inl (by linarith)

/-- An exact code is the value rounded in every mode. -/
theorem roundedD_exact {b : W64} {x : ℚ} (h : DenotesD b x) (rm : Nat) : RoundedD rm x b := by
  obtain ⟨n, c, q, hdec, hx⟩ := h
  refine ⟨n, c, q, x, hdec, ⟨n, c, q, hdec, hx⟩, fun b' y' _ => ?_⟩
  match rm with
  | 0 =>
    rw [sub_self, abs_zero]
    exact ⟨abs_nonneg _, fun h hne => absurd (sub_eq_zero.mp (abs_eq_zero.mp h.symm)) hne⟩
  | 1 => exact ⟨le_rfl, mul_self_nonneg x, fun h _ => h⟩
  | 2 => exact ⟨le_rfl, id⟩
  | 3 => exact ⟨le_rfl, id⟩
  | k + 4 =>
    rw [sub_self, abs_zero]
    exact ⟨abs_nonneg _, fun h => by rw [sub_eq_zero.mp (abs_eq_zero.mp h.symm)]⟩

section
variable {rm : Nat} {neg : Bool} {M : ℚ} {k : Nat} {q : Int}

/-- R55, R105: the integer chosen, in units of 10^q, is the value rounded. -/
theorem roundedD_roundedInt {b : W64} {c' : Nat} {q' : Int} (hk : (k : ℝ) ≤ M ∧ (M : ℝ) < k + 1) (hrow : q = -398 ∨ 10 ^ 15 ≤ k)
    (hb : decodeD b = .fin neg c' q') (hval : (c' : ℚ) * 10 ^ q' = roundedInt rm neg M k * 10 ^ q)
    (heven : c' % 2 = roundedInt rm neg M k % 2) : RoundedD rm (signOf neg * (M * 10 ^ q)) b := by
  refine ⟨neg, c', q', signOf neg * (roundedInt rm neg M k * 10 ^ q), hb, ⟨neg, c', q', hb, ?_⟩, fun b' y' h' => ?_⟩
  · rw [← hval]
    simp only [signOf]
    ring
  obtain ⟨W, rfl, hW⟩ := denotesD_outside h' neg hrow
  have hWr : (W : ℝ) ≤ k ∨ (k : ℝ) + 1 ≤ W := hW.imp (fun h => by exact_mod_cast h) fun h => by exact_mod_cast h
  have hchosen := cast_roundedInt rm neg M k
  rw [heven]
  have hs : (0 : ℚ) < 10 ^ q := by positivity
  have habs0 (u : ℚ) : |signOf neg * (u * 10 ^ q)| = |u| * 10 ^ q := by
    rw [abs_mul, abs_mul, abs_of_pos hs]
    cases neg <;> simp [signOf]
  have habs (u w : ℚ) : |signOf neg * (u * 10 ^ q) - signOf neg * (w * 10 ^ q)| = |u - w| * 10 ^ q := by
    rw [← mul_sub, ← sub_mul, habs0]
  have hmul (u w : ℚ) : signOf neg * (u * 10 ^ q) * (signOf neg * (w * 10 ^ q)) = u * w * (10 ^ q * 10 ^ q) := by
    rw [mul_mul_mul_comm, signOf_mul_self]
    ring
  have hM0 : (0 : ℚ) ≤ M := by
    have : (0 : ℝ) ≤ M := (Nat.cast_nonneg k).trans hk.1
    exact_mod_cast this
  have hk0 : (0 : ℚ) ≤ k := Nat.cast_nonneg k
  have hss : (0 : ℚ) < 10 ^ q * 10 ^ q := by positivity
  have hleast (h : goesUp rm neg (k % 2 == 1) M k (k + 1) = !decide ((M : ℝ) = k)) :
      M ≤ roundedInt rm neg M k ∧ (M ≤ W → (roundedInt rm neg M k : ℚ) ≤ W) := by
    have := chosen_least h hk hWr
    rw [← hchosen] at this
    exact_mod_cast this
  have hgreatest (h : goesUp rm neg (k % 2 == 1) M k (k + 1) = false) :
      (roundedInt rm neg M k : ℚ) ≤ M ∧ (W ≤ M → W ≤ roundedInt rm neg M k) := by
    have := chosen_greatest h hk hWr
    rw [← hchosen] at this
    exact_mod_cast this
  match rm with
  | 0 =>
    have hnear : Nearest 0 neg (k % 2 == 1) M k (k + 1) := nearest_even hk
    simp only [habs, mul_le_mul_iff_left₀ hs, mul_left_inj' hs.ne']
    have hle := hnear.le hk hWr
    rw [← hchosen] at hle
    refine ⟨by exact_mod_cast hle, fun heq hdiff => ?_⟩
    have heq' : |((roundedInt 0 neg M k : Nat) : ℝ) - M| = |(W : ℝ) - M| := by exact_mod_cast congrArg (Rat.cast (K := ℝ)) heq
    rw [hchosen] at heq'
    obtain ⟨htie, -⟩ := hnear.tie hk hWr heq' fun h => hdiff (by
      rw [← hchosen] at h
      have : W = (roundedInt 0 neg M k : Nat) := by exact_mod_cast h
      rw [this])
    have hne : (M : ℝ) ≠ k := fun h => by linarith
    rw [roundedInt, goesUp_even_tie hne htie]
    simp only [beq_iff_eq]
    split <;> omega
  | 1 =>
    have hN : roundedInt 1 neg M k = k := by rw [roundedInt, goesUp_zero, if_neg Bool.false_ne_true]
    have hlo : (k : ℚ) ≤ M := by exact_mod_cast hk.1
    have hhi : M < (k : ℚ) + 1 := by exact_mod_cast hk.2
    simp only [habs0, hmul, hN, mul_le_mul_iff_left₀ hs, abs_of_nonneg hM0, abs_of_nonneg hk0]
    refine ⟨hlo, by positivity, fun hle hsign => ?_⟩
    rcases hM0.eq_or_lt with h0 | hpos
    · linarith
    · have hW0 : 0 ≤ W := nonneg_of_mul_nonneg_right (by
        have := nonneg_of_mul_nonneg_left hsign hss
        linarith) hpos
      rw [abs_of_nonneg hW0] at hle ⊢
      rcases hW with h | h <;> linarith
  | 2 =>
    cases neg
    · simpa [signOf, hs] using hleast (goesUp_plus false (k % 2 == 1) M k (k + 1) |>.trans (Bool.and_true _))
    · simpa [signOf, hs] using hgreatest (goesUp_plus true (k % 2 == 1) M k (k + 1) |>.trans (Bool.and_false _))
  | 3 =>
    cases neg
    · simpa [signOf, hs] using hgreatest (goesUp_minus false (k % 2 == 1) M k (k + 1) |>.trans (Bool.and_false _))
    · simpa [signOf, hs] using hleast (goesUp_minus true (k % 2 == 1) M k (k + 1) |>.trans (Bool.and_true _))
  | n + 4 =>
    have hnear : Nearest (n + 4) neg (k % 2 == 1) M k (k + 1) := nearest_away (by omega) hk
    simp only [habs, habs0, mul_le_mul_iff_left₀ hs, mul_left_inj' hs.ne']
    have hle := hnear.le hk hWr
    rw [← hchosen] at hle
    refine ⟨by exact_mod_cast hle, fun heq => ?_⟩
    have heq' : |((roundedInt (n + 4) neg M k : Nat) : ℝ) - M| = |(W : ℝ) - M| := by
      exact_mod_cast congrArg (Rat.cast (K := ℝ)) heq
    by_cases hsame : (W : ℝ) = chosen (n + 4) neg (k % 2 == 1) M k (k + 1)
    · rw [← hchosen] at hsame
      have : W = (roundedInt (n + 4) neg M k : Nat) := by exact_mod_cast hsame
      rw [this]
    · rw [hchosen] at heq'
      obtain ⟨htie, hother⟩ := hnear.tie hk hWr heq' hsame
      have hne : (M : ℝ) ≠ k := fun h => by linarith
      have hup := goesUp_away_tie (neg := neg) (odd := k % 2 == 1) (rm := n + 4) (by omega) hne htie
      rw [hup, if_pos rfl] at hother
      have hWk : W = k := by exact_mod_cast hother
      rw [roundedInt, hup, if_pos rfl, hWk, abs_of_nonneg hk0, Nat.cast_succ, abs_of_nonneg (by linarith)]
      linarith

end

/-! ## RoundD64 (R55, R105) -/

/-- The exponent nearest to `p` of those from `lo` to `hi`. -/
theorem clamp_nearest {lo hi p x : ℤ} (hlo : lo ≤ x) (hhi : x ≤ hi) : |max lo (min p hi) - p| ≤ |x - p| := by
  rw [Int.abs_eq_natAbs, Int.abs_eq_natAbs]
  omega

theorem pow_ten_split {q r : ℤ} (h : r ≤ q) : (10 : ℚ) ^ q = ((10 ^ (q - r).toNat : Nat) : ℚ) * 10 ^ r := by
  push_cast
  rw [← zpow_natCast, Int.toNat_of_nonneg (by omega), ← zpow_add₀ (by norm_num), sub_add_cancel]

/-- Two ways to write a magnitude: the one whose coefficient does not end in a zero has the greater exponent. -/
theorem eq_mul_of_last_digit {m c : Nat} {g q : ℤ} (hm : m % 10 ≠ 0) (h : (c : ℚ) * 10 ^ q = m * 10 ^ g) :
    q ≤ g ∧ c = m * 10 ^ (g - q).toNat := by
  have hle : q ≤ g := by
    by_contra hgt
    rw [pow_ten_split (show g ≤ q by omega), ← mul_assoc] at h
    have hpos : (10 : ℚ) ^ g ≠ 0 := by positivity
    have hm' : c * 10 ^ (q - g).toNat = m := by exact_mod_cast mul_right_cancel₀ hpos h
    obtain ⟨d, hd⟩ : ∃ d, (q - g).toNat = d + 1 := ⟨(q - g).toNat - 1, by omega⟩
    rw [hd, Nat.pow_succ, ← Nat.mul_assoc] at hm'
    omega
  refine ⟨hle, ?_⟩
  rw [pow_ten_split hle, ← mul_assoc] at h
  have hpos : (10 : ℚ) ^ q ≠ 0 := by positivity
  exact_mod_cast mul_right_cancel₀ hpos h

theorem decimal_flags : (fOF ||| fNX).testBit 2 = true ∧
    ∀ p : Prop, ∀ _ : Decidable p, (if p then fNX ||| fUF else fNX).testBit 2 = false ∧
      (if p then fNX ||| fUF else fNX).testBit 4 = true := by
  refine ⟨by decide, fun p _ => ?_⟩
  split <;> decide

/-- A result that overflows. -/
theorem correctD_overflow {rm : Nat} {x : ℚ} {pref : ℤ} (b : W64) : CorrectD rm x pref (b, fOF ||| fNX) :=
  fun h => absurd (h.symm.trans decimal_flags.1) (by decide)

/-- A zero: every exponent stands for it. -/
theorem correctD_zero (rm : Nat) (neg : Bool) (pref : ℤ) :
    CorrectD rm 0 pref (encodeD neg 0 (max (-398) (min pref 369)), 0) := by
  intro _
  have hdec := decodeD_encodeD (neg := neg) (c := 0) (q := max (-398) (min pref 369)) (by decide) (by omega) (by omega)
  have hden : DenotesD (encodeD neg 0 (max (-398) (min pref 369))) 0 := ⟨_, _, _, hdec, by simp⟩
  refine ⟨roundedD_exact hden rm, iff_of_true (Nat.zero_testBit 4) hden, fun _ n c q n' c' q' b' h h' _ => ?_⟩
  obtain ⟨-, -, rfl⟩ := DVal.fin.inj (hdec.symm.trans h)
  obtain ⟨-, hlo, hhi⟩ := decodeD_fin h'
  exact clamp_nearest hlo hhi

section
variable {rm : Nat} {neg : Bool} {m : Nat} {g pref : ℤ}

/-- A magnitude whose 16 digits or fewer have an exponent in range is exact, with the exponent nearest to the preferred one. -/
theorem correctD_exact (hm : m % 10 ≠ 0) (hd : digits m ≤ 16) (hg : -398 ≤ g)
    (hlo : max (g - (16 - digits m)) (-398) ≤ 369) :
    let q := max (max (g - (16 - digits m)) (-398)) (min pref (min g 369))
    CorrectD rm (signOf neg * m * 10 ^ g) pref (encodeD neg (m * 10 ^ (g - q).toNat) q, 0) := by
  intro q _
  have hqg : q ≤ g := by omega
  have hcoef : m * 10 ^ (g - q).toNat ≤ dMax := by
    have hlt : m * 10 ^ (g - q).toNat < 10 ^ 16 := by
      calc m * 10 ^ (g - q).toNat < 10 ^ digits m * 10 ^ (g - q).toNat :=
            Nat.mul_lt_mul_of_pos_right (digits_le_iff.mp le_rfl) (by positivity)
        _ = 10 ^ (digits m + (g - q).toNat) := (Nat.pow_add ..).symm
        _ ≤ 10 ^ 16 := Nat.pow_le_pow_right (by decide) (by omega)
    unfold dMax
    omega
  have hdec := decodeD_encodeD (neg := neg) (q := q) hcoef (by omega) (by omega)
  have hden : DenotesD (encodeD neg (m * 10 ^ (g - q).toNat) q) (signOf neg * m * 10 ^ g) := by
    refine ⟨_, _, _, hdec, ?_⟩
    rw [pow_ten_split hqg]
    push_cast
    simp only [signOf]
    ring
  refine ⟨roundedD_exact hden rm, iff_of_true (Nat.zero_testBit 4) hden, fun _ n c r n' c' q' b' h h' hden' => ?_⟩
  obtain ⟨-, -, rfl⟩ := DVal.fin.inj (hdec.symm.trans h)
  obtain ⟨hc', hlo', hhi'⟩ := decodeD_fin h'
  obtain ⟨n'', c'', q'', h'', hx⟩ := hden'
  obtain ⟨rfl, rfl, rfl⟩ := DVal.fin.inj (h'.symm.trans h'')
  have hmag : (c' : ℚ) * 10 ^ q' = m * 10 ^ g := by
    have := congrArg abs hx
    rw [mul_assoc, mul_assoc] at this
    change |signOf neg * _| = |signOf n' * _| at this
    rw [abs_signOf_mul _ (by positivity), abs_signOf_mul _ (by positivity)] at this
    exact this.symm
  obtain ⟨hq'g, hc'm⟩ := eq_mul_of_last_digit hm hmag
  have hlong : g - (16 - digits m) ≤ q' := by
    by_contra hlt
    have hm10 : 10 ^ (digits m - 1) ≤ m := by
      by_contra hlt'
      have := digits_le_iff.mpr (not_le.mp hlt')
      have : digits m ≠ 0 := fun h0 => by
        have := digits_le_iff.mp h0.le
        omega
      omega
    have : 10 ^ 16 ≤ c' := by
      calc 10 ^ 16 ≤ 10 ^ (digits m - 1 + (g - q').toNat) := Nat.pow_le_pow_right (by decide) (by omega)
        _ = 10 ^ (digits m - 1) * 10 ^ (g - q').toNat := Nat.pow_add ..
        _ ≤ c' := hc'm ▸ Nat.mul_le_mul_right _ hm10
    unfold dMax at hc'
    omega
  exact clamp_nearest (hi := min g 369) (by omega) (by omega)

/-- A coefficient of full length, or one of 10^16 units carried to the next exponent. -/
theorem carried_value (k : Nat) (q : ℤ) (hk : k ≤ 10 ^ 16) :
    let r : Nat × ℤ := if k = 10 ^ 16 then (10 ^ 15, q + 1) else (k, q)
    r.1 ≤ dMax ∧ q ≤ r.2 ∧ (r.1 : ℚ) * 10 ^ r.2 = k * 10 ^ q ∧ r.1 % 2 = k % 2 := by
  intro r
  simp only [r]
  unfold dMax
  split
  · next h =>
    rw [h, zpow_add_one₀ (by norm_num)]
    refine ⟨by omega, by omega, ?_, by omega⟩
    push_cast
    ring
  · exact ⟨by omega, le_rfl, rfl, rfl⟩

/-- A magnitude that no code stands for is rounded to 16 digits, or to the least exponent. -/
theorem correctD_inexact (hm : m % 10 ≠ 0) (hout : ¬ (digits m ≤ 16 ∧ g ≥ -398)) :
    let q := max (g + digits m - 16) (-398)
    ∃ N, roundShift10 rm neg m (q - g).toNat = (N, true) ∧
      let r : Nat × ℤ := if N = 10 ^ 16 then (10 ^ 15, q + 1) else (N, q)
      ∀ fl : Nat, fl.testBit 2 = false ∧ fl.testBit 4 = true → r.2 ≤ 369 →
        CorrectD rm (signOf neg * m * 10 ^ g) pref (encodeD neg r.1 r.2, fl) := by
  intro q
  have hlt : g < q := by omega
  obtain ⟨k, hk, hround⟩ := roundAt10_eq rm neg m g q
  have hround' : roundShift10 rm neg m (q - g).toNat = _ := (if_neg (by omega)).symm.trans hround
  generalize hM : (m * 10 ^ (g - q) : ℚ) = M at *
  have hval : M * 10 ^ q = m * 10 ^ g := by
    rw [← hM, mul_assoc, ← zpow_add₀ (by norm_num), sub_add_cancel]
  have hnot (N : Nat) : M ≠ N := fun h => by
    rw [h] at hval
    obtain ⟨hle, -⟩ := eq_mul_of_last_digit hm hval
    omega
  have hinexact : (M : ℝ) ≠ k := fun h => hnot k (by exact_mod_cast h)
  rw [decide_eq_false hinexact] at hround'
  have hsmall : k < 10 ^ 16 := by
    have hM16 : M < 10 ^ 16 := by
      have hm10 : (m : ℚ) < 10 ^ digits m := by exact_mod_cast digits_le_iff.mp (le_refl (digits m))
      calc M = m * 10 ^ (g - q) := hM.symm
        _ < 10 ^ digits m * 10 ^ (g - q) := mul_lt_mul_of_pos_right hm10 (by positivity)
        _ = 10 ^ ((digits m : ℤ) + (g - q)) := by rw [zpow_add₀ (by norm_num), zpow_natCast]
        _ ≤ 10 ^ (16 : ℤ) := zpow_le_zpow_right₀ (by norm_num) (by omega)
        _ = 10 ^ 16 := by norm_num
    have hkM : (k : ℚ) ≤ M := by exact_mod_cast hk.1
    exact_mod_cast hkM.trans_lt hM16
  have hrow : q = -398 ∨ 10 ^ 15 ≤ k := by
    rcases (show q = -398 ∨ q = g + digits m - 16 by omega) with h | h
    · exact .inl h
    · right
      have hdpos : 0 < digits m := by
        by_contra h0
        have := digits_le_iff.mp (show digits m ≤ 0 by omega)
        omega
      have hm10 : ((10 ^ (digits m - 1) : Nat) : ℚ) ≤ m := by
        have : 10 ^ (digits m - 1) ≤ m := by
          by_contra hlt'
          have := digits_le_iff.mpr (not_le.mp hlt')
          omega
        exact_mod_cast this
      have hM15 : (10 : ℚ) ^ 15 ≤ M := by
        calc (10 : ℚ) ^ 15 = ((10 ^ (digits m - 1) : Nat) : ℚ) * 10 ^ (g - q) := by
              push_cast
              rw [← zpow_natCast, ← zpow_natCast, ← zpow_add₀ (by norm_num)]
              congr 1
              omega
          _ ≤ m * 10 ^ (g - q) := mul_le_mul_of_nonneg_right hm10 (by positivity)
          _ = M := hM
      have hMk : M < (k : ℚ) + 1 := by exact_mod_cast hk.2
      have : (10 : ℚ) ^ 15 < (k : ℚ) + 1 := hM15.trans_lt hMk
      have : 10 ^ 15 < k + 1 := by exact_mod_cast this
      omega
  have hN : roundedInt rm neg M k ≤ 10 ^ 16 := by
    unfold roundedInt
    split <;> omega
  refine ⟨_, hround', ?_⟩
  intro r fl hfl hr _
  obtain ⟨hcoef, hexp, hrval, heven⟩ : r.1 ≤ dMax ∧ q ≤ r.2 ∧ (r.1 : ℚ) * 10 ^ r.2 = roundedInt rm neg M k * 10 ^ q ∧
    r.1 % 2 = roundedInt rm neg M k % 2 := carried_value (roundedInt rm neg M k) q hN
  have hdec := decodeD_encodeD (neg := neg) hcoef ((le_max_right _ _ : -398 ≤ q).trans hexp) hr
  have hx : signOf neg * (m : ℚ) * 10 ^ g = signOf neg * (M * 10 ^ q) := by rw [hval, mul_assoc]
  rw [hx]
  refine ⟨roundedD_roundedInt hk hrow hdec hrval heven, iff_of_false (by rw [hfl.2]; decide) ?_,
    fun h => absurd (h.symm.trans hfl.2) (by decide)⟩
  rintro ⟨n', c', q', h', hx'⟩
  obtain ⟨rfl, rfl, rfl⟩ := DVal.fin.inj (hdec.symm.trans h')
  have hpos : (10 : ℚ) ^ q ≠ 0 := by positivity
  change signOf neg * _ = signOf neg * _ * _ at hx'
  rw [mul_assoc] at hx'
  exact hnot _ (mul_right_cancel₀ hpos ((mul_left_cancel₀ (signOf_ne_zero neg) hx').trans hrval))

end

/-- R55, R105: what RoundD64 gives is correct. -/
theorem correctD_roundD (rm : Nat) (neg : Bool) (n : Nat) (e pref : ℤ) :
    CorrectD rm (signOf neg * n * 10 ^ e) pref (roundD neg n e rm pref) := by
  rcases eq_or_ne n 0 with rfl | hn
  · have := correctD_zero rm neg pref
    simpa [roundD] using this
  obtain ⟨m, t, hstrip, rfl, hm⟩ := stripZeros_eq hn (bitLen_pow n) e
  have hx : signOf neg * ((m * 10 ^ t : Nat) : ℚ) * 10 ^ e = signOf neg * m * 10 ^ (e + t) := by
    rw [zpow_add₀ (by norm_num), zpow_natCast]
    push_cast
    ring
  rw [hx]
  unfold roundD
  simp only [if_neg hn, hstrip]
  split
  · next hin =>
    split
    · exact correctD_overflow _
    · next hlo => exact correctD_exact hm hin.1 hin.2 (by omega)
  · next hout =>
    obtain ⟨N, hshift, hcorrect⟩ := correctD_inexact (rm := rm) (neg := neg) (pref := pref) hm hout
    simp only [hshift, if_true]
    dsimp only at hcorrect
    generalize (if N = 10 ^ 16 then (10 ^ 15, max (e + t + digits m - 16) (-398) + 1)
      else (N, max (e + t + digits m - 16) (-398)) : Nat × ℤ) = r at *
    split
    · exact correctD_overflow _
    · next hle => exact hcorrect _ (decimal_flags.2 _ _) (not_lt.mp hle)

end Sys2Proof.Machine
end

section
/-! O54: the decimal operations (R105, R126 to R129). -/

namespace Sys2Proof.Machine

/- Proofs one after another: side by side, each takes the stack of a thread, and those of the whole text reach the
memory limit of the check. -/
set_option Elab.async false
open Sys2Proof.Claims

/-! ## Sums and products (R126) -/

theorem finite_decimal {b : W64} {n : Bool} {c : Nat} {q : ℤ} {x : ℚ} (h : decodeD b = .fin n c q) (hx : DenotesD b x) :
    x = signOf n * c * 10 ^ q := by
  obtain ⟨n', c', q', h', rfl⟩ := hx
  obtain ⟨rfl, rfl, rfl⟩ := DVal.fin.inj (h.symm.trans h')
  rfl

theorem scaledD_value (n : Bool) (c : Nat) {q g : ℤ} (h : g ≤ q) :
    ((scaledD n c q g : ℤ) : ℚ) * 10 ^ g = signOf n * c * 10 ^ q := by
  rw [pow_ten_split h, scaledD]
  cases n
  · simp [signOf, mul_assoc]
  · simp [signOf, mul_assoc]

/-- An integer by its sign and its magnitude. -/
theorem signOf_mul_natAbs (v : ℤ) : signOf (decide (v < 0)) * (v.natAbs : ℚ) = v := by
  rcases lt_or_ge v 0 with hneg | hpos
  · rw [decide_eq_true hneg, signOf, if_pos rfl, ← Int.cast_natCast, Int.ofNat_natAbs_of_nonpos hneg.le]
    push_cast
    ring
  · rw [decide_eq_false (not_lt.mpr hpos), signOf, if_neg Bool.false_ne_true, ← Int.cast_natCast,
      Int.natAbs_of_nonneg hpos, one_mul]

section
variable (rm : Nat) (n k h : Bool) (c d l : Nat) (q r t pref : ℤ)

theorem correctD_addD : CorrectD rm (signOf n * c * 10 ^ q + signOf k * d * 10 ^ r) pref
    (addD (.fin n c q) (.fin k d r) rm pref) := by
  have hsum : ((scaledD n c q (min q r) + scaledD k d r (min q r) : ℤ) : ℚ) * 10 ^ min q r =
      signOf n * c * 10 ^ q + signOf k * d * 10 ^ r := by
    rw [Int.cast_add, add_mul, scaledD_value n c (min_le_left q r), scaledD_value k d (min_le_right q r)]
  rw [← hsum, addD]
  generalize scaledD n c q (min q r) + scaledD k d r (min q r) = v
  split
  · next h0 =>
    have := correctD_roundD rm (if c = 0 ∧ d = 0 ∧ n = k then n else rm == 3) 0 0 pref
    simpa [h0] using this
  · rw [← signOf_mul_natAbs]
    exact correctD_roundD rm _ _ _ pref

theorem mulD_fin : mulD (.fin n c q) (.fin k d r) = (.fin (n != k) (c * d) (q + r), 0) ∧
    signOf (n != k) * ((c * d : Nat) : ℚ) * 10 ^ (q + r) = (signOf n * c * 10 ^ q) * (signOf k * d * 10 ^ r) := by
  refine ⟨rfl, ?_⟩
  rw [signOf_xor, zpow_add₀ (by norm_num)]
  push_cast
  ring

theorem correctD_valDadd : CorrectD rm (signOf n * c * 10 ^ q + signOf k * d * 10 ^ r) (min q r)
    (valDadd rm (.fin n c q) (.fin k d r)) := correctD_addD rm n k c d q r _

theorem correctD_valDsub : CorrectD rm (signOf n * c * 10 ^ q - signOf k * d * 10 ^ r) (min q r)
    (valDsub rm (.fin n c q) (.fin k d r)) := by
  have := correctD_addD rm n (!k) c d q r (min q r)
  rwa [signOf_not, neg_mul, neg_mul, ← sub_eq_add_neg] at this

theorem correctD_valDmul : CorrectD rm ((signOf n * c * 10 ^ q) * (signOf k * d * 10 ^ r)) (q + r)
    (valDmul rm (.fin n c q) (.fin k d r)) := by
  obtain ⟨hmul, hval⟩ := mulD_fin n k c d q r
  have := correctD_roundD rm (n != k) (c * d) (q + r) (q + r)
  rw [hval] at this
  simpa [valDmul, hmul, codeD, expD] using this

theorem correctD_fmaD : CorrectD rm ((signOf n * c * 10 ^ q) * (signOf k * d * 10 ^ r) + signOf h * l * 10 ^ t)
    (min (q + r) t) (fmaD (.fin n c q) (.fin k d r) (.fin h l t) rm) := by
  obtain ⟨hmul, hval⟩ := mulD_fin n k c d q r
  have := correctD_addD rm (n != k) h (c * d) l (q + r) t (min (q + r) t)
  rw [hval] at this
  simpa [fmaD, hmul, isNanD, expD] using this

end

/-! ## Rounding to an exponent (R127), and to an integer (R129) -/

section
variable {rm : Nat} {neg : Bool} {M : ℚ} {k : Nat}

/-- The integer chosen is exact where the magnitude is one. -/
theorem roundedInt_exact (hk : (k : ℝ) ≤ M ∧ (M : ℝ) < k + 1) :
    ((signedInt neg (roundedInt rm neg M k) : ℤ) : ℚ) = signOf neg * M ↔ (M : ℝ) = k := by
  rw [cast_signedInt, mul_right_inj' (signOf_ne_zero neg)]
  constructor
  · intro h
    have h' : ((roundedInt rm neg M k : Nat) : ℝ) = M := by exact_mod_cast h
    unfold roundedInt at h'
    split at h'
    · push_cast at h'
      linarith [hk.2]
    · exact h'.symm
  · intro h
    rw [h, roundedInt_self]
    exact_mod_cast h.symm

/-- R120, R129: the integer chosen into an integer type. -/
theorem toInteger_roundedInt (ty : Nat) (hk : (k : ℝ) ≤ M ∧ (M : ℝ) < k + 1) :
    ToInteger ty rm (signOf neg * M)
      (if signedInt neg (roundedInt rm neg M k) < leastOf ty then (codeOf ty (leastOf ty), fNV)
       else if signedInt neg (roundedInt rm neg M k) > greatestOf ty then (codeOf ty (greatestOf ty), fNV)
       else (codeOf ty (signedInt neg (roundedInt rm neg M k)), if (!decide ((M : ℝ) = k)) = true then fNX else 0)) := by
  have hexact := roundedInt_exact (rm := rm) (neg := neg) hk
  have hle := leastOf_le ty
  intro z hz
  obtain rfl := intRounded_unique hz (intRounded_roundedInt rm neg hk)
  generalize signedInt neg (roundedInt rm neg M k) = z at *
  refine ⟨fun h => by rw [if_pos h]; rfl, fun h => ?_, fun h1 h2 => ?_⟩
  · rw [if_neg (by omega), if_pos h]
    rfl
  · rw [if_neg (by omega), if_neg (by omega)]
    refine ⟨rfl, fun h => ?_, fun h => ?_⟩
    · simp [hexact.mp h]
    · have : ¬ (M : ℝ) = k := fun h' => h (hexact.mpr h')
      simp [this, fNX]

end

/-- R127: DQTZ gives the operand at the other's exponent, or NV where it has more than 16 digits there. -/
theorem quantD_fin {rm : Nat} {na nb : Bool} {c cb : Nat} {q r : ℤ} (hlo : -398 ≤ r) (hhi : r ≤ 369) {n : ℤ}
    (hn : IntRounded rm (signOf na * c * 10 ^ q / 10 ^ r) n) :
    (9999999999999999 < n.natAbs → quantD (.fin na c q) (.fin nb cb r) rm = (0x7C00000000000000, 1)) ∧
    (n.natAbs ≤ 9999999999999999 → decodeD (quantD (.fin na c q) (.fin nb cb r) rm).1 = .fin na n.natAbs r ∧
      ((n : ℚ) * 10 ^ r = signOf na * c * 10 ^ q → (quantD (.fin na c q) (.fin nb cb r) rm).2 = 0) ∧
      ((n : ℚ) * 10 ^ r ≠ signOf na * c * 10 ^ q → (quantD (.fin na c q) (.fin nb cb r) rm).2 = 16)) := by
  obtain ⟨k, hk, hround⟩ := roundAt10_eq rm na c q r
  have hx : signOf na * c * 10 ^ q / 10 ^ r = signOf na * (c * 10 ^ (q - r) : ℚ) := by
    rw [zpow_sub₀ (by norm_num)]
    ring
  have hpos : (10 : ℚ) ^ r ≠ 0 := by positivity
  have hscale : (n : ℚ) * 10 ^ r = signOf na * c * 10 ^ q ↔ (n : ℚ) = signOf na * (c * 10 ^ (q - r) : ℚ) := by
    rw [← hx, eq_div_iff hpos]
  rw [hx] at hn
  rw [hscale, Ne, hscale]
  generalize (c * 10 ^ (q - r) : ℚ) = M at *
  obtain rfl := intRounded_unique hn (intRounded_roundedInt rm na hk)
  have hexact := roundedInt_exact (rm := rm) (neg := na) hk
  have habs : (signedInt na (roundedInt rm na M k)).natAbs = roundedInt rm na M k := by
    cases na <;> simp [signedInt]
  rw [habs, hexact]
  have hquant : quantD (.fin na c q) (.fin nb cb r) rm =
      if roundedInt rm na M k > dMax then (qnanD, fNV)
      else (encodeD na (roundedInt rm na M k) r, if (!decide ((M : ℝ) = k)) = true then fNX else 0) := by
    have hq : quantD (.fin na c q) (.fin nb cb r) rm = (let (m, inexact) := roundAt10 rm na c q r;
      if m > dMax then (qnanD, fNV) else (encodeD na m r, if inexact then fNX else 0)) := rfl
    rw [hq, hround]
  rw [hquant]
  refine ⟨fun h => if_pos h, fun h => ?_⟩
  rw [if_neg (show ¬ _ > dMax from not_lt.mpr h)]
  refine ⟨decodeD_encodeD h hlo hhi, fun h => by simp [h], fun h => by simp [h, fNX]⟩

/-- R120, R129: a finite decimal value into an integer. -/
theorem dToInt_fin (ty : Nat) (hbits : elemBits ty = 64) (rm : Nat) (n : Bool) (c : Nat) (q : ℤ) :
    ToInteger ty rm (signOf n * c * 10 ^ q) (dToInt (intSigned ty) (.fin n c q) rm) := by
  obtain ⟨k, hk, hround⟩ := roundAt10_eq rm n c q 0
  rw [sub_zero] at hk hround
  have := toInteger_roundedInt (rm := rm) (neg := n) ty hk
  rw [← mul_assoc] at this
  convert this using 1
  have hint : dToInt (intSigned ty) (.fin n c q) rm = (let (m, inexact) := roundAt10 rm n c q 0;
      let z : Int := signedInt n m
      if z < intLeast 64 (intSigned ty) then (intCode 64 (intLeast 64 (intSigned ty)), fNV)
      else if z > intGreatest 64 (intSigned ty) then (intCode 64 (intGreatest 64 (intSigned ty)), fNV)
      else (intCode 64 z, if inexact then fNX else 0)) := by
    simp only [dToInt, roundAt10, sub_zero, zero_sub]
    rfl
  rw [hint, hround, leastOf_eq, greatestOf_eq, codeOf_eq, codeOf_eq, codeOf_eq, hbits]

/-! ## Conversions from and to binary values (R129) -/

/-- A binary fraction is a decimal one. -/
theorem correctD_toD (rm : Nat) (n : Bool) (m : Nat) (e : ℤ) :
    CorrectD rm (signOf n * m * 2 ^ e) 0 (toD (.fin n m e) rm) := by
  rw [toD]
  split
  · next he =>
    have := correctD_roundD rm n (m * 2 ^ e.toNat) 0 0
    rw [zpow_zero, mul_one] at this
    convert this using 1
    push_cast
    rw [← zpow_natCast, Int.toNat_of_nonneg he, mul_assoc]
  · next he =>
    have := correctD_roundD rm n (m * 5 ^ (-e).toNat) e 0
    convert this using 1
    have hpow : (2 : ℚ) ^ e = 5 ^ (-e).toNat * 10 ^ e := by
      rw [← zpow_natCast, Int.toNat_of_nonneg (by omega), show (10 : ℚ) = 5 * 2 by norm_num, mul_zpow, ← mul_assoc,
        ← zpow_add₀ (by norm_num), neg_add_cancel, zpow_zero, one_mul]
    rw [hpow]
    push_cast
    ring

/-- An integer into decimal. -/
theorem correctD_toD_ofInt (rm : Nat) (v : ℤ) : CorrectD rm v 0 (toD (ofInt v) rm) := by
  have := correctD_toD rm (decide (v < 0)) v.natAbs 0
  rwa [zpow_zero, mul_one, signOf_mul_natAbs] at this

theorem fmtF64_wide : fmtF64.Wide 0x7FF8000000000000 :=
  wide_of_mem (w := (fmtF64, 0x7FF8000000000000)) (by simp [wideFormats])

/-- A rounded FP64 code has 64 bits. -/
theorem roundF_f64_lt (x : FVal) (rm : Nat) : (roundF fmtF64 x rm).1 < 2 ^ 64 := by
  have hsign (n : Bool) {d : Nat} (hd : d < 2 ^ 63) : signCode fmtF64 n + d < 2 ^ 64 := by
    have hs : signCode fmtF64 n ≤ 2 ^ 63 := by cases n <;> decide
    omega
  match x with
  | .nan s => exact (by decide : qnan fmtF64 < 2 ^ 64)
  | .inf n => exact hsign n infCode_lt
  | .fin n m e =>
    rcases eq_or_ne m 0 with rfl | hm
    · rw [roundF_zero]
      exact hsign n (d := 0) (by decide)
    · obtain ⟨⟨d, hd, hcode⟩, -⟩ := roundF_fin fmtF64_wide.toOk rm n (.inl rfl : Approximates (fmtF64.p + 2) m e _) hm
      rw [hcode]
      exact hsign n hd

/-- A finite decimal value into FP64. -/
theorem dToF64_fin (rm : Nat) (n : Bool) (c : Nat) (q : ℤ) :
    Correct fmtF64 rm ((signOf n * c * 10 ^ q : ℚ) : ℝ) (dToF64 (.fin n c q) rm) := by
  have hflags : dToF64 (.fin n c q) rm = roundF fmtF64 (ofD (.fin n c q)) rm := by simp [dToF64, nvD, isSnanD]
  rw [hflags, ofD]
  split_ifs with h0 hq
  · have := correct_zero fmtF64_wide.toOk rm n
    simpa [h0, roundF_zero] using this
  · have := correct_exact fmtF64_wide.toOk rm (rfl : signOf n * ((c * 10 ^ q.toNat : Nat) : ℚ) * 2 ^ (0 : ℤ) = _)
    rw [roundCode_flagless] at this
    convert this using 2
    push_cast
    rw [← zpow_natCast, Int.toNat_of_nonneg hq, mul_one, mul_assoc]
  · obtain ⟨this, -⟩ := correct_ratio fmtF64_wide rm n 0 0 h0 (k := 10 ^ (-q).toNat) (by positivity)
    convert this using 1
    push_cast
    rw [zpow_zero, mul_one, mul_one, ← zpow_natCast, Int.toNat_of_nonneg (by omega), zpow_neg, div_inv_eq_mul, mul_assoc]

/-! ## NaN, infinities and the order (R105, R128) -/

/-- NV is raised exactly for a signalling NaN. -/
theorem signalsD_eq (bs : List W64) : signalsD bs = nvD (bs.map decodeD) := by
  have hsnan (d : DVal) : isSnanD d = true ↔ d = .nan true := by cases d <;> simp [isSnanD]
  have hiff : (bs.map decodeD).any isSnanD = true ↔ ∃ b ∈ bs, decodeD b = .nan true := by simp [hsnan]
  unfold signalsD nvD fNV
  by_cases h : ∃ b ∈ bs, decodeD b = .nan true
  · rw [if_pos h, if_pos (hiff.mpr h)]
  · rw [if_neg h, if_neg fun h' => h (hiff.mp h')]

theorem decodeD_infD (n : Bool) : decodeD (infD n) = .inf n := by cases n <;> decide

theorem isNanD_negD (d : DVal) : isNanD (negD d) = isNanD d := by cases d <;> rfl
theorem isSnanD_negD (d : DVal) : isSnanD (negD d) = isSnanD d := by cases d <;> rfl

section
variable {a b : DVal}

theorem addD_nan (rm : Nat) (pref : ℤ) (h : isNanD a = true ∨ isNanD b = true) : addD a b rm pref = (qnanD, nvD [a, b]) := by
  cases a <;> cases b <;> simp [isNanD] at h <;> rfl

theorem mulD_nan (h : isNanD a = true ∨ isNanD b = true) : mulD a b = (.nan false, nvD [a, b]) := by
  cases a <;> cases b <;> simp [isNanD] at h <;> rfl

theorem quantD_nan (rm : Nat) (h : isNanD a = true ∨ isNanD b = true) : quantD a b rm = (qnanD, nvD [a, b]) := by
  cases a <;> cases b <;> simp [isNanD] at h <;> rfl

/-- R105: a NaN operand gives the quiet NaN, with NV for a signalling one. -/
theorem decimal_nan (rm : Nat) (h : isNanD a = true ∨ isNanD b = true) :
    ∀ r ∈ [valDadd rm a b, valDsub rm a b, valDmul rm a b, quantD a b rm], r = (qnanD, nvD [a, b]) := by
  have hnv : nvD [a, negD b] = nvD [a, b] := by simp [nvD, isSnanD_negD]
  simp only [List.mem_cons, List.not_mem_nil, or_false, forall_eq_or_imp, forall_eq]
  refine ⟨addD_nan rm _ h, ?_, ?_, quantD_nan rm h⟩
  · rw [valDsub, addD_nan rm _ (by rwa [isNanD_negD]), hnv]
  · simp [valDmul, mulD_nan h, codeD]

end

/-- How two decimal values compare: the sign says which is greater. -/
def cmpD (a b : DVal) : Int :=
  match a, b with
  | .inf n, .inf k => (if n then -1 else 1) - (if k then -1 else 1)
  | .inf n, _ => if n then -1 else 1
  | _, .inf k => if k then 1 else -1
  | .fin n c q, .fin k d r => let g := min q r; scaledD n c q g - scaledD k d r g
  | _, _ => 0

theorem condD_eq (cc : Nat) (a b : DVal) : condD cc a b =
    match cc with
    | 0 => !(isNanD a || isNanD b) && cmpD a b == 0
    | 1 => (isNanD a || isNanD b) || cmpD a b != 0
    | 2 => !(isNanD a || isNanD b) && cmpD a b < 0
    | 3 => !(isNanD a || isNanD b) && cmpD a b ≥ 0
    | 4 => !(isNanD a || isNanD b) && cmpD a b ≤ 0
    | 5 => !(isNanD a || isNanD b) && cmpD a b > 0
    | 6 => !(isNanD a || isNanD b)
    | _ => isNanD a || isNanD b := by
  unfold condD cmpD
  rfl

/-- The value of a decimal that is not a NaN. -/
noncomputable def extendedD : DVal → EReal
  | .nan _ => 0
  | .inf n => if n then ⊥ else ⊤
  | .fin n c q => (((signOf n * c * 10 ^ q : ℚ) : ℝ) : EReal)

theorem standsD_eq {b : W64} {v : EReal} (h : StandsD b v) : isNanD (decodeD b) = false ∧ v = extendedD (decodeD b) := by
  unfold StandsD at h
  match hdec : decodeD b with
  | .nan _ => simp [hdec] at h
  | .inf n => exact ⟨rfl, by rw [hdec] at h; exact h⟩
  | .fin n c q =>
    rw [hdec] at h
    obtain ⟨x, hx, rfl⟩ := h
    exact ⟨rfl, by rw [finite_decimal hdec hx]; rfl⟩

theorem cmpD_order {a b : DVal} (ha : isNanD a = false) (hb : isNanD b = false) :
    (cmpD a b < 0 ↔ extendedD a < extendedD b) ∧ (cmpD a b = 0 ↔ extendedD a = extendedD b) := by
  match a, b with
  | .inf n, .inf k => cases n <;> cases k <;> simp [cmpD, extendedD]
  | .inf n, .fin k d r =>
    simp only [extendedD]
    generalize ((signOf k * d * 10 ^ r : ℚ) : ℝ) = y
    cases n <;> simp [cmpD, EReal.bot_lt_coe, (EReal.coe_ne_top y).symm, (EReal.coe_ne_bot y).symm]
  | .fin n c q, .inf k =>
    simp only [extendedD]
    generalize ((signOf n * c * 10 ^ q : ℚ) : ℝ) = x
    cases k <;> simp [cmpD, EReal.coe_lt_top]
  | .fin n c q, .fin k d r =>
    have hpos : (0 : ℚ) < 10 ^ min q r := by positivity
    rw [extendedD, extendedD, EReal.coe_lt_coe_iff, Rat.cast_lt, EReal.coe_eq_coe_iff, Rat.cast_inj,
      ← scaledD_value n c (min_le_left q r), ← scaledD_value k d (min_le_right q r), mul_lt_mul_iff_left₀ hpos,
      mul_left_inj' hpos.ne', Int.cast_lt, Int.cast_inj]
    exact ⟨sub_neg, sub_eq_zero⟩

/-- R128: a condition on values that are not NaN. -/
theorem condD_iff {a b : DVal} (ha : isNanD a = false) (hb : isNanD b = false) {cc : Nat} (hcc : cc ≤ 7) :
    condD cc a b = true ↔ holdsCond cc (extendedD a) (extendedD b) := by
  obtain ⟨hlt, heq⟩ := cmpD_order ha hb
  have hle : cmpD a b ≤ 0 ↔ extendedD a ≤ extendedD b := by
    rw [le_iff_lt_or_eq, le_iff_lt_or_eq, hlt, heq]
  have hge : cmpD a b ≥ 0 ↔ extendedD b ≤ extendedD a := by rw [ge_iff_le, ← not_lt, hlt, not_lt]
  have hgt : cmpD a b > 0 ↔ extendedD b < extendedD a := by rw [gt_iff_lt, ← not_le, hle, not_le]
  rw [condD_eq]
  interval_cases cc <;> simp [ha, hb, holdsCond, hlt, heq, hle, hge, hgt]

theorem condD_nan {a b : DVal} (h : isNanD a = true ∨ isNanD b = true) {cc : Nat} (hcc : cc ≤ 7) :
    condD cc a b = decide (cc = 1 ∨ cc = 7) := by
  have hor : (isNanD a || isNanD b) = true := by simpa using h
  rw [condD_eq, hor]
  interval_cases cc <;> rfl

/-! ## What the decimal operations give (R105, R126 to R129) -/

theorem decimals_finite {rm : Nat} {a b c : W64} {x y z : ℚ} {na nb nc : Bool} {ca cb cc : Nat} {qa qb qc : ℤ}
    (ha : decodeD a = .fin na ca qa) (hb : decodeD b = .fin nb cb qb) (hc : decodeD c = .fin nc cc qc)
    (hx : DenotesD a x) (hy : DenotesD b y) (hz : DenotesD c z) :
    CorrectD rm (x + y) (min qa qb) (valDadd rm (decodeD a) (decodeD b)) ∧
    CorrectD rm (x - y) (min qa qb) (valDsub rm (decodeD a) (decodeD b)) ∧
    CorrectD rm (x * y) (qa + qb) (valDmul rm (decodeD a) (decodeD b)) ∧
    CorrectD rm (x * y + z) (min (qa + qb) qc) (fmaD (decodeD a) (decodeD b) (decodeD c) rm) := by
  rw [finite_decimal ha hx, finite_decimal hb hy, finite_decimal hc hz, ha, hb, hc]
  exact ⟨correctD_valDadd rm na nb ca cb qa qb, correctD_valDsub rm na nb ca cb qa qb,
    correctD_valDmul rm na nb ca cb qa qb, correctD_fmaD rm na nb nc ca cb cc qa qb qc⟩

theorem decimals_infinite {rm : Nat} {a b : W64} :
    (∀ n k, decodeD a = .inf n → decodeD b = .inf k → decodeD (quantD (decodeD a) (decodeD b) rm).1 = .inf n ∧
      (quantD (decodeD a) (decodeD b) rm).2 = 0 ∧
      (if n = k then decodeD (valDadd rm (decodeD a) (decodeD b)).1 = .inf n ∧ (valDadd rm (decodeD a) (decodeD b)).2 = 0
       else valDadd rm (decodeD a) (decodeD b) = (0x7C00000000000000, 1))) ∧
    (∀ n y, decodeD a = .inf n → DenotesD b y → quantD (decodeD a) (decodeD b) rm = (0x7C00000000000000, 1) ∧
      quantD (decodeD b) (decodeD a) rm = (0x7C00000000000000, 1) ∧
      (y = 0 → valDmul rm (decodeD a) (decodeD b) = (0x7C00000000000000, 1))) := by
  refine ⟨fun n k ha hb => ?_, fun n y ha ⟨k, d, r, hb, hy⟩ => ?_⟩
  · rw [ha, hb]
    refine ⟨decodeD_infD n, rfl, ?_⟩
    split
    · next h => simp [valDadd, addD, h, decodeD_infD]
    · next h => simp [valDadd, addD, h, qnanD, fNV]
  · rw [ha, hb]
    refine ⟨rfl, rfl, fun h0 => ?_⟩
    have hpow : (10 : ℚ) ^ r ≠ 0 := by positivity
    have hsign := signOf_ne_zero k
    rw [hy] at h0
    change signOf k * _ * _ = 0 at h0
    have hd : d = 0 := by simpa [hsign, hpow] using h0
    rw [hd]
    rfl

theorem ofNat_toNat_of_lt {c : Nat} (h : c < 2 ^ 64) : (BitVec.ofNat 64 c).toNat = c := by
  rw [BitVec.toNat_ofNat, Nat.mod_eq_of_lt h]

theorem dToF64_lt (d : DVal) (rm : Nat) : (dToF64 d rm).1 < 2 ^ 64 := roundF_f64_lt (ofD d) rm

theorem dToInt_lt (signed : Bool) (d : DVal) (rm : Nat) : (dToInt signed d rm).1 < 2 ^ 64 := by
  have hsettled (z least greatest : ℤ) (fl : Nat) : (if z < least then (intCode 64 least, fNV)
      else if z > greatest then (intCode 64 greatest, fNV) else (intCode 64 z, fl)).1 < 2 ^ 64 := by
    split_ifs <;> exact intCode_lt ..
  match d with
  | .nan _ => exact Nat.two_pow_pos 64
  | .inf _ => exact intCode_lt ..
  | .fin _ _ _ => exact hsettled ..

/-- DCVT out of decimal keeps the code and the flags of its conversion (R129). -/
theorem valDcvt_out (rm : Nat) (a : W64) :
    ((valDcvt 0 true rm a).1.toNat, (valDcvt 0 true rm a).2) = dToF64 (decodeD a) rm ∧
    ((valDcvt 1 true rm a).1.toNat, (valDcvt 1 true rm a).2) = dToInt true (decodeD a) rm ∧
    ((valDcvt 2 true rm a).1.toNat, (valDcvt 2 true rm a).2) = dToInt false (decodeD a) rm :=
  ⟨Prod.ext (ofNat_toNat_of_lt (dToF64_lt ..)) rfl, Prod.ext (ofNat_toNat_of_lt (dToInt_lt ..)) rfl,
    Prod.ext (ofNat_toNat_of_lt (dToInt_lt ..)) rfl⟩

/-- R129: binary values and integers into decimal. -/
theorem valDcvt_in (rm : Nat) (a : W64) :
    (∀ x, Denotes fmtF64 a.toNat x → CorrectD rm x 0 (valDcvt 0 false rm a)) ∧
    CorrectD rm (readAs 2 a.toNat) 0 (valDcvt 1 false rm a) ∧ CorrectD rm (readAs 3 a.toNat) 0 (valDcvt 2 false rm a) ∧
    (∀ n, decodeF fmtF64 a.toNat = .inf n → decodeD (valDcvt 0 false rm a).1 = .inf n ∧ (valDcvt 0 false rm a).2 = 0) ∧
    (∀ n, decodeF fmtF64 a.toNat = .nan n → valDcvt 0 false rm a = (0x7C00000000000000, if n then 1 else 0)) := by
  have hfloat : valDcvt 0 false rm a = toD (decodeF fmtF64 a.toNat) rm := rfl
  rw [hfloat]
  refine ⟨fun x hx => ?_, ?_, ?_, fun n h => ?_, fun n h => ?_⟩
  · obtain ⟨m, e, hdec, rfl⟩ := denotes_fin hx
    rw [hdec]
    exact correctD_toD rm _ m e
  · rw [← intVal_eq_readAs]
    exact correctD_toD_ofInt rm _
  · rw [← intVal_eq_readAs]
    exact correctD_toD_ofInt rm _
  · rw [h]
    exact ⟨decodeD_infD n, rfl⟩
  · rw [h]
    rfl

theorem decimalsGiveTheirValue : DecimalsGiveTheirValue := by
  refine ⟨fun rm _ a b c x y z na nb nc ca cb cc qa qb qc ha hb hc hx hy hz => ?_, fun rm _ a b => ?_, fun rm _ a => ?_⟩
  · obtain ⟨hadd, hsub, hmul, hfma⟩ := decimals_finite (rm := rm) ha hb hc hx hy hz
    refine ⟨hadd, hsub, hmul, hfma, fun n hn => ?_⟩
    obtain ⟨-, hlo, hhi⟩ := decodeD_fin hb
    rw [finite_decimal ha hx] at hn ⊢
    rw [ha, hb]
    exact quantD_fin hlo hhi hn
  · obtain ⟨hinf, hmix⟩ := decimals_infinite (rm := rm) (a := a) (b := b)
    refine ⟨fun h r hr => ?_, hinf, hmix, fun cc hcc => ⟨fun x y hx hy => ?_, fun h => condD_nan h hcc⟩⟩
    · rw [decimal_nan rm h r hr, signalsD_eq]
      rfl
    · obtain ⟨ha, rfl⟩ := standsD_eq hx
      obtain ⟨hb, rfl⟩ := standsD_eq hy
      exact condD_iff ha hb hcc
  · obtain ⟨hfloat, hint, hnat, hinf, hnan⟩ := valDcvt_in rm a
    obtain ⟨hf, hi, hn⟩ := valDcvt_out rm a
    refine ⟨hfloat, hint, hnat, hinf, hnan, fun x ⟨n, c, q, hdec, hx⟩ => ?_, fun n hdec => ?_, fun h => ?_⟩
    · rw [hdec] at hf hi hn
      subst hx
      dsimp only
      rw [hf, hi, hn]
      exact ⟨dToF64_fin rm n c q, dToInt_fin 2 rfl rm n c q, dToInt_fin 3 rfl rm n c q⟩
    · rw [hdec] at hf hi hn
      obtain ⟨hf1, hf2⟩ := Prod.ext_iff.mp hf
      obtain ⟨hi1, hi2⟩ := Prod.ext_iff.mp hi
      obtain ⟨hn1, hn2⟩ := Prod.ext_iff.mp hn
      dsimp only at *
      rw [hf1, hf2, hi1, hi2, hn1, hn2]
      rw [codeOf_eq, codeOf_eq, leastOf_eq, greatestOf_eq, leastOf_eq, greatestOf_eq]
      exact ⟨decodeF_signed_infCode rfl n, by simp [dToF64, ofD, roundF, nvD, isSnanD, fmtF64], rfl, rfl, rfl, rfl⟩
    · match hdec : decodeD a with
      | .nan s => cases s <;> simp [valDcvt, signalsD_eq, hdec, dToF64, ofD, roundF, nvD, isSnanD, dToInt, qnan, fmtF64, fNV]
      | .inf _ => simp [hdec, isNanD] at h
      | .fin _ _ _ => simp [hdec, isNanD] at h

end Sys2Proof.Machine
end

section
/-! O54: the decimal instructions, BQNT and BDQ (R56, R126 to R132). -/

namespace Sys2Proof.Machine

/- Proofs one after another: side by side, each takes the stack of a thread, and those of the whole text reach the
memory limit of the check. -/
set_option Elab.async false
open Sys2Proof.Claims

/-! ## The decimal instructions (R56, R126 to R129, R132) -/

theorem decEnd_eq (s : State) (fl : Nat) (done : State → State) :
    s.decEnd fl done = if trapHit s.me.dtraps fl then (withDec s fl).laneFault 0x09 0 0 else done (withDec s fl) := rfl

theorem withDec_me (s : State) (fl : Nat) :
    (withDec s fl).me = { s.me with dflags := s.me.dflags ||| BitVec.ofNat 64 fl } := by
  rw [withDec, State.setMe_me]

/-- One held result for each lane active in `s` is what `owesIn` says. -/
theorem longRegs_owesIn (s u : State) (f : LaneF) (left : Nat) (pair : Bool) (val : Nat → Nat) :
    let t := u.longRegs left (regsOf pair f.vd) ((lanesOf (act s f)).flatMap fun l => resultW pair f.vd.toNat l (val l))
    LaneOwes u t (owesIn s left f pair val) ∧ { t with warps := u.warps } = u := by
  intro t
  have ht : t = u.laneLong (owesIn s left f pair val) := by
    simp only [t, State.longRegs, resultW_eq]
    rfl
  exact ht ▸ laneLong_owes u _

/-- A decimal instruction ORs the flags `fl` into $DFLAGS and owes `o`, or takes DEC_TRAP (R56). -/
def DecimalOwed (s : State) (i : Instr) (fl : Nat) (o : Outst) : Prop :=
  (trapHit s.me.dtraps fl = false → ∃ t, exec i s = .next t ∧ LaneOwes (withDec s fl) t o ∧ { t with warps := s.warps } = s) ∧
  (trapHit s.me.dtraps fl = true → exec i s = .next ((withDec s fl).laneFault 0x09 0 0))

theorem decimalOwed_of {s : State} {i : Instr} {fl : Nat} {o : Outst} {done : State → State}
    (hexec : exec i s = .next (s.decEnd fl done))
    (hdone : LaneOwes (withDec s fl) (done (withDec s fl)) o ∧
      { done (withDec s fl) with warps := (withDec s fl).warps } = withDec s fl) : DecimalOwed s i fl o := by
  rw [decEnd_eq] at hexec
  refine ⟨fun htrap => ⟨_, hexec, ?_⟩, fun htrap => by rw [hexec, if_pos htrap]⟩
  rw [if_neg (by rw [htrap]; decide)]
  exact ⟨hdone.1, congrArg (fun t : State => { t with warps := s.warps }) hdone.2⟩

/-- A long decimal instruction owes its lanes' pairs. -/
theorem decLong_owed {s : State} {f : LaneF} {regs : List Nat} {i : Instr} {can : Nat} {val : Warp → Nat → W64 × Nat}
    (h : Ready s f regs []) (hexec : exec i s = .next (s.decLong can f regs val)) :
    DecimalOwed s i (flagsOver (act s f) 1 fun l _ => (val s.me l).2)
      (owesIn s (lookahead s.me.dtraps can f) f true fun l => (val s.me l).1.toNat) := by
  have hres := laneResults_eq (n := 1) (g := fun l _ => (val s.me l).2) (act s f)
    (fun l => ((val s.me l).1.toNat, (val s.me l).2)) fun l => by simp
  rw [act] at hres
  rw [State.decLong, laneRun_of_go (lanePre_of_ready h), hres] at hexec
  simp only [List.flatMap_map] at hexec
  refine decimalOwed_of hexec ?_
  rw [withDec_me]
  exact longRegs_owesIn s _ f _ true _

/-- What DCMP owes (R128). -/
def dcmpOwes (s : State) (f : LaneF) : Outst :=
  outst (lookahead s.me.dtraps 1 f) [] (maskSet f.vd.toNat) [] [⟨f.vd.toNat, act s f,
    maskOf ((lanesOf (act s f)).filter fun l => condD (f.ctlN 0 3) (dA s.me f l) (dB s.me f l))⟩]

theorem opDcmp_eq {s : State} {f : LaneF} (h : Ready s f (useAB f) (maskSet f.vd.toNat)) :
    opDcmp f s = s.decEnd (flagsOver (act s f) 1 fun l _ => nvD [dA s.me f l, dB s.me f l]) fun u =>
      u.laneLong { dcmpOwes s f with left := lookahead u.me.dtraps 1 f } := by
  have hgo : s.lanePre (useAB f) (guardMask f ++ maskD f.vd.toNat) = .go := h
  rw [opDcmp, flagsOver_one]
  exact laneRun_of_go hgo _

theorem dcmp_owed {s : State} {f : LaneF} (h : Ready s f (useAB f) (maskSet f.vd.toNat)) :
    DecimalOwed s (.dcmp f) (flagsOver (act s f) 1 fun l _ => nvD [dA s.me f l, dB s.me f l]) (dcmpOwes s f) := by
  refine decimalOwed_of (congrArg _ (opDcmp_eq h)) ?_
  rw [withDec_me]
  exact laneLong_owes _ _

theorem denotesD_of_no_flags {rm : Nat} {x : ℚ} {pref : ℤ} {r : W64 × Nat} (h : CorrectD rm x pref r) (h0 : r.2 = 0) :
    DenotesD r.1 x := by
  obtain ⟨-, hexact, -⟩ := h (by rw [h0]; rfl)
  exact hexact.mp (by rw [h0]; rfl)

theorem decimalInstructionsOweTheirResults : DecimalInstructionsOweTheirResults := by
  refine ⟨?_, ?_, ?_, ?_⟩
  · intro rm _ a b c x y z hx hy hz
    obtain ⟨na, ca, qa, ha, -⟩ := id hx
    obtain ⟨nb, cb, qb, hb, -⟩ := id hy
    obtain ⟨nc, cc, qc, hc, -⟩ := id hz
    obtain ⟨hadd, hsub, hmul, hfma⟩ := decimals_finite (rm := rm) ha hb hc hx hy hz
    exact ⟨denotesD_of_no_flags hadd, denotesD_of_no_flags hsub, denotesD_of_no_flags hmul, denotesD_of_no_flags hfma⟩
  · intro s f r hr g fl h
    simp only [decimalRows, List.mem_cons, List.not_mem_nil, or_false] at hr
    rcases hr with rfl | rfl | rfl | rfl | rfl
    · exact decLong_owed (can := dCan) (val := fun x l => valDadd (f.ctlN 13 3) (dA x f l) (dB x f l)) h rfl
    · exact decLong_owed (can := dCan) (val := fun x l => valDsub (f.ctlN 13 3) (dA x f l) (dB x f l)) h rfl
    · exact decLong_owed (can := dCan) (val := fun x l => valDmul (f.ctlN 13 3) (dA x f l) (dB x f l)) h rfl
    · exact decLong_owed (can := dCan) (val := fun x l => fmaD (dA x f l) (dB x f l) (dC x f l) (f.ctlN 13 3)) h rfl
    · exact decLong_owed (can := 17) (val := fun x l => quantD (dA x f l) (dB x f l) (f.ctlN 13 3)) h rfl
  · intro s f g fl h
    exact decLong_owed (can := dCan)
      (val := fun x l => valDcvt (f.ctlN 0 2) (f.ctl.getLsbD 2) (f.ctlN 13 3) (vpair x f.va.toNat l)) h
      (by rw [← ctlN_bit]; rfl)
  · intro s f fl h
    obtain ⟨hdone, htrap⟩ := dcmp_owed h
    exact ⟨fun hno => (hdone hno).imp fun t ⟨hexec, howes, hrest⟩ => ⟨hexec, hrest, howes⟩, htrap⟩

/-! ## BQNT and BDQ (R108, R110, R130, R131) -/

theorem quantMx_length (ty : Nat) (xs : List (Bool × FVal)) : (quantMx ty xs).1.length = xs.length := by
  simp only [quantMx, zeroElems]
  split_ifs <;> simp

theorem quantNative_length (xs : List (Bool × FVal)) (b : FVal) : (quantNative xs b).1.length = xs.length := by
  simp only [quantNative, zeroElems]
  split_ifs <;> simp

/-- The sources of BQNT's lanes. -/
def bqntSrc (s : State) (f : LaneF) : List (Bool × FVal) :=
  let fm := bqntFmt (f.ctlN 0 2)
  blockSrc fm ((List.range 32).map fun l =>
    if hasLane (act s f) l then (vreg s.me f.va.toNat l).toNat % 2 ^ (fm.w + fm.p + 1) else 0)

/-- Native block `j` of BQNT, with its band scale. -/
def bqntNative (s : State) (f : LaneF) (j : Nat) : List Nat × Nat × Nat :=
  quantNative (((bqntSrc s f).drop (8 * j)).take 8)
    (decodeF fmtBF16 (crossV s.me s.cur.path false (f.va.toNat + 1) (8 * j) % 2 ^ 16))

/-- The block that lane `l` of BQNT belongs to. -/
def bqntBlock (s : State) (f : LaneF) (l : Nat) : List Nat × Nat × Nat :=
  if f.ctl.getLsbD 2 then bqntNative s f (l / 8) else quantMx f.ty.toNat (bqntSrc s f)

/-- The blocks of BQNT. -/
def bqntBlocks (s : State) (f : LaneF) : List (List Nat × Nat × Nat) :=
  if f.ctl.getLsbD 2 then (List.range 4).map (bqntNative s f) else [quantMx f.ty.toNat (bqntSrc s f)]

theorem bqntSrc_length (s : State) (f : LaneF) : (bqntSrc s f).length = 32 := by simp [bqntSrc, blockSrc]

theorem bqntBlocks_flags (s : State) (f : LaneF) : (bqntBlocks s f).foldl (fun a b => a ||| b.2.2) 0 =
    (bqntBlock s f 0).2.2 ||| (bqntBlock s f 8).2.2 ||| (bqntBlock s f 16).2.2 ||| (bqntBlock s f 24).2.2 := by
  unfold bqntBlocks bqntBlock
  cases f.ctl.getLsbD 2
  · simp
  · simp [List.range_succ]

/-- Lists of one length, one after another, element by element. -/
theorem getD_flatMap_range {α : Type} {F : Nat → List α} {n b : Nat} (hb : 0 < b) (hF : ∀ j, j < n → (F j).length = b) (d : α)
    {l : Nat} (hl : l < n * b) : ((List.range n).flatMap F).getD l d = (F (l / b)).getD (l % b) d := by
  have hlist : (List.range n).flatMap F = (List.range n).flatMap fun j => (List.range b).map ((F j).getD · d) :=
    List.flatMap_congr fun j hj => by
      refine List.ext_getElem (by simp [hF j (List.mem_range.mp hj)]) fun i hi _ => ?_
      simp [List.getD_eq_getElem?_getD, hi]
  rw [hlist, flatMap_range_map (fun j i => (F j).getD i d) n hb]
  simp [List.getD_eq_getElem?_getD, hl]

/-- The element and the scale of a lane. -/
theorem bqntBlocks_lane (s : State) (f : LaneF) {l : Nat} (hl : l < 32) :
    ((bqntBlocks s f).flatMap fun b => b.1.map fun c => (c, b.2.1)).getD l (0, 0) =
      ((bqntBlock s f l).1.getD (if f.ctl.getLsbD 2 then l % 8 else l) 0, (bqntBlock s f l).2.1) := by
  have hpair (b : List Nat × Nat × Nat) {i : Nat} (hi : i < b.1.length) :
      (b.1.map fun c => (c, b.2.1)).getD i (0, 0) = (b.1.getD i 0, b.2.1) := by
    simp [List.getD_eq_getElem?_getD, hi]
  unfold bqntBlocks bqntBlock
  cases hnative : f.ctl.getLsbD 2
  · simp only [Bool.false_eq_true, if_false, List.flatMap_singleton]
    exact hpair _ (by rw [quantMx_length, bqntSrc_length]; exact hl)
  · have hlen (j : Nat) (hj : j < 4) : (bqntNative s f j).1.length = 8 := by
      rw [bqntNative, quantNative_length, List.length_take, List.length_drop, bqntSrc_length]
      omega
    simp only [if_true, List.flatMap_map]
    rw [getD_flatMap_range (by decide) (fun j hj => (List.length_map _).trans (hlen j hj)) _ hl]
    exact hpair _ (by rw [hlen _ (by omega)]; omega)

/-- What BQNT owes (R130). -/
def bqntOwes (s : State) (f : LaneF) : Outst :=
  outst (lookahead s.me.fptraps 25 f) (regsOf true f.vd) [] ((lanesOf (act s f)).flatMap fun l =>
    [⟨f.vd.toNat, l, BitVec.ofNat 32 ((bqntBlock s f l).1.getD (if f.ctl.getLsbD 2 then l % 8 else l) 0)⟩,
     ⟨f.vd.toNat + 1, l, BitVec.ofNat 32 (bqntBlock s f l).2.1⟩]) []

theorem opBqnt_eq {s : State} {f : LaneF} (h : Ready s f (regsOf true f.vd ++ regsOf (f.ctl.getLsbD 2) f.va) []) :
    opBqnt f s = s.fpEnd ((bqntBlocks s f).foldl (fun a b => a ||| b.2.2) 0) fun u =>
      u.laneLong { bqntOwes s f with left := lookahead u.me.fptraps 25 f } := by
  have hrun : opBqnt f s = s.fpEnd ((bqntBlocks s f).foldl (fun a b => a ||| b.2.2) 0) fun u =>
      u.longRegs (lookOf u.me.fptraps 25 f.la.toNat) (regsOf true f.vd) ((lanesOf (act s f)).flatMap fun l =>
        let e := ((bqntBlocks s f).flatMap fun b => b.1.map fun c => (c, b.2.1)).getD l (0, 0)
        [⟨f.vd.toNat, l, BitVec.ofNat 32 e.1⟩, ⟨f.vd.toNat + 1, l, BitVec.ofNat 32 e.2⟩]) := by
    rw [opBqnt, ctlN_bit]
    exact laneRun_of_go (lanePre_of_ready h) _
  have hwrites : ((lanesOf (act s f)).flatMap fun l =>
      let e := ((bqntBlocks s f).flatMap fun b => b.1.map fun c => (c, b.2.1)).getD l (0, 0)
      ([⟨f.vd.toNat, l, BitVec.ofNat 32 e.1⟩, ⟨f.vd.toNat + 1, l, BitVec.ofNat 32 e.2⟩] : List RegW)) =
      (bqntOwes s f).writes :=
    List.flatMap_congr fun l hl => by rw [bqntBlocks_lane s f (lt_of_hasLane (mem_lanesOf.mp hl))]
  rw [hrun, hwrites]
  rfl

theorem blocksAreQuantisedAndExpanded : BlocksAreQuantisedAndExpanded := by
  intro s f
  refine ⟨?_, ?_⟩
  · intro native fm src band block fl h
    have hblock : block = bqntBlock s f := by
      funext l
      simp only [block, Nat.mul_comm (l / 8) 8]
      rfl
    have hop := opBqnt_eq h
    have hfl : (bqntBlocks s f).foldl (fun a b => a ||| b.2.2) 0 = fl := by
      simp only [bqntBlocks_flags, fl, hblock]
    rw [hfl, fpEnd_eq] at hop
    refine ⟨fun hyes => congrArg _ (hop.trans (if_pos hyes)), fun hno => ⟨opBqnt f s, rfl, ?_⟩⟩
    rw [hblock, hop, if_neg (by rw [hno]; decide), withFp_me]
    obtain ⟨howes, hrest⟩ := laneLong_owes (withFp s fl) (bqntOwes s f)
    exact ⟨congrArg (fun t : State => { t with warps := s.warps }) hrest, howes⟩
  · intro g fl h
    obtain ⟨hdone, htrap⟩ := floatLong_done 29 (pair := false) (n := 1) (g := fun l _ => (g l).2)
      (val := fun x l => valBdq f.ty.toNat (f.ctl.getLsbD 2) (vreg x f.va.toNat l).toNat (vreg x (f.va.toNat + 1) l).toNat) h
      fun l => by simp [g]
    have hexec : exec (.bdq f) s = .next (s.floatLong 29 f ([f.vd.toNat] ++ regsOf true f.va) false fun x l =>
        valBdq f.ty.toNat (f.ctl.getLsbD 2) (vreg x f.va.toNat l).toNat (vreg x (f.va.toNat + 1) l).toNat) := by
      rw [← ctlN_bit]
      rfl
    exact ⟨fun hyes => hexec.trans (congrArg _ (htrap hyes)), fun hno => ⟨_, hexec, (hdone hno).2, (hdone hno).1⟩⟩

end Sys2Proof.Machine
end

section
/-! O54: block quantisation and expansion (R103, R108, R110, R131), and the statement. -/

namespace Sys2Proof.Machine

/- Proofs one after another: side by side, each takes the stack of a thread, and those of the whole text reach the
memory limit of the check. -/
set_option Elab.async false
open Sys2Proof.Claims

/-! ## Elements rounded without overflow (R108, R110) -/

section
variable {f : Fmt} {rm : Nat} {neg : Bool} {X : ℝ} {r : Nat × Nat}

/-- A magnitude up to the greatest finite one does not overflow. -/
theorem RoundsTo.fits (h : RoundsTo f rm neg X r) (hX : X ≤ (codeMag f (largestCode f) : ℝ)) : r.2.testBit 2 = false := by
  obtain ⟨c, hbetween, ⟨hgt, -⟩ | ⟨-, -, hof, -⟩⟩ := h.flags
  · exfalso
    rcases hX.eq_or_lt with rfl | hlt
    · obtain rfl := hbetween.unique (between_codeMag f (largestCode f))
      rw [roundedCode_codeMag] at hgt
      exact lt_irrefl _ hgt
    · have hc : codeMag f c < codeMag f (largestCode f) := by exact_mod_cast hbetween.1.trans_lt hlt
      have hc' := (codeMag_strictMono f).lt_iff_lt.mp hc
      unfold roundedCode at hgt
      split at hgt <;> omega
  · exact hof

end

/-- An element of a block stands for `x` rounded to nearest, with the sign given; OF is not raised, and NX is where it
is not exact. -/
structure Quantised (ef : Fmt) (neg : Bool) (x : ℚ) (r : Nat × Nat) : Prop where
  rounded : RoundedTo ef 0 (x : ℝ) r.1
  sign : negative ef r.1 = neg
  fits : r.2.testBit 2 = false
  inexact : r.2.testBit 4 = true ↔ ¬ Denotes ef r.1 x

/-- The greatest finite element is the nearest to what exceeds it. -/
theorem quantised_largest {ef : Fmt} (hf : ef.Ok) (neg : Bool) {X : ℚ} (hX : codeMag ef (largestCode ef) < X) :
    Quantised ef neg (signOf neg * X) (signCode ef neg + largestCode ef, fNX) := by
  have hden := denotes_signed hf neg (le_refl (largestCode ef))
  have hL := codeMag_nonneg ef (largestCode ef)
  have hbound {c : Nat} {v : ℚ} (h : Denotes ef c v) : |v| ≤ codeMag ef (largestCode ef) := by
    have := abs_le_largest hf h neg
    rwa [abs_signOf_mul neg hL] at this
  refine ⟨⟨_, hden, fun c v h => ?_⟩, (signed_code neg (largestCode_lt ef)).2, (by decide : fNX.testBit 2 = false),
    iff_of_true (by decide : fNX.testBit 4 = true) fun h => ?_⟩
  · generalize codeMag ef (largestCode ef) = L at *
    have hv : signOf neg * v ≤ L := by
      have := le_abs_self (signOf neg * v)
      have habs : |signOf neg * v| = |v| := by rw [abs_mul]; cases neg <;> simp [signOf]
      linarith [hbound h]
    have hdist (w : ℚ) (hw : signOf neg * w ≤ L) : |w - signOf neg * X| = X - signOf neg * w := by
      have hfactor : w - signOf neg * X = signOf neg * (signOf neg * w - X) := by
        rw [mul_sub, ← mul_assoc, signOf_mul_self, one_mul]
      rw [hfactor, abs_mul, abs_of_nonpos (by linarith : signOf neg * w - X ≤ 0)]
      cases neg <;> simp [signOf]
    have hself : signOf neg * (signOf neg * L) = L := by rw [← mul_assoc, signOf_mul_self, one_mul]
    have hLx := hdist (signOf neg * L) hself.le
    rw [hself] at hLx
    have hvx := hdist v hv
    refine ⟨by exact_mod_cast (by linarith : |signOf neg * L - signOf neg * X| ≤ |v - signOf neg * X|), fun heq hne => ?_⟩
    have heq' : |signOf neg * L - signOf neg * X| = |v - signOf neg * X| := by exact_mod_cast heq
    have hvL : signOf neg * v = L := by linarith
    refine absurd ?_ hne
    rw [← hvL, ← mul_assoc, signOf_mul_self, one_mul]
  · have := hbound h
    rw [abs_signOf_mul neg (hL.trans hX.le)] at this
    linarith

/-- R108, R110: an element is its quotient rounded to nearest, and never beyond the largest. -/
theorem quantElem_quantised {ef : Fmt} (hf : ef.Ok) (neg : Bool) {mag : Nat} {e : ℤ} {big : Bool} {X : ℚ}
    (h : Approximates (ef.p + 2) mag e X) (hbig : big = true ↔ codeMag ef (largestCode ef) < X) :
    Quantised ef neg (signOf neg * X) (quantElem ef neg (.fin neg mag e) big) := by
  cases big
  · have hle : (X : ℝ) ≤ codeMag ef (largestCode ef) := by
      have : X ≤ codeMag ef (largestCode ef) := not_lt.mp fun hlt => Bool.false_ne_true (hbig.mpr hlt)
      exact_mod_cast this
    have hcorrect := correct_roundF hf 0 neg h
    have hsign := negative_roundF hf mag e 0 neg
    have hof : (roundF ef (.fin neg mag e) 0).2.testBit 2 = false := by
      rcases eq_or_ne mag 0 with rfl | hmag
      · rw [roundF_zero]
        exact Nat.zero_testBit 2
      · exact (roundF_fin hf 0 neg h hmag).fits hle
    obtain ⟨hrounded, hexact⟩ := hcorrect hof
    have hmask (k : Nat) : ((roundF ef (.fin neg mag e) 0).2 &&& (fNX ||| fUF)).testBit k =
        ((roundF ef (.fin neg mag e) 0).2.testBit k && (fNX ||| fUF).testBit k) := Nat.testBit_and ..
    have hcast : ((signOf neg * X : ℚ) : ℝ) = signOf neg * (X : ℝ) := by push_cast; rfl
    refine ⟨hcast ▸ hrounded, hsign, ?_, ?_⟩
    · change ((roundF ef (.fin neg mag e) 0).2 &&& (fNX ||| fUF)).testBit 2 = false
      rw [hmask, hof]
      rfl
    · change ((roundF ef (.fin neg mag e) 0).2 &&& (fNX ||| fUF)).testBit 4 = true ↔ _
      rw [hmask, show (fNX ||| fUF).testBit 4 = true by decide, Bool.and_true, ← Bool.not_eq_false, hexact, ← hcast]
      refine not_congr ⟨fun ⟨v, hv, hvx⟩ => ?_, fun hv => ⟨_, hv, rfl⟩⟩
      rw [← Rat.cast_inj.mp hvx]
      exact hv
  · exact quantised_largest hf neg (hbig.mp rfl)

/-! ## The sources of a block -/

theorem blockSrc_eq (fm : Fmt) (cs : List Nat) : blockSrc fm cs = cs.map fun c => (negative fm c, decodeF fm c) := by
  simp only [blockSrc, negative_eq]

theorem finiteF_iff {fm : Fmt} {c : Nat} : finiteF (decodeF fm c) = true ↔ ∃ x, Denotes fm c x := by
  constructor
  · intro h
    match hdec : decodeF fm c with
    | .nan _ => simp [hdec, finiteF] at h
    | .inf _ => simp [hdec, finiteF] at h
    | .fin n m e => exact ⟨_, denotes_of_fin hdec⟩
  · rintro ⟨x, n, m, e, hdec, -⟩
    rw [hdec]
    rfl

/-- Zeros with the signs of the sources. -/
theorem zeroBlock_zeroElems {ef : Fmt} (hf : ef.Ok) (fm : Fmt) (cs : List Nat) (scale flags : Nat) :
    ZeroBlock fm ef cs scale flags (zeroElems ef (blockSrc fm cs), scale, flags) := by
  refine ⟨rfl, by simp [zeroElems, blockSrc], fun i hi => ?_⟩
  have helem : (zeroElems ef (blockSrc fm cs)).getD i 0 = signCode ef (negative fm (cs.getD i 0)) := by
    simp [zeroElems, blockSrc_eq, List.getD_eq_getElem?_getD, hi]
  rw [helem]
  exact denotes_signCode hf _

theorem orFlags_testBit (rs : List (Nat × Nat)) (k : Nat) : (orFlags rs).testBit k = rs.any fun r => r.2.testBit k := by
  have hgen (a : Nat) : (rs.foldl (fun a e => a ||| e.2) a).testBit k = (a.testBit k || rs.any fun r => r.2.testBit k) := by
    induction rs generalizing a with
    | nil => simp
    | cons r rs ih => rw [List.foldl_cons, ih, Nat.testBit_or, List.any_cons, Bool.or_assoc]
  rw [orFlags, hgen, Nat.zero_testBit, Bool.false_or]

/-- A block whose elements are its sources divided by one divisor. -/
theorem divided_of_quantised {fm ef : Fmt} {cs : List Nat} {by_ : ℚ} {g : Nat → Nat × Nat} (scale : Nat)
    (hfin : ∀ c ∈ cs, ∃ x, Denotes fm c x)
    (h : ∀ c ∈ cs, ∀ x, Denotes fm c x → Quantised ef (negative fm c) (x / by_) (g c)) :
    Divided fm ef cs by_ ((cs.map g).map Prod.fst, scale, orFlags (cs.map g)) := by
  have helem {i : Nat} (hi : i < cs.length) : ((cs.map g).map Prod.fst).getD i 0 = (g (cs.getD i 0)).1 := by
    simp [List.getD_eq_getElem?_getD, hi]
  have hmem {i : Nat} (hi : i < cs.length) : cs.getD i 0 ∈ cs := by
    rw [List.getD_eq_getElem _ _ hi]
    exact List.getElem_mem hi
  refine ⟨by simp, ?_, fun i x hi hx => ?_, ?_⟩
  · rw [orFlags_testBit, List.any_eq_false]
    simp only [List.mem_map, forall_exists_index, and_imp, forall_apply_eq_imp_iff₂, Bool.not_eq_true]
    intro c hc
    obtain ⟨x, hx⟩ := hfin c hc
    exact (h c hc x hx).fits
  · have := h _ (hmem hi) x hx
    dsimp only
    rw [helem hi]
    exact ⟨this.rounded, this.sign⟩
  · rw [orFlags_testBit, List.any_eq_true]
    constructor
    · rintro ⟨r, hr, hbit⟩
      obtain ⟨c, hc, rfl⟩ := List.mem_map.mp hr
      obtain ⟨x, hx⟩ := hfin c hc
      obtain ⟨i, hi, rfl⟩ := List.mem_iff_getElem.mp hc
      have hget : cs.getD i 0 = cs[i] := List.getD_eq_getElem _ _ hi
      refine ⟨i, x, hi, hget ▸ hx, ?_⟩
      dsimp only
      rw [helem hi, hget]
      exact (h _ hc x hx).inexact.mp hbit
    · rintro ⟨i, x, hi, hx, hnot⟩
      dsimp only at hnot
      rw [helem hi] at hnot
      exact ⟨_, List.mem_map_of_mem (hmem hi), (h _ (hmem hi) x hx).inexact.mpr hnot⟩

/-! ## The greatest magnitude of a block -/

section
variable {a b : FVal} {x y : ℚ}

theorem FVal.Is.unique (h : a.Is x) (h' : a.Is y) : x = y := by
  obtain ⟨n, m, e, rfl, rfl⟩ := h
  obtain ⟨n', m', e', heq, rfl⟩ := h'
  obtain ⟨rfl, rfl, rfl⟩ := FVal.fin.inj heq
  rfl

theorem FVal.Is.ltF (ha : a.Is x) (hb : b.Is y) : ltF a b = true ↔ x < y := by
  obtain ⟨n, m, e, rfl, rfl⟩ := ha
  obtain ⟨k, l, g, rfl, rfl⟩ := hb
  rw [← (scaled_order n k m l e g).1]
  exact decide_eq_true_iff

theorem FVal.Is.absF (ha : a.Is x) : (absF a).Is |x| := by
  obtain ⟨n, m, e, rfl, rfl⟩ := ha
  refine ⟨false, m, e, rfl, ?_⟩
  rw [mul_assoc, mul_assoc, abs_signOf_mul n (by positivity)]
  simp [signOf]

/-- The leading bit of a value. -/
theorem FVal.Is.floorLog2 {k : ℤ} (ha : a.Is x) (hlo : (2 : ℚ) ^ k ≤ |x|) (hhi : |x| < (2 : ℚ) ^ (k + 1)) :
    floorLog2 a = k := by
  obtain ⟨n, m, e, rfl, rfl⟩ := ha
  rw [mul_assoc, abs_signOf_mul n (by positivity)] at hlo hhi
  have hm : m ≠ 0 := by
    rintro rfl
    have : (0 : ℚ) < 2 ^ k := by positivity
    simp at hlo
    linarith
  obtain ⟨hle, hlt⟩ := (show Approximates 1 m e ((m : ℝ) * 2 ^ e) from .inl rfl).top le_rfl hm
  rw [Machine.floorLog2]
  generalize (bitLen m : ℤ) - 1 + e = t at *
  have hle' : (2 : ℚ) ^ t ≤ m * 2 ^ e := (Rat.cast_le (K := ℝ)).mp (by push_cast; exact hle)
  have hlt' : (m * 2 ^ e : ℚ) < 2 ^ (t + 1) := (Rat.cast_lt (K := ℝ)).mp (by push_cast; exact hlt)
  have h1 := (zpow_lt_zpow_iff_right₀ (by norm_num : (1 : ℚ) < 2)).mp (hlo.trans_lt hlt')
  have h2 := (zpow_lt_zpow_iff_right₀ (by norm_num : (1 : ℚ) < 2)).mp (hle'.trans_lt hhi)
  omega

end

/-- The running maximum is at least where it began and every magnitude, and is one of them. -/
theorem foldl_maxAbs (vs : List FVal) {a : FVal} {α : ℚ} (ha : a.Is α) (hvs : ∀ v ∈ vs, ∃ x, v.Is x) :
    ∃ β, (vs.foldl (fun a v => if ltF a (absF v) then absF v else a) a).Is β ∧ α ≤ β ∧
      (∀ v ∈ vs, ∀ x, v.Is x → |x| ≤ β) ∧ (β = α ∨ ∃ v ∈ vs, ∃ x, v.Is x ∧ |x| = β) := by
  induction vs generalizing a α with
  | nil => exact ⟨α, ha, le_rfl, nofun, .inl rfl⟩
  | cons v vs ih =>
    obtain ⟨⟨x, hx⟩, hvs⟩ := List.forall_mem_cons.mp hvs
    have hstep : (if ltF a (absF v) then absF v else a).Is (max α |x|) := by
      have hlt := ha.ltF hx.absF
      split
      · next h => rw [max_eq_right (hlt.mp h).le]; exact hx.absF
      · next h => rw [max_eq_left (not_lt.mp fun h' => h (hlt.mpr h'))]; exact ha
    obtain ⟨β, hβ, hle, hall, hone⟩ := ih hstep hvs
    refine ⟨β, hβ, (le_max_left _ _).trans hle, List.forall_mem_cons.mpr ⟨fun y hy => ?_, hall⟩, ?_⟩
    · rw [hy.unique hx]
      exact (le_max_right _ _).trans hle
    · rcases hone with h | ⟨w, hw, y, hy⟩
      · rcases max_choice α |x| with h' | h'
        · exact .inl (h.trans h')
        · exact .inr ⟨v, List.mem_cons_self, x, hx, (h.trans h').symm⟩
      · exact .inr ⟨w, List.mem_cons_of_mem _ hw, y, hy⟩

/-- The greatest magnitude of the sources. -/
theorem maxAbs_is {fm : Fmt} {cs : List Nat} {amax : ℚ} (h : Largest fm cs amax) :
    (maxAbs (cs.map (decodeF fm))).Is amax := by
  obtain ⟨hall, c, hc, x, hx, hxmax⟩ := h
  have hzero : (FVal.fin false 0 0).Is 0 := ⟨false, 0, 0, rfl, by simp⟩
  obtain ⟨β, hβ, hβ0, hle, hone⟩ := foldl_maxAbs (cs.map (decodeF fm)) hzero fun v hv => by
    obtain ⟨c, hc, rfl⟩ := List.mem_map.mp hv
    obtain ⟨x, hx, -⟩ := hall c hc
    exact ⟨x, is_of_denotes hx⟩
  have hmax : amax ≤ β := hxmax ▸ hle _ (List.mem_map_of_mem hc) x (is_of_denotes hx)
  have hmin : β ≤ amax := by
    rcases hone with rfl | ⟨v, hv, y, hy, rfl⟩
    · exact hxmax ▸ abs_nonneg x
    · obtain ⟨c', hc', rfl⟩ := List.mem_map.mp hv
      obtain ⟨z, hz, hzmax⟩ := hall c' hc'
      rwa [hy.unique (is_of_denotes hz)]
  rw [← hmin.antisymm hmax]
  exact hβ

theorem largestCode_is {ef : Fmt} (hf : ef.Ok) : (decodeF ef (largestCode ef)).Is (codeMag ef (largestCode ef)) := by
  have := is_of_denotes (denotes_signed hf false (le_refl (largestCode ef)))
  simpa [signCode, signOf] using this

/-! ## MX blocks (R108) -/

section
variable {fm : Fmt} {cs : List Nat} {ty : Nat}

/-- One element of an MX block with scale 2^e. -/
def mxElem (fm : Fmt) (ty : Nat) (e : ℤ) (c : Nat) : Nat × Nat :=
  let q : FVal := match decodeF fm c with | .fin n m g => .fin n m (g - e) | v => v
  quantElem (fmtOf ty) (negative fm c) q (ltF (decodeF (fmtOf ty) (largestCode (fmtOf ty))) (absF q))

theorem mxElem_quantised (fm : Fmt) (ty : Nat) (e : ℤ) {c : Nat} {x : ℚ} (hx : Denotes fm c x) :
    Quantised (fmtOf ty) (negative fm c) (x / 2 ^ e) (mxElem fm ty e c) := by
  obtain ⟨m, g, hdec, rfl⟩ := denotes_fin hx
  have hdiv : signOf (negative fm c) * (m : ℚ) * 2 ^ g / 2 ^ e = signOf (negative fm c) * (m * 2 ^ (g - e)) := by
    rw [zpow_sub₀ (by norm_num)]
    ring
  have hq : (FVal.fin (negative fm c) m (g - e)).Is (signOf (negative fm c) * (m * 2 ^ (g - e))) :=
    ⟨_, _, _, rfl, mul_assoc ..⟩
  have hbig := (largestCode_is (fmtOf_ok ty)).ltF hq.absF
  rw [abs_signOf_mul _ (by positivity)] at hbig
  rw [hdiv]
  simp only [mxElem, hdec]
  exact quantElem_quantised (fmtOf_ok ty) _ (.inl (by push_cast; rfl)) hbig

theorem any_infinite : ((blockSrc fm cs).map Prod.snd).any (fun v => !finiteF v) = true ↔ ∃ c ∈ cs, ∀ x, ¬ Denotes fm c x := by
  simp only [← not_exists, ← finiteF_iff]
  simp [blockSrc_eq]

theorem all_zero : ((blockSrc fm cs).map Prod.snd).all isZero = true ↔ ∀ c ∈ cs, Denotes fm c 0 := by
  simp [blockSrc_eq, denotes_zero_iff]

/-- Sources with a greatest magnitude that is not zero are finite, and one of them is not zero. -/
theorem largest_sources {amax : ℚ} (h : Largest fm cs amax) (hpos : 0 < amax) :
    ((blockSrc fm cs).map Prod.snd).any (fun v => !finiteF v) = false ∧ ((blockSrc fm cs).map Prod.snd).all isZero = false ∧
      (maxAbs ((blockSrc fm cs).map Prod.snd)).Is amax ∧ ∀ c ∈ cs, ∃ x, Denotes fm c x := by
  have hmax := maxAbs_is h
  obtain ⟨hall, c, hc, x, hx, hxmax⟩ := h
  rw [← Bool.not_eq_true, ← Bool.not_eq_true, any_infinite, all_zero]
  refine ⟨fun ⟨c, hc, hnone⟩ => ?_, fun hzero => ?_, by rw [blockSrc_eq, List.map_map]; exact hmax, fun c hc => ?_⟩
  · obtain ⟨x, hx, -⟩ := hall c hc
    exact hnone x hx
  · have h0 := (is_of_denotes hx).unique (is_of_denotes (hzero c hc))
    rw [h0, abs_zero] at hxmax
    exact hpos.ne hxmax
  · obtain ⟨x, hx, -⟩ := hall c hc
    exact ⟨x, hx⟩

/-- R108: an MX block's scale comes of its greatest magnitude, and its elements are its sources divided by it. -/
theorem quantMx_gives (fm : Fmt) (cs : List Nat) (ty : Nat) :
    ((∃ c ∈ cs, ∀ x, ¬ Denotes fm c x) → ZeroBlock fm (fmtOf ty) cs 0xFF 1 (quantMx ty (blockSrc fm cs))) ∧
    ((∀ c ∈ cs, Denotes fm c 0) → ZeroBlock fm (fmtOf ty) cs 0 0 (quantMx ty (blockSrc fm cs))) ∧
    (∀ (amax : ℚ) (k : ℤ), Largest fm cs amax → (2 : ℚ) ^ k ≤ amax → amax < (2 : ℚ) ^ (k + 1) →
      let x : ℤ := max (-127) (min 127 (k - emaxElem ty))
      ((quantMx ty (blockSrc fm cs)).2.1 : ℤ) = x + 127 ∧
        Divided fm (fmtOf ty) cs ((2 : ℚ) ^ x) (quantMx ty (blockSrc fm cs))) := by
  refine ⟨fun h => ?_, fun h => ?_, ?_⟩
  · rw [quantMx, if_pos (any_infinite.mpr h)]
    exact zeroBlock_zeroElems (fmtOf_ok ty) ..
  · have hfin : ¬ ((blockSrc fm cs).map Prod.snd).any (fun v => !finiteF v) = true := fun h' => by
      obtain ⟨c, hc, hnone⟩ := any_infinite.mp h'
      exact hnone 0 (h c hc)
    rw [quantMx, if_neg hfin, if_pos (all_zero.mpr h)]
    exact zeroBlock_zeroElems (fmtOf_ok ty) ..
  · intro amax k h hlo hhi x
    have hpos : 0 < amax := lt_of_lt_of_le (by positivity) hlo
    obtain ⟨hfin, hzero, hmax, hall⟩ := largest_sources h hpos
    have hlog : floorLog2 (maxAbs ((blockSrc fm cs).map Prod.snd)) = k := by
      rw [← abs_of_pos hpos] at hlo hhi
      exact hmax.floorLog2 hlo hhi
    have hquant : quantMx ty (blockSrc fm cs) =
        ((cs.map (mxElem fm ty x)).map Prod.fst, (x + 127).toNat, orFlags (cs.map (mxElem fm ty x))) := by
      simp only [quantMx, hfin, hzero, hlog, Bool.false_eq_true, if_false]
      simp only [blockSrc_eq, List.map_map]
      rfl
    rw [hquant]
    exact ⟨Int.toNat_of_nonneg (by omega), divided_of_quantised _ hall fun c _ y hy => mxElem_quantised fm ty x hy⟩

end

/-! ## Native blocks (R110) -/

/-- A quotient to 70 bits with a record of the rest approximates the exact one. -/
theorem approximates_ratio {b m k : Nat} (hb : b ≤ 70) (hm : m ≠ 0) (hk : k ≠ 0) (n : Bool) (e g : ℤ) :
    ∃ mag t, ratio n m e k g = .fin n mag t ∧ Approximates b mag t ((m * 2 ^ e) / (k * 2 ^ g)) := by
  have hkpos : (0 : ℝ) < k := by exact_mod_cast Nat.pos_of_ne_zero hk
  have hX : (m * (2 : ℝ) ^ e) / (k * 2 ^ g) =
      ((m * 2 ^ (70 + bitLen k) : Nat) / k : ℝ) * 2 ^ (e - g - (70 + bitLen k : Nat)) := by
    rw [zpow_sub₀ (by norm_num), zpow_sub₀ (by norm_num), zpow_natCast]
    push_cast
    field_simp
  have hlong : 2 ^ b ≤ m * 2 ^ (70 + bitLen k) / k := by
    rw [Nat.le_div_iff_mul_le (Nat.pos_of_ne_zero hk)]
    calc 2 ^ b * k ≤ 2 ^ 70 * 2 ^ bitLen k := Nat.mul_le_mul (Nat.pow_le_pow_right (by decide) hb) (bitLen_pow k).le
      _ = 2 ^ (70 + bitLen k) := (Nat.pow_add ..).symm
      _ ≤ m * 2 ^ (70 + bitLen k) := Nat.le_mul_of_pos_left _ (Nat.pos_of_ne_zero hm)
  refine ⟨_, _, rfl, approximates_jam (by omega) ?_⟩
  rw [hX]
  generalize m * 2 ^ (70 + bitLen k) = N
  obtain ⟨hlo, hhi⟩ := div_bounds N (Nat.pos_of_ne_zero hk)
  have hexact : N % k = 0 ↔ (N : ℝ) / k = (N / k : Nat) := by
    rw [div_eq_iff hkpos.ne']
    norm_cast
    rw [← Nat.dvd_iff_mod_eq_zero, eq_comm]
    exact ⟨Nat.div_mul_cancel, Dvd.intro_left _⟩
  have hpos : (0 : ℝ) < 2 ^ (e - g - (70 + bitLen k : Nat)) := by positivity
  by_cases h0 : N % k = 0
  · rw [hexact.mp h0]
    simp [h0]
  · rw [if_pos (by simpa using h0)]
    exact ⟨mul_lt_mul_of_pos_right (lt_of_le_of_ne hlo fun h => h0 (hexact.mpr h.symm)) hpos,
      mul_lt_mul_of_pos_right hhi hpos⟩

/-- The value of an E3M5 scale (R103). -/
theorem decodeE3M5_is {c : Nat} (hc : c < 0xFF) : (decodeE3M5 c).Is (scaleValue c) := by
  rw [decodeE3M5, if_neg hc.ne, scaleValue]
  split
  · exact ⟨false, c, -7, rfl, by norm_num [signOf, div_eq_mul_inv]⟩
  · refine ⟨false, _, _, rfl, ?_⟩
    rw [show ((c / 32 : Nat) : ℤ) - 8 = ((c / 32 : Nat) - 3 : ℤ) + (-5) by ring, zpow_add₀ (by norm_num)]
    push_cast
    norm_num [signOf]
    ring

theorem decodeE8M0_is {c : Nat} (hc : c ≠ 0xFF) : (decodeE8M0 c).Is ((2 : ℚ) ^ ((c : ℤ) - 127)) := by
  rw [decodeE8M0, if_neg hc]
  exact ⟨false, 1, _, rfl, by simp [signOf]⟩

theorem six_is : (FVal.fin false 6 0).Is 6 := ⟨false, 6, 0, rfl, by norm_num [signOf]⟩

theorem largest_E2M1 : codeMag fmtE2M1 (largestCode fmtE2M1) = 6 := by
  norm_num [codeMag, codeUnits, largestCode, fmtE2M1]

theorem scaleValue_pos {c : Nat} (hc : 0 < c) : 0 < scaleValue c := by
  have : (0 : ℚ) < c := by exact_mod_cast hc
  unfold scaleValue
  split <;> positivity

/-- Six times a band scale and an E3M5 scale. -/
def sixF (b : FVal) (c : Nat) : FVal := (mulF (.fin false 6 0) (mulF b (decodeE3M5 c)).1).1

/-- The least scale code by which the greatest magnitude does not exceed six, or the greatest code. -/
def nativeScale (b amax : FVal) : Nat := ((List.range 255).find? fun c => !ltF (sixF b c) amax).getD 0xFE

section
variable {b a : FVal} {y amax : ℚ}

theorem sixF_is (hb : b.Is y) {c : Nat} (hc : c < 0xFF) : (sixF b c).Is (6 * (y * scaleValue c)) := by
  obtain ⟨p, hp, hpy⟩ := hb.mulF (decodeE3M5_is hc)
  obtain ⟨q, hq, hqy⟩ := six_is.mulF hpy
  rw [sixF, hp, hq]
  exact hqy

/-- R110: the scale chosen. -/
theorem nativeScale_least (hb : b.Is y) (hy : 0 < y) (ha : a.Is amax) :
    nativeScale b a < 0xFF ∧ (∀ c, c < nativeScale b a → scaleValue c < amax / (6 * y)) ∧
      (amax / (6 * y) ≤ scaleValue (nativeScale b a) ∨ nativeScale b a = 0xFE) := by
  have hlt {c : Nat} (hc : c < 0xFF) : ltF (sixF b c) a = true ↔ scaleValue c < amax / (6 * y) := by
    rw [(sixF_is hb hc).ltF ha, lt_div_iff₀ (by positivity)]
    constructor <;> intro h <;> linarith
  unfold nativeScale
  match hfind : (List.range 255).find? fun c => !ltF (sixF b c) a with
  | none =>
    rw [List.find?_range_eq_none] at hfind
    refine ⟨by decide, fun c hc => ?_, .inr rfl⟩
    have hc : c < 0xFE := hc
    exact (hlt (by omega)).mp (by simpa using hfind c (by omega))
  | some s =>
    obtain ⟨hs, hmem, hfirst⟩ := List.find?_range_eq_some.mp hfind
    have hmem := List.mem_range.mp hmem
    refine ⟨hmem, fun c hc => ?_, .inl (not_lt.mp fun h => ?_)⟩
    · have hc : c < s := hc
      exact (hlt (by omega)).mp (by simpa using hfirst c hc)
    · rw [(hlt hmem).mpr h] at hs
      exact absurd hs (by decide)

/-- A positive greatest magnitude takes a scale that is not zero. -/
theorem nativeScale_pos (hb : b.Is y) (hy : 0 < y) (ha : a.Is amax) (hpos : 0 < amax) : 0 < nativeScale b a := by
  obtain ⟨-, -, hle⟩ := nativeScale_least hb hy ha
  refine Nat.pos_of_ne_zero fun h0 => ?_
  rw [h0] at hle
  have hzero : scaleValue 0 = 0 := by norm_num [scaleValue]
  rw [hzero] at hle
  have : 0 < amax / (6 * y) := by positivity
  rcases hle with h | h
  · linarith
  · exact absurd h (by decide)

/-- A finite value divided by a positive one. -/
theorem divF_positive (n : Bool) (m : Nat) (e : ℤ) (hb : b.Is y) (hy : 0 < y) {p : Nat} (hp : p ≤ 70) :
    ∃ mag t, (divF (.fin n m e) b).1 = .fin n mag t ∧ Approximates p mag t ((m * 2 ^ e / y : ℚ) : ℝ) := by
  obtain ⟨k, l, g, rfl, rfl⟩ := hb
  have hpow : (0 : ℚ) < 2 ^ g := by positivity
  have hl : l ≠ 0 := by
    rintro rfl
    simp at hy
  obtain rfl : k = false := by
    cases k
    · rfl
    · have : (0 : ℚ) ≤ l * 2 ^ g := by positivity
      simp only [signOf, if_true] at hy
      linarith
  rcases eq_or_ne m 0 with rfl | hm
  · exact ⟨0, 0, by simp [divF, isNan, isNeg, hl], .inl (by simp)⟩
  · obtain ⟨mag, t, hratio, happ⟩ := approximates_ratio hp hm hl n e g
    refine ⟨mag, t, by simp [divF, isNan, isNeg, hl, hm, hratio], ?_⟩
    convert happ using 1
    simp [signOf]

/-- One element of a native block. -/
def nativeElem (fm : Fmt) (b : FVal) (s c : Nat) : Nat × Nat :=
  quantElem fmtE2M1 (negative fm c) (divF (decodeF fm c) (mulF b (decodeE3M5 s)).1).1 (ltF (sixF b s) (absF (decodeF fm c)))

theorem fmtE2M1_ok : fmtE2M1.Ok := fmtOf_ok 0x12

theorem nativeElem_quantised (fm : Fmt) (hb : b.Is y) (hy : 0 < y) {s c : Nat} {x : ℚ} (hs : 0 < s) (hs' : s < 0xFF)
    (hx : Denotes fm c x) : Quantised fmtE2M1 (negative fm c) (x / (y * scaleValue s)) (nativeElem fm b s c) := by
  obtain ⟨p, hp, hpy⟩ := hb.mulF (decodeE3M5_is hs')
  have hD : 0 < y * scaleValue s := mul_pos hy (scaleValue_pos hs)
  have hbig := (sixF_is hb hs').ltF (is_of_denotes hx).absF
  obtain ⟨m, e, hdec, rfl⟩ := denotes_fin hx
  obtain ⟨mag, t, hdiv, happ⟩ := divF_positive (negative fm c) m e hpy hD (p := fmtE2M1.p + 2) (by decide)
  rw [mul_assoc (signOf _), abs_signOf_mul _ (by positivity)] at hbig
  rw [mul_assoc (signOf _), mul_div_assoc, nativeElem, hp, hdec, hdiv]
  rw [hdec] at hbig
  refine quantElem_quantised fmtE2M1_ok _ happ (hbig.trans ?_)
  rw [largest_E2M1, lt_div_iff₀ hD]

end

section
variable {fm : Fmt} {cs : List Nat} {band : Nat}

theorem FVal.Is.negative_iff {v : FVal} {x : ℚ} (h : v.Is x) : (isNeg v && !isZero v) = true ↔ x < 0 := by
  obtain ⟨n, m, e, rfl, rfl⟩ := h
  have hpow : (0 : ℚ) < 2 ^ e := by positivity
  rcases eq_or_ne m 0 with rfl | hm
  · simp [isNeg, isZero]
  · have hpos : (0 : ℚ) < m * 2 ^ e := mul_pos (by exact_mod_cast Nat.pos_of_ne_zero hm) hpow
    cases n
    · simpa [isNeg, signOf] using hpos.le
    · simpa [isNeg, isZero, signOf, hm] using hpos

/-- Where a native block with sources `vs` and band scale `b` is not quantised. -/
def nativeRefuses (vs : List FVal) (b : FVal) : Bool :=
  vs.any (fun v => !finiteF v) || !finiteF b || (isNeg b && !isZero b)

/-- A native block is not quantised where a source or the band scale is not finite, or the band scale is negative. -/
theorem native_refused : nativeRefuses ((blockSrc fm cs).map Prod.snd) (decodeF fmtBF16 band) = true ↔
    (∃ c ∈ cs, ∀ x, ¬ Denotes fm c x) ∨ (∀ b, ¬ Denotes fmtBF16 band b) ∨ ∃ b, Denotes fmtBF16 band b ∧ b < 0 := by
  have hfin : (!finiteF (decodeF fmtBF16 band)) = true ↔ ∀ b, ¬ Denotes fmtBF16 band b := by
    rw [Bool.not_eq_true', ← Bool.not_eq_true, finiteF_iff, not_exists]
  rw [nativeRefuses, Bool.or_eq_true, Bool.or_eq_true, any_infinite, hfin, or_assoc]
  refine or_congr Iff.rfl ?_
  by_cases hb : ∃ b, Denotes fmtBF16 band b
  · obtain ⟨b, hb⟩ := hb
    have hnone : ¬ ∀ b, ¬ Denotes fmtBF16 band b := fun h => h b hb
    have hneg : (∃ b, Denotes fmtBF16 band b ∧ b < 0) ↔ b < 0 :=
      ⟨fun ⟨b', hb', h⟩ => (is_of_denotes hb).unique (is_of_denotes hb') ▸ h, fun h => ⟨b, hb, h⟩⟩
    rw [hneg, or_iff_right hnone, or_iff_right hnone]
    exact (is_of_denotes hb).negative_iff
  · exact iff_of_true (.inl (not_exists.mp hb)) (.inl (not_exists.mp hb))

/-- Finite sources and a finite band scale that is not negative are quantised. -/
theorem native_taken {b : ℚ} (hb : Denotes fmtBF16 band b) (hb0 : 0 ≤ b) (hfin : ∀ c ∈ cs, ∃ x, Denotes fm c x) :
    ¬ nativeRefuses ((blockSrc fm cs).map Prod.snd) (decodeF fmtBF16 band) = true := by
  rw [native_refused]
  rintro (⟨c, hc, h⟩ | h | ⟨b', hb', h⟩)
  · exact not_exists.mpr h (hfin c hc)
  · exact h b hb
  · exact not_lt.mpr hb0 ((is_of_denotes hb).unique (is_of_denotes hb') ▸ h)

/-- R110: a native block. -/
theorem quantNative_gives (fm : Fmt) (cs : List Nat) (band : Nat) :
    let r := quantNative (blockSrc fm cs) (decodeF fmtBF16 band)
    ((∃ c ∈ cs, ∀ x, ¬ Denotes fm c x) ∨ (∀ b, ¬ Denotes fmtBF16 band b) ∨ (∃ b, Denotes fmtBF16 band b ∧ b < 0) →
      ZeroBlock fm fmtE2M1 cs 0xFF 1 r) ∧
    (∀ b, Denotes fmtBF16 band b → 0 ≤ b → (∀ c ∈ cs, Denotes fm c 0) → ZeroBlock fm fmtE2M1 cs 0 0 r) ∧
    (∀ amax, Denotes fmtBF16 band 0 → Largest fm cs amax → 0 < amax → ZeroBlock fm fmtE2M1 cs 0xFF 1 r) ∧
    (∀ b amax, Denotes fmtBF16 band b → 0 < b → Largest fm cs amax → 0 < amax →
      r.2.1 < 0xFF ∧ (∀ c, c < r.2.1 → scaleValue c < amax / (6 * b)) ∧ (amax / (6 * b) ≤ scaleValue r.2.1 ∨ r.2.1 = 0xFE) ∧
      Divided fm fmtE2M1 cs (b * scaleValue r.2.1) r) := by
  intro r
  refine ⟨fun h => ?_, fun b hb hb0 hz => ?_, fun amax hb h hpos => ?_, fun b amax hb hb0 h hpos => ?_⟩
  · have hr : r = (zeroElems fmtE2M1 (blockSrc fm cs), 0xFF, fNV) := if_pos (native_refused.mpr h)
    rw [hr]
    exact zeroBlock_zeroElems fmtE2M1_ok ..
  · have hr : r = (zeroElems fmtE2M1 (blockSrc fm cs), 0, 0) :=
      (if_neg (native_taken hb hb0 fun c hc => ⟨0, hz c hc⟩)).trans (if_pos (all_zero.mpr hz))
    rw [hr]
    exact zeroBlock_zeroElems fmtE2M1_ok ..
  · obtain ⟨-, hzero, -, hall⟩ := largest_sources h hpos
    have hr : r = (zeroElems fmtE2M1 (blockSrc fm cs), 0xFF, fNV) :=
      ((if_neg (native_taken hb le_rfl hall)).trans (if_neg (Bool.eq_false_iff.mp hzero))).trans
        (if_pos (denotes_zero_iff.mp hb))
    rw [hr]
    exact zeroBlock_zeroElems fmtE2M1_ok ..
  · obtain ⟨-, hzero, hmax, hall⟩ := largest_sources h hpos
    have hbis := is_of_denotes hb
    have hbzero : ¬ isZero (decodeF fmtBF16 band) = true := fun h0 =>
      hb0.ne' (hbis.unique (is_of_denotes (denotes_zero_iff.mpr h0)))
    obtain ⟨s, hs⟩ : ∃ s, s = nativeScale (decodeF fmtBF16 band) (maxAbs ((blockSrc fm cs).map Prod.snd)) := ⟨_, rfl⟩
    have hr : r = ((cs.map (nativeElem fm (decodeF fmtBF16 band) s)).map Prod.fst, s,
        orFlags (cs.map (nativeElem fm (decodeF fmtBF16 band) s))) := by
      refine ((if_neg (native_taken hb hb0.le hall)).trans (if_neg (Bool.eq_false_iff.mp hzero))).trans
        ((if_neg hbzero).trans ?_)
      subst hs
      simp only [blockSrc_eq, List.map_map]
      rfl
    obtain ⟨hlt, hleast, hle⟩ := nativeScale_least hbis hb0 hmax
    have hspos := nativeScale_pos hbis hb0 hmax hpos
    rw [← hs] at hlt hleast hle hspos
    rw [hr]
    exact ⟨hlt, hleast, hle, divided_of_quantised _ hall fun c _ x hx => nativeElem_quantised fm hbis hb0 hspos hlt hx⟩

end

/-! ## Elements expanded (R131) -/

/-- A code's value lies in its exponent, significand and sign. -/
theorem decodeF_mod (f : Fmt) (c : Nat) : decodeF f (c % 2 ^ (f.w + f.p + 1)) = decodeF f c := by
  have hlow : c % 2 ^ (f.w + f.p + 1) % 2 ^ (f.w + f.p) = c % 2 ^ (f.w + f.p) :=
    Nat.mod_mod_of_dvd c (Nat.pow_dvd_pow 2 (Nat.le_succ _))
  have hexp : c % 2 ^ (f.w + f.p + 1) / 2 ^ f.p % 2 ^ f.w = c / 2 ^ f.p % 2 ^ f.w := by
    rw [exponent_of_code, hlow, ← exponent_of_code]
  have hsig : c % 2 ^ (f.w + f.p + 1) % 2 ^ f.p = c % 2 ^ f.p := by
    rw [significand_of_code, hlow, ← significand_of_code]
  have hsign : c % 2 ^ (f.w + f.p + 1) / 2 ^ (f.w + f.p) % 2 = c / 2 ^ (f.w + f.p) % 2 := by
    rw [Nat.pow_succ, Nat.mod_mul_right_div_self, Nat.mod_mod]
  simp only [decodeF, hexp, hsig, hsign]

section
variable {ty a b : Nat} {x : ℚ}

/-- R131: a scale that is NaN gives NaN and no flag. -/
theorem valBdq_scale_nan (hb : b % 256 = 0xFF) (native : Bool) : valBdq ty native a b = (0x7FC00000, 0) := if_pos hb

/-- R131: an MX element times its scale, rounded to binary32. -/
theorem valBdq_mx (hx : Denotes (fmtOf ty) a x) (hb : b % 256 ≠ 0xFF) :
    Correct fmtF32 0 ((x * (2 : ℚ) ^ (((b % 256 : Nat) : ℤ) - 127) : ℚ) : ℝ) (valBdq ty false a b) := by
  obtain ⟨p, hp, hpx⟩ := (is_of_denotes hx).mulF (decodeE8M0_is hb)
  simp only [valBdq, if_neg hb, decodeF_mod, Bool.false_eq_true, if_false, hp]
  exact hpx.correct fmtF32_ok 0

/-- R131: a native element times its scale and its band scale, rounded to binary32. -/
theorem valBdq_native (hx : Denotes (fmtOf ty) a x) (hb : b % 256 ≠ 0xFF) {y : ℚ} (hy : Denotes fmtBF16 (b / 2 ^ 16) y) :
    Correct fmtF32 0 ((x * scaleValue (b % 256) * y : ℚ) : ℝ) (valBdq ty true a b) := by
  have hlt : b % 256 < 0xFF := by omega
  obtain ⟨p, hp, hpx⟩ := (is_of_denotes hx).mulF (decodeE3M5_is hlt)
  obtain ⟨q, hq, hqy⟩ := hpx.mulF (is_of_denotes hy)
  simp only [valBdq, if_neg hb, decodeF_mod, if_true, hp, hq]
  exact hqy.correct fmtF32_ok 0

/-- R131: an element that is NaN gives NaN. -/
theorem valBdq_nan (h : isNan (decodeF (fmtOf ty) a) = true) : (valBdq ty false a b).1 = 0x7FC00000 := by
  by_cases hb : b % 256 = 0xFF
  · rw [valBdq_scale_nan hb]
  · simp only [valBdq, if_neg hb, decodeF_mod, Bool.false_eq_true, if_false]
    rw [mulF_nan (by rw [h, Bool.true_or]), roundCode_nan (wide_of_mem (w := (fmtF32, 0x7FC00000)) (by decide))]

end

/-- R103, R108, R110, R131: the values of the block conversions. -/
theorem blocksGiveTheirCodes : BlocksGiveTheirCodes := by
  constructor
  · intro fm _ cs
    refine ⟨fun row hrow => ?_, quantNative_gives fm cs⟩
    have hscale : (row.2 : ℤ) = emaxElem row.1 := by
      fin_cases hrow <;> rfl
    rw [hscale]
    exact quantMx_gives fm cs row.1
  · exact fun ty a b x _ _ =>
      ⟨valBdq_scale_nan, fun hx hb => ⟨valBdq_mx hx hb, fun y => valBdq_native hx hb⟩, valBdq_nan⟩

/-- Settles O54: the decimal instructions and the block conversions owe their results, whose values are those of the
rules: RoundD64 is correct for every exact decimal fraction, and what the other operations round are such fractions; the
elements of a block are its exact quotients rounded, those beyond the largest set to it. -/
theorem decimalsAndBlocksOweTheirResults : Obligations.DecimalsAndBlocksOweTheirResults :=
  ⟨decimalInstructionsOweTheirResults, blocksAreQuantisedAndExpanded, decimalsGiveTheirValue, blocksGiveTheirCodes⟩

end Sys2Proof.Machine
end
